-- ==== Sys2Proof/Word.lean ====
section
/-! DEFINITION. The word types of the machine (00 R2: bits are numbered from 0, multi-byte values are little-endian). -/

namespace Sys2Proof

/-- A byte of memory. -/
abbrev Byte := BitVec 8

/-- A 64-bit register or check word. -/
abbrev Word := BitVec 64

/-- A span register or other 128-bit descriptor (05 R104). -/
abbrev Desc := BitVec 128

end Sys2Proof
end

