-- ==== Sys2Proof/Config.lean ====
section
/-! DEFINITION. What the manual leaves open: the free values. None has a body, so no proof can see a value of one
(00 R7: an undefined value is some bit pattern of the stated width, and may differ between successive reads). -/

namespace Sys2Proof.Config

/-- An undefined value of `w` bits (00 R7), drawn at model step `tick` for the place `slot` (log 1). -/
opaque freeBits (w tick slot : Nat) : BitVec w

/-- The byte at `addr` of contents that became undefined at the model's epoch `epoch` (01 R17, 07 R167, 06 R135; log 2). -/
opaque freeByte (epoch addr : Nat) : BitVec 8

/-- The time in ns that the model step `tick` takes (log 9). -/
opaque stepTime (tick : Nat) : Nat

/-- The cycles of the package's cycle counter that the model step `tick` takes (10 R279; log 9). -/
opaque stepCycles (tick : Nat) : Nat

/-- The module's serial number (12 Table 12-6, 14 Table 14-2). -/
opaque moduleSerial : BitVec 128

/-- The SHA-384 digest of some bytes (12 R323): the spec names the function and does not give it (log 60). -/
opaque sha384 (bytes : List Byte) : BitVec 384

/-- The number of members of a device group, and this member's rank in it: its group table lies outside the package (08 R221;
log 11). -/
opaque groupSize (group : Nat) : Nat
opaque groupRank (group : Nat) : Nat

/-- A special function's pattern where no enclosure up to the last precision decides the rounding (03 R72; log 12). -/
opaque freeSpecial (w fn : Nat) (pattern : Nat) : BitVec w

end Sys2Proof.Config
end

