-- ==== Sys2Proof/Syntax.lean ====
section
/-! DEFINITION. The abstract syntax: one constructor per row of spec/opcode_table.json.
An instruction word carries ALL the fields of its format (02 R35, R41); WellFormed says which of them a row requires to
be zero and which codes it accepts. A row that is a step of the device and not a word (95_what_each_step_holds.md)
carries the parameters of that step: what the outside world or the agent that takes the step decides. -/

namespace Sys2Proof

/-! ### Operand formats of the X stream (02 R32, Table 02-1): guard `g`, `gn`, and `lb` for bits [17:15] -/

/-- Format XR. -/
structure Xr where
  g : BitVec 7
  gn : Bool
  lb : BitVec 3
  pd : BitVec 7
  m : BitVec 4
  t : BitVec 4
  c : BitVec 6
  b : BitVec 6
  a : BitVec 6
  d : BitVec 6
  deriving DecidableEq, Repr, Inhabited

/-- Format XI. -/
structure Xi where
  g : BitVec 7
  gn : Bool
  lb : BitVec 3
  imm : BitVec 28
  a : BitVec 6
  d : BitVec 6
  deriving DecidableEq, Repr, Inhabited

/-- Format XK. -/
structure Xk where
  g : BitVec 7
  gn : Bool
  lb : BitVec 3
  imm : BitVec 32
  d : BitVec 6
  deriving DecidableEq, Repr, Inhabited

/-- Format XB. -/
structure Xb where
  g : BitVec 7
  gn : Bool
  off : BitVec 40
  deriving DecidableEq, Repr, Inhabited

/-- Format XS; `rm` is bits [17:15]. -/
structure Xs where
  g : BitVec 7
  gn : Bool
  rm : BitVec 3
  t : BitVec 4
  sx : BitVec 9
  sb : BitVec 9
  sa : BitVec 9
  sd : BitVec 9
  deriving DecidableEq, Repr, Inhabited

/-- Format XM. -/
structure Xm where
  g : BitVec 7
  gn : Bool
  v : BitVec 32
  fld : BitVec 4
  l : BitVec 3
  deriving DecidableEq, Repr, Inhabited

/-- One link word of a chain, format XL (02 R37); `fn` holds class and function. -/
structure Xl where
  fn : BitVec 6
  rm : BitVec 3
  t : BitVec 4
  sx : BitVec 6
  so : BitVec 9
  deriving DecidableEq, Repr, Inhabited

/-- Format XC: a chain header with its link words (02 R37, 05 R123). -/
structure Xc where
  g : BitVec 7
  gn : Bool
  t : BitVec 4
  sb : BitVec 9
  sa : BitVec 9
  sd : BitVec 9
  links : List Xl
  deriving DecidableEq, Repr, Inhabited

/-! ### Operand formats of the A stream (02 R39-R41, Table 02-2); `l` and `f` are the issue bits of R40 -/

/-- Format AR, less its FN. -/
structure Ar where
  l : Bool
  f : Bool
  x : BitVec 4
  b : BitVec 5
  a : BitVec 5
  d : BitVec 5
  deriving DecidableEq, Repr, Inhabited

/-- Format AI. -/
structure Ai where
  l : Bool
  f : Bool
  imm : BitVec 14
  a : BitVec 5
  d : BitVec 5
  deriving DecidableEq, Repr, Inhabited

/-- Format AM: space `s`, scope `sc`, size `sz`, `bo` the B or OFF field, `ix` its kind. -/
structure Am where
  l : Bool
  f : Bool
  s : BitVec 2
  sc : BitVec 3
  sz : BitVec 3
  bo : BitVec 5
  ix : Bool
  a : BitVec 5
  d : BitVec 5
  deriving DecidableEq, Repr, Inhabited

/-- Format AB. -/
structure Ab where
  off : BitVec 19
  a : BitVec 5
  deriving DecidableEq, Repr, Inhabited

/-- Format AN. -/
structure An where
  l : Bool
  f : Bool
  k : BitVec 9
  b : BitVec 5
  a : BitVec 5
  d : BitVec 5
  deriving DecidableEq, Repr, Inhabited

/-! ### Parameters of the steps of the device -/

/-- How the two array passes of a redundant granule compared (06 R159, R160). -/
inductive Twin where
  | agree | transient | unresolved
  deriving DecidableEq, Repr, Inhabited

/-- The answer to an access that left the package or waited for a pool link (14 R356, R357). -/
inductive Answer where
  | value (v : Word)
  | refused
  | poisoned
  deriving DecidableEq, Repr, Inhabited

/-- The engines driven by lanes of a core (13 R335). -/
inductive LaneEngine where
  | span | row | matrix
  deriving DecidableEq, Repr, Inhabited

/-- What a watchdog watches (13 Table 13-6). -/
inductive Watchdog where
  | lane (e : LaneEngine)
  | engine (cmd : Nat)
  | nearBank (bank : Nat)
  | collective (cmd : Nat)
  deriving DecidableEq, Repr, Inhabited

/-- A received Ethernet frame, as the port's parser sees it (14 R359, Table 14-6). -/
structure Frame where
  fcsOk : Bool
  vid : Option (BitVec 12)
  etype : BitVec 16
  udpPort : Option (BitVec 16)
  badChecksum : Bool
  sec : BitVec 48
  nsec : BitVec 32
  bytes : List Byte
  deriving DecidableEq, Repr, Inhabited

/-- A word as a flit carries it, with its code (13 Table 13-4). -/
abbrev CodedWord := BitVec 64 × BitVec 8

/-- A request of another package for this package's memory (14 R357): a read, a store of fewer than 8 bytes, a write of whole words. -/
inductive RemoteReq where
  | read (addr n : Nat)
  | write (addr : Nat) (bytes : List Byte)
  | writeWords (addr : Nat) (words : List CodedWord)
  deriving DecidableEq, Repr, Inhabited

/-- A remote atomic as it travels (08 R220). -/
structure RamoReq where
  id : BitVec 16
  retry : Bool
  op : Nat
  wide : Bool
  addr : Nat
  b : Word
  deriving DecidableEq, Repr, Inhabited

/-- What a target answers to a remote atomic (08 R220, 13 R347). -/
inductive RamoAnswer where
  | performed (old : Word)
  | earlier (old : Word)
  | indet
  | busy
  | refused
  deriving DecidableEq, Repr, Inhabited

/-- One tenancy domain of the identity record (12 R308, R322). -/
structure DomainCfg where
  dies : BitVec 4
  kvfree : Nat
  asidtab : Nat
  deriving DecidableEq, Repr, Inhabited

/-- Scheduler parameters (10 Table 10-6): times in ns, PBUDGET in cycles, DLRESERVE in bytes. -/
structure SchedCfg where
  horizon : Nat
  quantum : Nat
  pbudget : Nat
  dlreserve : Nat
  deriving DecidableEq, Repr, Inhabited

/-- Residency and memory parameters (11 Table 11-4): times in ns. -/
structure ResCfg where
  dirbase : List Nat
  dlease : Nat
  dstore : Nat
  dpool : Nat
  dpace : Nat
  plead : Nat
  skint : Nat
  mscwin : Nat
  agecap : Nat
  hreserve : Nat
  deriving DecidableEq, Repr, Inhabited

/-- A pool segment of a domain (12 R308, 14 R356). -/
structure PoolSeg where
  dom : Nat
  base : Nat
  size : Nat
  target : Nat
  deriving DecidableEq, Repr, Inhabited

/-- An export window (14 R357). -/
structure ExportWin where
  dom : Nat
  base : Nat
  size : Nat
  r : Bool
  w : Bool
  srcLo : Nat
  srcHi : Nat
  deriving DecidableEq, Repr, Inhabited

/-- Port settings (12 Table 12-7, type 6). -/
structure PortCfg where
  segs : List PoolSeg
  wins : List ExportWin
  transport : BitVec 16
  deriving DecidableEq, Repr, Inhabited

/-- What the body of a configuration record of types 2 to 6 says (12 Table 12-7); that of type 1 is its bytes. -/
inductive RecordBody where
  | ownerKeys
  | identity (pkg : Nat) (doms : List DomainCfg)
  | memory (lease : Nat)
  | sched (params : List SchedCfg)
  | residency (p : ResCfg)
  | ports (p : PortCfg)
  | other
  deriving DecidableEq, Repr, Inhabited

/-- A public key under which a signature verifies (12 R321): the vendor's, or one that a record of type 1 holds. -/
inductive SigKey where
  | vendor
  | owner (pub : List Byte)
  deriving DecidableEq, Repr, Inhabited

/-- A configuration record (12 Table 12-6): the signed bytes, from 0x00 to the end of the padded body; the keys under which its Ed25519 and
its ML-DSA-65 signature verify, if any; and what its body says (log 60). -/
structure FlashRecord where
  bytes : List Byte
  edBy : Option SigKey
  mlBy : Option SigKey
  body : RecordBody
  deriving DecidableEq, Repr, Inhabited

/-- What bring-up finds (12 R321, 14 R363): the boot firmware's checks, version and digest, the training and link outcomes,
the 64 KiB frames that hold KV pages (log 10), and for each domain the address and the first four words of the control block
of the supervisor that the host creates (12 R310). -/
structure Boot where
  fwOk : Bool
  fwVersion : Nat
  fwDigest : BitVec 384
  pcieOk : Bool
  dieOk : Bool
  linksOk : Bool
  kvFrames : List Nat
  supers : List (Nat × List (BitVec 64))
  deriving DecidableEq, Repr, Inhabited

/-- The instructions and steps of the GV4: one constructor per row of the opcode table. -/
inductive Instr where
  /-- UDF (R44): X-stream OP 0x00: every such word raises an illegal-instruction trap. -/
  | udf (w : BitVec 64)
  /-- ADD (R83): x[D] := a + b, wrapped to 64 bits. -/
  | add (r : Xr)
  /-- SUB (R83): x[D] := a - b, wrapped to 64 bits. -/
  | sub (r : Xr)
  /-- AND (R83): x[D] := a & b. -/
  | and (r : Xr)
  /-- OR (R83): x[D] := a | b. -/
  | or (r : Xr)
  /-- XOR (R83): x[D] := a ^ b. -/
  | xor (r : Xr)
  /-- ANDN (R83): x[D] := a & ~b. -/
  | andn (r : Xr)
  /-- SLL (R83): Shift left by b[5:0]. -/
  | sll (r : Xr)
  /-- SRL (R83): Logical shift right by b[5:0]. -/
  | srl (r : Xr)
  /-- SRA (R83): Arithmetic shift right by b[5:0]. -/
  | sra (r : Xr)
  /-- ROL (R83): Rotate left by b[5:0]. -/
  | rol (r : Xr)
  /-- MIN (R83): Signed minimum of a and b. -/
  | min (r : Xr)
  /-- MAX (R83): Signed maximum of a and b. -/
  | max (r : Xr)
  /-- MINU (R83): Unsigned minimum of a and b. -/
  | minu (r : Xr)
  /-- MAXU (R83): Unsigned maximum of a and b. -/
  | maxu (r : Xr)
  /-- CLZ (R83): Count of leading zero bits of a. -/
  | clz (r : Xr)
  /-- CTZ (R83): Count of trailing zero bits of a. -/
  | ctz (r : Xr)
  /-- POPC (R83): Count of one bits of a. -/
  | popc (r : Xr)
  /-- SEXT (R83): Sign-extends the low 8, 16 or 32 bits of a. -/
  | sext (r : Xr)
  /-- ZEXT (R83): Zero-extends the low 8, 16 or 32 bits of a. -/
  | zext (r : Xr)
  /-- MOV (R83): x[D] := a. -/
  | mov (r : Xr)
  /-- MUL (R84): Low 64 bits of the product. -/
  | mul (r : Xr)
  /-- MULH (R84): Upper 64 bits of the signed product. -/
  | mulh (r : Xr)
  /-- MULHU (R84): Upper 64 bits of the unsigned product. -/
  | mulhu (r : Xr)
  /-- MULHSU (R84): Upper 64 bits of the signed-by-unsigned product. -/
  | mulhsu (r : Xr)
  /-- MAD (R84): x[D] := A × B + C, wrapped. -/
  | mad (r : Xr)
  /-- DIV (R84): Signed division with defined results for zero and overflow. -/
  | div (r : Xr)
  /-- DIVU (R84): Unsigned division. -/
  | divu (r : Xr)
  /-- REM (R84): Signed remainder. -/
  | rem (r : Xr)
  /-- REMU (R84): Unsigned remainder. -/
  | remu (r : Xr)
  /-- CEQ (R87): p[PD] := a == b. -/
  | ceq (r : Xr)
  /-- CNE (R87): p[PD] := a != b. -/
  | cne (r : Xr)
  /-- CLT (R87): p[PD] := signed a < b. -/
  | clt (r : Xr)
  /-- CLE (R87): p[PD] := signed a <= b. -/
  | cle (r : Xr)
  /-- CLTU (R87): p[PD] := unsigned a < b. -/
  | cltu (r : Xr)
  /-- CLEU (R87): p[PD] := unsigned a <= b. -/
  | cleu (r : Xr)
  /-- PAND (R88): Predicate AND. -/
  | pand (r : Xr)
  /-- POR (R88): Predicate OR. -/
  | por (r : Xr)
  /-- PXOR (R88): Predicate XOR. -/
  | pxor (r : Xr)
  /-- PANDN (R88): Predicate AND with the second operand inverted. -/
  | pandn (r : Xr)
  /-- PNAND (R88): Predicate NAND. -/
  | pnand (r : Xr)
  /-- PNOR (R88): Predicate NOR. -/
  | pnor (r : Xr)
  /-- PGET (R88): x[D] := p[PA] as 0 or 1. -/
  | pget (r : Xr)
  /-- PPUT (R88): p[PD] := x[A] != 0. -/
  | pput (r : Xr)
  /-- SEL (R89): x[D] := p[PD] ? x[A] : x[B]. -/
  | sel (r : Xr)
  /-- ADDI (R85): x[D] := a + sign-extended immediate. -/
  | addi (r : Xi)
  /-- ANDI (R85): x[D] := a & immediate. -/
  | andi (r : Xi)
  /-- ORI (R85): x[D] := a | immediate. -/
  | ori (r : Xi)
  /-- XORI (R85): x[D] := a ^ immediate. -/
  | xori (r : Xi)
  /-- SLLI (R85): Shift left by an immediate of 0-63. -/
  | slli (r : Xi)
  /-- SRLI (R85): Logical shift right by an immediate. -/
  | srli (r : Xi)
  /-- SRAI (R85): Arithmetic shift right by an immediate. -/
  | srai (r : Xi)
  /-- ROLI (R85): Rotate left by an immediate. -/
  | roli (r : Xi)
  /-- MINI (R85): Signed minimum of a and the immediate. -/
  | mini (r : Xi)
  /-- MAXI (R85): Signed maximum of a and the immediate. -/
  | maxi (r : Xi)
  /-- MULI (R85): Product of a and the immediate, wrapped. -/
  | muli (r : Xi)
  /-- CEQI (R87): p[D] := a == immediate. -/
  | ceqi (r : Xi)
  /-- CNEI (R87): p[D] := a != immediate. -/
  | cnei (r : Xi)
  /-- CLTI (R87): p[D] := signed a < immediate. -/
  | clti (r : Xi)
  /-- CLEI (R87): p[D] := signed a <= immediate. -/
  | clei (r : Xi)
  /-- CLTUI (R87): p[D] := unsigned a < immediate. -/
  | cltui (r : Xi)
  /-- CLEUI (R87): p[D] := unsigned a <= immediate. -/
  | cleui (r : Xi)
  /-- MOVI (R86): x[D] := sign-extended 32-bit immediate. -/
  | movi (r : Xk)
  /-- MOVU (R86): x[D] := zero-extended 32-bit immediate. -/
  | movu (r : Xk)
  /-- MOVH (R86): x[D][63:32] := immediate; the low half is kept. -/
  | movh (r : Xk)
  /-- FADD (R90): Scalar floating add, rounded once. -/
  | fadd (r : Xr)
  /-- FSUB (R90): Scalar floating subtract. -/
  | fsub (r : Xr)
  /-- FMUL (R90): Scalar floating multiply. -/
  | fmul (r : Xr)
  /-- FDIV (R90): Scalar floating divide. -/
  | fdiv (r : Xr)
  /-- FSQRT (R90): Scalar floating square root. -/
  | fsqrt (r : Xr)
  /-- FMIN (R90): Scalar floating minimum. -/
  | fmin (r : Xr)
  /-- FMAX (R90): Scalar floating maximum. -/
  | fmax (r : Xr)
  /-- FMA (R90): A × B + C, rounded once. -/
  | fma (r : Xr)
  /-- FMS (R90): A × B - C, rounded once. -/
  | fms (r : Xr)
  /-- FNMA (R90): -(A × B) + C, rounded once. -/
  | fnma (r : Xr)
  /-- FABS (R90): Clears the sign bit of the pattern. -/
  | fabs (r : Xr)
  /-- FNEG (R90): Inverts the sign bit of the pattern. -/
  | fneg (r : Xr)
  /-- FSGNJ (R90): Takes x[A] with the sign of x[B]. -/
  | fsgnj (r : Xr)
  /-- FEQ (R91): Quiet floating equality compare into a predicate. -/
  | feq (r : Xr)
  /-- FLT (R91): Ordered floating less-than compare. -/
  | flt (r : Xr)
  /-- FLE (R91): Ordered floating less-or-equal compare. -/
  | fle (r : Xr)
  /-- FUN (R91): Unordered test: either operand is a NaN. -/
  | fun (r : Xr)
  /-- FCLASS (R91): Writes the one-hot class of x[A]. -/
  | fclass (r : Xr)
  /-- FCVT (R92): Floating-to-floating conversion. -/
  | fcvt (r : Xr)
  /-- FCVTI (R92): Floating-to-integer conversion through ToInt. -/
  | fcvti (r : Xr)
  /-- ICVTF (R92): Integer-to-floating conversion. -/
  | icvtf (r : Xr)
  /-- BR (R93): PC-relative branch under the guard. -/
  | br (r : Xb)
  /-- CALL (R93): Pushes a return entry and branches PC-relative. -/
  | call (r : Xb)
  /-- JR (R94): Jumps to x[A]. -/
  | jr (r : Xr)
  /-- CALLR (R94): Pushes a return entry and jumps to x[A]. -/
  | callr (r : Xr)
  /-- RET (R94): Discards loop frames above the top return entry, pops it and jumps to its address. -/
  | ret (r : Xr)
  /-- LOOP (R95): Pushes a hardware loop frame, or skips the body when the count is zero. -/
  | loop (r : Xi)
  /-- LDS (R199): Store-space load, zero-extended. -/
  | lds (fn : BitVec 6) (r : Xi)
  /-- LDSX (R199): Store-space load, sign-extended. -/
  | ldsx (fn : BitVec 6) (r : Xi)
  /-- STS (R200): Store-space store of the low bytes of x[D]. -/
  | sts (fn : BitVec 6) (r : Xi)
  /-- LDG (R201): Blocking global load at the named scope. -/
  | ldg (fn : BitVec 6) (r : Xr)
  /-- STG (R201): Blocking global store at the named scope. -/
  | stg (fn : BitVec 6) (r : Xr)
  /-- AMO_ADD (R217): Atomic add, returning the old value. -/
  | amoAdd (r : Xr)
  /-- AMO_AND (R217): Atomic AND. -/
  | amoAnd (r : Xr)
  /-- AMO_OR (R217): Atomic OR. -/
  | amoOr (r : Xr)
  /-- AMO_XOR (R217): Atomic XOR. -/
  | amoXor (r : Xr)
  /-- AMO_MIN (R217): Atomic minimum. -/
  | amoMin (r : Xr)
  /-- AMO_MAX (R217): Atomic maximum. -/
  | amoMax (r : Xr)
  /-- AMO_SWAP (R217): Atomic swap. -/
  | amoSwap (r : Xr)
  /-- AMO_CAS (R217): Atomic compare-and-swap. -/
  | amoCas (r : Xr)
  /-- AMO_FADD (R217): Atomic floating add, rounded RNE. -/
  | amoFadd (r : Xr)
  /-- AMO_FMAX (R217): Atomic floating maximum. -/
  | amoFmax (r : Xr)
  /-- AMO_MAXX (R217): Returns max(old, b) and resets the word to c in one atomic operation. -/
  | amoMaxx (r : Xr)
  /-- POP (R202): Takes a committed word of a queue into x[D]. -/
  | pop (r : Xr)
  /-- PUSH (R202): Appends x[B] to a queue. -/
  | push (r : Xr)
  /-- FENCE (R179): X-stream fence: waits until earlier accesses and commands are performed. -/
  | fence (r : Xr)
  /-- BANK_MODE (R167): Switches a logical bank to SCRATCH, SKEW, CACHE or FIFO mode. -/
  | bankMode (r : Xi)
  /-- VADD (R114): Span add. -/
  | vadd (r : Xs)
  /-- VSUB (R114): Span subtract. -/
  | vsub (r : Xs)
  /-- VMUL (R114): Span multiply. -/
  | vmul (r : Xs)
  /-- VDIV (R114): Span divide. -/
  | vdiv (r : Xs)
  /-- VMIN (R114): Span minimum. -/
  | vmin (r : Xs)
  /-- VMAX (R114): Span maximum. -/
  | vmax (r : Xs)
  /-- VFMA (R114): Span fused multiply-add. -/
  | vfma (r : Xs)
  /-- VFMS (R114): Span fused multiply-subtract. -/
  | vfms (r : Xs)
  /-- VFNMA (R114): Span negated fused multiply-add. -/
  | vfnma (r : Xs)
  /-- VAND (R114): Span bitwise AND. -/
  | vand (r : Xs)
  /-- VOR (R114): Span bitwise OR. -/
  | vor (r : Xs)
  /-- VXOR (R114): Span bitwise XOR. -/
  | vxor (r : Xs)
  /-- VSLL (R114): Span shift left. -/
  | vsll (r : Xs)
  /-- VSRL (R114): Span logical shift right. -/
  | vsrl (r : Xs)
  /-- VSRA (R114): Span arithmetic shift right. -/
  | vsra (r : Xs)
  /-- VABD (R114): Span absolute difference. -/
  | vabd (r : Xs)
  /-- VMOV (R115): Span copy of patterns. -/
  | vmov (r : Xs)
  /-- VNEG (R115): Span negate. -/
  | vneg (r : Xs)
  /-- VABS (R115): Span absolute value. -/
  | vabs (r : Xs)
  /-- VRCP (R115): Span reciprocal, correctly rounded. -/
  | vrcp (r : Xs)
  /-- VSQRT (R115): Span square root. -/
  | vsqrt (r : Xs)
  /-- VRSQRT (R115): Span reciprocal square root. -/
  | vrsqrt (r : Xs)
  /-- VEXP (R115): Span natural exponential. -/
  | vexp (r : Xs)
  /-- VEXP2 (R115): Span base-2 exponential. -/
  | vexp2 (r : Xs)
  /-- VLOG2 (R115): Span base-2 logarithm. -/
  | vlog2 (r : Xs)
  /-- VTANH (R115): Span hyperbolic tangent. -/
  | vtanh (r : Xs)
  /-- VSIGM (R115): Span logistic sigmoid. -/
  | vsigm (r : Xs)
  /-- VADDS (R116): Span plus scalar. -/
  | vadds (r : Xs)
  /-- VSUBS (R116): Span minus scalar. -/
  | vsubs (r : Xs)
  /-- VMULS (R116): Span times scalar. -/
  | vmuls (r : Xs)
  /-- VMINS (R116): Span minimum with scalar. -/
  | vmins (r : Xs)
  /-- VMAXS (R116): Span maximum with scalar. -/
  | vmaxs (r : Xs)
  /-- VFMAS (R116): a × scalar + b, rounded once. -/
  | vfmas (r : Xs)
  /-- VFILL (R116): Fills every element of a span with a scalar. -/
  | vfill (r : Xs)
  /-- VCEQ (R117): Span equality compare into an n8 span. -/
  | vceq (r : Xs)
  /-- VCNE (R117): Span inequality compare. -/
  | vcne (r : Xs)
  /-- VCLT (R117): Span less-than compare. -/
  | vclt (r : Xs)
  /-- VCLE (R117): Span less-or-equal compare. -/
  | vcle (r : Xs)
  /-- VSEL (R117): Span select by an n8 mask span. -/
  | vsel (r : Xs)
  /-- VCVT (R118): Span type conversion, ordinary or saturating. -/
  | vcvt (r : Xs)
  /-- VQ_J4 (R119): Quantises blocks of 32 elements into j4 with scale and special. -/
  | vqJ4 (r : Xs)
  /-- VDQ_J4 (R120): Dequantises j4 blocks. -/
  | vdqJ4 (r : Xs)
  /-- VSUM (R121): Span sum reduction in fixed order. -/
  | vsum (r : Xs)
  /-- VMAXR (R121): Span maximum reduction. -/
  | vmaxr (r : Xs)
  /-- VMINR (R121): Span minimum reduction. -/
  | vminr (r : Xs)
  /-- VAMAX (R121): Greatest magnitude of a span. -/
  | vamax (r : Xs)
  /-- VDOT (R121): Span dot product in fixed order. -/
  | vdot (r : Xs)
  /-- VREV (R122): Reverses a span. -/
  | vrev (r : Xs)
  /-- VBCAST (R122): Broadcasts element 0 of a span. -/
  | vbcast (r : Xs)
  /-- VSCAN (R122): Inclusive prefix sum. -/
  | vscan (r : Xs)
  /-- VIDX (R122): Writes each element's index. -/
  | vidx (r : Xs)
  /-- VPERM (R122): Permutes a span by an index span. -/
  | vperm (r : Xs)
  /-- VTRANS (R122): Transposes a span viewed as a matrix. -/
  | vtrans (r : Xs)
  /-- VSETB (R105): Sets BASE of a span register. -/
  | vsetb (r : Xs)
  /-- VSETS (R105): Sets STRIDE of a span register. -/
  | vsets (r : Xs)
  /-- VSETN (R105): Sets COUNT of a span register. -/
  | vsetn (r : Xs)
  /-- VSETT (R105): Sets TYPE and QUEUE of a span register. -/
  | vsett (r : Xs)
  /-- VGETB (R105): Reads BASE of a span register. -/
  | vgetb (r : Xs)
  /-- VGETN (R105): Reads COUNT of a span register. -/
  | vgetn (r : Xs)
  /-- VCHAIN (R123): Chain header: fuses 1-8 element-wise links into one pass. -/
  | vchain (r : Xc)
  /-- VDEFER (R126): Appends scattered updates to the deferral queue. -/
  | vdefer (r : Xs)
  /-- VDRAIN (R127): Applies every deferral entry in order and writes the count. -/
  | vdrain (r : Xs)
  /-- ROW_SM (R129): Row engine softmax over rows of a span. -/
  | rowSm (r : Xs)
  /-- ROW_NORM (R129): Row engine RMS normalisation. -/
  | rowNorm (r : Xs)
  /-- ROW_LSE (R129): Row engine log-sum-exp per row. -/
  | rowLse (r : Xs)
  /-- MM_NEST (R142): Writes one field of one level of the shadow nest bank. -/
  | mmNest (r : Xm)
  /-- MM_GO (R149): Matrix command that accumulates the nest of steps. -/
  | mmGo (r : Xr)
  /-- MM_SWAP (R143): Exchanges the shadow and active nest banks. -/
  | mmSwap (r : Xr)
  /-- MM_ZERO (R149): Matrix command that zeroes each touched accumulator before its first step. -/
  | mmZero (r : Xr)
  /-- MM_DRAIN (R153): Converts an accumulator into a tile, optionally with amax. -/
  | mmDrain (r : Xr)
  /-- MM_CFG (R158): Sets or clears redundant mode. -/
  | mmCfg (r : Xi)
  /-- TSET (R154): Sets a tile full. -/
  | tset (r : Xr)
  /-- TCLR (R154): Sets a tile empty. -/
  | tclr (r : Xr)
  /-- BAR_INIT (R275): Installs a barrier descriptor in every member core. -/
  | barInit (r : Xk)
  /-- BAR_ARR (R276): Arrives at the current phase of a barrier. -/
  | barArr (r : Xk)
  /-- BAR_WAIT (R276): Waits for the phase of the stream's last arrival. -/
  | barWait (r : Xk)
  /-- BAR_SYNC (R276): Arrives and then waits. -/
  | barSync (r : Xk)
  /-- EV_SET (R260): Sets an event bit of a peer's vector. -/
  | evSet (r : Xi)
  /-- EV_CLR (R260): Clears an event bit of a peer's vector. -/
  | evClr (r : Xi)
  /-- EV_WAIT (R261): Tests the vector; it consumes and continues, or parks with a predicted wake. -/
  | evWait (r : Xi)
  /-- CTX_YIELD (R269): Leave request; the context becomes ready. -/
  | ctxYield (r : Xr)
  /-- CTX_XFER (R270): Hands the partition to a ready peer context. -/
  | ctxXfer (r : Xr)
  /-- LAUNCH (R255): Arms a launch record and writes its status. -/
  | launch (r : Xr)
  /-- EXIT (R256): X-stream exit; the last exit of a partition ends the launch. -/
  | exit (r : Xr)
  /-- TRAP (R257): Raises a trap with cause TRAP and the code. -/
  | trap (r : Xk)
  /-- ID (R279): Returns a logical identity value chosen by M. -/
  | id (r : Xr)
  /-- TIME (R279): Returns PTP time or the cycle count. -/
  | time (r : Xr)
  /-- PAUSE (R224): X-stream pause: advances the clocks by n and stops issue for n cycles. -/
  | pause (r : Xk)
  /-- PAUSE_EXPIRY (R224): The pause count runs out and issue resumes. -/
  | pauseExpiry (aStream : Bool)
  /-- TW (R212): X-stream wait on one copy tag. -/
  | tw (r : Xk)
  /-- TWA (R212): X-stream wait on a mask of copy tags. -/
  | twa (r : Xk)
  /-- SYS_RD (R311): Reads a system register. -/
  | sysRd (r : Xk)
  /-- SYS_WR (R311): Writes a system register that has no row of its own. -/
  | sysWr (r : Xk)
  /-- FDATA_READ (R313): Reads 8 bytes of a saved frame at FOFF, then advances FOFF. -/
  | fdataRead (r : Xk)
  /-- FDATA_WRITE (R313): Writes 8 bytes of a saved frame at FOFF, then advances FOFF. -/
  | fdataWrite (r : Xk)
  /-- EVMSG (R312): Write sets event 228 in TGT's context. -/
  | evmsg (r : Xk)
  /-- CTX_NEW (R314): Creates a context in the lowest free slot. -/
  | ctxNew (r : Xr)
  /-- CTX_DEL (R314): Destroys a context and releases its state. -/
  | ctxDel (r : Xr)
  /-- CTX_SEV (R315): Settles a context parked by a fault with retry, skip or end. -/
  | ctxSev (r : Xr)
  /-- TLB_INV (R303): Removes the translations of one address in one ASID. -/
  | tlbInv (r : Xr)
  /-- TLB_ASID (R303): Removes every translation of one ASID. -/
  | tlbAsid (r : Xr)
  /-- TLB_ALL (R303): Removes every translation of the domain. -/
  | tlbAll (r : Xr)
  /-- CORE_OUT (R316): Withdraws a physical core from placement. -/
  | coreOut (r : Xr)
  /-- CORE_IN (R316): Returns a physical core to placement. -/
  | coreIn (r : Xr)
  /-- A_UDF (R45): A-stream OP 0x00: always traps. -/
  | aUdf (u : BitVec 26)
  /-- A_UDF_3F (R45): A-stream OP 0x3F: always traps. -/
  | aUdf3f (u : BitVec 26)
  /-- A_ADD (R185): a[D] := a + b. -/
  | aAdd (r : Ar)
  /-- A_SUB (R185): a[D] := a - b. -/
  | aSub (r : Ar)
  /-- A_AND (R185): a[D] := a & b. -/
  | aAnd (r : Ar)
  /-- A_OR (R185): a[D] := a | b. -/
  | aOr (r : Ar)
  /-- A_XOR (R185): a[D] := a ^ b. -/
  | aXor (r : Ar)
  /-- A_SLL (R185): Shift left by b[5:0]. -/
  | aSll (r : Ar)
  /-- A_SRL (R185): Logical shift right. -/
  | aSrl (r : Ar)
  /-- A_SRA (R185): Arithmetic shift right. -/
  | aSra (r : Ar)
  /-- A_MUL (R185): Signed product, wrapped. -/
  | aMul (r : Ar)
  /-- A_MIN (R185): Signed minimum. -/
  | aMin (r : Ar)
  /-- A_MAX (R185): Signed maximum. -/
  | aMax (r : Ar)
  /-- A_MINU (R185): Unsigned minimum. -/
  | aMinu (r : Ar)
  /-- A_MAXU (R185): Unsigned maximum. -/
  | aMaxu (r : Ar)
  /-- A_ADDI (R186): a[D] := a[A] + sign-extended immediate. -/
  | aAddi (r : Ai)
  /-- A_ADDHI (R186): a[D] := a[A] + immediate × 2^14. -/
  | aAddhi (r : Ai)
  /-- A_SLLI (R186): Shift left by an immediate. -/
  | aSlli (r : Ai)
  /-- A_ANDI (R186): a[D] := a[A] & immediate. -/
  | aAndi (r : Ai)
  /-- B (R187): Unconditional A-stream branch. -/
  | b (r : Ab)
  /-- BZ (R187): Branch if a[A] == 0. -/
  | bz (r : Ab)
  /-- BNZ (R187): Branch if a[A] != 0. -/
  | bnz (r : Ab)
  /-- A_EXIT (R187): A-stream exit once its accesses, commands and atomics are complete. -/
  | aExit (r : Ab)
  /-- NEST (R188): Activates a counted nest level over a body. -/
  | nest (r : An)
  /-- BIND (R189): Registers an address-register increment at a nest level. -/
  | bind (v : BitVec 3) (r : Ar)
  /-- LDQ (R193): Loads into a queue, reserving its words at issue. -/
  | ldq (r : Am)
  /-- STQ (R193): Pops queue words and stores them. -/
  | stq (r : Am)
  /-- LDT (R194): Loads a whole tile once it is empty. -/
  | ldt (r : Am)
  /-- STT (R194): Stores a full tile and then sets it empty. -/
  | stt (r : Am)
  /-- LDA (R195): Loads into an address register. -/
  | lda (r : Am)
  /-- STA (R195): Stores from an address register. -/
  | sta (r : Am)
  /-- CP (R207): Copy engine command counted on a tag. -/
  | cp (r : An)
  /-- MCAST (R208): Copies to each core of a destination rectangle. -/
  | mcast (r : An)
  /-- GAT (R209): Gathers elements through an index list. -/
  | gat (r : An)
  /-- SCT (R209): Scatters elements through an index list. -/
  | sct (r : An)
  /-- KVG (R214): Gathers KV rows of a token range through a sequence table. -/
  | kvg (r : An)
  /-- KVA (R215): Appends KV rows at the layer's cursor. -/
  | kva (r : An)
  /-- KVC (R216): Commits a new length atomically at the table's home. -/
  | kvc (r : An)
  /-- A_TW (R211): A-stream wait on one tag. -/
  | aTw (r : An)
  /-- A_TWA (R211): A-stream wait on a tag mask, returning error bits. -/
  | aTwa (r : An)
  /-- A_TCLR (R211): Waits for a tag to drain, then clears DONE and ERR to 1 and 0. -/
  | aTclr (r : An)
  /-- A_AMO_ADD (R218): A-stream atomic add. -/
  | aAmoAdd (r : Ar)
  /-- A_AMO_AND (R218): A-stream atomic AND. -/
  | aAmoAnd (r : Ar)
  /-- A_AMO_OR (R218): A-stream atomic OR. -/
  | aAmoOr (r : Ar)
  /-- A_AMO_XOR (R218): A-stream atomic XOR. -/
  | aAmoXor (r : Ar)
  /-- A_AMO_MIN (R218): A-stream atomic signed minimum. -/
  | aAmoMin (r : Ar)
  /-- A_AMO_MAX (R218): A-stream atomic signed maximum. -/
  | aAmoMax (r : Ar)
  /-- A_AMO_SWAP (R218): A-stream atomic swap. -/
  | aAmoSwap (r : Ar)
  /-- A_AMO_CAS (R218): A-stream compare-and-swap with the compare value from a[D]. -/
  | aAmoCas (r : Ar)
  /-- A_AMO_FADD (R218): A-stream atomic floating add. -/
  | aAmoFadd (r : Ar)
  /-- A_AMO_FMAX (R218): A-stream atomic floating maximum. -/
  | aAmoFmax (r : Ar)
  /-- A_AMO_MAXX (R218): A-stream read-max-and-reset. -/
  | aAmoMaxx (r : Ar)
  /-- RAMO_ADD (R220): Remote atomic add with request id and dedup. -/
  | ramoAdd (r : Ar)
  /-- RAMO_AND (R220): Remote atomic AND. -/
  | ramoAnd (r : Ar)
  /-- RAMO_OR (R220): Remote atomic OR. -/
  | ramoOr (r : Ar)
  /-- RAMO_XOR (R220): Remote atomic XOR. -/
  | ramoXor (r : Ar)
  /-- RAMO_MIN (R220): Remote atomic minimum. -/
  | ramoMin (r : Ar)
  /-- RAMO_MAX (R220): Remote atomic maximum. -/
  | ramoMax (r : Ar)
  /-- RAMO_SWAP (R220): Remote atomic swap. -/
  | ramoSwap (r : Ar)
  /-- RAMO_FADD (R220): Remote atomic floating add. -/
  | ramoFadd (r : Ar)
  /-- RAMO_FMAX (R220): Remote atomic floating maximum. -/
  | ramoFmax (r : Ar)
  /-- A_FENCE (R179): A-stream fence at a scope. -/
  | aFence (r : An)
  /-- NB_COPY (R230): Copies DRAM rows through the near-bank units. -/
  | nbCopy (r : An)
  /-- NB_ZERO (R230): Zero-fills DRAM rows from the zero row. -/
  | nbZero (r : An)
  /-- NB_AXPY (R233): y := α·x + y over NB rows. -/
  | nbAxpy (r : An)
  /-- NB_RUN (R236): Runs the NBPROG microprogram over row pairs. -/
  | nbRun (r : An)
  /-- NB_AMO_ADD (R237): List of base-die atomic adds. -/
  | nbAmoAdd (r : An)
  /-- NB_AMO_AND (R237): List of base-die atomic ANDs. -/
  | nbAmoAnd (r : An)
  /-- NB_AMO_OR (R237): List of base-die atomic ORs. -/
  | nbAmoOr (r : An)
  /-- NB_AMO_XOR (R237): List of base-die atomic XORs. -/
  | nbAmoXor (r : An)
  /-- NB_AMO_MIN (R237): List of base-die atomic signed minimums. -/
  | nbAmoMin (r : An)
  /-- NB_AMO_MAX (R237): List of base-die atomic signed maximums. -/
  | nbAmoMax (r : An)
  /-- NB_AMO_FADD (R237): List of base-die atomic floating adds. -/
  | nbAmoFadd (r : An)
  /-- NB_AMO_FMAX (R237): List of base-die atomic floating maximums. -/
  | nbAmoFmax (r : An)
  /-- NB_FENCE (R238): Waits for earlier near-bank commands, then acts as a scoped store. -/
  | nbFence (r : An)
  /-- NB_STAT (R239): Reports the oldest near-bank item of the context at a bank. -/
  | nbStat (r : An)
  /-- NB_PROG (R234): Loads and checks a near-bank microprogram into NBPROG. -/
  | nbProg (r : An)
  /-- COLL_ALL_REDUCE_SUM (R221): All-reduce sum collective. -/
  | collAllReduceSum (r : An)
  /-- COLL_ALL_REDUCE_MAX (R221): All-reduce max collective. -/
  | collAllReduceMax (r : An)
  /-- COLL_ALL_REDUCE_MIN (R221): All-reduce min collective. -/
  | collAllReduceMin (r : An)
  /-- COLL_REDUCE_SCATTER_SUM (R221): Reduce-scatter sum collective. -/
  | collReduceScatterSum (r : An)
  /-- COLL_ALL_GATHER (R221): All-gather collective. -/
  | collAllGather (r : An)
  /-- COLL_BROADCAST (R221): Broadcast collective. -/
  | collBroadcast (r : An)
  /-- COLL_ABORT (R222): Sends an abort token for an attempt. -/
  | collAbort (r : An)
  /-- COLL_ATT (R222): Returns the highest completed or aborted attempt. -/
  | collAtt (r : An)
  /-- PF (R223): Prefetches a line into a CACHE way or the die's L2. -/
  | pf (r : Am)
  /-- A_PAUSE (R224): A-stream pause. -/
  | aPause (r : Ai)
  /-- NBU_END (R235): Microinstruction: ends the item. -/
  | nbuEnd
  /-- NBU_LDX (R235): Microinstruction: read step loading X into an accumulator. -/
  | nbuLdx (d : Bool)
  /-- NBU_LDY (R235): Microinstruction: read step loading Y into an accumulator. -/
  | nbuLdy (d : Bool)
  /-- NBU_STY (R235): Microinstruction: write step storing an accumulator to Y. -/
  | nbuSty (s : Bool)
  /-- NBU_ADD (R235): Microinstruction: accumulator add. -/
  | nbuAdd (d : Bool) (s : Bool)
  /-- NBU_MUL (R235): Microinstruction: accumulator multiply. -/
  | nbuMul (d : Bool) (s : Bool)
  /-- NBU_MAX (R235): Microinstruction: accumulator maximum. -/
  | nbuMax (d : Bool) (s : Bool)
  /-- NBU_SCL (R235): Microinstruction: scales an accumulator by P. -/
  | nbuScl (d : Bool)
  /-- NBU_FILL (R235): Microinstruction: fills an accumulator with P. -/
  | nbuFill (d : Bool)
  /-- NBU_FMA (R235): Microinstruction: P × ba[s] + ba[d], rounded once. -/
  | nbuFma (d : Bool) (s : Bool)
  /-- NBU_ACCY (R235): Microinstruction: read-modify-write Y += ba[s]. -/
  | nbuAccy (s : Bool)
  /-- NBU_AXPY (R235): Microinstruction: read-modify-write Y := P × ba[s] + Y. -/
  | nbuAxpy (s : Bool)
  /-- RESULT_LAND (R79): A scalar result with a latency bound is written to its destination. -/
  | resultLand (slot : Nat)
  /-- LOAD_COMMIT (R196): Landed ldq or ldt data becomes visible in program order. -/
  | loadCommit
  /-- GLOBAL_ACCESS_COMPLETE (R201): A blocking global load, store or atomic completes and releases issue. -/
  | globalAccessComplete (answer : Answer)
  /-- A_AMO_COMPLETE (R218): An A-stream atomic's old value is written to a[D]. -/
  | aAmoComplete
  /-- QUEUE_WORD_PROCEED (R277): A word blocked on a queue proceeds once its queue condition holds. -/
  | queueWordProceed (aStream : Bool)
  /-- VECTOR_COMMAND_START (R108): The span or row engine starts the next command of the vector command queue. -/
  | vectorCommandStart
  /-- VECTOR_COMMAND_COMPLETE (R111): A vector command completes; flags are ORed and pending scalars land. -/
  | vectorCommandComplete
  /-- MATRIX_COMMAND_START (R151): The matrix engine starts the next queued command. -/
  | matrixCommandStart
  /-- MATRIX_GRANULE_END (R157): A granule ends: REL tiles are released and redundant results are compared. -/
  | matrixGranuleEnd (twin : Twin)
  /-- MATRIX_COMMAND_COMPLETE (R151): A matrix command completes. -/
  | matrixCommandComplete
  /-- ENGINE_SEGMENT (R210): An asynchronous engine performs one segment of a transfer. -/
  | engineSegment (cmd seg : Nat)
  /-- FIXUP_REPLAY (R210): A promoted page lets the engine replay its fix-up entry. -/
  | fixupReplay (cmd ent : Nat)
  /-- FIXUP_FAIL (R210): After 2 µs an unresolvable fix-up entry fails and the command ends in error. -/
  | fixupFail (cmd ent : Nat)
  /-- ENGINE_COMMAND_COMPLETE (R206): An engine command completes and decrements its tag, setting it at zero. -/
  | engineCommandComplete (cmd : Nat)
  /-- NB_ITEM_FORWARD (R227): The engine forwards a row item to its bank's command queue. -/
  | nbItemForward (cmd : Nat)
  /-- NB_ROW_STEP (R229): A near-bank unit starts a row step when its bank is free or the 2 µs grant applies. -/
  | nbRowStep (bank : Nat)
  /-- NB_SUSPEND (R241): An ordinary request past AGECAP suspends the unit after its current step. -/
  | nbSuspend (bank : Nat)
  /-- NB_RESUME (R241): The unit resumes at UPC once no request is older than AGECAP/2. -/
  | nbResume (bank : Nat)
  /-- NB_INVALIDATION_DONE (R368): Every die acknowledges invalidation of destination copies and the command completes. -/
  | nbInvalidationDone (cmd : Nat)
  /-- BANK_REQUEST_ISSUE (R294): The controller issues the next request of a bank by age and row hit. -/
  | bankRequestIssue (bank : Nat)
  /-- SKINT_EXPIRY (R291): The top-64 list is published and the sketch cleared. -/
  | skintExpiry (stack : Nat)
  /-- MSC_FILTER_CLEAR (R293): After MSCWIN misses the MSC filter is cleared. -/
  | mscFilterClear (slice : Nat)
  /-- LEAVE_ACCEPT (R245): The scheduler accepts the first leave request and the partition stops. -/
  | leaveAccept (slot : Nat)
  /-- PREEMPTION (R271): The scheduler sends a pre-emption request to every core of a partition. -/
  | preemption (slot : Nat)
  /-- FRAME_SAVE (R273): A halted core's frame is saved to the chrysalis store or HBM4E. -/
  | frameSave (slot : Nat)
  /-- PLACEMENT (R254): The scheduler places a launch, initialising or restoring its cores. -/
  | placement (slot origin : Nat)
  /-- SWAP_OUT (R29): The scheduler moves a context's frames to HBM4E. -/
  | swapOut (slot : Nat)
  /-- SWAP_IN (R29): The scheduler moves frames back to the chrysalis store. -/
  | swapIn (slot : Nat)
  /-- BANK_RECLAIM (R22): The scheduler copies a non-running context's banks to its HBM4E frame area. -/
  | bankReclaim (slot pos : Nat)
  /-- QUANTUM_EXPIRY (R264): A bulk context yields at the end of its QUANTUM when another is ready. -/
  | quantumExpiry (slot : Nat)
  /-- CONTEXT_READY (R245): A context whose wait is satisfied becomes ready. -/
  | contextReady (slot : Nat)
  /-- WAKE_TIMER_EXPIRY (R261): An armed wake hint expires and sets event 225. -/
  | wakeTimerExpiry (slot : Nat)
  /-- CONTROL_NODE_EVAL (R253): The scheduler reads the condition word and arms successors. -/
  | controlNodeEval (node : Nat)
  /-- DEMOTION_START (R288): The residency engine starts moving an eligible page to a slower tier. -/
  | demotionStart (kvpn : Nat)
  /-- PROMOTION_START (R289): The residency engine starts moving a page towards PREF. -/
  | promotionStart (kvpn : Nat)
  /-- MOVE_INSTALL (R286): A page copy completes; the directory entry takes the new TIER and LOC. -/
  | moveInstall (kvpn : Nat)
  /-- OLD_LOCATION_RELEASE (R286): Once every old lease has ended, the fence lifts and the old frame is freed. -/
  | oldLocationRelease (fence : Nat)
  /-- DIRECTORY_LEASE_EXPIRY (R285): A die's directory lease ends and it drops its copy. -/
  | directoryLeaseExpiry (die kvpn : Nat)
  /-- FRAME_ARRIVAL (R359): An Ethernet frame is matched and landed in an ingress window. -/
  | frameArrival (port : Nat) (frame : Frame)
  /-- PTP_LOCK (R358): The PTP time base locks, stepping only at the first lock. -/
  | ptpLock (now : Nat)
  /-- PTP_LOCK_LOSS (R358): The time base holds over on its oscillator. -/
  | ptpLockLoss
  /-- HOST_WRITE (R354): A posted PCIe write from the host is performed at system scope. -/
  | hostWrite (addr : Nat) (bytes : List Byte)
  /-- HOST_READ (R333): A host read; uncorrectable words return with the EP bit. -/
  | hostRead (addr n : Nat)
  /-- RADDR (R353): A write enqueues a launch record address in the host launch port. -/
  | raddr (dom : Nat) (value : BitVec 64)
  /-- HOST_LAUNCH_ARM (R353): The port arms or rejects the record at the head of its FIFO. -/
  | hostLaunchArm (dom : Nat)
  /-- SET_PIN (R355): Residency request: sets PIN of a page. -/
  | setPin (dom kvpn : Nat)
  /-- CLEAR_PIN (R355): Residency request: clears PIN. -/
  | clearPin (dom kvpn : Nat)
  /-- SET_PREF (R355): Residency request: sets PREF. -/
  | setPref (dom kvpn : Nat) (pref : BitVec 2)
  /-- FREE_PAGE (R355): Residency request: frees the page's directory entry. -/
  | freePage (dom kvpn : Nat)
  /-- MOVE_TO_STORE_TIER (R355): Residency request: moves a page into a bank pair of its store owner. -/
  | moveToStoreTier (dom kvpn : Nat) (loc : BitVec 36)
  /-- PSTATE (R364): A host write changes the power state. -/
  | pstate (target : BitVec 2)
  /-- MONITOR_CLEAR (R350): A write of 1 to CLEAR resets a monitor. -/
  | monitorClear (dom index : Nat)
  /-- MONITOR_INTERVAL (R350): A sampling interval of a monitor ends and a sample is counted. -/
  | monitorInterval (dom index sample : Nat)
  /-- FLOW_ENTRY_WRITE (R359): A write installs or changes an ingress flow entry, or is ignored. -/
  | flowEntryWrite (port index : Nat) (entry : BitVec 256)
  /-- FLASH_RECOVERY_WRITE (R363): A signed record is written through the flash recovery block. -/
  | flashRecoveryWrite (record : FlashRecord)
  /-- REGISTER_WRITE (R352): A management-window write to a register with no row of its own. -/
  | registerWrite (offset : Nat) (value : BitVec 64)
  /-- ATTESTATION_REQUEST (R323): Produces a dual-signed attestation report. -/
  | attestationRequest (nonce : BitVec 256)
  /-- CHECKPOINT_REQUEST (R348): Quiesces the package and writes a memory image to the pool. -/
  | checkpointRequest (base : Nat)
  /-- CHECKPOINT_RESTORE (R348): Restores a sealed image onto a matching package. -/
  | checkpointRestore (base : Nat)
  /-- REMOTE_REQUEST (R357): A UALink request arrives and is checked against export windows. -/
  | remoteRequest (src : Nat) (req : RemoteReq)
  /-- RAMO_REQUEST (R220): A remote atomic arrives at the target and is performed, deduplicated or refused. -/
  | ramoRequest (src : Nat) (req : RamoReq)
  /-- RAMO_RESPONSE (R220): The ramo response writes the old value and status. -/
  | ramoResponse (req : Nat) (answer : RamoAnswer)
  /-- RAMO_RETRY_TIMEOUT (R220): After 8 µs without a response the port retries, or returns INDET. -/
  | ramoRetryTimeout (req : Nat)
  /-- BUSY_RETRY_TIMER (R347): 2 µs after a busy response the request is sent again. -/
  | busyRetryTimer (req : Nat)
  /-- DEDUP_RECORD_EXPIRY (R347): A ramo completion record ends after 64 µs. -/
  | dedupRecordExpiry (ent : Nat)
  /-- POOL_LINK_TIMEOUT (R356): A request to a down pool link is answered poisoned after 1 ms. -/
  | poolLinkTimeout (port : Nat)
  /-- CONTRIBUTION_TOKEN (R345): A collective contribution token arrives. -/
  | contributionToken (cmd rank attempt : Nat) (data : List CodedWord)
  /-- CLOSE_TOKEN (R345): A close token completes a member's collective. -/
  | closeToken (cmd attempt : Nat)
  /-- ABORT_TOKEN (R345): An abort token ends the attempt's commands with ERR, or is discarded. -/
  | abortToken (group attempt : Nat)
  /-- COLLTO_EXPIRY (R346): A waiting member that has heard nothing for COLLTO sends an abort token. -/
  | colltoExpiry (cmd : Nat)
  /-- PATROL_SCRUB (R342): The scrubber reads and checks a word on its patrol cycle. -/
  | patrolScrub (word : Nat)
  /-- DIRECTED_SCRUB (R342): The scrubber serves a posted directed scrub. -/
  | directedScrub
  /-- SCRUB_WRITE_BACK (R343): A corrected word is written back only if its scrub tag is still set. -/
  | scrubWriteBack (word : Nat)
  /-- WINDOW_REPLAY (R336): An engine reruns its command window from the marker. -/
  | windowReplay (engine : LaneEngine)
  /-- CHECKER_MISMATCH (R339): The checker front end mismatches; both front ends roll back, or the core freezes. -/
  | checkerMismatch (aStream second : Bool)
  /-- WATCHDOG_FIRING (R341): An engine's watchdog limit expires. -/
  | watchdogFiring (what : Watchdog) (second : Bool)
  /-- THERMAL_THROTTLE (R365): A die passes 100 °C and the power state drops by one. -/
  | thermalThrottle
  /-- THERMAL_RECOVER (R365): All dies below 90 °C for 1 s; the power state rises. -/
  | thermalRecover
  /-- THERMAL_SHUTDOWN (R365): At 110 °C the module shuts down within 1 ms. -/
  | thermalShutdown
  /-- POWER_ON_RESET (R363): Reset starts bring-up through the steps of Table 14-7. -/
  | powerOnReset (boot : Boot)
  /-- LINK_DOWN (R356): A pool port's link goes down, and requests to it start waiting for the link to retrain. -/
  | linkDown (port : Nat)
  /-- LINK_RETRAIN (R356): A downed link retrains, and the requests waiting on it proceed before the 1 ms limit. -/
  | linkRetrain (port : Nat)
  /-- REFRESH (R240): A per-bank refresh occupies a bank; the near-bank unit never holds the bank during it, and it counts in the wait bound of R295. -/
  | refresh (bank : Nat)
  deriving DecidableEq, Repr

end Sys2Proof
end

