-- ==== Sys2Proof/WellFormed.lean ====
section
/-! DEFINITION. Well-formed instructions: what 02 R46 (items 2 to 7) lets through. A field that a row does not use is zero,
a code is one that the row's entry lists, a register index lies inside its file (02 R34-R43, Tables 02-6 and 02-7). -/

namespace Sys2Proof

/-- Guard predicate index 0-95 (02 R32). -/
def guardOk (g : BitVec 7) : Bool := decide (g.toNat < 96)

/-- Latency bound in cycles of an LB code (02 R34). -/
def boundOf (lb : BitVec 3) : Nat :=
  match lb.toNat with
  | 0 => 1
  | 1 => 2
  | 2 => 3
  | 3 => 4
  | 4 => 6
  | 5 => 8
  | 6 => 16
  | _ => 32

/-- A bound code not below the class's minimum (02 R34). -/
def lbOk (lb : BitVec 3) (min : Nat) : Bool := decide (min ≤ boundOf lb)

/-- Rounding codes 0-4 (02 Table 02-5). -/
def rmOk (rm : BitVec 3) : Bool := decide (rm.toNat ≤ 4)

/-- Scope codes 0-4 (02 Table 02-3). -/
def scopeOk (sc : BitVec 3) : Bool := decide (sc.toNat ≤ 4)

/-- Predicate index 0-95. -/
def predOk (p : BitVec 7) : Bool := decide (p.toNat < 96)

/-- Span register index 0-383 (02 R35). -/
def spanOk (s : BitVec 9) : Bool := decide (s.toNat < 384)

/-- A scalar register in a 9-bit SX field: SX[59:57] zero. The field's register number is its low six bits. -/
def scalarOk (s : BitVec 9) : Bool := decide (s.toNat < 64)

/-- The floating types F of 05 R109. -/
def isF (t : BitVec 4) : Bool := t == 8 || t == 9 || t == 10 || t == 12 || t == 13

/-- The integer types I of 05 R109. -/
def isI (t : BitVec 4) : Bool := t == 0 || t == 1 || t == 2 || t == 4 || t == 5 || t == 6

/-- F or I. -/
def isFI (t : BitVec 4) : Bool := isF t || isI t

/-- The set W of 05 R109. -/
def isW (t : BitVec 4) : Bool := isFI t || t == 3 || t == 7

/-- First source of predicate logic, PA := M[52] and A (02 R36). -/
def Xr.pa (r : Xr) : BitVec 7 := r.m.extractLsb' 0 1 ++ r.a

/-- Second source of predicate logic, PB := M[53] and B (02 R36). -/
def Xr.pb (r : Xr) : BitVec 7 := r.m.extractLsb' 1 1 ++ r.b

/-- Rounding or scope code in M[54:52]. -/
def Xr.m3 (r : Xr) : BitVec 3 := r.m.extractLsb' 0 3

/-- K[8:6] of format AN. -/
def kHi (k : BitVec 9) : BitVec 3 := k.extractLsb' 6 3

/-- K[5:0] of format AN, the tag. -/
def kTag (k : BitVec 9) : BitVec 6 := k.extractLsb' 0 6

/-- K[3:0] of a collective. -/
def kLo (k : BitVec 9) : BitVec 4 := k.extractLsb' 0 4

/-- X[31:29] of an A-stream atomic, the scope. -/
def xHi (x : BitVec 4) : BitVec 3 := x.extractLsb' 1 3

/-- Every operand field of a zero-form XR word is zero. -/
def xrZero (r : Xr) : Bool :=
  r.lb == 0 && r.pd == 0 && r.m == 0 && r.t == 0 && r.c == 0 && r.b == 0 && r.a == 0 && r.d == 0

def wfInt (r : Xr) (min : Nat) : Bool :=
  guardOk r.g && lbOk r.lb min && r.pd == 0 && r.m == 0 && r.t == 0 && r.c == 0

def wfIntUn (r : Xr) : Bool := wfInt r 1 && r.b == 0

/-- sext (types 0-2) and zext (types 4-6), 04 R83. -/
def wfExt (r : Xr) (lo : Nat) : Bool :=
  guardOk r.g && r.pd == 0 && r.m == 0 && r.c == 0 && r.b == 0 && decide (lo ≤ r.t.toNat) && decide (r.t.toNat ≤ lo + 2)

def wfMad (r : Xr) : Bool := guardOk r.g && lbOk r.lb 3 && r.pd == 0 && r.m == 0 && r.t == 0

def wfCmp (r : Xr) : Bool :=
  guardOk r.g && predOk r.pd && r.m == 0 && r.t == 0 && r.c == 0 && r.d == 0

def wfPred (r : Xr) : Bool :=
  guardOk r.g && predOk r.pd && predOk r.pa && predOk r.pb && r.m.extractLsb' 2 2 == 0 && r.t == 0 && r.c == 0 && r.d == 0

def wfPget (r : Xr) : Bool :=
  guardOk r.g && r.pd == 0 && predOk r.pa && r.m.extractLsb' 1 3 == 0 && r.t == 0 && r.c == 0 && r.b == 0

def wfPput (r : Xr) : Bool :=
  guardOk r.g && predOk r.pd && r.m == 0 && r.t == 0 && r.c == 0 && r.b == 0 && r.d == 0

def wfSel (r : Xr) : Bool := guardOk r.g && predOk r.pd && r.m == 0 && r.t == 0 && r.c == 0

def wfImm (r : Xi) (min : Nat) : Bool := guardOk r.g && lbOk r.lb min

def wfShift (r : Xi) : Bool := guardOk r.g && decide (r.imm.toNat < 64)

def wfMovi (r : Xk) : Bool := guardOk r.g && lbOk r.lb 1

/-- Types f16, bf16, f32, f64 of the scalar floating forms (04 R90). -/
def scalarF (t : BitVec 4) : Bool := decide (8 ≤ t.toNat) && decide (t.toNat ≤ 11)

def wfF3 (r : Xr) : Bool :=
  guardOk r.g && lbOk r.lb 4 && r.pd == 0 && decide (r.m.toNat ≤ 4) && scalarF r.t

def wfF2 (r : Xr) (min : Nat) : Bool :=
  guardOk r.g && lbOk r.lb min && r.pd == 0 && decide (r.m.toNat ≤ 4) && scalarF r.t && r.c == 0

def wfF1 (r : Xr) (min : Nat) : Bool := wfF2 r min && r.b == 0

def wfFcmp (r : Xr) : Bool :=
  guardOk r.g && lbOk r.lb 4 && predOk r.pd && r.m == 0 && scalarF r.t && r.c == 0 && r.d == 0

def wfFclass (r : Xr) : Bool :=
  guardOk r.g && lbOk r.lb 4 && r.pd == 0 && r.m == 0 && scalarF r.t && r.c == 0 && r.b == 0

/-- Conversions: destination type in T, source type in B[39:36] (04 R92). -/
def wfCvt (r : Xr) (tlo thi slo shi : Nat) : Bool :=
  guardOk r.g && lbOk r.lb 4 && r.pd == 0 && decide (r.m.toNat ≤ 4) && r.c == 0 &&
    decide (tlo ≤ r.t.toNat) && decide (r.t.toNat ≤ thi) && decide (slo ≤ r.b.toNat) && decide (r.b.toNat ≤ shi)

/-- XR zero forms that may use A, D: B, C, T, M and PD zero (04 R94, 10 R255, R270, 12 R314). -/
def wfJump (r : Xr) : Bool :=
  guardOk r.g && r.lb == 0 && r.pd == 0 && r.m == 0 && r.t == 0 && r.c == 0 && r.b == 0

/-- Supervisor words that use A, B, D (12 R303, R314). -/
def wfSup (r : Xr) : Bool := guardOk r.g && r.lb == 0 && r.pd == 0 && r.m == 0 && r.t == 0 && r.c == 0

/-- ldg and stg: FN[2:0] size 0-3, FN[5:3] scope 0-4 (08 R201). -/
def wfGlobal (fn : BitVec 6) (r : Xr) : Bool :=
  guardOk r.g && r.lb == 0 && r.pd == 0 && r.m == 0 && r.t == 0 && r.c == 0 &&
    decide ((fn.extractLsb' 0 3).toNat ≤ 3) && decide ((fn.extractLsb' 3 3).toNat ≤ 4)

def wfAmoI (r : Xr) : Bool :=
  guardOk r.g && r.lb == 0 && r.pd == 0 && decide (r.m.toNat ≤ 4) && (r.t == 2 || r.t == 3 || r.t == 6 || r.t == 7)

def wfAmoF (r : Xr) : Bool :=
  guardOk r.g && r.lb == 0 && r.pd == 0 && decide (r.m.toNat ≤ 4) && (r.t == 10 || r.t == 11)

def wfQueue (r : Xr) : Bool :=
  guardOk r.g && r.lb == 0 && r.pd == 0 && r.m == 0 && r.t == 0 && r.c == 0 && decide (r.a.toNat < 16)

def wfFence (r : Xr) : Bool :=
  guardOk r.g && r.lb == 0 && r.pd == 0 && decide (r.m.toNat ≤ 4) && r.t == 0 && r.c == 0 && r.b == 0 && r.a == 0 && r.d == 0

/-- IMM[5:4] of bank.mode: the mode. -/
def bankModeOf (imm : BitVec 28) : BitVec 2 := imm.extractLsb' 4 2

/-- IMM[8:6] of bank.mode: the FIFO use. -/
def bankUseOf (imm : BitVec 28) : BitVec 3 := imm.extractLsb' 6 3

/-- IMM[16:9] of bank.mode: the shape code. -/
def bankShapeOf (imm : BitVec 28) : BitVec 8 := imm.extractLsb' 9 8

/-- The limits of 07 R166. -/
def wfBankMode (r : Xi) : Bool :=
  guardOk r.g && r.lb == 0 && r.a == 0 && r.d == 0 && r.imm.extractLsb' 17 11 == 0 &&
    (if bankModeOf r.imm == 1 then decide (3 ≤ (bankShapeOf r.imm).toNat) && decide ((bankShapeOf r.imm).toNat ≤ 9)
     else bankShapeOf r.imm == 0) &&
    (if bankModeOf r.imm == 3 then decide ((bankUseOf r.imm).toNat ≤ 2) else bankUseOf r.imm == 0)

/-- RM forms of the span engine: guard, rounding code and span indices (02 R34, R35). A form whose entry says that the
field must be zero (05 R121, R122) adds that; the other forms that do not round are checked at issue (05 R109). -/
def wfSpan (r : Xs) : Bool := guardOk r.g && rmOk r.rm && spanOk r.sd && spanOk r.sa && spanOk r.sb

/-- Types of OP 0x40 by FN (05 Table 05-3). -/
def binTypeOk (fn : Nat) (t : BitVec 4) : Bool :=
  if fn = 3 then isF t else if 9 ≤ fn ∧ fn ≤ 14 then isI t else isFI t

/-- Types of OP 0x41 by FN. -/
def unTypeOk (fn : Nat) (t : BitVec 4) : Bool := if fn = 0 then isW t else if fn ≤ 2 then isFI t else isF t

/-- Types of OP 0x42 by FN. -/
def scaTypeOk (fn : Nat) (t : BitVec 4) : Bool := if fn = 6 then isW t else isFI t

def wfVset (r : Xs) : Bool := guardOk r.g && r.rm == 0 && spanOk r.sd && r.sa == 0 && r.sb == 0

def wfVget (r : Xs) : Bool :=
  guardOk r.g && r.rm == 0 && r.sd == 0 && spanOk r.sa && r.sb == 0 && r.t == 0 && scalarOk r.sx

/-- One link of a chain with header type `t` (02 R37, 05 Table 05-7). -/
def wfLink (t : BitVec 4) (k : Xl) : Bool :=
  let cls := (k.fn.extractLsb' 4 2).toNat
  let fn := (k.fn.extractLsb' 0 4).toNat
  rmOk k.rm && k.t == t &&
    (if cls = 0 then
      binTypeOk fn t && k.sx == 0 && (spanOk k.so || (k.so == 511 && !(decide (6 ≤ fn) && decide (fn ≤ 8))))
     else if cls = 1 then decide (fn ≤ 10) && unTypeOk fn t && k.sx == 0 && k.so == 511
     else if cls = 2 then decide (fn ≤ 5) && scaTypeOk fn t && k.so == 511
     else false)

/-- The fields of a chain header itself (05 R123). -/
def wfHead (r : Xc) : Bool := guardOk r.g && spanOk r.sd && spanOk r.sa && spanOk r.sb && r.t != 11 && r.t != 15

/-- A chain header with one to eight links (02 R37, 05 R123). -/
def wfChain (r : Xc) : Bool :=
  wfHead r && decide (1 ≤ r.links.length) && decide (r.links.length ≤ 8) && r.links.all (wfLink r.t)

/-- The operand types of a step (06 Table 06-1). -/
def mmTypeOk (t : Nat) : Bool := [0, 8, 9, 12, 13, 14, 15].contains t

/-- mm.go and mm.zero (06 R149). A type outside Table 06-1 and granule code 7 are reserved codes of the word, refused before its guard is
considered (02 R43, R46; log 56). -/
def wfMm (r : Xr) : Bool :=
  guardOk r.g && r.lb == 0 && r.pd == 0 && decide (r.m.toNat < 4) && decide (r.c.toNat < 7) && mmTypeOk r.t.toNat &&
    decide (r.b.toNat < 16) && decide (r.a.toNat < 16) && decide (r.d.toNat < 4)

/-- mm.drain (06 R153). -/
def wfDrain (r : Xr) : Bool :=
  guardOk r.g && rmOk r.lb && r.pd == 0 && r.c == 0 && decide (r.m.toNat < 8) && decide (r.d.toNat < 16) && decide (r.a.toNat < 4) &&
    (r.m.getLsbD 0 || r.b == 0) && (!r.m.getLsbD 1 || r.t == 10 || r.t == 2) &&
    (!r.m.getLsbD 2 || r.t == 8 || r.t == 9 || r.t == 12 || r.t == 13) &&
    (isF r.t || r.t == 2 || r.t == 0) && (!(r.t == 10 || r.t == 2 || r.t == 0) || r.lb == 0)

def wfTile (r : Xr) : Bool :=
  guardOk r.g && r.lb == 0 && r.pd == 0 && r.m == 0 && r.t == 0 && r.c == 0 && r.b == 0 && r.a == 0 && decide (r.d.toNat < 16)

def wfBar (r : Xk) : Bool := guardOk r.g && r.lb == 0 && decide (r.imm.toNat < 512)

/-- ev.set and ev.clr: bits 0-223 (10 R260). -/
def wfEv (r : Xi) : Bool := guardOk r.g && r.lb == 0 && r.d == 0 && decide (r.imm.toNat < 224)

/-- id and time (10 R279). -/
def wfId (r : Xr) (max : Nat) : Bool :=
  guardOk r.g && r.lb == 0 && r.pd == 0 && decide (r.m.toNat ≤ max) && r.t == 0 && r.c == 0 && r.b == 0 && r.a == 0

/-- sys.rd and sys.wr: IMM[31:16] zero (12 R311). -/
def wfSys (r : Xk) : Bool := guardOk r.g && r.lb == 0 && decide (r.imm.toNat < 65536)

/-- F and L are zero in branch, exit, nest and bind words (02 R40). -/
def noFl (l f : Bool) : Bool := !l && !f

/-- Space and scope of an AM word (02 R42, 08 R192). -/
def wfAm (r : Am) : Bool := (r.s == 0 && scopeOk r.sc) || (r.s == 1 && r.sc == 0)

/-- Type codes of reductions across cores (08 R221). -/
def collRedType (k : BitVec 9) : Bool :=
  let t := k.extractLsb' 4 4
  t == 10 || t == 9 || t == 2 || t == 3

/-- Type codes of all-gather and broadcast (08 R221). -/
def collAnyType (k : BitVec 9) : Bool :=
  let t := k.extractLsb' 4 4
  t != 14 && t != 15

/-- Well-formed instructions. A step of the device has no encoding and every parameter of it is admitted. -/
def wellFormed (i : Instr) : Bool :=
  match i with
  | .udf w => w.extractLsb' 0 7 == 0
  | .aUdf _ => true
  | .aUdf3f _ => true
  | .add r => wfInt r 1
  | .sub r => wfInt r 1
  | .and r => wfInt r 1
  | .or r => wfInt r 1
  | .xor r => wfInt r 1
  | .andn r => wfInt r 1
  | .sll r => wfInt r 1
  | .srl r => wfInt r 1
  | .sra r => wfInt r 1
  | .rol r => wfInt r 1
  | .min r => wfInt r 1
  | .max r => wfInt r 1
  | .minu r => wfInt r 1
  | .maxu r => wfInt r 1
  | .clz r => wfIntUn r
  | .ctz r => wfIntUn r
  | .popc r => wfIntUn r
  | .sext r => wfExt r 0
  | .zext r => wfExt r 4
  | .mov r => wfIntUn r
  | .mul r => wfInt r 3
  | .mulh r => wfInt r 3
  | .mulhu r => wfInt r 3
  | .mulhsu r => wfInt r 3
  | .mad r => wfMad r
  | .div r => wfInt r 32
  | .divu r => wfInt r 32
  | .rem r => wfInt r 32
  | .remu r => wfInt r 32
  | .ceq r => wfCmp r
  | .cne r => wfCmp r
  | .clt r => wfCmp r
  | .cle r => wfCmp r
  | .cltu r => wfCmp r
  | .cleu r => wfCmp r
  | .pand r => wfPred r
  | .por r => wfPred r
  | .pxor r => wfPred r
  | .pandn r => wfPred r
  | .pnand r => wfPred r
  | .pnor r => wfPred r
  | .pget r => wfPget r
  | .pput r => wfPput r
  | .sel r => wfSel r
  | .addi r => wfImm r 1
  | .andi r => wfImm r 1
  | .ori r => wfImm r 1
  | .xori r => wfImm r 1
  | .slli r => wfShift r
  | .srli r => wfShift r
  | .srai r => wfShift r
  | .roli r => wfShift r
  | .mini r => wfImm r 1
  | .maxi r => wfImm r 1
  | .muli r => wfImm r 3
  | .ceqi r => wfImm r 1
  | .cnei r => wfImm r 1
  | .clti r => wfImm r 1
  | .clei r => wfImm r 1
  | .cltui r => wfImm r 1
  | .cleui r => wfImm r 1
  | .movi r => wfMovi r
  | .movu r => wfMovi r
  | .movh r => wfMovi r
  | .fadd r => wfF2 r 4
  | .fsub r => wfF2 r 4
  | .fmul r => wfF2 r 4
  | .fdiv r => wfF2 r 16
  | .fsqrt r => wfF1 r 16
  | .fmin r => wfF2 r 4 && r.m == 0
  | .fmax r => wfF2 r 4 && r.m == 0
  | .fma r => wfF3 r
  | .fms r => wfF3 r
  | .fnma r => wfF3 r
  | .fabs r => wfF1 r 4 && r.m == 0
  | .fneg r => wfF1 r 4 && r.m == 0
  | .fsgnj r => wfF2 r 4 && r.m == 0
  | .feq r => wfFcmp r
  | .flt r => wfFcmp r
  | .fle r => wfFcmp r
  | .fun r => wfFcmp r
  | .fclass r => wfFclass r
  | .fcvt r => wfCvt r 8 13 8 13
  | .fcvti r => wfCvt r 0 7 8 13
  | .icvtf r => wfCvt r 8 13 0 7
  | .br r => guardOk r.g
  | .call r => guardOk r.g
  | .jr r => wfJump r && r.d == 0
  | .callr r => wfJump r && r.d == 0
  | .ret r => wfJump r && r.a == 0 && r.d == 0
  | .loop r => guardOk r.g && r.lb == 0 && r.d == 0 && decide (1 ≤ r.imm.toNat) && decide (r.imm.toNat ≤ 65535)
  | .lds fn r => guardOk r.g && lbOk r.lb 6 && decide (fn.toNat ≤ 3)
  | .ldsx fn r => guardOk r.g && lbOk r.lb 6 && decide (8 ≤ fn.toNat) && decide (fn.toNat ≤ 10)
  | .sts fn r => guardOk r.g && r.lb == 0 && decide (fn.toNat ≤ 3)
  | .ldg fn r => wfGlobal fn r
  | .stg fn r => wfGlobal fn r
  | .amoAdd r => wfAmoI r && r.c == 0
  | .amoAnd r => wfAmoI r && r.c == 0
  | .amoOr r => wfAmoI r && r.c == 0
  | .amoXor r => wfAmoI r && r.c == 0
  | .amoMin r => wfAmoI r && r.c == 0
  | .amoMax r => wfAmoI r && r.c == 0
  | .amoSwap r => wfAmoI r && r.c == 0
  | .amoCas r => wfAmoI r
  | .amoFadd r => wfAmoF r && r.c == 0
  | .amoFmax r => wfAmoF r && r.c == 0
  | .amoMaxx r => wfAmoI r
  | .pop r => wfQueue r && r.b == 0
  | .push r => wfQueue r && r.d == 0
  | .fence r => wfFence r
  | .bankMode r => wfBankMode r
  | .vadd r => wfSpan r && binTypeOk 0 r.t && r.sx == 0
  | .vsub r => wfSpan r && binTypeOk 1 r.t && r.sx == 0
  | .vmul r => wfSpan r && binTypeOk 2 r.t && r.sx == 0
  | .vdiv r => wfSpan r && binTypeOk 3 r.t && r.sx == 0
  | .vmin r => wfSpan r && binTypeOk 4 r.t && r.sx == 0
  | .vmax r => wfSpan r && binTypeOk 5 r.t && r.sx == 0
  | .vfma r => wfSpan r && binTypeOk 6 r.t && decide (r.sx.toNat < 384)
  | .vfms r => wfSpan r && binTypeOk 7 r.t && decide (r.sx.toNat < 384)
  | .vfnma r => wfSpan r && binTypeOk 8 r.t && decide (r.sx.toNat < 384)
  | .vand r => wfSpan r && binTypeOk 9 r.t && r.sx == 0
  | .vor r => wfSpan r && binTypeOk 10 r.t && r.sx == 0
  | .vxor r => wfSpan r && binTypeOk 11 r.t && r.sx == 0
  | .vsll r => wfSpan r && binTypeOk 12 r.t && r.sx == 0
  | .vsrl r => wfSpan r && binTypeOk 13 r.t && r.sx == 0
  | .vsra r => wfSpan r && binTypeOk 14 r.t && r.sx == 0
  | .vabd r => wfSpan r && binTypeOk 15 r.t && r.sx == 0
  | .vmov r => wfSpan r && unTypeOk 0 r.t && r.sb == 0 && r.sx == 0
  | .vneg r => wfSpan r && unTypeOk 1 r.t && r.sb == 0 && r.sx == 0
  | .vabs r => wfSpan r && unTypeOk 2 r.t && r.sb == 0 && r.sx == 0
  | .vrcp r => wfSpan r && unTypeOk 3 r.t && r.sb == 0 && r.sx == 0
  | .vsqrt r => wfSpan r && unTypeOk 4 r.t && r.sb == 0 && r.sx == 0
  | .vrsqrt r => wfSpan r && unTypeOk 5 r.t && r.sb == 0 && r.sx == 0
  | .vexp r => wfSpan r && unTypeOk 6 r.t && r.sb == 0 && r.sx == 0
  | .vexp2 r => wfSpan r && unTypeOk 7 r.t && r.sb == 0 && r.sx == 0
  | .vlog2 r => wfSpan r && unTypeOk 8 r.t && r.sb == 0 && r.sx == 0
  | .vtanh r => wfSpan r && unTypeOk 9 r.t && r.sb == 0 && r.sx == 0
  | .vsigm r => wfSpan r && unTypeOk 10 r.t && r.sb == 0 && r.sx == 0
  | .vadds r => wfSpan r && scaTypeOk 0 r.t && scalarOk r.sx && r.sb == 0
  | .vsubs r => wfSpan r && scaTypeOk 1 r.t && scalarOk r.sx && r.sb == 0
  | .vmuls r => wfSpan r && scaTypeOk 2 r.t && scalarOk r.sx && r.sb == 0
  | .vmins r => wfSpan r && scaTypeOk 3 r.t && scalarOk r.sx && r.sb == 0
  | .vmaxs r => wfSpan r && scaTypeOk 4 r.t && scalarOk r.sx && r.sb == 0
  | .vfmas r => wfSpan r && scaTypeOk 5 r.t && scalarOk r.sx
  | .vfill r => wfSpan r && scaTypeOk 6 r.t && scalarOk r.sx && r.sb == 0 && r.sa == 0
  | .vceq r => wfSpan r && isFI r.t && r.sx == 0
  | .vcne r => wfSpan r && isFI r.t && r.sx == 0
  | .vclt r => wfSpan r && isFI r.t && r.sx == 0
  | .vcle r => wfSpan r && isFI r.t && r.sx == 0
  | .vsel r => wfSpan r && isW r.t && decide (r.sx.toNat < 384)
  | .vcvt r => wfSpan r && isFI r.t && r.sb == 0 && (r.sx == 0 || (r.sx == 1 && isF r.t))
  | .vqJ4 r => wfSpan r && r.t == 14 && r.sx == 0
  | .vdqJ4 r => wfSpan r && (r.t == 8 || r.t == 9 || r.t == 10) && r.sx == 0
  | .vsum r => wfSpan r && isFI r.t && r.sd == 0 && scalarOk r.sx && r.sb == 0
  | .vmaxr r => wfSpan r && r.rm == 0 && isFI r.t && r.sd == 0 && scalarOk r.sx && r.sb == 0
  | .vminr r => wfSpan r && r.rm == 0 && isFI r.t && r.sd == 0 && scalarOk r.sx && r.sb == 0
  | .vamax r => wfSpan r && r.rm == 0 && isF r.t && r.sd == 0 && scalarOk r.sx && r.sb == 0
  | .vdot r => wfSpan r && isFI r.t && r.sd == 0 && scalarOk r.sx
  | .vrev r => wfSpan r && r.rm == 0 && isW r.t && r.sb == 0 && r.sx == 0
  | .vbcast r => wfSpan r && r.rm == 0 && isW r.t && r.sb == 0 && r.sx == 0
  | .vscan r => wfSpan r && (r.rm == 0 || isF r.t) && isFI r.t && r.sb == 0 && r.sx == 0
  | .vidx r => wfSpan r && r.rm == 0 && isI r.t && r.sa == 0 && r.sb == 0 && r.sx == 0
  | .vperm r => wfSpan r && r.rm == 0 && isW r.t && r.sx == 0
  | .vtrans r => wfSpan r && r.rm == 0 && isW r.t && r.sb == 0 && scalarOk r.sx
  | .vsetb r => wfVset r && r.t == 0 && scalarOk r.sx
  | .vsets r => wfVset r && r.t == 0 && scalarOk r.sx
  | .vsetn r => wfVset r && r.t == 0 && scalarOk r.sx
  | .vsett r => wfVset r && r.t != 11 && r.t != 15 && decide (r.sx.toNat ≤ 16)
  | .vgetb r => wfVget r
  | .vgetn r => wfVget r
  | .vchain r => wfChain r
  | .vdefer r => wfSpan r && r.rm == 0 && decide (r.sx.toNat ≤ 3) && (if r.sx == 3 then isW r.t else isFI r.t)
  | .vdrain r => wfSpan r && r.rm == 0 && r.sd == 0 && r.sa == 0 && r.sb == 0 && r.t == 0 && scalarOk r.sx
  | .rowSm r => wfSpan r && isF r.t && scalarOk r.sx
  | .rowNorm r => wfSpan r && isF r.t && scalarOk r.sx
  | .rowLse r => wfSpan r && r.t == 10 && scalarOk r.sx
  | .mmNest r => guardOk r.g && decide (r.l.toNat ≤ 5) && decide (r.fld.toNat ≤ 5)
  | .mmGo r => wfMm r
  | .mmSwap r => guardOk r.g && xrZero r
  | .mmZero r => wfMm r
  | .mmDrain r => wfDrain r
  | .mmCfg r => guardOk r.g && r.lb == 0 && r.d == 0 && r.a == 0 && decide (r.imm.toNat ≤ 1)
  | .tset r => wfTile r
  | .tclr r => wfTile r
  | .barInit r => wfBar r
  | .barArr r => wfBar r && r.d == 0
  | .barWait r => wfBar r && r.d == 0
  | .barSync r => wfBar r && r.d == 0
  | .evSet r => wfEv r
  | .evClr r => wfEv r
  | .evWait r => guardOk r.g && r.lb == 0 && decide (r.imm.toNat < 8)
  | .ctxYield r => r.g == 0 && !r.gn && xrZero r
  | .ctxXfer r => wfJump r
  | .launch r => wfJump r
  | .exit r => r.g == 0 && !r.gn && xrZero r
  | .trap r => guardOk r.g && r.lb == 0 && r.d == 0
  | .id r => wfId r 4
  | .time r => wfId r 1
  | .pause r => guardOk r.g && r.lb == 0 && r.d == 0 && decide (1 ≤ r.imm.toNat) && decide (r.imm.toNat ≤ 65535)
  | .tw r => guardOk r.g && r.lb == 0 && decide (r.imm.toNat < 64)
  | .twa r => guardOk r.g && r.lb == 0 && r.imm == 0
  | .sysRd r => wfSys r && r.imm != 0x13
  | .sysWr r => wfSys r && r.imm != 0x13 && r.imm != 0x15
  | .fdataRead r => wfSys r && r.imm == 0x13
  | .fdataWrite r => wfSys r && r.imm == 0x13
  | .evmsg r => wfSys r && r.imm == 0x15
  | .ctxNew r => wfJump r
  | .ctxDel r => wfJump r
  | .ctxSev r => wfSup r
  | .tlbInv r => wfSup r && r.d == 0
  | .tlbAsid r => wfSup r && r.d == 0 && r.a == 0
  | .tlbAll r => guardOk r.g && xrZero r
  | .coreOut r => wfJump r
  | .coreIn r => wfJump r
  | .aAdd r => r.x == 0
  | .aSub r => r.x == 0
  | .aAnd r => r.x == 0
  | .aOr r => r.x == 0
  | .aXor r => r.x == 0
  | .aSll r => r.x == 0
  | .aSrl r => r.x == 0
  | .aSra r => r.x == 0
  | .aMul r => r.x == 0
  | .aMin r => r.x == 0
  | .aMax r => r.x == 0
  | .aMinu r => r.x == 0
  | .aMaxu r => r.x == 0
  | .aAddi _ => true
  | .aAddhi _ => true
  | .aSlli r => decide (r.imm.toNat < 64)
  | .aAndi _ => true
  | .b r => r.a == 0
  | .bz _ => true
  | .bnz _ => true
  | .aExit r => r.a == 0 && r.off == 0
  | .nest r => noFl r.l r.f && r.b == 0 && decide (r.d.toNat ≤ 5) && r.k != 0
  | .bind v r => noFl r.l r.f && r.b == 0 && r.x == 0 && decide (v.toNat ≤ 5)
  | .ldq r => wfAm r && decide (r.d.toNat < 16) && decide (r.sz.toNat ≤ 4)
  | .stq r => wfAm r && decide (r.d.toNat < 16) && decide (r.sz.toNat ≤ 4)
  | .ldt r => wfAm r && decide (r.d.toNat < 16) && r.sz == 4
  | .stt r => wfAm r && decide (r.d.toNat < 16) && r.sz == 4
  | .lda r => wfAm r && decide (r.sz.toNat ≤ 3)
  | .sta r => wfAm r && decide (r.sz.toNat ≤ 3)
  | .cp r => scopeOk (kHi r.k)
  | .mcast r => scopeOk (kHi r.k)
  | .gat r => scopeOk (kHi r.k)
  | .sct r => scopeOk (kHi r.k)
  | .kvg r => kHi r.k == 0
  | .kva r => kHi r.k == 0
  | .kvc r => kHi r.k == 0 && r.d == 0
  | .aTw r => kHi r.k == 0 && r.d == 0 && r.a == 0 && r.b == 0
  | .aTwa r => r.k == 0 && r.b == 0
  | .aTclr r => kHi r.k == 0 && r.d == 0 && r.a == 0 && r.b == 0
  | .aAmoAdd r => scopeOk (xHi r.x)
  | .aAmoAnd r => scopeOk (xHi r.x)
  | .aAmoOr r => scopeOk (xHi r.x)
  | .aAmoXor r => scopeOk (xHi r.x)
  | .aAmoMin r => scopeOk (xHi r.x)
  | .aAmoMax r => scopeOk (xHi r.x)
  | .aAmoSwap r => scopeOk (xHi r.x)
  | .aAmoCas r => scopeOk (xHi r.x)
  | .aAmoFadd r => scopeOk (xHi r.x)
  | .aAmoFmax r => scopeOk (xHi r.x)
  | .aAmoMaxx r => scopeOk (xHi r.x)
  | .ramoAdd r => scopeOk (xHi r.x) && decide (1 ≤ r.d.toNat) && decide (r.d.toNat ≤ 30)
  | .ramoAnd r => scopeOk (xHi r.x) && decide (1 ≤ r.d.toNat) && decide (r.d.toNat ≤ 30)
  | .ramoOr r => scopeOk (xHi r.x) && decide (1 ≤ r.d.toNat) && decide (r.d.toNat ≤ 30)
  | .ramoXor r => scopeOk (xHi r.x) && decide (1 ≤ r.d.toNat) && decide (r.d.toNat ≤ 30)
  | .ramoMin r => scopeOk (xHi r.x) && decide (1 ≤ r.d.toNat) && decide (r.d.toNat ≤ 30)
  | .ramoMax r => scopeOk (xHi r.x) && decide (1 ≤ r.d.toNat) && decide (r.d.toNat ≤ 30)
  | .ramoSwap r => scopeOk (xHi r.x) && decide (1 ≤ r.d.toNat) && decide (r.d.toNat ≤ 30)
  | .ramoFadd r => scopeOk (xHi r.x) && decide (1 ≤ r.d.toNat) && decide (r.d.toNat ≤ 30)
  | .ramoFmax r => scopeOk (xHi r.x) && decide (1 ≤ r.d.toNat) && decide (r.d.toNat ≤ 30)
  | .aFence r => decide (r.k.toNat ≤ 4) && r.d == 0 && r.a == 0 && r.b == 0
  | .nbCopy r => kHi r.k == 0
  | .nbZero r => kHi r.k == 0 && r.a == 0
  | .nbAxpy r => decide ((kHi r.k).toNat ≤ 3)
  | .nbRun r => decide ((kHi r.k).toNat ≤ 3)
  | .nbAmoAdd r => kHi r.k == 0 && r.d == 0
  | .nbAmoAnd r => kHi r.k == 1 && r.d == 0
  | .nbAmoOr r => kHi r.k == 2 && r.d == 0
  | .nbAmoXor r => kHi r.k == 3 && r.d == 0
  | .nbAmoMin r => kHi r.k == 4 && r.d == 0
  | .nbAmoMax r => kHi r.k == 5 && r.d == 0
  | .nbAmoFadd r => kHi r.k == 6 && r.d == 0
  | .nbAmoFmax r => kHi r.k == 7 && r.d == 0
  | .nbFence r => decide (r.k.toNat ≤ 4) && r.d == 0 && r.a == 0 && r.b == 0
  | .nbStat r => r.k == 0 && r.b == 0
  | .nbProg r => decide (r.k.toNat < 16) && r.d == 0 && r.b == 0
  | .collAllReduceSum r => kLo r.k == 0 && collRedType r.k
  | .collAllReduceMax r => kLo r.k == 1 && collRedType r.k
  | .collAllReduceMin r => kLo r.k == 2 && collRedType r.k
  | .collReduceScatterSum r => kLo r.k == 3 && collRedType r.k
  | .collAllGather r => kLo r.k == 4 && collAnyType r.k
  | .collBroadcast r => kLo r.k == 5 && collAnyType r.k
  | .collAbort r => r.k == 0 && r.d == 0 && r.b == 0
  | .collAtt r => r.k == 0 && r.b == 0
  | .pf r => r.s == 0 && (r.sc == 0 || r.sc == 2) && decide (r.sz.toNat ≤ 4) && r.d == 0
  | .aPause r => r.d == 0 && r.a == 0 && decide (1 ≤ r.imm.toNat) && decide (r.imm.toNat ≤ 8191)
  | .nbuEnd => true
  | .nbuLdx _ => true
  | .nbuLdy _ => true
  | .nbuSty _ => true
  | .nbuAdd _ _ => true
  | .nbuMul _ _ => true
  | .nbuMax _ _ => true
  | .nbuScl _ => true
  | .nbuFill _ => true
  | .nbuFma _ _ => true
  | .nbuAccy _ => true
  | .nbuAxpy _ => true
  | .pauseExpiry _ => true
  | .resultLand _ => true
  | .loadCommit => true
  | .globalAccessComplete _ => true
  | .aAmoComplete => true
  | .queueWordProceed _ => true
  | .vectorCommandStart => true
  | .vectorCommandComplete => true
  | .matrixCommandStart => true
  | .matrixGranuleEnd _ => true
  | .matrixCommandComplete => true
  | .engineSegment _ _ => true
  | .fixupReplay _ _ => true
  | .fixupFail _ _ => true
  | .engineCommandComplete _ => true
  | .nbItemForward _ => true
  | .nbRowStep _ => true
  | .nbSuspend _ => true
  | .nbResume _ => true
  | .nbInvalidationDone _ => true
  | .bankRequestIssue _ => true
  | .skintExpiry _ => true
  | .mscFilterClear _ => true
  | .leaveAccept _ => true
  | .preemption _ => true
  | .frameSave _ => true
  | .placement _ _ => true
  | .swapOut _ => true
  | .swapIn _ => true
  | .bankReclaim _ _ => true
  | .quantumExpiry _ => true
  | .contextReady _ => true
  | .wakeTimerExpiry _ => true
  | .controlNodeEval _ => true
  | .demotionStart _ => true
  | .promotionStart _ => true
  | .moveInstall _ => true
  | .oldLocationRelease _ => true
  | .directoryLeaseExpiry _ _ => true
  | .frameArrival _ _ => true
  | .ptpLock _ => true
  | .ptpLockLoss => true
  | .hostWrite _ _ => true
  | .hostRead _ _ => true
  | .raddr _ _ => true
  | .hostLaunchArm _ => true
  | .setPin _ _ => true
  | .clearPin _ _ => true
  | .setPref _ _ _ => true
  | .freePage _ _ => true
  | .moveToStoreTier _ _ _ => true
  | .pstate _ => true
  | .monitorClear _ _ => true
  | .monitorInterval _ _ _ => true
  | .flowEntryWrite _ _ _ => true
  | .flashRecoveryWrite _ => true
  | .registerWrite _ _ => true
  | .attestationRequest _ => true
  | .checkpointRequest _ => true
  | .checkpointRestore _ => true
  | .remoteRequest _ _ => true
  | .ramoRequest _ _ => true
  | .ramoResponse _ _ => true
  | .ramoRetryTimeout _ => true
  | .busyRetryTimer _ => true
  | .dedupRecordExpiry _ => true
  | .poolLinkTimeout _ => true
  | .contributionToken _ _ _ _ => true
  | .closeToken _ _ => true
  | .abortToken _ _ => true
  | .colltoExpiry _ => true
  | .patrolScrub _ => true
  | .directedScrub => true
  | .scrubWriteBack _ => true
  | .windowReplay _ => true
  | .checkerMismatch _ _ => true
  | .watchdogFiring _ _ => true
  | .thermalThrottle => true
  | .thermalRecover => true
  | .thermalShutdown => true
  | .powerOnReset _ => true
  | .linkDown _ => true
  | .linkRetrain _ => true
  | .refresh _ => true

end Sys2Proof
end

