-- ==== Sys2Proof/Decode.lean ====
section
/-! DEFINITION. Decoder and encoder, written from Tables 02-1, 02-2, 02-6, 02-7 and 09 Table 09-2.
The decoder picks the row by OP and FN, reads every field of the row's format, and accepts the word exactly when the
instruction so read is well-formed and its encoding is the word: a nonzero bit in a field the form does not use, a
reserved code or a broken chain is refused by name (02 R46, R48).
The word 'noncomputable' on some definitions is about compiled code only, whose constructor numbers end at 244: the
kernel evaluates them (log 13). -/

namespace Sys2Proof

/-- Why a word is illegal (02 R46). -/
inductive DecodeError where
  /-- No word, or too few bytes, to decode. -/
  | missing
  /-- Unallocated, reserved major opcode. -/
  | unallocatedOp
  /-- Unallocated FN or sub-function. -/
  | unallocatedFn
  /-- A reserved field value, a register index outside its file, a nonzero unused bit, an LB/RM field that breaks R34. -/
  | reservedField
  /-- A header not followed by its link words, or a link word outside a chain (02 R37). -/
  | brokenChain
  deriving DecidableEq, Repr

/-! ### Fields -/

def bit1 (b : Bool) : BitVec 1 := BitVec.ofBool b

def decXr (w : BitVec 64) : Xr :=
  { g := w.extractLsb' 7 7, gn := w.getLsbD 14, lb := w.extractLsb' 15 3, pd := w.extractLsb' 56 7, m := w.extractLsb' 52 4,
    t := w.extractLsb' 48 4, c := w.extractLsb' 42 6, b := w.extractLsb' 36 6, a := w.extractLsb' 30 6, d := w.extractLsb' 24 6 }

def decXi (w : BitVec 64) : Xi :=
  { g := w.extractLsb' 7 7, gn := w.getLsbD 14, lb := w.extractLsb' 15 3, imm := w.extractLsb' 36 28, a := w.extractLsb' 30 6,
    d := w.extractLsb' 24 6 }

def decXk (w : BitVec 64) : Xk :=
  { g := w.extractLsb' 7 7, gn := w.getLsbD 14, lb := w.extractLsb' 15 3, imm := w.extractLsb' 32 32, d := w.extractLsb' 24 6 }

def decXb (w : BitVec 64) : Xb := { g := w.extractLsb' 7 7, gn := w.getLsbD 14, off := w.extractLsb' 24 40 }

def decXs (w : BitVec 64) : Xs :=
  { g := w.extractLsb' 7 7, gn := w.getLsbD 14, rm := w.extractLsb' 15 3, t := w.extractLsb' 60 4, sx := w.extractLsb' 51 9,
    sb := w.extractLsb' 42 9, sa := w.extractLsb' 33 9, sd := w.extractLsb' 24 9 }

def decXm (w : BitVec 64) : Xm :=
  { g := w.extractLsb' 7 7, gn := w.getLsbD 14, v := w.extractLsb' 32 32, fld := w.extractLsb' 27 4, l := w.extractLsb' 24 3 }

def decXl (w : BitVec 64) : Xl :=
  { fn := w.extractLsb' 18 6, rm := w.extractLsb' 15 3, t := w.extractLsb' 60 4, sx := w.extractLsb' 33 6, so := w.extractLsb' 24 9 }

def decXc (w : BitVec 64) (links : List (BitVec 64)) : Xc :=
  { g := w.extractLsb' 7 7, gn := w.getLsbD 14, t := w.extractLsb' 60 4, sb := w.extractLsb' 42 9, sa := w.extractLsb' 33 9,
    sd := w.extractLsb' 24 9, links := links.map decXl }

def decAr (w : BitVec 32) : Ar :=
  { l := w.getLsbD 7, f := w.getLsbD 6, x := w.extractLsb' 28 4, b := w.extractLsb' 18 5, a := w.extractLsb' 13 5, d := w.extractLsb' 8 5 }

def decAi (w : BitVec 32) : Ai :=
  { l := w.getLsbD 7, f := w.getLsbD 6, imm := w.extractLsb' 18 14, a := w.extractLsb' 13 5, d := w.extractLsb' 8 5 }

def decAm (w : BitVec 32) : Am :=
  { l := w.getLsbD 7, f := w.getLsbD 6, s := w.extractLsb' 30 2, sc := w.extractLsb' 27 3, sz := w.extractLsb' 24 3,
    bo := w.extractLsb' 19 5, ix := w.getLsbD 18, a := w.extractLsb' 13 5, d := w.extractLsb' 8 5 }

def decAb (w : BitVec 32) : Ab := { off := w.extractLsb' 13 19, a := w.extractLsb' 8 5 }

def decAn (w : BitVec 32) : An :=
  { l := w.getLsbD 7, f := w.getLsbD 6, k := w.extractLsb' 23 9, b := w.extractLsb' 18 5, a := w.extractLsb' 13 5, d := w.extractLsb' 8 5 }

/-! ### The rows of each X-stream opcode, by FN (02 Table 02-6) -/

def xOp01 (fn : Nat) (w : BitVec 64) : Option Instr :=
  match fn with
  | 0 => some (.add (decXr w))
  | 1 => some (.sub (decXr w))
  | 2 => some (.and (decXr w))
  | 3 => some (.or (decXr w))
  | 4 => some (.xor (decXr w))
  | 5 => some (.andn (decXr w))
  | 6 => some (.sll (decXr w))
  | 7 => some (.srl (decXr w))
  | 8 => some (.sra (decXr w))
  | 9 => some (.rol (decXr w))
  | 10 => some (.min (decXr w))
  | 11 => some (.max (decXr w))
  | 12 => some (.minu (decXr w))
  | 13 => some (.maxu (decXr w))
  | 14 => some (.clz (decXr w))
  | 15 => some (.ctz (decXr w))
  | 16 => some (.popc (decXr w))
  | 17 => some (.sext (decXr w))
  | 18 => some (.zext (decXr w))
  | 19 => some (.mov (decXr w))
  | _ => none

def xOp02 (fn : Nat) (w : BitVec 64) : Option Instr :=
  match fn with
  | 0 => some (.mul (decXr w))
  | 1 => some (.mulh (decXr w))
  | 2 => some (.mulhu (decXr w))
  | 3 => some (.mulhsu (decXr w))
  | 4 => some (.mad (decXr w))
  | 8 => some (.div (decXr w))
  | 9 => some (.divu (decXr w))
  | 10 => some (.rem (decXr w))
  | 11 => some (.remu (decXr w))
  | _ => none

def xOp03 (fn : Nat) (w : BitVec 64) : Option Instr :=
  match fn with
  | 0 => some (.ceq (decXr w))
  | 1 => some (.cne (decXr w))
  | 2 => some (.clt (decXr w))
  | 3 => some (.cle (decXr w))
  | 4 => some (.cltu (decXr w))
  | 5 => some (.cleu (decXr w))
  | _ => none

def xOp04 (fn : Nat) (w : BitVec 64) : Option Instr :=
  match fn with
  | 0 => some (.pand (decXr w))
  | 1 => some (.por (decXr w))
  | 2 => some (.pxor (decXr w))
  | 3 => some (.pandn (decXr w))
  | 4 => some (.pnand (decXr w))
  | 5 => some (.pnor (decXr w))
  | 8 => some (.pget (decXr w))
  | 9 => some (.pput (decXr w))
  | _ => none

def xOp05 (fn : Nat) (w : BitVec 64) : Option Instr :=
  match fn with
  | 0 => some (.sel (decXr w))
  | _ => none

def xOp10 (fn : Nat) (w : BitVec 64) : Option Instr :=
  match fn with
  | 0 => some (.addi (decXi w))
  | 2 => some (.andi (decXi w))
  | 3 => some (.ori (decXi w))
  | 4 => some (.xori (decXi w))
  | 6 => some (.slli (decXi w))
  | 7 => some (.srli (decXi w))
  | 8 => some (.srai (decXi w))
  | 9 => some (.roli (decXi w))
  | 10 => some (.mini (decXi w))
  | 11 => some (.maxi (decXi w))
  | 12 => some (.muli (decXi w))
  | _ => none

def xOp11 (fn : Nat) (w : BitVec 64) : Option Instr :=
  match fn with
  | 0 => some (.ceqi (decXi w))
  | 1 => some (.cnei (decXi w))
  | 2 => some (.clti (decXi w))
  | 3 => some (.clei (decXi w))
  | 4 => some (.cltui (decXi w))
  | 5 => some (.cleui (decXi w))
  | _ => none

def xOp12 (fn : Nat) (w : BitVec 64) : Option Instr :=
  match fn with
  | 0 => some (.movi (decXk w))
  | 1 => some (.movu (decXk w))
  | 2 => some (.movh (decXk w))
  | _ => none

def xOp20 (fn : Nat) (w : BitVec 64) : Option Instr :=
  match fn with
  | 0 => some (.fadd (decXr w))
  | 1 => some (.fsub (decXr w))
  | 2 => some (.fmul (decXr w))
  | 3 => some (.fdiv (decXr w))
  | 4 => some (.fsqrt (decXr w))
  | 5 => some (.fmin (decXr w))
  | 6 => some (.fmax (decXr w))
  | 7 => some (.fma (decXr w))
  | 8 => some (.fms (decXr w))
  | 9 => some (.fnma (decXr w))
  | 10 => some (.fabs (decXr w))
  | 11 => some (.fneg (decXr w))
  | 12 => some (.fsgnj (decXr w))
  | _ => none

def xOp21 (fn : Nat) (w : BitVec 64) : Option Instr :=
  match fn with
  | 0 => some (.feq (decXr w))
  | 1 => some (.flt (decXr w))
  | 2 => some (.fle (decXr w))
  | 3 => some (.fun (decXr w))
  | 8 => some (.fclass (decXr w))
  | _ => none

def xOp22 (fn : Nat) (w : BitVec 64) : Option Instr :=
  match fn with
  | 0 => some (.fcvt (decXr w))
  | 1 => some (.fcvti (decXr w))
  | 2 => some (.icvtf (decXr w))
  | _ => none

def xOp30 (fn : Nat) (w : BitVec 64) : Option Instr :=
  match fn with
  | 0 => some (.br (decXb w))
  | 1 => some (.call (decXb w))
  | _ => none

def xOp31 (fn : Nat) (w : BitVec 64) : Option Instr :=
  match fn with
  | 0 => some (.jr (decXr w))
  | 1 => some (.callr (decXr w))
  | 2 => some (.ret (decXr w))
  | _ => none

def xOp32 (fn : Nat) (w : BitVec 64) : Option Instr :=
  match fn with
  | 0 => some (.loop (decXi w))
  | _ => none

def xOp3c (fn : Nat) (w : BitVec 64) : Option Instr :=
  match fn with
  | 0 => some (.amoAdd (decXr w))
  | 1 => some (.amoAnd (decXr w))
  | 2 => some (.amoOr (decXr w))
  | 3 => some (.amoXor (decXr w))
  | 4 => some (.amoMin (decXr w))
  | 5 => some (.amoMax (decXr w))
  | 6 => some (.amoSwap (decXr w))
  | 7 => some (.amoCas (decXr w))
  | 8 => some (.amoFadd (decXr w))
  | 9 => some (.amoFmax (decXr w))
  | 10 => some (.amoMaxx (decXr w))
  | _ => none

def xOp3d (fn : Nat) (w : BitVec 64) : Option Instr :=
  match fn with
  | 0 => some (.pop (decXr w))
  | 1 => some (.push (decXr w))
  | _ => none

def xOp3e (fn : Nat) (w : BitVec 64) : Option Instr :=
  match fn with
  | 0 => some (.fence (decXr w))
  | _ => none

def xOp3f (fn : Nat) (w : BitVec 64) : Option Instr :=
  match fn with
  | 0 => some (.bankMode (decXi w))
  | _ => none

def xOp40 (fn : Nat) (w : BitVec 64) : Option Instr :=
  match fn with
  | 0 => some (.vadd (decXs w))
  | 1 => some (.vsub (decXs w))
  | 2 => some (.vmul (decXs w))
  | 3 => some (.vdiv (decXs w))
  | 4 => some (.vmin (decXs w))
  | 5 => some (.vmax (decXs w))
  | 6 => some (.vfma (decXs w))
  | 7 => some (.vfms (decXs w))
  | 8 => some (.vfnma (decXs w))
  | 9 => some (.vand (decXs w))
  | 10 => some (.vor (decXs w))
  | 11 => some (.vxor (decXs w))
  | 12 => some (.vsll (decXs w))
  | 13 => some (.vsrl (decXs w))
  | 14 => some (.vsra (decXs w))
  | 15 => some (.vabd (decXs w))
  | _ => none

def xOp41 (fn : Nat) (w : BitVec 64) : Option Instr :=
  match fn with
  | 0 => some (.vmov (decXs w))
  | 1 => some (.vneg (decXs w))
  | 2 => some (.vabs (decXs w))
  | 3 => some (.vrcp (decXs w))
  | 4 => some (.vsqrt (decXs w))
  | 5 => some (.vrsqrt (decXs w))
  | 6 => some (.vexp (decXs w))
  | 7 => some (.vexp2 (decXs w))
  | 8 => some (.vlog2 (decXs w))
  | 9 => some (.vtanh (decXs w))
  | 10 => some (.vsigm (decXs w))
  | _ => none

def xOp42 (fn : Nat) (w : BitVec 64) : Option Instr :=
  match fn with
  | 0 => some (.vadds (decXs w))
  | 1 => some (.vsubs (decXs w))
  | 2 => some (.vmuls (decXs w))
  | 3 => some (.vmins (decXs w))
  | 4 => some (.vmaxs (decXs w))
  | 5 => some (.vfmas (decXs w))
  | 6 => some (.vfill (decXs w))
  | _ => none

def xOp43 (fn : Nat) (w : BitVec 64) : Option Instr :=
  match fn with
  | 0 => some (.vceq (decXs w))
  | 1 => some (.vcne (decXs w))
  | 2 => some (.vclt (decXs w))
  | 3 => some (.vcle (decXs w))
  | 8 => some (.vsel (decXs w))
  | _ => none

def xOp44 (fn : Nat) (w : BitVec 64) : Option Instr :=
  match fn with
  | 0 => some (.vcvt (decXs w))
  | 1 => some (.vqJ4 (decXs w))
  | 2 => some (.vdqJ4 (decXs w))
  | _ => none

def xOp45 (fn : Nat) (w : BitVec 64) : Option Instr :=
  match fn with
  | 0 => some (.vsum (decXs w))
  | 1 => some (.vmaxr (decXs w))
  | 2 => some (.vminr (decXs w))
  | 3 => some (.vamax (decXs w))
  | 4 => some (.vdot (decXs w))
  | _ => none

def xOp46 (fn : Nat) (w : BitVec 64) : Option Instr :=
  match fn with
  | 0 => some (.vrev (decXs w))
  | 1 => some (.vbcast (decXs w))
  | 2 => some (.vscan (decXs w))
  | 3 => some (.vidx (decXs w))
  | 4 => some (.vperm (decXs w))
  | 5 => some (.vtrans (decXs w))
  | _ => none

def xOp48 (fn : Nat) (w : BitVec 64) : Option Instr :=
  match fn with
  | 0 => some (.vsetb (decXs w))
  | 1 => some (.vsets (decXs w))
  | 2 => some (.vsetn (decXs w))
  | 3 => some (.vsett (decXs w))
  | 4 => some (.vgetb (decXs w))
  | 5 => some (.vgetn (decXs w))
  | _ => none

def xOp54 (fn : Nat) (w : BitVec 64) : Option Instr :=
  match fn with
  | 0 => some (.vdefer (decXs w))
  | 1 => some (.vdrain (decXs w))
  | _ => none

def xOp58 (fn : Nat) (w : BitVec 64) : Option Instr :=
  match fn with
  | 0 => some (.rowSm (decXs w))
  | 1 => some (.rowNorm (decXs w))
  | 2 => some (.rowLse (decXs w))
  | _ => none

def xOp60 (fn : Nat) (w : BitVec 64) : Option Instr :=
  match fn with
  | 0 => some (.mmNest (decXm w))
  | _ => none

def xOp61 (fn : Nat) (w : BitVec 64) : Option Instr :=
  match fn with
  | 0 => some (.mmGo (decXr w))
  | 1 => some (.mmSwap (decXr w))
  | 2 => some (.mmZero (decXr w))
  | _ => none

def xOp62 (fn : Nat) (w : BitVec 64) : Option Instr :=
  match fn with
  | 0 => some (.mmDrain (decXr w))
  | _ => none

def xOp63 (fn : Nat) (w : BitVec 64) : Option Instr :=
  match fn with
  | 0 => some (.mmCfg (decXi w))
  | _ => none

def xOp64 (fn : Nat) (w : BitVec 64) : Option Instr :=
  match fn with
  | 0 => some (.tset (decXr w))
  | 1 => some (.tclr (decXr w))
  | _ => none

def xOp68 (fn : Nat) (w : BitVec 64) : Option Instr :=
  match fn with
  | 0 => some (.barInit (decXk w))
  | 1 => some (.barArr (decXk w))
  | 2 => some (.barWait (decXk w))
  | 3 => some (.barSync (decXk w))
  | _ => none

def xOp69 (fn : Nat) (w : BitVec 64) : Option Instr :=
  match fn with
  | 0 => some (.evSet (decXi w))
  | 1 => some (.evClr (decXi w))
  | 2 => some (.evWait (decXi w))
  | _ => none

def xOp6a (fn : Nat) (w : BitVec 64) : Option Instr :=
  match fn with
  | 0 => some (.ctxYield (decXr w))
  | 1 => some (.ctxXfer (decXr w))
  | _ => none

def xOp6b (fn : Nat) (w : BitVec 64) : Option Instr :=
  match fn with
  | 0 => some (.launch (decXr w))
  | 1 => some (.exit (decXr w))
  | 2 => some (.trap (decXk w))
  | _ => none

def xOp6c (fn : Nat) (w : BitVec 64) : Option Instr :=
  match fn with
  | 0 => some (.id (decXr w))
  | 1 => some (.time (decXr w))
  | _ => none

def xOp6d (fn : Nat) (w : BitVec 64) : Option Instr :=
  match fn with
  | 0 => some (.pause (decXk w))
  | 1 => some (.tw (decXk w))
  | 2 => some (.twa (decXk w))
  | _ => none

def xOp71 (fn : Nat) (w : BitVec 64) : Option Instr :=
  match fn with
  | 0 => some (.ctxNew (decXr w))
  | 1 => some (.ctxDel (decXr w))
  | 2 => some (.ctxSev (decXr w))
  | _ => none

def xOp72 (fn : Nat) (w : BitVec 64) : Option Instr :=
  match fn with
  | 0 => some (.tlbInv (decXr w))
  | 1 => some (.tlbAsid (decXr w))
  | 2 => some (.tlbAll (decXr w))
  | _ => none

def xOp73 (fn : Nat) (w : BitVec 64) : Option Instr :=
  match fn with
  | 0 => some (.coreOut (decXr w))
  | 1 => some (.coreIn (decXr w))
  | _ => none

/-- OP 0x70: registers 0x13 and 0x15 have rows of their own (12 R312, R313). -/
def xOp70 (fn : Nat) (w : BitVec 64) : Option Instr :=
  let r := decXk w
  match fn with
  | 0 => if r.imm = 0x13 then some (.fdataRead r) else some (.sysRd r)
  | 1 => if r.imm = 0x13 then some (.fdataWrite r) else if r.imm = 0x15 then some (.evmsg r) else some (.sysWr r)
  | _ => none

/-- Number of link words that follow a chain header, N + 1 (02 R35, format XC). -/
def linkCount (w : BitVec 64) : Nat := (w.extractLsb' 51 3).toNat + 1

/-- The row that OP and FN of an X-stream word name, with its fields read. -/
def xCandidate (w : BitVec 64) (following : List (BitVec 64)) : Except DecodeError Instr :=
  let fn := (w.extractLsb' 18 6).toNat
  let row (r : Option Instr) : Except DecodeError Instr := match r with | some i => .ok i | none => .error .unallocatedFn
  match (w.extractLsb' 0 7).toNat with
  | 0x00 => .ok (.udf w)
  | 0x01 => row (xOp01 fn w)
  | 0x02 => row (xOp02 fn w)
  | 0x03 => row (xOp03 fn w)
  | 0x04 => row (xOp04 fn w)
  | 0x05 => row (xOp05 fn w)
  | 0x10 => row (xOp10 fn w)
  | 0x11 => row (xOp11 fn w)
  | 0x12 => row (xOp12 fn w)
  | 0x20 => row (xOp20 fn w)
  | 0x21 => row (xOp21 fn w)
  | 0x22 => row (xOp22 fn w)
  | 0x30 => row (xOp30 fn w)
  | 0x31 => row (xOp31 fn w)
  | 0x32 => row (xOp32 fn w)
  | 0x38 => .ok (if (w.getLsbD 21) then .ldsx (w.extractLsb' 18 6) (decXi w) else .lds (w.extractLsb' 18 6) (decXi w))
  | 0x39 => .ok (.sts (w.extractLsb' 18 6) (decXi w))
  | 0x3a => .ok (.ldg (w.extractLsb' 18 6) (decXr w))
  | 0x3b => .ok (.stg (w.extractLsb' 18 6) (decXr w))
  | 0x3c => row (xOp3c fn w)
  | 0x3d => row (xOp3d fn w)
  | 0x3e => row (xOp3e fn w)
  | 0x3f => row (xOp3f fn w)
  | 0x40 => row (xOp40 fn w)
  | 0x41 => row (xOp41 fn w)
  | 0x42 => row (xOp42 fn w)
  | 0x43 => row (xOp43 fn w)
  | 0x44 => row (xOp44 fn w)
  | 0x45 => row (xOp45 fn w)
  | 0x46 => row (xOp46 fn w)
  | 0x48 => row (xOp48 fn w)
  | 0x50 => if fn = 0 then .ok (.vchain (decXc w (following.take (linkCount w)))) else .error .unallocatedFn
  | 0x51 => .error .brokenChain
  | 0x54 => row (xOp54 fn w)
  | 0x58 => row (xOp58 fn w)
  | 0x60 => row (xOp60 fn w)
  | 0x61 => row (xOp61 fn w)
  | 0x62 => row (xOp62 fn w)
  | 0x63 => row (xOp63 fn w)
  | 0x64 => row (xOp64 fn w)
  | 0x68 => row (xOp68 fn w)
  | 0x69 => row (xOp69 fn w)
  | 0x6a => row (xOp6a fn w)
  | 0x6b => row (xOp6b fn w)
  | 0x6c => row (xOp6c fn w)
  | 0x6d => row (xOp6d fn w)
  | 0x70 => row (xOp70 fn w)
  | 0x71 => row (xOp71 fn w)
  | 0x72 => row (xOp72 fn w)
  | 0x73 => row (xOp73 fn w)
  | _ => .error .unallocatedOp

/-! ### Encoder -/

def encXr (op fn : Nat) (r : Xr) : BitVec 64 :=
  0#1 ++ r.pd ++ r.m ++ r.t ++ r.c ++ r.b ++ r.a ++ r.d ++ BitVec.ofNat 6 fn ++ r.lb ++ bit1 r.gn ++ r.g ++ BitVec.ofNat 7 op

def encXi (op fn : Nat) (r : Xi) : BitVec 64 :=
  r.imm ++ r.a ++ r.d ++ BitVec.ofNat 6 fn ++ r.lb ++ bit1 r.gn ++ r.g ++ BitVec.ofNat 7 op

def encXk (op fn : Nat) (r : Xk) : BitVec 64 :=
  r.imm ++ 0#2 ++ r.d ++ BitVec.ofNat 6 fn ++ r.lb ++ bit1 r.gn ++ r.g ++ BitVec.ofNat 7 op

def encXb (op fn : Nat) (r : Xb) : BitVec 64 :=
  r.off ++ BitVec.ofNat 6 fn ++ 0#3 ++ bit1 r.gn ++ r.g ++ BitVec.ofNat 7 op

def encXs (op fn : Nat) (r : Xs) : BitVec 64 :=
  r.t ++ r.sx ++ r.sb ++ r.sa ++ r.sd ++ BitVec.ofNat 6 fn ++ r.rm ++ bit1 r.gn ++ r.g ++ BitVec.ofNat 7 op

def encXm (op fn : Nat) (r : Xm) : BitVec 64 :=
  r.v ++ 0#1 ++ r.fld ++ r.l ++ BitVec.ofNat 6 fn ++ 0#3 ++ bit1 r.gn ++ r.g ++ BitVec.ofNat 7 op

def encXl (k : Xl) : BitVec 64 :=
  k.t ++ 0#21 ++ k.sx ++ k.so ++ k.fn ++ k.rm ++ 0#1 ++ 0#7 ++ BitVec.ofNat 7 0x51

/-- A chain header, less its links: N is the link count minus one. -/
def encXc (r : Xc) : BitVec 64 :=
  r.t ++ 0#6 ++ BitVec.ofNat 3 (r.links.length - 1) ++ r.sb ++ r.sa ++ r.sd ++ 0#6 ++ 0#3 ++ bit1 r.gn ++ r.g ++ BitVec.ofNat 7 0x50

def encAr (op fn : Nat) (r : Ar) : BitVec 32 :=
  r.x ++ BitVec.ofNat 5 fn ++ r.b ++ r.a ++ r.d ++ bit1 r.l ++ bit1 r.f ++ BitVec.ofNat 6 op

def encAi (op : Nat) (r : Ai) : BitVec 32 := r.imm ++ r.a ++ r.d ++ bit1 r.l ++ bit1 r.f ++ BitVec.ofNat 6 op

def encAm (op : Nat) (r : Am) : BitVec 32 :=
  r.s ++ r.sc ++ r.sz ++ r.bo ++ bit1 r.ix ++ r.a ++ r.d ++ bit1 r.l ++ bit1 r.f ++ BitVec.ofNat 6 op

def encAb (op : Nat) (r : Ab) : BitVec 32 := r.off ++ r.a ++ 0#1 ++ 0#1 ++ BitVec.ofNat 6 op

def encAn (op : Nat) (r : An) : BitVec 32 := r.k ++ r.b ++ r.a ++ r.d ++ bit1 r.l ++ bit1 r.f ++ BitVec.ofNat 6 op

/-- A near-bank microinstruction (09 R235). -/
def encNbu (code : Nat) (d s : Bool) : BitVec 16 := BitVec.ofNat 4 code ++ bit1 d ++ bit1 s ++ 0#10

/-- What an instruction's encoding is made of. -/
inductive Encoding where
  /-- X-stream words: one, or a chain header and its links. -/
  | xWords (ws : List (BitVec 64))
  /-- One A-stream word. -/
  | aWord (w : BitVec 32)
  /-- One near-bank microinstruction. -/
  | micro (w : BitVec 16)
  /-- A step of the device, which no word encodes. -/
  | step
  deriving DecidableEq, Repr

/-- The words of an instruction. -/
def encode (i : Instr) : Encoding :=
  match i with
  | .udf w => .xWords [w]
  | .aUdf u => .aWord (u ++ BitVec.ofNat 6 0)
  | .aUdf3f u => .aWord (u ++ BitVec.ofNat 6 0x3f)
  | .add r => .xWords [encXr 0x01 0 r]
  | .sub r => .xWords [encXr 0x01 1 r]
  | .and r => .xWords [encXr 0x01 2 r]
  | .or r => .xWords [encXr 0x01 3 r]
  | .xor r => .xWords [encXr 0x01 4 r]
  | .andn r => .xWords [encXr 0x01 5 r]
  | .sll r => .xWords [encXr 0x01 6 r]
  | .srl r => .xWords [encXr 0x01 7 r]
  | .sra r => .xWords [encXr 0x01 8 r]
  | .rol r => .xWords [encXr 0x01 9 r]
  | .min r => .xWords [encXr 0x01 10 r]
  | .max r => .xWords [encXr 0x01 11 r]
  | .minu r => .xWords [encXr 0x01 12 r]
  | .maxu r => .xWords [encXr 0x01 13 r]
  | .clz r => .xWords [encXr 0x01 14 r]
  | .ctz r => .xWords [encXr 0x01 15 r]
  | .popc r => .xWords [encXr 0x01 16 r]
  | .sext r => .xWords [encXr 0x01 17 r]
  | .zext r => .xWords [encXr 0x01 18 r]
  | .mov r => .xWords [encXr 0x01 19 r]
  | .mul r => .xWords [encXr 0x02 0 r]
  | .mulh r => .xWords [encXr 0x02 1 r]
  | .mulhu r => .xWords [encXr 0x02 2 r]
  | .mulhsu r => .xWords [encXr 0x02 3 r]
  | .mad r => .xWords [encXr 0x02 4 r]
  | .div r => .xWords [encXr 0x02 8 r]
  | .divu r => .xWords [encXr 0x02 9 r]
  | .rem r => .xWords [encXr 0x02 10 r]
  | .remu r => .xWords [encXr 0x02 11 r]
  | .ceq r => .xWords [encXr 0x03 0 r]
  | .cne r => .xWords [encXr 0x03 1 r]
  | .clt r => .xWords [encXr 0x03 2 r]
  | .cle r => .xWords [encXr 0x03 3 r]
  | .cltu r => .xWords [encXr 0x03 4 r]
  | .cleu r => .xWords [encXr 0x03 5 r]
  | .pand r => .xWords [encXr 0x04 0 r]
  | .por r => .xWords [encXr 0x04 1 r]
  | .pxor r => .xWords [encXr 0x04 2 r]
  | .pandn r => .xWords [encXr 0x04 3 r]
  | .pnand r => .xWords [encXr 0x04 4 r]
  | .pnor r => .xWords [encXr 0x04 5 r]
  | .pget r => .xWords [encXr 0x04 8 r]
  | .pput r => .xWords [encXr 0x04 9 r]
  | .sel r => .xWords [encXr 0x05 0 r]
  | .addi r => .xWords [encXi 0x10 0 r]
  | .andi r => .xWords [encXi 0x10 2 r]
  | .ori r => .xWords [encXi 0x10 3 r]
  | .xori r => .xWords [encXi 0x10 4 r]
  | .slli r => .xWords [encXi 0x10 6 r]
  | .srli r => .xWords [encXi 0x10 7 r]
  | .srai r => .xWords [encXi 0x10 8 r]
  | .roli r => .xWords [encXi 0x10 9 r]
  | .mini r => .xWords [encXi 0x10 10 r]
  | .maxi r => .xWords [encXi 0x10 11 r]
  | .muli r => .xWords [encXi 0x10 12 r]
  | .ceqi r => .xWords [encXi 0x11 0 r]
  | .cnei r => .xWords [encXi 0x11 1 r]
  | .clti r => .xWords [encXi 0x11 2 r]
  | .clei r => .xWords [encXi 0x11 3 r]
  | .cltui r => .xWords [encXi 0x11 4 r]
  | .cleui r => .xWords [encXi 0x11 5 r]
  | .movi r => .xWords [encXk 0x12 0 r]
  | .movu r => .xWords [encXk 0x12 1 r]
  | .movh r => .xWords [encXk 0x12 2 r]
  | .fadd r => .xWords [encXr 0x20 0 r]
  | .fsub r => .xWords [encXr 0x20 1 r]
  | .fmul r => .xWords [encXr 0x20 2 r]
  | .fdiv r => .xWords [encXr 0x20 3 r]
  | .fsqrt r => .xWords [encXr 0x20 4 r]
  | .fmin r => .xWords [encXr 0x20 5 r]
  | .fmax r => .xWords [encXr 0x20 6 r]
  | .fma r => .xWords [encXr 0x20 7 r]
  | .fms r => .xWords [encXr 0x20 8 r]
  | .fnma r => .xWords [encXr 0x20 9 r]
  | .fabs r => .xWords [encXr 0x20 10 r]
  | .fneg r => .xWords [encXr 0x20 11 r]
  | .fsgnj r => .xWords [encXr 0x20 12 r]
  | .feq r => .xWords [encXr 0x21 0 r]
  | .flt r => .xWords [encXr 0x21 1 r]
  | .fle r => .xWords [encXr 0x21 2 r]
  | .fun r => .xWords [encXr 0x21 3 r]
  | .fclass r => .xWords [encXr 0x21 8 r]
  | .fcvt r => .xWords [encXr 0x22 0 r]
  | .fcvti r => .xWords [encXr 0x22 1 r]
  | .icvtf r => .xWords [encXr 0x22 2 r]
  | .br r => .xWords [encXb 0x30 0 r]
  | .call r => .xWords [encXb 0x30 1 r]
  | .jr r => .xWords [encXr 0x31 0 r]
  | .callr r => .xWords [encXr 0x31 1 r]
  | .ret r => .xWords [encXr 0x31 2 r]
  | .loop r => .xWords [encXi 0x32 0 r]
  | .lds fn r => .xWords [encXi 0x38 fn.toNat r]
  | .ldsx fn r => .xWords [encXi 0x38 fn.toNat r]
  | .sts fn r => .xWords [encXi 0x39 fn.toNat r]
  | .ldg fn r => .xWords [encXr 0x3a fn.toNat r]
  | .stg fn r => .xWords [encXr 0x3b fn.toNat r]
  | .amoAdd r => .xWords [encXr 0x3c 0 r]
  | .amoAnd r => .xWords [encXr 0x3c 1 r]
  | .amoOr r => .xWords [encXr 0x3c 2 r]
  | .amoXor r => .xWords [encXr 0x3c 3 r]
  | .amoMin r => .xWords [encXr 0x3c 4 r]
  | .amoMax r => .xWords [encXr 0x3c 5 r]
  | .amoSwap r => .xWords [encXr 0x3c 6 r]
  | .amoCas r => .xWords [encXr 0x3c 7 r]
  | .amoFadd r => .xWords [encXr 0x3c 8 r]
  | .amoFmax r => .xWords [encXr 0x3c 9 r]
  | .amoMaxx r => .xWords [encXr 0x3c 10 r]
  | .pop r => .xWords [encXr 0x3d 0 r]
  | .push r => .xWords [encXr 0x3d 1 r]
  | .fence r => .xWords [encXr 0x3e 0 r]
  | .bankMode r => .xWords [encXi 0x3f 0 r]
  | .vadd r => .xWords [encXs 0x40 0 r]
  | .vsub r => .xWords [encXs 0x40 1 r]
  | .vmul r => .xWords [encXs 0x40 2 r]
  | .vdiv r => .xWords [encXs 0x40 3 r]
  | .vmin r => .xWords [encXs 0x40 4 r]
  | .vmax r => .xWords [encXs 0x40 5 r]
  | .vfma r => .xWords [encXs 0x40 6 r]
  | .vfms r => .xWords [encXs 0x40 7 r]
  | .vfnma r => .xWords [encXs 0x40 8 r]
  | .vand r => .xWords [encXs 0x40 9 r]
  | .vor r => .xWords [encXs 0x40 10 r]
  | .vxor r => .xWords [encXs 0x40 11 r]
  | .vsll r => .xWords [encXs 0x40 12 r]
  | .vsrl r => .xWords [encXs 0x40 13 r]
  | .vsra r => .xWords [encXs 0x40 14 r]
  | .vabd r => .xWords [encXs 0x40 15 r]
  | .vmov r => .xWords [encXs 0x41 0 r]
  | .vneg r => .xWords [encXs 0x41 1 r]
  | .vabs r => .xWords [encXs 0x41 2 r]
  | .vrcp r => .xWords [encXs 0x41 3 r]
  | .vsqrt r => .xWords [encXs 0x41 4 r]
  | .vrsqrt r => .xWords [encXs 0x41 5 r]
  | .vexp r => .xWords [encXs 0x41 6 r]
  | .vexp2 r => .xWords [encXs 0x41 7 r]
  | .vlog2 r => .xWords [encXs 0x41 8 r]
  | .vtanh r => .xWords [encXs 0x41 9 r]
  | .vsigm r => .xWords [encXs 0x41 10 r]
  | .vadds r => .xWords [encXs 0x42 0 r]
  | .vsubs r => .xWords [encXs 0x42 1 r]
  | .vmuls r => .xWords [encXs 0x42 2 r]
  | .vmins r => .xWords [encXs 0x42 3 r]
  | .vmaxs r => .xWords [encXs 0x42 4 r]
  | .vfmas r => .xWords [encXs 0x42 5 r]
  | .vfill r => .xWords [encXs 0x42 6 r]
  | .vceq r => .xWords [encXs 0x43 0 r]
  | .vcne r => .xWords [encXs 0x43 1 r]
  | .vclt r => .xWords [encXs 0x43 2 r]
  | .vcle r => .xWords [encXs 0x43 3 r]
  | .vsel r => .xWords [encXs 0x43 8 r]
  | .vcvt r => .xWords [encXs 0x44 0 r]
  | .vqJ4 r => .xWords [encXs 0x44 1 r]
  | .vdqJ4 r => .xWords [encXs 0x44 2 r]
  | .vsum r => .xWords [encXs 0x45 0 r]
  | .vmaxr r => .xWords [encXs 0x45 1 r]
  | .vminr r => .xWords [encXs 0x45 2 r]
  | .vamax r => .xWords [encXs 0x45 3 r]
  | .vdot r => .xWords [encXs 0x45 4 r]
  | .vrev r => .xWords [encXs 0x46 0 r]
  | .vbcast r => .xWords [encXs 0x46 1 r]
  | .vscan r => .xWords [encXs 0x46 2 r]
  | .vidx r => .xWords [encXs 0x46 3 r]
  | .vperm r => .xWords [encXs 0x46 4 r]
  | .vtrans r => .xWords [encXs 0x46 5 r]
  | .vsetb r => .xWords [encXs 0x48 0 r]
  | .vsets r => .xWords [encXs 0x48 1 r]
  | .vsetn r => .xWords [encXs 0x48 2 r]
  | .vsett r => .xWords [encXs 0x48 3 r]
  | .vgetb r => .xWords [encXs 0x48 4 r]
  | .vgetn r => .xWords [encXs 0x48 5 r]
  | .vchain r => .xWords (encXc r :: r.links.map encXl)
  | .vdefer r => .xWords [encXs 0x54 0 r]
  | .vdrain r => .xWords [encXs 0x54 1 r]
  | .rowSm r => .xWords [encXs 0x58 0 r]
  | .rowNorm r => .xWords [encXs 0x58 1 r]
  | .rowLse r => .xWords [encXs 0x58 2 r]
  | .mmNest r => .xWords [encXm 0x60 0 r]
  | .mmGo r => .xWords [encXr 0x61 0 r]
  | .mmSwap r => .xWords [encXr 0x61 1 r]
  | .mmZero r => .xWords [encXr 0x61 2 r]
  | .mmDrain r => .xWords [encXr 0x62 0 r]
  | .mmCfg r => .xWords [encXi 0x63 0 r]
  | .tset r => .xWords [encXr 0x64 0 r]
  | .tclr r => .xWords [encXr 0x64 1 r]
  | .barInit r => .xWords [encXk 0x68 0 r]
  | .barArr r => .xWords [encXk 0x68 1 r]
  | .barWait r => .xWords [encXk 0x68 2 r]
  | .barSync r => .xWords [encXk 0x68 3 r]
  | .evSet r => .xWords [encXi 0x69 0 r]
  | .evClr r => .xWords [encXi 0x69 1 r]
  | .evWait r => .xWords [encXi 0x69 2 r]
  | .ctxYield r => .xWords [encXr 0x6a 0 r]
  | .ctxXfer r => .xWords [encXr 0x6a 1 r]
  | .launch r => .xWords [encXr 0x6b 0 r]
  | .exit r => .xWords [encXr 0x6b 1 r]
  | .trap r => .xWords [encXk 0x6b 2 r]
  | .id r => .xWords [encXr 0x6c 0 r]
  | .time r => .xWords [encXr 0x6c 1 r]
  | .pause r => .xWords [encXk 0x6d 0 r]
  | .tw r => .xWords [encXk 0x6d 1 r]
  | .twa r => .xWords [encXk 0x6d 2 r]
  | .sysRd r => .xWords [encXk 0x70 0 r]
  | .sysWr r => .xWords [encXk 0x70 1 r]
  | .fdataRead r => .xWords [encXk 0x70 0 r]
  | .fdataWrite r => .xWords [encXk 0x70 1 r]
  | .evmsg r => .xWords [encXk 0x70 1 r]
  | .ctxNew r => .xWords [encXr 0x71 0 r]
  | .ctxDel r => .xWords [encXr 0x71 1 r]
  | .ctxSev r => .xWords [encXr 0x71 2 r]
  | .tlbInv r => .xWords [encXr 0x72 0 r]
  | .tlbAsid r => .xWords [encXr 0x72 1 r]
  | .tlbAll r => .xWords [encXr 0x72 2 r]
  | .coreOut r => .xWords [encXr 0x73 0 r]
  | .coreIn r => .xWords [encXr 0x73 1 r]
  | .aAdd r => .aWord (encAr 0x01 0 r)
  | .aSub r => .aWord (encAr 0x01 1 r)
  | .aAnd r => .aWord (encAr 0x01 2 r)
  | .aOr r => .aWord (encAr 0x01 3 r)
  | .aXor r => .aWord (encAr 0x01 4 r)
  | .aSll r => .aWord (encAr 0x01 5 r)
  | .aSrl r => .aWord (encAr 0x01 6 r)
  | .aSra r => .aWord (encAr 0x01 7 r)
  | .aMul r => .aWord (encAr 0x01 8 r)
  | .aMin r => .aWord (encAr 0x01 9 r)
  | .aMax r => .aWord (encAr 0x01 10 r)
  | .aMinu r => .aWord (encAr 0x01 11 r)
  | .aMaxu r => .aWord (encAr 0x01 12 r)
  | .aAddi r => .aWord (encAi 0x02 r)
  | .aAddhi r => .aWord (encAi 0x03 r)
  | .aSlli r => .aWord (encAi 0x04 r)
  | .aAndi r => .aWord (encAi 0x05 r)
  | .b r => .aWord (encAb 0x08 r)
  | .bz r => .aWord (encAb 0x09 r)
  | .bnz r => .aWord (encAb 0x0a r)
  | .aExit r => .aWord (encAb 0x0b r)
  | .nest r => .aWord (encAn 0x0c r)
  | .bind v r => .aWord (encAr 0x0d v.toNat r)
  | .ldq r => .aWord (encAm 0x10 r)
  | .stq r => .aWord (encAm 0x11 r)
  | .ldt r => .aWord (encAm 0x12 r)
  | .stt r => .aWord (encAm 0x13 r)
  | .lda r => .aWord (encAm 0x14 r)
  | .sta r => .aWord (encAm 0x15 r)
  | .cp r => .aWord (encAn 0x18 r)
  | .mcast r => .aWord (encAn 0x19 r)
  | .gat r => .aWord (encAn 0x1a r)
  | .sct r => .aWord (encAn 0x1b r)
  | .kvg r => .aWord (encAn 0x1c r)
  | .kva r => .aWord (encAn 0x1d r)
  | .kvc r => .aWord (encAn 0x1e r)
  | .aTw r => .aWord (encAn 0x20 r)
  | .aTwa r => .aWord (encAn 0x21 r)
  | .aTclr r => .aWord (encAn 0x22 r)
  | .aAmoAdd r => .aWord (encAr 0x24 0 r)
  | .aAmoAnd r => .aWord (encAr 0x24 1 r)
  | .aAmoOr r => .aWord (encAr 0x24 2 r)
  | .aAmoXor r => .aWord (encAr 0x24 3 r)
  | .aAmoMin r => .aWord (encAr 0x24 4 r)
  | .aAmoMax r => .aWord (encAr 0x24 5 r)
  | .aAmoSwap r => .aWord (encAr 0x24 6 r)
  | .aAmoCas r => .aWord (encAr 0x24 7 r)
  | .aAmoFadd r => .aWord (encAr 0x24 8 r)
  | .aAmoFmax r => .aWord (encAr 0x24 9 r)
  | .aAmoMaxx r => .aWord (encAr 0x24 10 r)
  | .ramoAdd r => .aWord (encAr 0x25 0 r)
  | .ramoAnd r => .aWord (encAr 0x25 1 r)
  | .ramoOr r => .aWord (encAr 0x25 2 r)
  | .ramoXor r => .aWord (encAr 0x25 3 r)
  | .ramoMin r => .aWord (encAr 0x25 4 r)
  | .ramoMax r => .aWord (encAr 0x25 5 r)
  | .ramoSwap r => .aWord (encAr 0x25 6 r)
  | .ramoFadd r => .aWord (encAr 0x25 8 r)
  | .ramoFmax r => .aWord (encAr 0x25 9 r)
  | .aFence r => .aWord (encAn 0x26 r)
  | .nbCopy r => .aWord (encAn 0x28 r)
  | .nbZero r => .aWord (encAn 0x29 r)
  | .nbAxpy r => .aWord (encAn 0x2a r)
  | .nbRun r => .aWord (encAn 0x2b r)
  | .nbAmoAdd r => .aWord (encAn 0x2c r)
  | .nbAmoAnd r => .aWord (encAn 0x2c r)
  | .nbAmoOr r => .aWord (encAn 0x2c r)
  | .nbAmoXor r => .aWord (encAn 0x2c r)
  | .nbAmoMin r => .aWord (encAn 0x2c r)
  | .nbAmoMax r => .aWord (encAn 0x2c r)
  | .nbAmoFadd r => .aWord (encAn 0x2c r)
  | .nbAmoFmax r => .aWord (encAn 0x2c r)
  | .nbFence r => .aWord (encAn 0x2d r)
  | .nbStat r => .aWord (encAn 0x2e r)
  | .nbProg r => .aWord (encAn 0x2f r)
  | .collAllReduceSum r => .aWord (encAn 0x30 r)
  | .collAllReduceMax r => .aWord (encAn 0x30 r)
  | .collAllReduceMin r => .aWord (encAn 0x30 r)
  | .collReduceScatterSum r => .aWord (encAn 0x30 r)
  | .collAllGather r => .aWord (encAn 0x30 r)
  | .collBroadcast r => .aWord (encAn 0x30 r)
  | .collAbort r => .aWord (encAn 0x31 r)
  | .collAtt r => .aWord (encAn 0x32 r)
  | .pf r => .aWord (encAm 0x34 r)
  | .aPause r => .aWord (encAi 0x35 r)
  | .nbuEnd => .micro (encNbu 0 false false)
  | .nbuLdx d => .micro (encNbu 1 d false)
  | .nbuLdy d => .micro (encNbu 2 d false)
  | .nbuSty s => .micro (encNbu 3 false s)
  | .nbuAdd d s => .micro (encNbu 4 d s)
  | .nbuMul d s => .micro (encNbu 5 d s)
  | .nbuMax d s => .micro (encNbu 6 d s)
  | .nbuScl d => .micro (encNbu 7 d false)
  | .nbuFill d => .micro (encNbu 8 d false)
  | .nbuFma d s => .micro (encNbu 9 d s)
  | .nbuAccy s => .micro (encNbu 10 false s)
  | .nbuAxpy s => .micro (encNbu 11 false s)
  | .pauseExpiry _ => .step
  | .resultLand _ => .step
  | .loadCommit => .step
  | .globalAccessComplete _ => .step
  | .aAmoComplete => .step
  | .queueWordProceed _ => .step
  | .vectorCommandStart => .step
  | .vectorCommandComplete => .step
  | .matrixCommandStart => .step
  | .matrixGranuleEnd _ => .step
  | .matrixCommandComplete => .step
  | .engineSegment _ _ => .step
  | .fixupReplay _ _ => .step
  | .fixupFail _ _ => .step
  | .engineCommandComplete _ => .step
  | .nbItemForward _ => .step
  | .nbRowStep _ => .step
  | .nbSuspend _ => .step
  | .nbResume _ => .step
  | .nbInvalidationDone _ => .step
  | .bankRequestIssue _ => .step
  | .skintExpiry _ => .step
  | .mscFilterClear _ => .step
  | .leaveAccept _ => .step
  | .preemption _ => .step
  | .frameSave _ => .step
  | .placement _ _ => .step
  | .swapOut _ => .step
  | .swapIn _ => .step
  | .bankReclaim _ _ => .step
  | .quantumExpiry _ => .step
  | .contextReady _ => .step
  | .wakeTimerExpiry _ => .step
  | .controlNodeEval _ => .step
  | .demotionStart _ => .step
  | .promotionStart _ => .step
  | .moveInstall _ => .step
  | .oldLocationRelease _ => .step
  | .directoryLeaseExpiry _ _ => .step
  | .frameArrival _ _ => .step
  | .ptpLock _ => .step
  | .ptpLockLoss => .step
  | .hostWrite _ _ => .step
  | .hostRead _ _ => .step
  | .raddr _ _ => .step
  | .hostLaunchArm _ => .step
  | .setPin _ _ => .step
  | .clearPin _ _ => .step
  | .setPref _ _ _ => .step
  | .freePage _ _ => .step
  | .moveToStoreTier _ _ _ => .step
  | .pstate _ => .step
  | .monitorClear _ _ => .step
  | .monitorInterval _ _ _ => .step
  | .flowEntryWrite _ _ _ => .step
  | .flashRecoveryWrite _ => .step
  | .registerWrite _ _ => .step
  | .attestationRequest _ => .step
  | .checkpointRequest _ => .step
  | .checkpointRestore _ => .step
  | .remoteRequest _ _ => .step
  | .ramoRequest _ _ => .step
  | .ramoResponse _ _ => .step
  | .ramoRetryTimeout _ => .step
  | .busyRetryTimer _ => .step
  | .dedupRecordExpiry _ => .step
  | .poolLinkTimeout _ => .step
  | .contributionToken _ _ _ _ => .step
  | .closeToken _ _ => .step
  | .abortToken _ _ => .step
  | .colltoExpiry _ => .step
  | .patrolScrub _ => .step
  | .directedScrub => .step
  | .scrubWriteBack _ => .step
  | .windowReplay _ => .step
  | .checkerMismatch _ _ => .step
  | .watchdogFiring _ _ => .step
  | .thermalThrottle => .step
  | .thermalRecover => .step
  | .thermalShutdown => .step
  | .powerOnReset _ => .step
  | .linkDown _ => .step
  | .linkRetrain _ => .step
  | .refresh _ => .step

/-- The X-stream instruction that starts at word `w`, with the words that follow it (a chain takes its links from them). -/
def decodeX (w : BitVec 64) (following : List (BitVec 64)) : Except DecodeError Instr :=
  match xCandidate w following with
  | .error e => .error e
  | .ok i =>
    if encode i = .xWords (w :: (match i with | .vchain r => following.take r.links.length | _ => [])) then
      if wellFormed i then .ok i else .error .reservedField
    else .error (match i with | .vchain _ => .brokenChain | _ => .reservedField)

/-! ### The A stream (02 Table 02-7) -/

def aOp01 (fn : Nat) (w : BitVec 32) : Option Instr :=
  match fn with
  | 0 => some (.aAdd (decAr w))
  | 1 => some (.aSub (decAr w))
  | 2 => some (.aAnd (decAr w))
  | 3 => some (.aOr (decAr w))
  | 4 => some (.aXor (decAr w))
  | 5 => some (.aSll (decAr w))
  | 6 => some (.aSrl (decAr w))
  | 7 => some (.aSra (decAr w))
  | 8 => some (.aMul (decAr w))
  | 9 => some (.aMin (decAr w))
  | 10 => some (.aMax (decAr w))
  | 11 => some (.aMinu (decAr w))
  | 12 => some (.aMaxu (decAr w))
  | _ => none

noncomputable def aOp24 (fn : Nat) (w : BitVec 32) : Option Instr :=
  match fn with
  | 0 => some (.aAmoAdd (decAr w))
  | 1 => some (.aAmoAnd (decAr w))
  | 2 => some (.aAmoOr (decAr w))
  | 3 => some (.aAmoXor (decAr w))
  | 4 => some (.aAmoMin (decAr w))
  | 5 => some (.aAmoMax (decAr w))
  | 6 => some (.aAmoSwap (decAr w))
  | 7 => some (.aAmoCas (decAr w))
  | 8 => some (.aAmoFadd (decAr w))
  | 9 => some (.aAmoFmax (decAr w))
  | 10 => some (.aAmoMaxx (decAr w))
  | _ => none

noncomputable def aOp25 (fn : Nat) (w : BitVec 32) : Option Instr :=
  match fn with
  | 0 => some (.ramoAdd (decAr w))
  | 1 => some (.ramoAnd (decAr w))
  | 2 => some (.ramoOr (decAr w))
  | 3 => some (.ramoXor (decAr w))
  | 4 => some (.ramoMin (decAr w))
  | 5 => some (.ramoMax (decAr w))
  | 6 => some (.ramoSwap (decAr w))
  | 8 => some (.ramoFadd (decAr w))
  | 9 => some (.ramoFmax (decAr w))
  | _ => none

/-- nb.amo: the operation is K[8:6] (09 R237). -/
noncomputable def aOp2c (op : Nat) (w : BitVec 32) : Option Instr :=
  match op with
  | 0 => some (.nbAmoAdd (decAn w))
  | 1 => some (.nbAmoAnd (decAn w))
  | 2 => some (.nbAmoOr (decAn w))
  | 3 => some (.nbAmoXor (decAn w))
  | 4 => some (.nbAmoMin (decAn w))
  | 5 => some (.nbAmoMax (decAn w))
  | 6 => some (.nbAmoFadd (decAn w))
  | 7 => some (.nbAmoFmax (decAn w))
  | _ => none

/-- coll: the operation is K[3:0] (08 R221). -/
noncomputable def aOp30 (op : Nat) (w : BitVec 32) : Option Instr :=
  match op with
  | 0 => some (.collAllReduceSum (decAn w))
  | 1 => some (.collAllReduceMax (decAn w))
  | 2 => some (.collAllReduceMin (decAn w))
  | 3 => some (.collReduceScatterSum (decAn w))
  | 4 => some (.collAllGather (decAn w))
  | 5 => some (.collBroadcast (decAn w))
  | _ => none

/-- The row that OP and FN of an A-stream word name, with its fields read. -/
noncomputable def aCandidate (w : BitVec 32) : Except DecodeError Instr :=
  let fn := (w.extractLsb' 23 5).toNat
  let row (r : Option Instr) : Except DecodeError Instr := match r with | some i => .ok i | none => .error .unallocatedFn
  match (w.extractLsb' 0 6).toNat with
  | 0x00 => .ok (.aUdf (w.extractLsb' 6 26))
  | 0x3f => .ok (.aUdf3f (w.extractLsb' 6 26))
  | 0x01 => row (aOp01 fn w)
  | 0x02 => .ok (.aAddi (decAi w))
  | 0x03 => .ok (.aAddhi (decAi w))
  | 0x04 => .ok (.aSlli (decAi w))
  | 0x05 => .ok (.aAndi (decAi w))
  | 0x08 => .ok (.b (decAb w))
  | 0x09 => .ok (.bz (decAb w))
  | 0x0a => .ok (.bnz (decAb w))
  | 0x0b => .ok (.aExit (decAb w))
  | 0x0c => .ok (.nest (decAn w))
  | 0x0d => if w.extractLsb' 26 2 = 0 then .ok (.bind (w.extractLsb' 23 3) (decAr w)) else .error .reservedField
  | 0x10 => .ok (.ldq (decAm w))
  | 0x11 => .ok (.stq (decAm w))
  | 0x12 => .ok (.ldt (decAm w))
  | 0x13 => .ok (.stt (decAm w))
  | 0x14 => .ok (.lda (decAm w))
  | 0x15 => .ok (.sta (decAm w))
  | 0x18 => .ok (.cp (decAn w))
  | 0x19 => .ok (.mcast (decAn w))
  | 0x1a => .ok (.gat (decAn w))
  | 0x1b => .ok (.sct (decAn w))
  | 0x1c => .ok (.kvg (decAn w))
  | 0x1d => .ok (.kva (decAn w))
  | 0x1e => .ok (.kvc (decAn w))
  | 0x20 => .ok (.aTw (decAn w))
  | 0x21 => .ok (.aTwa (decAn w))
  | 0x22 => .ok (.aTclr (decAn w))
  | 0x24 => row (aOp24 fn w)
  | 0x25 => row (aOp25 fn w)
  | 0x26 => .ok (.aFence (decAn w))
  | 0x28 => .ok (.nbCopy (decAn w))
  | 0x29 => .ok (.nbZero (decAn w))
  | 0x2a => .ok (.nbAxpy (decAn w))
  | 0x2b => .ok (.nbRun (decAn w))
  | 0x2c => row (aOp2c (w.extractLsb' 29 3).toNat w)
  | 0x2d => .ok (.nbFence (decAn w))
  | 0x2e => .ok (.nbStat (decAn w))
  | 0x2f => .ok (.nbProg (decAn w))
  | 0x30 => row (aOp30 (w.extractLsb' 23 4).toNat w)
  | 0x31 => .ok (.collAbort (decAn w))
  | 0x32 => .ok (.collAtt (decAn w))
  | 0x34 => .ok (.pf (decAm w))
  | 0x35 => .ok (.aPause (decAi w))
  | _ => .error .unallocatedOp

/-- The A-stream instruction of a word. -/
noncomputable def decodeA (w : BitVec 32) : Except DecodeError Instr :=
  match aCandidate w with
  | .error e => .error e
  | .ok i => if encode i = .aWord w ∧ wellFormed i then .ok i else .error .reservedField

/-! ### The near-bank unit (09 Table 09-2) -/

/-- The row of a microinstruction's opcode [15:12]. -/
noncomputable def nbuCandidate (w : BitVec 16) : Except DecodeError Instr :=
  let d := w.getLsbD 11
  let s := w.getLsbD 10
  match (w.extractLsb' 12 4).toNat with
  | 0 => .ok (.nbuEnd)
  | 1 => .ok (.nbuLdx d)
  | 2 => .ok (.nbuLdy d)
  | 3 => .ok (.nbuSty s)
  | 4 => .ok (.nbuAdd d s)
  | 5 => .ok (.nbuMul d s)
  | 6 => .ok (.nbuMax d s)
  | 7 => .ok (.nbuScl d)
  | 8 => .ok (.nbuFill d)
  | 9 => .ok (.nbuFma d s)
  | 10 => .ok (.nbuAccy s)
  | 11 => .ok (.nbuAxpy s)
  | _ => .error .unallocatedOp

/-- The microinstruction of a halfword; `[9:0]` and a `d` or `s` the row does not use must be zero (09 R235). -/
noncomputable def decodeMicro (w : BitVec 16) : Except DecodeError Instr :=
  match nbuCandidate w with
  | .error e => .error e
  | .ok i => if encode i = .micro w then .ok i else .error .reservedField

/-! ### Bytes (00 R2: little-endian) -/

/-- The number that bytes, lowest address first, spell. -/
def leNat : List Byte → Nat
  | [] => 0
  | b :: bs => b.toNat + 256 * leNat bs

/-- `n` bytes of a number, lowest address first. -/
def leBytes : Nat → Nat → List Byte
  | 0, _ => []
  | n + 1, v => BitVec.ofNat 8 v :: leBytes n (v / 256)

/-- Cut bytes into 64-bit words; an incomplete last word is dropped. -/
def wordsOf : Nat → List Byte → List (BitVec 64)
  | 0, _ => []
  | n + 1, bs => if 8 ≤ bs.length then BitVec.ofNat 64 (leNat (bs.take 8)) :: wordsOf n (bs.drop 8) else []

/-- Decode the X stream at the head of a byte list. -/
def decodeXBytes (bs : List Byte) : Except DecodeError Instr :=
  match wordsOf 9 bs with
  | [] => .error .missing
  | w :: ws => decodeX w ws

/-- Decode the A stream at the head of a byte list. -/
noncomputable def decodeABytes (bs : List Byte) : Except DecodeError Instr :=
  if 4 ≤ bs.length then decodeA (BitVec.ofNat 32 (leNat (bs.take 4))) else .error .missing

/-- Decode a microinstruction at the head of a byte list. -/
noncomputable def decodeMicroBytes (bs : List Byte) : Except DecodeError Instr :=
  if 2 ≤ bs.length then decodeMicro (BitVec.ofNat 16 (leNat (bs.take 2))) else .error .missing

/-- Bytes that the instruction occupies in its stream. -/
def instrBytes (i : Instr) : Nat :=
  match encode i with
  | .xWords ws => 8 * ws.length
  | .aWord _ => 4
  | .micro _ => 2
  | .step => 0

/-- The opcode table's numbering: an instruction of `nbits` bits whose bits are `w`; bits above `nbits` are zero.
A 16-bit row is a near-bank microinstruction, a 32-bit row an A-stream word, a longer row an X-stream word. -/
noncomputable def decodeTableWord (nbits w : Nat) : Option Instr :=
  (if nbits ≤ 16 then decodeMicroBytes (leBytes 2 (w % 2 ^ nbits))
   else if nbits ≤ 32 then decodeABytes (leBytes 4 (w % 2 ^ nbits))
   else decodeXBytes (leBytes 72 (w % 2 ^ nbits))).toOption

end Sys2Proof
end

