-- ==== Sys2Proof/Machine/Table.lean ====
section
/-! DEFINITION. Tables: finite maps from numbers to data, held as lists with strictly rising keys, so that equal maps are
equal lists; and the plain bit and number helpers that the machine shares. -/

namespace Sys2Proof.Machine

/-- A finite map: pairs with strictly rising keys. -/
abbrev Table (α : Type) := List (Nat × α)

/-- The entry under a key. -/
def tget {α : Type} (t : Table α) (k : Nat) : Option α :=
  match t with
  | [] => none
  | (j, v) :: r => if j == k then some v else if k < j then none else tget r k

/-- Enter or replace. -/
def tset {α : Type} (t : Table α) (k : Nat) (v : α) : Table α :=
  match t with
  | [] => [(k, v)]
  | (j, u) :: r => if j == k then (k, v) :: r else if k < j then (k, v) :: (j, u) :: r else (j, u) :: tset r k v

/-- Remove. -/
def tdel {α : Type} (t : Table α) (k : Nat) : Table α :=
  match t with
  | [] => []
  | (j, u) :: r => if j == k then r else if k < j then (j, u) :: r else (j, u) :: tdel r k

/-- Every key is at least `lo`, and keys rise strictly. -/
def tableFrom {α : Type} (lo : Nat) (t : Table α) : Bool :=
  match t with
  | [] => true
  | (j, _) :: r => decide (lo ≤ j) && tableFrom (j + 1) r

/-- The bits `[hi:lo]` of a number (00 R2). -/
def bits (v hi lo : Nat) : Nat := (v >>> lo) % 2 ^ (hi + 1 - lo)

/-- A number with its bits `[hi:lo]` replaced. -/
def putBits (v hi lo x : Nat) : Nat :=
  v - (bits v hi lo) * 2 ^ lo + (x % 2 ^ (hi + 1 - lo)) * 2 ^ lo

/-- The signed value of the low `w` bits of a number. -/
def signed (w v : Nat) : Int :=
  let u := v % 2 ^ w
  if 2 ^ w ≤ 2 * u then (u : Int) - (2 ^ w : Nat) else u

/-- `Wrap` to `w` bits (03 R62), as the pattern's number. -/
def wrap (w : Nat) (v : Int) : Nat := (v % ((2 ^ w : Nat) : Int)).toNat

/-- The least power of two exponent: `floor(log2 n)` for `n > 0`. -/
def log2 (n : Nat) : Nat := Nat.log2 n

/-- The number spelled by bytes, lowest address first (00 R2). -/
def ofBytes : List Byte → Nat
  | [] => 0
  | b :: bs => b.toNat + 256 * ofBytes bs

/-- The `n` low bytes of a number, lowest address first (00 R2). -/
def toBytes : Nat → Nat → List Byte
  | 0, _ => []
  | n + 1, v => BitVec.ofNat 8 v :: toBytes n (v / 256)

/-- The numbers from `a`, `n` of them. -/
def from' (a : Nat) : Nat → List Nat
  | 0 => []
  | n + 1 => a :: from' (a + 1) n

/-- Replace one element of a list. -/
def setAt {α : Type} : List α → Nat → α → List α
  | [], _, _ => []
  | _ :: r, 0, v => v :: r
  | x :: r, n + 1, v => x :: setAt r n v

end Sys2Proof.Machine
end

