-- ==== Sys2Proof/Machine/Numbers.lean ====
section
/-! DEFINITION. Number formats, exact values and rounding (03 R60-R69, R72). Types are the codes of 02 Table 02-4. -/

namespace Sys2Proof.Machine

/-! ### Types (02 Table 02-4, 03 R60, R62) -/

/-- Width of a type in bits. -/
def tyWidth (t : Nat) : Nat := [8, 16, 32, 64, 8, 16, 32, 64, 16, 16, 32, 64, 8, 8, 4, 4].getD t 8

/-- Whether a type is an integer type, and whether it is signed. -/
def tyInt (t : Nat) : Bool := decide (t < 8) || t == 15
def tySigned (t : Nat) : Bool := decide (t < 4) || t == 15
def tyFloat (t : Nat) : Bool := decide (8 ≤ t) && decide (t < 14)

/-- Fraction bits and bias of a floating type (03 Table 03-1). -/
def tyFrac (t : Nat) : Nat := [10, 7, 23, 52, 3, 2].getD (t - 8) 0
def tyBias (t : Nat) : Nat := [15, 127, 127, 1023, 7, 15].getD (t - 8) 0

/-- The biased exponent of infinities and NaNs. -/
def tyTop (t : Nat) : Nat := 2 ^ (tyWidth t - 1 - tyFrac t) - 1

/-- Infinity, the default NaN, the largest finite value, and the sign bit, as patterns. -/
def infPat (t : Nat) : Nat := tyTop t * 2 ^ tyFrac t
def nanPat (t : Nat) : Nat := infPat t + 2 ^ (tyFrac t - 1)
def maxPat (t : Nat) : Nat := infPat t - 1
def signBit (t : Nat) : Nat := 2 ^ (tyWidth t - 1)

/-- A pattern with a sign. -/
def withSign (t : Nat) (neg : Bool) (p : Nat) : Nat := if neg then p + signBit t else p

/-- The value of an integer pattern (03 R62). -/
def decInt (t p : Nat) : Int := if tySigned t then signed (tyWidth t) p else ((p % 2 ^ tyWidth t : Nat) : Int)

/-- Least and greatest value of an integer type. -/
def minInt (t : Nat) : Int := if tySigned t then -((2 ^ (tyWidth t - 1) : Nat) : Int) else 0
def maxIntOf (t : Nat) : Int := if tySigned t then ((2 ^ (tyWidth t - 1) : Nat) : Int) - 1 else ((2 ^ tyWidth t : Nat) : Int) - 1

/-- `Sat` (03 R62), as a pattern. -/
def sat (t : Nat) (v : Int) : Nat := wrap (tyWidth t) (max (minInt t) (min (maxIntOf t) v))

/-- `Wrap` (03 R62), as a pattern. -/
def wrapT (t : Nat) (v : Int) : Nat := wrap (tyWidth t) v

/-! ### Flags (03 Table 03-5) -/

abbrev Flags := BitVec 5
def flagNV : Flags := 16
def flagDZ : Flags := 8
def flagOF : Flags := 4
def flagUF : Flags := 2
def flagNX : Flags := 1

/-! ### Exact values -/

/-- What a floating pattern decodes to (03 R60, R61): a NaN with its sign, whether it is signalling, its fraction and the
fraction's width; an infinity; a signed zero; a nonzero rational `n / d` with its sign. -/
inductive FV where
  | nan (neg sig : Bool) (frac width : Nat)
  | inf (neg : Bool)
  | zero (neg : Bool)
  | fin (neg : Bool) (n d : Nat)
  deriving DecidableEq, Repr

/-- `m × 2 ^ e` as a fraction. -/
def scaled (m : Nat) (e : Int) : Nat × Nat := if 0 ≤ e then (m * 2 ^ e.toNat, 1) else (m, 2 ^ (-e).toNat)

/-- `Decode` of a floating type (03 R60). -/
def decF (t p : Nat) : FV :=
  let f := tyFrac t
  let fr := p % 2 ^ f
  let e := p / 2 ^ f % 2 ^ (tyWidth t - 1 - f)
  let neg := p / signBit t % 2 == 1
  if e = tyTop t then
    if fr = 0 then .inf neg else .nan neg (fr < 2 ^ (f - 1)) fr f
  else if e = 0 then
    if fr = 0 then .zero neg
    else let (n, d) := scaled fr (1 - tyBias t - f); .fin neg n d
  else let (n, d) := scaled (2 ^ f + fr) ((e : Int) - tyBias t - f); .fin neg n d

def FV.isNaN : FV → Bool
  | .nan .. => true
  | _ => false

def FV.isSig : FV → Bool
  | .nan _ s _ _ => s
  | _ => false

def FV.neg : FV → FV
  | .nan n s f w => .nan n s f w
  | .inf n => .inf !n
  | .zero n => .zero !n
  | .fin n a b => .fin (!n) a b

/-- The magnitude of a value. -/
def FV.abs : FV → FV
  | .nan n s f w => .nan n s f w
  | .inf _ => .inf false
  | .zero _ => .zero false
  | .fin _ a b => .fin false a b

/-- An integer as an exact value; zero is +0. -/
def FV.ofInt (v : Int) : FV := if v = 0 then .zero false else .fin (v < 0) v.natAbs 1

/-- The signed fraction of a finite value. -/
def FV.frac : FV → Int × Nat
  | .fin neg n d => (if neg then -(n : Int) else n, d)
  | _ => (0, 1)

/-- A value from a signed fraction, given the sign that a zero takes. -/
def FV.ofFrac (n : Int) (d : Nat) (zeroNeg : Bool) : FV := if n = 0 then .zero zeroNeg else .fin (n < 0) n.natAbs d

/-- Quiet a NaN and convert it to type `t` (03 R61). -/
def quietTo (t : Nat) (neg : Bool) (frac width : Nat) : Nat :=
  let q := if frac % 2 ^ width < 2 ^ (width - 1) then frac + 2 ^ (width - 1) else frac
  let f := tyFrac t
  withSign t neg (infPat t + (if width ≤ f then q * 2 ^ (f - width) else q / 2 ^ (width - f)))

/-! ### Rounding (03 R66, R67) -/

/-- `RoundInt` of `n / d`: codes 0 RNE, 1 RTZ, 2 RDN, 3 RUP, 4 RNA (02 Table 02-5). -/
def roundInt (rm : Nat) (neg : Bool) (n d : Nat) : Nat :=
  let q := n / d
  let r := n % d
  let up := match rm with
    | 0 => decide (d < 2 * r) || (decide (2 * r = d) && q % 2 == 1)
    | 1 => false
    | 2 => neg && r != 0
    | 3 => !neg && r != 0
    | _ => decide (d ≤ 2 * r)
  if up then q + 1 else q

/-- `floor(log2(n / d))`. -/
def floorLog (n d : Nat) : Int :=
  let k : Int := (Nat.log2 n : Int) - Nat.log2 d
  let (a, b) := if 0 ≤ k then (n, d * 2 ^ k.toNat) else (n * 2 ^ (-k).toNat, d)
  if b ≤ a then k else k - 1

/-- `RoundInt((n / d) / 2 ^ q)`. -/
def roundAt (rm : Nat) (neg : Bool) (n d : Nat) (q : Int) : Nat :=
  if 0 ≤ q then roundInt rm neg n (d * 2 ^ q.toNat) else roundInt rm neg (n * 2 ^ (-q).toNat) d

/-- Whether `i × 2 ^ q` equals `n / d`. -/
def sameAs (i : Nat) (q : Int) (n d : Nat) : Bool :=
  if 0 ≤ q then i * 2 ^ q.toNat * d == n else i * d == n * 2 ^ (-q).toNat

/-- `Overflow` (03 Table 03-4). -/
def overflow (t rm : Nat) (neg saturate : Bool) : Nat :=
  let toInf := rm == 0 || rm == 4 || (rm == 2 && neg) || (rm == 3 && !neg)
  withSign t neg (if toInf && !saturate then infPat t else maxPat t)

/-- `RoundTo`, or `RoundSat` with `saturate`, of a nonzero magnitude `n / d` (03 R66, R67). -/
def roundMag (t rm : Nat) (saturate neg : Bool) (n d : Nat) : Nat × Flags :=
  let f := tyFrac t
  let emin : Int := 1 - tyBias t
  let eu := floorLog n d
  let e := max eu emin
  let q := e - f
  let i := roundAt rm neg n d q
  let mag := if i < 2 ^ f then i else ((e + tyBias t).toNat - 1) * 2 ^ f + i
  if infPat t ≤ mag then (overflow t rm neg saturate, flagOF ||| flagNX)
  else
    let exact := sameAs i q n d
    let iu := roundAt rm neg n d (eu - f)
    let tiny := decide (eu < emin) && !(decide (eu + 1 = emin) && decide (iu = 2 ^ (f + 1)))
    (withSign t neg mag, if exact then 0 else if tiny then flagNX ||| flagUF else flagNX)

/-- `RoundTo` and `RoundSat` of an exact value that is not a NaN. -/
def roundV (t rm : Nat) (saturate : Bool) : FV → Nat × Flags
  | .nan neg _ frac w => (quietTo t neg frac w, 0)
  | .inf neg => (withSign t neg (infPat t), 0)
  | .zero neg => (withSign t neg 0, 0)
  | .fin neg n d => roundMag t rm saturate neg n d

/-! ### Exact arithmetic (03 R65) -/

/-- A product; none is invalid. -/
def mulV : FV → FV → Option FV
  | .inf a, .inf b => some (.inf (a != b))
  | .inf _, .zero _ => none
  | .zero _, .inf _ => none
  | .inf a, .fin b _ _ => some (.inf (a != b))
  | .fin a _ _, .inf b => some (.inf (a != b))
  | .zero a, .zero b => some (.zero (a != b))
  | .zero a, .fin b _ _ => some (.zero (a != b))
  | .fin a _ _, .zero b => some (.zero (a != b))
  | .fin a n d, .fin b m e => some (.fin (a != b) (n * m) (d * e))
  | x, .nan .. => some x
  | .nan a s f w, _ => some (.nan a s f w)

def FV.sign : FV → Bool
  | .nan n _ _ _ => n
  | .inf n => n
  | .zero n => n
  | .fin n _ _ => n

def FV.isInf : FV → Bool
  | .inf _ => true
  | _ => false

def FV.isZero : FV → Bool
  | .zero _ => true
  | _ => false

/-- Add signed fractions. -/
def addFrac (a b : Int × Nat) : Int × Nat := if a.2 = b.2 then (a.1 + b.1, a.2) else (a.1 * b.2 + b.1 * a.2, a.2 * b.2)

/-- An exact sum of terms (03 Table 03-3); none is invalid. -/
def sumV (rm : Nat) (ts : List FV) : Option FV :=
  if ts.any FV.isInf then
    if ts.any (fun t => t.isInf && t.sign) ∧ ts.any (fun t => t.isInf && !t.sign) then none
    else some (.inf (ts.any (fun t => t.isInf && t.sign)))
  else
    let (n, d) := ts.foldl (fun s t => addFrac s t.frac) ((0, 1) : Int × Nat)
    let allZero := ts.all FV.isZero
    let zneg := if allZero && ts.all FV.sign then true else if allZero && ts.all (fun t => !t.sign) then false else rm == 2
    some (FV.ofFrac n d zneg)

/-- A quotient with its flag; none is invalid. -/
def divV : FV → FV → Option FV × Flags
  | .inf _, .inf _ => (none, 0)
  | .zero _, .zero _ => (none, 0)
  | .inf a, y => (some (.inf (a != y.sign)), 0)
  | x, .inf b => (some (.zero (x.sign != b)), 0)
  | .zero a, y => (some (.zero (a != y.sign)), 0)
  | x, .zero b => (some (.inf (x.sign != b)), flagDZ)
  | .fin a n d, .fin b m e => (some (.fin (a != b) (n * e) (d * m)), 0)
  | x, _ => (some x, 0)

/-- The result of an operation on floating operands (03 R68): the first NaN operand quieted, the default NaN when the
exact result is invalid (`res` none), or the rounded result. `inv` tells that a part of it was invalid. -/
def finish (t rm : Nat) (saturate : Bool) (ops : List FV) (inv : Bool) (fl : Flags) (res : Option FV) : Nat × Flags :=
  match ops.find? FV.isNaN with
  | some (.nan neg _ frac w) =>
    (quietTo t neg frac w, if ops.any FV.isSig || inv then flagNV else 0)
  | _ =>
    match res with
    | none => (nanPat t, flagNV)
    | some v => let (p, g) := roundV t rm saturate v; (p, fl ||| g)

/-- `a × b + c` rounded once; operand order is a, b, c (03 R68). `negP`, `negC` negate the product and the addend. -/
def fusedV (t rm : Nat) (negP negC : Bool) (a b c : FV) : Nat × Flags :=
  let p := if a.isNaN || b.isNaN then some (.zero false) else mulV a b
  let inv := p.isNone
  let res := p.bind (fun p => sumV rm [if negP then p.neg else p, if negC then c.neg else c])
  finish t rm false [a, b, c] inv 0 res

/-- `fmin` and `fmax` (04 R90, 03 Table 03-3) on patterns. -/
def minMax (t : Nat) (isMax : Bool) (pa pb : Nat) : Nat × Flags :=
  let a := decF t pa
  let b := decF t pb
  let fl : Flags := if a.isSig || b.isSig then flagNV else 0
  match a, b with
  | .nan neg _ f w, .nan .. => (quietTo t neg f w, fl)
  | .nan .., _ => (pb, fl)
  | _, .nan .. => (pa, fl)
  | _, _ =>
    let le : Bool := match a, b with
      | .inf true, _ => true
      | _, .inf false => true
      | .inf false, _ => false
      | _, .inf true => false
      | .zero x, .zero y => x || !y
      | x, y => let (n, d) := x.frac; let (m, e) := y.frac; decide (n * e ≤ m * d)
    (if isMax then (if le then pb else pa) else (if le then pa else pb), fl)

/-- Compare two values that are not NaNs: less, and equal (−0 equals +0). -/
def ltV (a b : FV) : Bool :=
  match a, b with
  | .inf x, .inf y => x && !y
  | .inf x, _ => x
  | _, .inf y => !y
  | x, y => let (n, d) := x.frac; let (m, e) := y.frac; decide (n * e < m * d)

def eqV (a b : FV) : Bool :=
  match a, b with
  | .inf x, .inf y => x == y
  | .inf _, _ => false
  | _, .inf _ => false
  | x, y => let (n, d) := x.frac; let (m, e) := y.frac; decide (n * e = m * d)

/-- `ToInt` (03 R69). -/
def toInt (t rm : Nat) : FV → Nat × Flags
  | .nan .. => (0, flagNV)
  | .inf neg => (wrapT t (if neg then minInt t else maxIntOf t), flagNV)
  | .zero _ => (0, 0)
  | .fin neg n d =>
    let k := roundInt rm neg n d
    let v : Int := if neg then -(k : Int) else k
    if v < minInt t ∨ maxIntOf t < v then (sat t v, flagNV)
    else (wrapT t v, if k * d = n then 0 else flagNX)

/-- Floating to floating conversion (03 R61, R69). -/
def cvtF (t s rm : Nat) (saturate : Bool) (p : Nat) : Nat × Flags :=
  let v := decF s p
  finish t rm saturate [v] false 0 (some v)

/-! ### Square roots -/

/-- Integer square root by bisection over bits; `fuel` bounds the bits. -/
def isqrt (n : Nat) : Nat :=
  (List.range (Nat.log2 n / 2 + 1)).reverse.foldl (fun r i => if (r + 2 ^ i) * (r + 2 ^ i) ≤ n then r + 2 ^ i else r) 0

/-- A value that rounds as the square root of `n / d` does: exact, or an odd multiple of a place far below any rounding. -/
def sqrtQ (n d : Nat) : Nat × Nat :=
  let k := 80 + (Nat.log2 d - Nat.log2 n) / 2 + 1
  let y := isqrt (n * 4 ^ k / d)
  if y * y * d = n * 4 ^ k then (y, 2 ^ k) else (2 * y + 1, 2 ^ (k + 1))

/-! ### The j4 block format (03 R63, R64) -/

/-- E2M1 magnitudes in halves (03 Table 03-2). -/
def e2m1 (c : Nat) : Nat := [0, 1, 2, 3, 4, 6, 8, 12].getD (c % 8) 0

/-- `DecodeE5M3` as a fraction; 0xFF is a NaN and has none. -/
def e5m3 (b : Nat) : Nat × Nat :=
  if b / 8 = 0 then (b % 8, 2 ^ 17) else scaled (8 + b % 8) ((b / 8 : Nat) - 18)

/-- The unscaled value of an element (03 R64): sign and magnitude in eighths. -/
def j4Raw (code special : Nat) : Bool × Nat :=
  if code = 8 ∧ special ≠ 0x80 then (decide (128 ≤ special), special % 128)
  else (decide (8 ≤ code % 16), 4 * e2m1 code)

/-- `DecodeJ4` of one element (03 R64). -/
def decJ4 (code scale special : Nat) : FV :=
  if scale = 0xFF then .nan false false (2 ^ 22) 23
  else
    let (neg, m) := j4Raw code special
    let (n, d) := e5m3 scale
    if m * n = 0 then .zero neg else .fin neg (m * n) (8 * d)

end Sys2Proof.Machine
end

