-- ==== Sys2Proof/Machine/State.lean ====
section
/-! DEFINITION. The state of a GV4 package as plain data (01; INVENTORY.md, State), its reset value, and the reasons a
step can stop. A table lists only what differs from the value that its docstring names. -/

namespace Sys2Proof.Machine

/-! ### Register files and memories -/

/-- A register file of `w`-bit registers. A register that is not listed reads zero while `undef` is false, and is
undefined (00 R7) while `undef` is true. -/
structure Regs (w : Nat) where
  cells : Table (BitVec w)
  undef : Bool
  deriving DecidableEq, Repr

/-- Bytes by address. An unlisted byte reads zero with `fill` none, and `Config.freeByte e` of its address with `fill`
some `e`: contents that became undefined at epoch `e` (log 2). `bad` lists the check words, by address div 8, whose code
does not fit, with their syndrome (13 R326): a listed syndrome is not zero. -/
structure Memory where
  cells : List Host.Cell
  fill : Option Nat
  bad : Table (BitVec 8)
  deriving DecidableEq, Repr

/-- A check word on its way: its value and the syndrome of its code, zero when the code fits (07 R169). -/
structure CWord where
  v : Word
  syn : BitVec 8
  deriving DecidableEq, Repr

/-! ### Core stores (01 R16, R17, R23): one per context and logical position -/

/-- Bank modes (07 Table 07-3). -/
inductive BankMode where
  | scratch | skew | cache | fifo
  deriving DecidableEq, Repr

/-- A logical bank: mode, FIFO use (0 queues, 1 deferral, 2 ingress), skew shape code, bytes by offset, and the KV page
that its physical bank holds (11 R280). -/
structure Bank where
  mode : BankMode
  use : Nat
  shape : Nat
  data : Memory
  page : Option Nat
  deriving DecidableEq, Repr

/-- A copy tag (08 R206). -/
structure Tag where
  pend : Nat
  done : Bool
  err : Bool
  deriving DecidableEq, Repr

/-- An entry of the deferral queue (05 R125): its four check words, the word with bits [63:0] of Table 05-8 first. -/
abbrev DeferEntry := List CWord

/-- What a context holds at one logical position: sixteen banks, queues q0-q15 (unlisted: empty), the words of ingress
windows by bank, the deferral queue, copy tags (unlisted: PEND 0, DONE 1, ERR 0). -/
structure Store where
  banks : List Bank
  queues : Table (List CWord)
  windows : Table (List CWord)
  defer : List DeferEntry
  tags : Table Tag
  deriving DecidableEq, Repr

/-! ### One core (01 Table 01-2) -/

/-- A register with a latency window (04 R79). -/
inductive RegName where
  | x (i : Nat)
  | p (i : Nat)
  deriving DecidableEq, Repr

/-- A latency window: reads of `reg` before cycle `close` are undefined (04 R79); `flags` still have to reach FPFLAGS. -/
structure Window where
  reg : RegName
  close : Nat
  flags : BitVec 5
  deriving DecidableEq, Repr

/-- An entry of the return stack (04 R98): its 64 bits and the syndrome of its check word. -/
abbrev RetEntry := CWord

/-- Why the X or A stream raised a leave request (10 R245). -/
inductive AskKind where
  /-- A trap, violation or translation fault with its cause (10 Table 10-2). -/
  | fault (cause : Nat)
  /-- `ctx.yield`. -/
  | yield
  /-- `ctx.xfer` to the context in a slot, with the register of its status. -/
  | xfer (slot : Nat) (d : Nat)
  /-- `ev.wait` with vector word, `any`, mask and hint (10 R261). -/
  | wait (word : Nat) (any : Bool) (mask : Word) (hint : Nat)
  /-- Pre-emption by the scheduler; `deadline`: a deadline launch displaces the context, whose frames may use DLRESERVE (01 R22). -/
  | preempt (deadline : Bool)
  /-- An asynchronous command's violation or error (12 R381). -/
  | late (cause : Nat)
  deriving DecidableEq, Repr

/-- A leave request with what its park record would hold (10 Table 10-3), whether the stream has passed the word that it names, as one
that an engine was working at (12 R315), and the time of its word's issue. -/
structure Ask where
  kind : AskKind
  pos : Nat
  aStream : Bool
  word : Word
  addr : Word
  data : Word
  tcode : BitVec 32
  passed : Bool
  time : Nat
  deriving DecidableEq, Repr

/-- An access that waits for an answer: of a blocking X word, or of a word of the A stream (08 R193-R195, R201, R217; 14 R356, R357).
Stores go as bytes, or as whole check words with their codes (13 R329); an `stq` takes its words from the queue when it ends. -/
inductive GlobalKind where
  | load (d : Nat)
  | store (bytes : List Byte)
  | storeWords (ws : List CWord)
  | amo (d : Nat) (op : Nat) (ty : Nat) (b c : Word)
  | lda (d : Nat)
  | ldq (q n : Nat)
  | ldt (t : Nat)
  | stq (q : Nat) (ws : List CWord)
  | stt (t : Nat) (ws : List CWord)
  | prog (n : Nat)
  deriving DecidableEq, Repr

/-- An access under way: its virtual and physical address and size in bytes. -/
structure GlobalAccess where
  kind : GlobalKind
  va : Word
  pa : Nat
  size : Nat
  deriving DecidableEq, Repr

/-- Why a stream issues no word. -/
inductive Hold where
  /-- It issues. -/
  | none
  /-- A queue word whose condition does not hold (10 R277). -/
  | queue
  /-- A leave request waits for the scheduler (10 R245). -/
  | asking
  /-- A `pause` (08 R224): the cycle at which it ends; in a saved frame, the cycles still to run. -/
  | paused (n : Nat)
  /-- A blocking access has no answer yet. -/
  | access (g : GlobalAccess)
  deriving DecidableEq, Repr

/-- Full-empty state of a tile register (06 R133, 08 R194). -/
inductive TileState where
  | empty | full | reserved
  deriving DecidableEq, Repr

/-- A queued vector command with its snapshots (05 R108); `seq` orders it among matrix commands (06 R151). `op`, `fn` are the
word's; `acc` holds the lane partials of a reduction, or the running value of a `vscan` in entry 0; `held`, by queue number, the
computed words that still go into a destination queue. `took`, by queue number, are the words popped from source queues since the
window's start, which a replay uses again (13 R335, R337); `ready` the elements past the cursor with which the window could end at a
wait on a queue word (05 R131). -/
structure VCmd where
  seq : Nat
  op : Nat
  fn : Nat
  r : Xs
  links : List Xl
  dd : Desc
  da : Desc
  db : Desc
  dx : Desc
  linkSpans : List Desc
  scalar : Word
  linkScalars : List Word
  word : Word
  addr : Word
  started : Bool
  frozen : Bool
  cursor : Nat
  acc : Table Nat
  held : Table (List Word)
  took : Table (List CWord)
  ready : Nat
  flags : BitVec 5
  result : Option Word
  deriving DecidableEq, Repr

/-- A level of the loop-nest table (06 Table 06-2). -/
structure NestLevel where
  count : BitVec 32
  astep : BitVec 32
  bstep : BitVec 32
  ostep : BitVec 32
  asrc : BitVec 32
  bsrc : BitVec 32
  deriving DecidableEq, Repr

/-- The matrix commands (06 R151). -/
inductive MKind where
  | go | zero | drain | cfg | tset | tclr
  deriving DecidableEq, Repr

/-- A queued matrix command with its snapshots (06 R151). `cursor` counts steps done; `touched` the accumulators that
`mm.zero` has cleared; `release` the tiles to set empty at the granule's end; `granFlags` the flags of the granule;
`check` is the checkpoint of a granule under way: `touched` and the accumulators at its start; `fetched` the words of its store and
global operands, each with its name, by address, with 2^64 added in store space (06 R146). `seen` is what memory and the core stores
held at issue, so that a step tells the bytes that a program writes before the command completes (06 R151; log 54). `arg` is the mode bit of
`mm.cfg` and the tile of `tset` and `tclr`; `amax` the value that a drain will write. -/
structure MCmd where
  seq : Nat
  kind : MKind
  r : Xr
  rm : Nat
  arg : Nat
  nest : List NestLevel
  baseA : Word
  baseB : Word
  word : Word
  addr : Word
  started : Bool
  frozen : Bool
  cursor : Nat
  granStart : Nat
  touched : List Nat
  release : List Nat
  check : Option (List Nat × Memory)
  fetched : Table (Nat × CWord)
  seen : Option (Memory × Table Store)
  granFlags : BitVec 5
  flags : BitVec 5
  amax : Option Word
  deriving DecidableEq, Repr

/-- A level of the A stream's nest sequencer (08 R188): inactive levels are not listed. -/
structure ALevel where
  start : Word
  stop : Word
  idx : Nat
  count : Nat
  deriving DecidableEq, Repr

/-- A bind: at its level, register `d` takes `inc` each iteration (08 R189). -/
structure Bind where
  level : Nat
  d : Nat
  inc : Word
  deriving DecidableEq, Repr

/-- Where an uncommitted `ldq` or `ldt` delivers (08 R193, R194). -/
inductive LoadDest where
  | queue (q : Nat) (words : List CWord)
  | tile (t : Nat) (data : List CWord)
  deriving DecidableEq, Repr

/-- An issued `ldq` or `ldt` that has not committed, with the state that its abandonment restores (08 R196, R197). -/
structure PendLoad where
  dest : LoadDest
  pc : Word
  a : Regs 64
  nest : Table ALevel
  binds : List Bind
  deriving DecidableEq, Repr

/-- An issued A-stream `amo` or a local `ramo` whose result is not yet written (08 R218, R220). -/
structure PendAmo where
  d : Nat
  value : Word
  status : Option (BitVec 2)
  flags : BitVec 5
  deriving DecidableEq, Repr

/-- A core's registers and engines. -/
structure Core where
  /-- The context table slot whose launch is placed here, and the logical position (row × 64 + column). -/
  ctx : Option Nat
  pos : Nat
  xpc : Word
  apc : Word
  /-- The words last fetched by the two streams: what a park record shows (10 Table 10-3). Model's own (log 7). -/
  xir : Word
  air : Word
  x : Regs 64
  p : Regs 1
  sp : Regs 128
  a : Regs 64
  xflags : BitVec 5
  aflags : BitVec 5
  wins : List Window
  xcycle : Nat
  rstack : List RetEntry
  spilled : Nat
  spillbase : BitVec 32
  xhold : Hold
  ahold : Hold
  xexited : Bool
  aexited : Bool
  vq : List VCmd
  mq : List MCmd
  shadow : List NestLevel
  active : List NestLevel
  redundant : Bool
  tfull : Table TileState
  tdata : Memory
  adata : Memory
  levels : Table ALevel
  binds : List Bind
  nbprog : List (BitVec 16)
  loads : List PendLoad
  amos : List PendAmo
  xclk : List Nat
  aclk : List Nat
  xbad : Table (BitVec 8)
  /-- The words that failed in the current window of the span or row engine, and in that of the matrix engine, the latest first,
  by address or name, with the syndrome of a word that has no address (13 R336). -/
  strike : List (Nat × BitVec 8)
  mstrike : List (Nat × BitVec 8)
  /-- Whether the watchdog of the span or row engine, and that of the matrix engine, has fired in the current window (13 R341). -/
  vdog : Bool
  mdog : Bool
  /-- Whether the item at PC of each stream has mismatched once and runs again (13 R339, R340). -/
  xdoubt : Bool
  adoubt : Bool
  /-- The command of the last matrix granule that ended, with its checkpoint (13 Table 13-5, drain lane). -/
  lastGran : Option MCmd
  /-- The barrier at which the X stream's `bar.sync` has arrived and waits (10 R276). -/
  syncing : Option Nat
  deriving DecidableEq, Repr

/-- Reset values of a nest level (06 Table 06-2). -/
def NestLevel.reset : NestLevel := { count := 1, astep := 0, bstep := 0, ostep := 0, asrc := 0, bsrc := 0 }

/-- A core after power-on reset: no context; registers whose reset value the spec does not give are zero (log 1). -/
def Core.reset : Core where
  ctx := none
  pos := 0
  xpc := 0
  apc := 0
  xir := 0
  air := 0
  x := { cells := [], undef := false }
  p := { cells := [], undef := false }
  sp := { cells := [], undef := false }
  a := { cells := [], undef := false }
  xflags := 0
  aflags := 0
  wins := []
  xcycle := 0
  rstack := []
  spilled := 0
  spillbase := 0
  xhold := .none
  ahold := .none
  xexited := false
  aexited := false
  vq := []
  mq := []
  shadow := List.replicate 6 NestLevel.reset
  active := List.replicate 6 NestLevel.reset
  redundant := false
  tfull := []
  tdata := { cells := [], fill := none, bad := [] }
  adata := { cells := [], fill := none, bad := [] }
  levels := []
  binds := []
  nbprog := []
  loads := []
  amos := []
  xclk := [0, 0, 0, 0, 0]
  aclk := [0, 0, 0, 0, 0]
  xbad := []
  strike := []
  mstrike := []
  vdog := false
  mdog := false
  xdoubt := false
  adoubt := false
  lastGran := none
  syncing := none

/-! ### Contexts (01 R27-R29; 10) -/

/-- Context states (01 R29); a free slot has no context. -/
inductive CtxState where
  | running | ready | parked | swapped
  deriving DecidableEq, Repr

/-- A launch record as snapshotted (10 Table 10-4), with its image descriptor (10 Table 10-11): live mask and spans. -/
structure LaunchRec where
  ncase : Nat
  node : Nat
  weight : Nat
  level : Nat
  cls : Nat
  handle : BitVec 32
  rect : BitVec 18
  xentry : Word
  aentry : Word
  args : Word
  deadline : Nat
  wait : BitVec 256
  set : BitVec 256
  cond : Word
  succ0 : BitVec 32
  succ1 : BitVec 32
  live : BitVec 20
  spans : Table Desc
  deriving DecidableEq, Repr

/-- The address space in which a record is named (10 R251): a context's ASID and domain, or the physical memory that a domain
may reach. -/
inductive Space where
  | virt (dom asid : Nat)
  | phys (dom : Nat)
  deriving DecidableEq, Repr

/-- An armed node (10 R251, R252): identified by its record's physical address. `ready` is its place in the order of
becoming ready, while it waits for placement or evaluation; `latch`: a `while` node with an empty WAIT that has been
evaluated and waits for the next setting of a bit (10 R253). -/
structure Node where
  pa : Nat
  va : Nat
  space : Space
  record : LaunchRec
  ready : Option Nat
  latch : Bool
  deriving DecidableEq, Repr

/-- A successor record whose arming waits for a pool link that is down (10 R251; 14 R356): the domain whose supervisor hears of a
rejection, and where the record is read. -/
structure Link where
  dom : Nat
  space : Space
  va : Nat
  deriving DecidableEq, Repr

/-- The launch that has been placed and has not ended: its node, frames by logical position while it is off its cores,
whether they lie in the chrysalis store, the physical origin while placed, times of start and of this run. `fresh` is when a deadline
launch became ready, until its first X word (13 Table 13-11). -/
structure Launch where
  nodePa : Nat
  record : LaunchRec
  frames : Table Core
  inHbm : Bool
  origin : Nat
  started : Nat
  since : Nat
  fresh : Option Nat
  deriving DecidableEq, Repr

/-- A wait of `ev.wait` (10 R261) by a stream at a logical position. -/
structure EvWait where
  pos : Nat
  word : Nat
  any : Bool
  mask : Word
  deriving DecidableEq, Repr

/-- A named barrier of a context (10 R275, R276): the arrivals of the current phase, the phase number, and for each position
the phase of its last arrival. -/
structure Barrier where
  arrived : Nat
  phase : Nat
  last : Table Nat
  deriving DecidableEq, Repr

/-- A context. `cb` is its control block's physical address. `leave` is the accepted leave; `asks` those that have
reached the scheduler after none or after it. `order` is its place among those that became ready, `woken` the time at which a wait of it
was last satisfied, `readied` that at which it last became ready,
`pbudget` the pre-emption budget read at placement, `pagesOf` the KV page whose promotion a PAGES park waits for (12 R305).
`parkCause` is the cause of a park that only `ctx.sev` or a promotion ends, `parkPassed` that the stream has passed the word which
its record names (12 R315). `barAt` holds the descriptor that is installed in
barrier K of a logical position, by position × 512 + K; `bars` the barriers by K × 2^31 + descriptor. -/
structure Ctx where
  state : CtxState
  asid : Nat
  span : Bool
  tdom : Nat
  super : Bool
  cb : Nat
  events : BitVec 256
  evWait : Option EvWait
  timer : Option Nat
  launch : Option Launch
  nodes : List Node
  barAt : Table Word
  bars : Table Barrier
  asks : List Ask
  leave : Option Ask
  parkCause : Nat
  parkPassed : Bool
  parkedAt : Nat
  woken : Nat
  readied : Nat
  order : Nat
  pbudget : Nat
  pagesOf : Option Nat
  deriving DecidableEq, Repr

/-! ### Asynchronous engines (08 R205-R216, 09, 08 R221) -/

/-- Commands that a stream pushes to an engine. -/
inductive EngKind where
  | cp | mcast | gat | sct | kvg | kva | kvc | nbCopy | nbZero | nbAxpy | nbRun | nbAmo | coll
  deriving DecidableEq, Repr

/-- A segment still to be performed: `len` bytes from operand address `src` to operand address `dst` (08 R205), the
latter at the logical position `pos`; `idx` is its place in the command: a byte offset, an element's number, or a byte of
the layer's rows. Of an element `src` is the entry that names it, and `dst` the byte of its slot at which the segment starts. `zero` marks rows past the committed length (08 R214). -/
structure Seg where
  idx : Nat
  src : Word
  dst : Word
  len : Nat
  pos : Nat
  zero : Bool
  deriving DecidableEq, Repr

/-- A fix-up entry (08 R210): its segment, and whether a promotion of a KV page resolves it. -/
structure Fixup where
  seg : Seg
  promote : Option Nat
  deriving DecidableEq, Repr

/-- One member's part of a collective (08 R221, 13 R345): the number of members and its rank, what it has received by rank,
and when; `group` is a `groupKey`; whether rank 0 has sent the close token, whether it has come, whether the attempt was aborted. -/
structure CollPart where
  op : Nat
  ty : Nat
  reach : Bool
  count : Nat
  group : Nat
  root : Nat
  attempt : Nat
  size : Nat
  rank : Nat
  got : Table (List CWord)
  since : Nat
  sent : Bool
  closed : Bool
  aborted : Bool
  deriving DecidableEq, Repr

/-- A pushed command. `segs` are the segments not yet performed; `items` the near-bank items forwarded and not yet done;
`frozen` holds PDATA of its violation; `strike` the segments whose landing lanes met an uncorrectable word once, with the
word's address; `fired` whether its watchdog has fired since its last segment (13 R341); `base` a KV command's cursor at its start; `rect` the partition of the launch that pushed it. -/
structure EngCmd where
  id : Nat
  kind : EngKind
  slot : Nat
  instar : Nat
  pos : Nat
  launch : Nat
  tag : Nat
  scope : Nat
  op : Nat
  dst : Word
  src : Word
  cnt : Word
  prog : List (BitVec 16)
  word : Word
  addr : Word
  segs : List Seg
  fixups : List Fixup
  items : Nat
  invalid : Bool
  err : Bool
  frozen : Option Word
  strike : List (Seg × Nat)
  fired : Bool
  base : Nat
  rect : Nat
  flags : BitVec 5
  coll : Option CollPart
  deriving DecidableEq, Repr

/-- An entry of an `nb.amo` item (09 R237): its number in the list, the physical address of its target, and its operand. -/
structure NbEntry where
  idx : Nat
  at_ : Nat
  val : Word
  deriving DecidableEq, Repr

/-- A near-bank item (09 R227, R237): command, row number, physical addresses of its two rows, suspensions so far. `buffer` is
the base-die row buffer that it holds, with the source row once that has been read (09 R231); `entries` are those of an atomic group: consecutive
entries of the list on one row. -/
structure NbItem where
  cmd : Nat
  row : Nat
  src : Nat
  dst : Nat
  suspends : Nat
  started : Bool
  buffer : Option (List CWord)
  entries : List NbEntry
  deriving DecidableEq, Repr

/-- A near-bank unit (09 R225): its item queue, its accumulators as 256 words each (none: a word that depends on one which
cannot be corrected, 09 R243), microprogram store and counter, and whether it is suspended. `since` is when its next step
became ready (09 R240); `fired` whether its watchdog has fired since its last step (13 R341). -/
structure NbUnit where
  queue : List NbItem
  ba0 : List (Option Word)
  ba1 : List (Option Word)
  store : List (BitVec 16)
  upc : Nat
  suspended : Bool
  since : Nat
  fired : Bool
  deriving DecidableEq, Repr

/-- A request in a bank's queue (11 R294): row, time of entry, page number, and whether it goes before the next near-bank step that holds
the bank (09 R240). -/
structure BankReq where
  row : Nat
  since : Nat
  pn : Nat
  owed : Bool
  deriving DecidableEq, Repr

/-- One HBM4E stack's controller and MSC slice (11 R291-R293): counters by row × 4096 + index, the working and published
lists of (page number, estimate), the filter bits set, misses since the last clear, the lines allocated. -/
structure Stack where
  sketch : Table Nat
  working : List (Nat × Nat)
  top : List (Nat × Nat)
  since : Nat
  filter : List Nat
  misses : Nat
  lines : List Nat
  deriving DecidableEq, Repr

/-- A move of a KV page (11 R286): its old directory entry, the entry that it installs, where it goes, when it started. -/
structure Move where
  kvpn : Nat
  old : Word
  entry : Word
  tier : Nat
  loc : Nat
  t0 : Nat
  demotion : Bool
  deriving DecidableEq, Repr

/-- A fenced old location (11 R286): tier, LOC, domain of its page, and the time at which the last lease ends. -/
structure Fence where
  tier : Nat
  loc : Nat
  dom : Nat
  kvpn : Nat
  ends : Nat
  deriving DecidableEq, Repr

/-- A directory lease of a die (11 R285); `held`: the die still holds the copy in its cache of 1,024 entries (11 R284). -/
structure DirLease where
  die : Nat
  kvpn : Nat
  entry : Word
  ends : Nat
  held : Bool
  deriving DecidableEq, Repr

/-- A store home (17 R375): the bank pair of a context's store that a page returns to. -/
structure Home where
  slot : Nat
  pos : Nat
  bank : Nat
  deriving DecidableEq, Repr

/-! ### Ports, recovery, configuration -/

/-- A remote atomic under way (08 R220): sends so far, times of the first send and of the last send or busy answer, and whether
the last answer was busy; the issuing word, its address and the virtual address it names. -/
structure RamoOut where
  id : Nat
  slot : Nat
  pos : Nat
  d : Nat
  req : BitVec 16
  retry : Bool
  pkg : Nat
  op : Nat
  wide : Bool
  addr : Nat
  b : Word
  sends : Nat
  first : Nat
  last : Nat
  busy : Bool
  word : Word
  at_ : Word
  va : Word
  deriving DecidableEq, Repr

/-- The last answer that the package gave to the host or to another package (13 R333; 14 R353, R357; 08 R220): a completion with
its EP bit, check words, an accepted write, a refusal, a busy answer, an atomic's answer. -/
inductive Reply where
  | data (ep : Bool) (bytes : List Byte)
  | words (ws : List CWord)
  | done
  | refused
  | busy
  | ramo (a : RamoAnswer)
  deriving DecidableEq, Repr

/-- An attestation report (12 R323): the nonce, the module's serial number and the package number, the digest of the boot firmware, the type, version
and digest of each record in use, the anti-rollback counters with the firmware's, the domain layout, and the two signatures. -/
structure Attest where
  nonce : BitVec 256
  serial : BitVec 128
  pkg : Nat
  digest : BitVec 384
  records : List (Nat × Nat × BitVec 384)
  counters : Table Nat
  fw : Nat
  layout : Table (BitVec 4)
  edSig : BitVec 512
  mlSig : BitVec 26472
  deriving DecidableEq, Repr

/-- A completion record of the dedup window (13 R347). -/
structure Dedup where
  src : Nat
  id : BitVec 16
  wide : Bool
  old : Word
  ends : Nat
  deriving DecidableEq, Repr

/-- A ring of fault records (13 R349): the records it holds, oldest first, how many were ever written, how many lost. -/
structure Ring where
  recs : List (BitVec 256)
  written : Nat
  lost : Nat
  deriving DecidableEq, Repr

/-- A monitor (13 R350). -/
structure Monitor where
  min : Nat
  max : Nat
  count : Nat
  sum : Nat
  bins : List Nat
  deriving DecidableEq, Repr

/-- The bulk context that is first in its domain's bulk order, since when, and the origin of the rectangle chosen for it once a whole
QUANTUM has passed (10 R262). -/
structure BulkFirst where
  slot : Nat
  since : Nat
  origin : Option Nat
  deriving DecidableEq, Repr

/-- A tenancy domain (12 R308): its dies, supervisor's slot, system registers (12 Table 12-3), scheduler parameters, the bulk context
that waits first, host launch port (14 Table 14-3), the unresolved faults of redundant mode by core, accumulators and cursor (06 R160), residency port (14 R355), monitors (unlisted: cleared), the counts of monitors 9 and
10 in the interval under way, fault ring. -/
structure Dom where
  dies : BitVec 4
  super : Option Nat
  tgt : BitVec 32
  tgtcore : BitVec 14
  foff : Nat
  fstat : Nat
  kvfree : Nat
  asidtab : Nat
  sched : SchedCfg
  bulkFirst : Option BulkFirst
  fifo : List Nat
  reject : Nat
  ovf : Nat
  lastStatus : Nat
  lastAddr : Nat
  unresolved : List (Nat × List Nat × Nat)
  resReq : List Nat
  resStatus : Nat
  kvFrames : List Nat
  monitors : Table Monitor
  tally : Table Nat
  ring : Ring
  deriving DecidableEq, Repr

/-- An entry of a translation cache (12 R302), leaf or not, with its level and the first address of the range it covers. -/
structure Tlb where
  dom : Nat
  asid : Nat
  lvl : Nat
  base : Nat
  entry : Word
  deriving DecidableEq, Repr

/-- The highest attempt that a collective group has completed or aborted (08 R222); `group` is a `groupKey`. -/
structure CollGroup where
  slot : Nat
  group : Nat
  highest : Nat
  deriving DecidableEq, Repr

/-- Who takes a step (log 7). -/
inductive Turn where
  /-- The X stream of the core with this physical index. -/
  | x (core : Nat)
  /-- The A stream of that core. -/
  | a (core : Nat)
  /-- The near-bank unit of a bank: its next microinstruction. -/
  | nbu (bank : Nat)
  /-- A step of the device at that core. -/
  | at (core : Nat) (i : Instr)
  deriving DecidableEq, Repr

/-- A checkpoint image (13 R348): the tenancy layout, HBM4E with the directory tables in it, the core stores with the banks
that hold them, the context table, the cursors of asynchronous commands; the frames stand in the contexts. -/
structure Image where
  layout : Table (BitVec 4)
  mem : Memory
  dir : Table Word
  moves : List Move
  moveQueue : List Move
  fences : List Fence
  homes : Table Home
  stores : Table Store
  bound : Table Nat
  ctxs : Table Ctx
  links : List Link
  instars : Table Nat
  cmds : List EngCmd
  deriving DecidableEq, Repr

/-! ### The package -/

/-- The state of a package. -/
structure State where
  /-- The core in focus: the one whose streams or engines move now; `here` is its physical index (row × 64 + column). -/
  core : Core
  here : Nat
  /-- The other cores by physical index; an unlisted core is as `Core.reset`. -/
  cores : Table Core
  /-- Store state by context slot × 4096 + logical position (01 R23). -/
  stores : Table Store
  /-- Where the banks of a store are bound: physical index of the core; unlisted: not bound in place (01 R22). -/
  bound : Table Nat
  ctxs : Table Ctx
  /-- INSTAR of each table slot; unlisted: 0 (01 R27). -/
  instars : Table Nat
  /-- Nodes armed in order of arming are in each context; this counts becoming ready, to order queues (10 R252). -/
  orders : Nat
  /-- Successor records whose arming waits for a pool link. -/
  links : List Link
  mem : Memory
  /-- Translation caches by physical cluster (12 R302). -/
  tlb : Table (List Tlb)
  cmds : List EngCmd
  nextId : Nat
  units : Table NbUnit
  reqs : Table (List BankReq)
  /-- The row that each bank holds open; unlisted: none. -/
  openRow : Table Nat
  hbm : Table Stack
  /-- Directory entries by KVPN; unlisted: TIER 3, PREF 1 (11 R284). -/
  dir : Table Word
  leases : List DirLease
  moves : List Move
  /-- Requested moves that wait for a place among the 16 of their die, for a faulted page, or for a fence (11 R286, R289). -/
  moveQueue : List Move
  fences : List Fence
  homes : Table Home
  /-- Time of the latest paced demotion start of each domain × 65536 + ASID (11 R288). -/
  paced : Table Nat
  doms : Table Dom
  pkg : Nat
  lease : Nat
  res : ResCfg
  ports : PortCfg
  groups : List CollGroup
  ramos : List RamoOut
  dedup : List Dedup
  /-- Flow entries by port × 64 + index, and SEQ of each flow (14 R359). -/
  flows : Table (BitVec 256)
  flowSeq : Table Nat
  portDrops : Table Nat
  /-- Ports whose link is down (14 R356): CXL ports 0-3, UALink ports 8-15, with the time it went down. -/
  down : Table Nat
  /-- Scrub tags by address div 8 (13 R343): the word as read, and whether a directed scrub read it. -/
  scrubTags : Table (CWord × Bool)
  directed : List Nat
  patrol : Nat
  pkgRing : Ring
  pkgMonitors : Table Monitor
  withdrawn : List Nat
  flash : List FlashRecord
  flashFw : Nat
  fwDigest : BitVec 384
  counters : Table Nat
  attests : List Attest
  /-- The records in use (12 R321). -/
  inUse : List FlashRecord
  /-- The persistent log (14 R365). -/
  plog : List (BitVec 256)
  reply : Option Reply
  /-- Checkpoint images by their base in the pool (13 R348). -/
  images : Table Image
  quiesced : Bool
  step : Nat
  recovery : Bool
  ready : Bool
  apbase : Nat
  pAsked : BitVec 2
  pNow : BitVec 2
  hot : Bool
  shut : Bool
  synced : Bool
  /-- The time base has been locked since reset (14 R358). -/
  locked : Bool
  ptp : Nat
  cycle : Nat
  /-- Model's own (log 7): the bank whose unit moves, whether the step under way is to be taken again, steps taken, and who moves
  next. -/
  bankHere : Nat
  again : Bool
  tick : Nat
  agenda : List Turn
  deriving DecidableEq, Repr

/-- A fault ring with nothing in it. -/
def Ring.reset : Ring := { recs := [], written := 0, lost := 0 }

/-- Scheduler parameters at their defaults (10 Table 10-6). -/
def SchedCfg.default : SchedCfg := { horizon := 20000, quantum := 1000000, pbudget := 3000, dlreserve := 16777216 }

/-- Residency parameters at their defaults, with the directory bases that the model names (11 Table 11-4; log 5). -/
def ResCfg.default : ResCfg where
  dirbase := [0x40000000, 0x2040000000, 0x4040000000, 0x6040000000]
  dlease := 4000
  dstore := 2000000
  dpool := 20000000
  dpace := 1000000
  plead := 1000000
  skint := 1000000
  mscwin := 65536
  agecap := 1500
  hreserve := 2147483648

/-- The state right after power-on reset, before bring-up (14 R363): nothing placed, nothing created, memory zero. Values
marked cfg, which records load, are those of log 5; other values the spec does not give are those of logs 1, 3 and 6. -/
def State.reset : State where
  core := Core.reset
  here := 0
  cores := []
  stores := []
  bound := []
  ctxs := []
  instars := []
  orders := 0
  links := []
  mem := { cells := [], fill := none, bad := [] }
  tlb := []
  cmds := []
  nextId := 0
  units := []
  reqs := []
  openRow := []
  hbm := []
  dir := []
  leases := []
  moves := []
  moveQueue := []
  fences := []
  homes := []
  paced := []
  doms := []
  pkg := 0
  lease := 64
  res := ResCfg.default
  ports := { segs := [], wins := [], transport := 0 }
  groups := []
  ramos := []
  dedup := []
  flows := []
  flowSeq := []
  portDrops := []
  down := []
  scrubTags := []
  directed := []
  patrol := 0
  pkgRing := Ring.reset
  pkgMonitors := []
  withdrawn := []
  flash := []
  flashFw := 0
  fwDigest := 0
  counters := []
  attests := []
  inUse := []
  plog := []
  reply := none
  images := []
  quiesced := false
  step := 0
  recovery := false
  ready := false
  apbase := 0
  pAsked := 0
  pNow := 0
  hot := false
  shut := false
  synced := false
  locked := false
  ptp := 0
  cycle := 0
  bankHere := 0
  again := false
  tick := 0
  agenda := []

/-! ### How a step stops -/

/-- Why the machine stops. -/
inductive Fault where
  /-- The module has shut down (14 R365): raised by `step` alone, before anything is fetched. Safe: nothing runs on. -/
  | shutDown
  deriving DecidableEq, Repr

/-- Why the model gives no meaning. -/
inductive Refusal where
  /-- An instruction not modelled yet: raised by its arm in Dispatch. Safe: nothing runs on. -/
  | notModelled (mnemonic : String)
  deriving DecidableEq, Repr

end Sys2Proof.Machine
end

