-- ==== Sys2Proof/Machine/Ops.lean ====
section
/-! DEFINITION. Named operations over registers, memories, check words, streams and the taking of an exception. -/

namespace Sys2Proof.Machine

/-! ### Register files -/

/-- Read a register; `slot` tells undefined reads of one step apart (00 R7). -/
def Regs.get {w : Nat} (r : Regs w) (i tick slot : Nat) : BitVec w :=
  match tget r.cells i with
  | some v => v
  | none => if r.undef then Config.freeBits w tick slot else 0

/-- Write a register. -/
def Regs.put {w : Nat} (r : Regs w) (i : Nat) (v : BitVec w) : Regs w :=
  { r with cells := if v = 0 ∧ r.undef = false then tdel r.cells i else tset r.cells i v }

/-- Keys rise strictly, and no listed register holds what an unlisted one reads as. -/
def Regs.wf {w : Nat} (r : Regs w) : Bool :=
  tableFrom 0 r.cells && (r.undef || r.cells.all (fun c => decide (c.2 ≠ 0)))

/-- Every register undefined. -/
def Regs.undefined (w : Nat) : Regs w := { cells := [], undef := true }

/-! ### The check code (13 R325-R327) -/

/-- The 8-bit patterns of weight three in rising order: the columns W[0] to W[55] (13 R325). -/
def hsiaoW : List Nat :=
  (List.range 256).filter (fun v => decide (((List.range 8).filter (fun i => v.testBit i)).length = 3))

/-- The column of a data bit (13 R325, Table 13-1). -/
def hsiaoCol (i : Nat) : BitVec 8 :=
  if i < 56 then BitVec.ofNat 8 (hsiaoW.getD i 0)
  else BitVec.ofNat 8 ([0xF8, 0xF1, 0xE3, 0xC7, 0x8F, 0x1F, 0x3E, 0x7C].getD (i - 56) 0)

/-- `Code` of a word (13 R325). -/
def hsiaoCode (d : Word) : BitVec 8 :=
  (List.range 64).foldl (fun c i => if d.getLsbD i then c ^^^ hsiaoCol i else c) 0

/-- The bits to invert for a syndrome, or none when the word cannot be corrected (13 Table 13-2). -/
def syndromeFix (z : BitVec 8) : Option Word :=
  if z = 0 then some 0
  else if (List.range 8).any (fun i => z = BitVec.twoPow 8 i) then some 0
  else ((List.range 64).find? (fun i => z = hsiaoCol i)).map (fun i => BitVec.twoPow 64 i)

/-- What a consuming lane makes of a check word (13 R326, R331): its value, or none for a containment event. -/
def CWord.use (c : CWord) : Option Word := if c.syn = 0 then some c.v else (syndromeFix c.syn).map (fun m => c.v ^^^ m)

/-- A word with a valid code. -/
def CWord.good (v : Word) : CWord := { v := v, syn := 0 }

/-- A word with the code that came with it (13 R326, R329). -/
def CWord.coded (w : CodedWord) : CWord := { v := w.1, syn := hsiaoCode w.1 ^^^ w.2 }

/-- A poisoned word (13 R327). -/
def CWord.poison : CWord := { v := 0, syn := 0xFF }

/-! ### Memories -/

/-- The byte at an address. -/
def Memory.byte (m : Memory) (a : Nat) : Byte :=
  match tget m.cells a with
  | some b => b
  | none => match m.fill with
    | none => 0
    | some e => Config.freeByte e a

/-- Write one byte. -/
def Memory.setByte (m : Memory) (a : Nat) (b : Byte) : Memory :=
  { m with cells := if b = 0 ∧ m.fill = none then tdel m.cells a else tset m.cells a b }

/-- The canonical form: addresses rise strictly, nothing listed equals what an unlisted byte reads as when that is zero,
and listed syndromes are not zero. -/
def Memory.wf (m : Memory) : Bool :=
  tableFrom 0 m.cells && (m.fill.isSome || m.cells.all (fun c => decide (c.2 ≠ 0))) &&
    tableFrom 0 m.bad && m.bad.all (fun c => decide (c.2 ≠ 0))

/-- `n` bytes from an address upwards. -/
def Memory.bytes (m : Memory) (a : Nat) : Nat → List Byte
  | 0 => []
  | n + 1 => m.byte a :: m.bytes (a + 1) n

/-- Write bytes from an address upwards. -/
def Memory.setBytes (m : Memory) (a : Nat) : List Byte → Memory
  | [] => m
  | b :: r => (m.setByte a b).setBytes (a + 1) r

/-- Set the syndrome of the check word of address div 8 `k`. -/
def Memory.setSyn (m : Memory) (k : Nat) (z : BitVec 8) : Memory :=
  { m with bad := if z = 0 then tdel m.bad k else tset m.bad k z }

/-- The check word at an aligned address. -/
def Memory.word (m : Memory) (a : Nat) : CWord :=
  { v := BitVec.ofNat 64 (ofBytes (m.bytes a 8)), syn := (tget m.bad (a / 8)).getD 0 }

/-- Write a check word, code and all. -/
def Memory.setWord (m : Memory) (a : Nat) (c : CWord) : Memory :=
  (m.setBytes a (toBytes 8 c.v.toNat)).setSyn (a / 8) c.syn

/-- Consecutive check words. -/
def Memory.words (m : Memory) (a : Nat) : Nat → List CWord
  | 0 => []
  | n + 1 => m.word a :: m.words (a + 8) n

/-- Write consecutive check words. -/
def Memory.setWords (m : Memory) (a : Nat) : List CWord → Memory
  | [] => m
  | c :: r => (m.setWord a c).setWords (a + 8) r

/-- A lane's read of `n` bytes: their values after correction, or the address of the first word it contains. -/
def Memory.lane (m : Memory) (a n : Nat) : Except Nat (List Byte) :=
  if m.bad = [] then .ok (m.bytes a n)
  else (from' a n).foldr (fun i r =>
    match (m.word (i / 8 * 8)).use with
    | none => .error (i / 8 * 8)
    | some v => match r with
      | .error e => .error e
      | .ok bs => .ok (v.extractLsb' (i % 8 * 8) 8 :: bs)) (.ok [])

/-- A lane's store: words wholly covered take a new code; a word partly covered is read, corrected and merged, and if it
cannot be corrected nothing is written (07 R169). Answers the address of such a word. -/
def Memory.store (m : Memory) (a : Nat) (bs : List Byte) : Except Nat Memory :=
  if m.bad = [] then .ok (m.setBytes a bs)
  else
    let ks := (from' (a / 8) ((a + bs.length + 7) / 8 - a / 8))
    match ks.find? (fun k => !(decide (a ≤ 8 * k) && decide (8 * k + 8 ≤ a + bs.length)) && (m.word (8 * k)).use.isNone) with
    | some k => .error (8 * k)
    | none => .ok ((ks.foldl (fun m k => m.setWord (8 * k) (CWord.good ((m.word (8 * k)).use.getD 0))) m).setBytes a bs)

/-! ### Contexts, cores and stores -/

/-- The context whose launch is on the core in focus, with its slot. -/
def State.here? (s : State) : Option (Nat × Ctx) :=
  match s.core.ctx with
  | none => none
  | some k => (tget s.ctxs k).map (fun c => (k, c))

/-- Replace a context. -/
def State.setCtx (s : State) (k : Nat) (c : Ctx) : State := { s with ctxs := tset s.ctxs k c }

/-- The core with a physical index. -/
def State.coreAt (s : State) (i : Nat) : Core := if i = s.here then s.core else (tget s.cores i).getD Core.reset

/-- Replace the core with a physical index. -/
def State.setCoreAt (s : State) (i : Nat) (c : Core) : State :=
  if i = s.here then { s with core := c } else { s with cores := tset s.cores i c }

/-- Bring a core in focus. -/
def State.focus (s : State) (i : Nat) : State :=
  if i = s.here then s
  else { s with core := s.coreAt i, here := i, cores := tset (tdel s.cores i) s.here s.core }

/-- The key of a context's store at a logical position. -/
def storeKey (slot pos : Nat) : Nat := slot * 4096 + pos

/-- A bank at first placement with its contents (01 R17). -/
def Bank.fresh (m : Memory) (k : Nat) : Bank :=
  { mode := if k = 15 then .fifo else .scratch, use := 0, shape := 0, data := m, page := none }

/-- Memory that the device has cleared: zero words. -/
def Memory.zero : Memory := { cells := [], fill := none, bad := [] }

/-- The epoch of contents that become undefined in this step: the model step, a place and a kind (log 2). -/
def State.epoch (s : State) (place kind : Nat) : Nat := (s.tick * 2 ^ 32 + place) * 32 + kind

/-- The undefined contents of a bank that is bound to a context for the first time: zero words, or what one of the context's own
banks holds (01 R17, 12 R296); which of them is free (log 2). -/
def State.freshData (s : State) (key k : Nat) : Memory :=
  let own := (s.stores.filter (fun t => decide (t.1 / 4096 = key / 4096))).flatMap (fun t => t.2.banks.map (fun b => b.data))
  own.getD ((Config.freeBits 32 (s.epoch key k) (2 ^ 35)).toNat % (own.length + 1)) Memory.zero

/-- Store state of a position on which the context has not run before (01 R17, R23). -/
def State.freshStore (s : State) (key : Nat) : Store where
  banks := (List.range 16).map (fun k => Bank.fresh (s.freshData key k) k)
  queues := []
  windows := []
  defer := []
  tags := []

/-- A context's store at a logical position. -/
def State.storeAt (s : State) (key : Nat) : Store := (tget s.stores key).getD (s.freshStore key)

/-- Replace a store. -/
def State.setStore (s : State) (key : Nat) (t : Store) : State := { s with stores := tset s.stores key t }

/-- The key of the store of the core in focus. -/
def State.ownKey (s : State) : Nat := storeKey (s.core.ctx.getD 0) s.core.pos

/-- The store of the core in focus. -/
def State.own (s : State) : Store := s.storeAt s.ownKey

/-- Replace the store of the core in focus. -/
def State.setOwn (s : State) (t : Store) : State := s.setStore s.ownKey t

/-- A logical bank. -/
def Store.bank (t : Store) (k : Nat) : Bank := t.banks.getD k (Bank.fresh Memory.zero 0)

/-- Replace a logical bank. -/
def Store.setBank (t : Store) (k : Nat) (b : Bank) : Store := { t with banks := setAt t.banks k b }

/-- A copy tag (08 R206). -/
def Store.tag (t : Store) (k : Nat) : Tag := (tget t.tags k).getD { pend := 0, done := true, err := false }

/-- Replace a copy tag. -/
def Store.setTag (t : Store) (k : Nat) (g : Tag) : Store :=
  { t with tags := if g = { pend := 0, done := true, err := false } then tdel t.tags k else tset t.tags k g }

/-- A partition's rectangle coded as in 08 R208: (column, row, width, height). -/
def rectOf (r : Nat) : Nat × Nat × Nat × Nat := (bits r 5 0, bits r 11 6, 2 ^ bits r 14 12, 2 ^ bits r 17 15)

/-- Whether a logical position lies in a coded rectangle. -/
def inRect (r pos : Nat) : Bool :=
  let (c, w, h, v) := rectOf r
  decide (c ≤ pos % 64) && decide (pos % 64 < c + h) && decide (w ≤ pos / 64) && decide (pos / 64 < w + v)

/-- The positions of a coded rectangle in row-major order. -/
def rectCores (r : Nat) : List Nat :=
  let (c, w, h, v) := rectOf r
  (List.range v).flatMap (fun j => (List.range h).map (fun i => (w + j) * 64 + (c + i)))

/-- The rules on partitions (01 R24), less the package-span attribute. -/
def rectOk (r : Nat) : Bool :=
  let (c, w, h, v) := rectOf r
  decide (bits r 14 12 ≤ 6) && decide (bits r 17 15 ≤ 6) && decide (c % h = 0) && decide (w % v = 0) &&
    decide (c + h ≤ 64) && decide (w + v ≤ 64)

/-- The die of a core (01 R12). -/
def dieOf (core : Nat) : Nat := core / 64 / 32 * 2 + core % 64 / 32

/-- The partition of the launch on the core in focus, coded. -/
def State.partition (s : State) : Nat :=
  match s.here? with
  | some (_, c) => match c.launch with
    | some l => l.record.rect.toNat
    | none => 0
  | none => 0

/-! ### Domains and their counts (12 R308; 13 R350) -/

/-- A tenancy domain; an unlisted one has no dies. -/
def State.dom (s : State) (d : Nat) : Option Dom := tget s.doms d

/-- Replace a tenancy domain. -/
def State.setDom (s : State) (d : Nat) (x : Dom) : State := { s with doms := tset s.doms d x }

/-- Count `n` more in the interval under way of a domain's monitor. -/
def State.count (s : State) (d i n : Nat) : State :=
  if n = 0 then s
  else match s.dom d with
    | none => s
    | some x => s.setDom d { x with tally := tset x.tally i ((tget x.tally i).getD 0 + n) }

/-- A syndrome of an error in one bit, which a lane corrects (13 Table 13-2). -/
def fixable (z : BitVec 8) : Bool := decide (z ≠ 0) && (syndromeFix z).isSome

/-- The domain of the context on the core in focus. -/
def State.domHere (s : State) : Nat := (s.here?.map (fun kc => kc.2.tdom)).getD 0

/-- A lane of the core in focus has corrected `n` words of registers, which have no address to post (13 R331). -/
def State.fixed (s : State) (n : Nat) : State := s.count s.domHere 9 n

/-! ### Latency windows (04 R79, R80) -/

/-- Cycles of an LB code (02 R34). -/
def lbCycles (lb : BitVec 3) : Nat := [1, 2, 3, 4, 6, 8, 16, 32].getD lb.toNat 1

/-- Whether a register's window is open. -/
def Core.inWindow (c : Core) (r : RegName) : Bool := c.wins.any (fun w => decide (w.reg = r) && decide (c.xcycle < w.close))

/-- Land every window that has closed: its flags reach FPFLAGS (03 R71). -/
def Core.landDue (c : Core) : Core :=
  { c with
    xflags := (c.wins.filter (fun w => decide (w.close ≤ c.xcycle))).foldl (fun f w => f ||| w.flags) c.xflags
    wins := c.wins.filter (fun w => decide (c.xcycle < w.close)) }

/-- Every result has landed (04 R81): flags reach FPFLAGS; reads in what is left of a window stay undefined. -/
def Core.landAll (c : Core) : Core :=
  { c with xflags := c.wins.foldl (fun f w => f ||| w.flags) c.xflags, wins := c.wins.map (fun w => { w with flags := 0 }) }

/-- What the lanes invert in register x[i]: a register that took a queue word with an error that can be corrected (13
R326, R331). -/
def Core.fixX (c : Core) (i : Nat) : Word :=
  match tget c.xbad i with
  | none => 0
  | some z => (syndromeFix z).getD 0

/-- Whether a lane that consumes x[i] contains it (13 R326, R331). -/
def Core.containedX (c : Core) (i : Nat) : Bool := (tget c.xbad i).any (fun z => (syndromeFix z).isNone)

/-- Read x[i]; `port` tells operand places apart. x0 reads zero (04 R77); inside a window the value is undefined (R79). -/
def State.getX (s : State) (port i : Nat) : Word :=
  if i = 0 then 0
  else if s.core.inWindow (.x i) then Config.freeBits 64 s.tick (1024 * port + i)
  else s.core.x.get i s.tick (1024 * port + i) ^^^ s.core.fixX i

/-- Read p[i]; p0 reads 1 (04 R77). -/
def State.getP (s : State) (port i : Nat) : Bool :=
  if i = 0 then true
  else (if s.core.inWindow (.p i) then Config.freeBits 1 s.tick (1024 * port + 64 + i)
    else s.core.p.get i s.tick (1024 * port + 64 + i)) = 1

/-- Write x[d] at once, with no window. -/
def State.setX (s : State) (d : Nat) (v : Word) : State :=
  if d = 0 then s else { s with core := { s.core with x := s.core.x.put d v, xbad := tdel s.core.xbad d } }

/-- A register's check word as an 8-byte store or a push carries it (13 R329); an undefined value has a valid code (00 R7). -/
def State.rawX (s : State) (port i : Nat) : CWord :=
  if s.core.inWindow (.x i) then CWord.good (s.getX port i)
  else { v := s.getX port i ^^^ s.core.fixX i, syn := (tget s.core.xbad i).getD 0 }

/-- Write a whole check word to x[d], its code with it (08 R202). -/
def State.setRawX (s : State) (d : Nat) (w : CWord) : State :=
  if d = 0 then s
  else { s with core := { s.core with x := s.core.x.put d w.v, xbad := if w.syn = 0 then tdel s.core.xbad d else tset s.core.xbad d w.syn } }

/-- Write x[d] with latency bound code `lb` and flags that land with it (04 R79). -/
def State.putX (s : State) (d : Nat) (v : Word) (lb : BitVec 3) (fl : BitVec 5) : State :=
  let s := s.setX d v
  { s with core := { s.core with wins := s.core.wins ++ [{ reg := .x d, close := s.core.xcycle + lbCycles lb, flags := fl }] } }

/-- Write p[d] with a latency bound. -/
def State.putP (s : State) (d : Nat) (v : Bool) (lb : BitVec 3) (fl : BitVec 5) : State :=
  let s := if d = 0 then s else { s with core := { s.core with p := s.core.p.put d (BitVec.ofBool v) } }
  { s with core := { s.core with wins := s.core.wins ++ [{ reg := .p d, close := s.core.xcycle + lbCycles lb, flags := fl }] } }

/-- The scalar registers that queued vector and matrix commands still have to write (05 R111, 06 R153). -/
def VCmd.pends (v : VCmd) : Option Nat :=
  if v.op = 0x45 ∨ (v.op = 0x54 ∧ v.fn = 1) then some (v.r.sx.toNat % 64) else none

/-- As `VCmd.pends`, for the amax register of a drain. -/
def MCmd.pends (m : MCmd) : Option Nat := if m.kind = .drain ∧ m.r.m.getLsbD 0 then some m.r.b.toNat else none

/-- Steps of one granule (06 R155): code `g` 0 to 5 takes the levels below `g`, code 6 the whole command; commands with no
steps have one granule. -/
def MCmd.granSize (m : MCmd) : Nat :=
  ((m.nest.take m.r.c.toNat).map (fun l => l.count.toNat)).foldl (fun a b => a * b) 1

/-- The number of steps of a command. -/
def MCmd.total (m : MCmd) : Nat :=
  if m.kind = .go ∨ m.kind = .zero then (m.nest.map (fun l => l.count.toNat)).foldl (fun a b => a * b) 1 else 1

/-- The step at which the granule under way ends. -/
def MCmd.granEnd (m : MCmd) : Nat := min m.total ((m.granStart / m.granSize + 1) * m.granSize)

/-- Whether x[i] is pending. -/
def Core.pendingX (c : Core) (i : Nat) : Bool :=
  decide (i ≠ 0) && (c.vq.any (fun v => decide (v.pends = some i)) || c.mq.any (fun m => decide (m.pends = some i)))

/-! ### Taking an exception (10 R245-R247, 12 R304-R307) -/

/-- Raise a leave request (the code of a cause other than TRAP is the model's own: the syndrome of a contained register, or
the mark of a tag wait): the scheduler receives it with what the park record would hold, and the stream stops on its
word. The record is written, the context parked and the frames saved by LEAVE_ACCEPT and FRAME_SAVE (10 R245, R247). -/
def State.raiseLeave (s : State) (aStream : Bool) (kind : AskKind) (data : Word) (tcode : BitVec 32) : State :=
  match s.here? with
  | none => s
  | some (k, c) =>
    let ask : Ask :=
      { kind := kind, pos := s.core.pos, aStream := aStream,
        word := if aStream then s.core.air else s.core.xir,
        addr := if aStream then s.core.apc else s.core.xpc, data := data, tcode := tcode, passed := false, time := s.ptp }
    let t := s.setCtx k { c with asks := c.asks ++ [ask] }
    { t with core := if aStream then { s.core with ahold := .asking } else { s.core with xhold := .asking } }

/-- Causes of 10 Table 10-2. -/
def causeIll : Nat := 1
def causeViol : Nat := 2
def causePages : Nat := 3
def causeData : Nat := 4
def causeArith : Nat := 5
def causeStack : Nat := 6
def causeBudget : Nat := 7
def causeTrap : Nat := 8
def causeCheck : Nat := 9
def causeWdog : Nat := 10

/-! ### The return stack (04 R98-R101) -/

/-- Fields of SPILLBASE (04 Table 04-10). -/
def Core.spLines (c : Core) : Nat := (c.spillbase.extractLsb' 24 8).toNat
def Core.spBank (c : Core) : Nat := (c.spillbase.extractLsb' 15 4).toNat
def Core.spLine (c : Core) : Nat := (c.spillbase.extractLsb' 6 9).toNat

/-- Lines of the spill area: those past the end of the bank are not part of it (04 R99). -/
def Core.spSize (c : Core) : Nat := min (c.spLine + c.spLines) 512 - c.spLine

/-- The bytes of the bank that holds the spill area. -/
def State.spillMem (s : State) : Memory := (s.own.bank s.core.spBank).data

/-- Read the newest spilled line back as the eight oldest on-core entries (04 R101); `m` is the area's bank. -/
def Core.refill (m : Memory) (c : Core) : Core :=
  { c with
    rstack := c.rstack ++ (m.words ((c.spLine + (c.spilled - 1)) * 64) 8).reverse
    spilled := c.spilled - 1
    xcycle := c.xcycle + 8 }

/-- The entry `k` places below the top, wherever it lies. -/
def Core.entryAt (m : Memory) (c : Core) (k : Nat) : Option RetEntry :=
  if k < c.rstack.length then c.rstack[k]?
  else
    let j := k - c.rstack.length
    if j < 8 * c.spilled then some (m.word ((c.spLine + (c.spilled - 1 - j / 8)) * 64 + (7 - j % 8) * 8)) else none

/-- Pop one entry, refilling first when none is on the core (04 R101). -/
def Core.pop (m : Memory) (c : Core) : Core :=
  let c := if c.rstack = [] ∧ 0 < c.spilled then c.refill m else c
  { c with rstack := c.rstack.drop 1 }

def isCount (w : Word) : Bool := w.extractLsb' 60 4 = 0b1100#4
def isReturn (w : Word) : Bool := w.extractLsb' 63 1 = 0#1

/-- What the stack's lanes take an entry for: corrected where it can be, its bits as they stand where it cannot (log 44). -/
def CWord.value (e : CWord) : Word := e.use.getD e.v

/-- The loop frame on top of the stack: start, end, iterations to run (04 Table 04-9). -/
def Core.topLoop (m : Memory) (c : Core) : Option (Word × Word × Nat) :=
  match c.entryAt m 0 with
  | none => none
  | some e =>
    if isCount e.value then
      let st := match c.entryAt m 1 with | some t => t.value &&& 0x00FFFFFFFFFFFFFF#64 | none => 0
      some (st, st + 8 * (BitVec.zeroExtend 64 (e.value.extractLsb' 32 16) - 1), (e.value.extractLsb' 0 32).toNat)
    else none

/-- What a word leaves of the stack, with the entries that its lanes corrected; or the syndrome of an entry that it consumes
and that cannot be corrected (04 R101). -/
abbrev Stacked := Except (BitVec 8) (Core × Nat)

/-- The same after `k` corrections more. -/
def Stacked.more (k : Nat) (r : Stacked) : Stacked :=
  match r with
  | .error z => .error z
  | .ok (c, n) => .ok (c, n + k)

/-- The check of the `n` topmost entries, which a word pops or steps (04 R101): the corrections, or the syndrome of the first
that cannot be corrected. -/
def Core.checkTop (m : Memory) (c : Core) (n : Nat) : Except (BitVec 8) Nat :=
  ((List.range n).filterMap (c.entryAt m)).foldr (fun e r => match r with
    | .error z => if e.use.isNone then .error e.syn else .error z
    | .ok k => if e.use.isNone then .error e.syn else .ok (if fixable e.syn then k + 1 else k)) (.ok 0)

/-- A count entry with one iteration fewer, as the scalar lane writes it (04 R96). -/
def lessOne (w : Word) : RetEntry := CWord.good (w.extractLsb' 32 32 ++ (w.extractLsb' 0 32 - 1))

/-- Step the loop frames whose end word has just completed (04 R96); `fuel` bounds the frames that share it. A frame whose
entries are all spilled is read back when it steps, as for a pop (log 44). -/
def Core.loopStep (m : Memory) (at_ : Word) : Nat → Core → Stacked
  | 0, c => .ok (c, 0)
  | fuel + 1, c =>
    match c.topLoop m with
    | none => .ok (c, 0)
    | some (st, en, n) =>
      if en = at_ then
        match c.checkTop m 2 with
        | .error z => .error z
        | .ok k =>
          let c := if c.rstack = [] then c.refill m else c
          if n ≠ 1 then
            .ok ({ c with
              xpc := st
              rstack := match c.rstack with
                | e :: r => lessOne e.value :: r
                | [] => [] }, k)
          else Stacked.more k (Core.loopStep m at_ fuel ((c.pop m).pop m))
      else .ok (c, 0)

/-- The most frames one word can end: as many as the stack can hold. -/
def Core.depth (c : Core) : Nat := c.rstack.length + 8 * c.spilled + 1

/-- A word of `len` words completes: PC goes on, and loop frames that end there step (04 R96). The end of a frame meets the
last of a chain's words; a frame that ends at a chain's header or at an earlier link does not step (log 44). -/
def Core.complete (m : Memory) (len : Nat) (c : Core) : Stacked :=
  let last := c.xpc + BitVec.ofNat 64 (8 * (len - 1))
  Core.loopStep m last c.depth { c with xpc := last + 8, xdoubt := false }

/-- Discard loop frames whose bodies do not hold the target of a taken branch (04 R97). -/
def Core.leaveLoops (m : Memory) (target : Word) : Nat → Core → Stacked
  | 0, c => .ok (c, 0)
  | fuel + 1, c =>
    match c.topLoop m with
    | none => .ok (c, 0)
    | some (st, en, _) =>
      if st.toNat ≤ target.toNat ∧ target.toNat ≤ en.toNat then .ok (c, 0)
      else match c.checkTop m 2 with
        | .error z => .error z
        | .ok k => Stacked.more k (Core.leaveLoops m target fuel ((c.pop m).pop m))

/-! ### Words of the X stream -/

/-- How a word ends. -/
inductive WordEnd where
  /-- It completes; the stream goes on to the next word. -/
  | done (s : State)
  /-- A taken transfer. -/
  | jump (s : State) (pc : Word)
  /-- A trap, violation or translation fault, with its cause and PDATA: the word has no effect. -/
  | trap (cause : Nat) (data : Word)
  /-- Another leave request: the word has not completed. -/
  | leave (kind : AskKind) (data : Word) (tcode : BitVec 32)
  /-- It holds issue and has not taken effect: PC stays on it. -/
  | wait (s : State)

/-- The guard condition (02 R33). -/
def State.guard (s : State) (g : BitVec 7) (gn : Bool) : Bool := s.getP 7 g.toNat != gn

/-- The X stream's word has completed. -/
def State.xDone (s : State) (len : Nat) : State :=
  match s.core.complete s.spillMem len with
  | .error _ => s
  | .ok (c, k) => ({ s with core := { c with xcycle := c.xcycle + len } } : State).fixed k

/-- A taken transfer: the target word issues no earlier than three cycles later (04 R82). -/
def State.xJump (s : State) (pc : Word) : State :=
  { s with core := { s.core with xpc := pc, xcycle := s.core.xcycle + 3, xdoubt := false } }

/-- Issue holds for a cycle. -/
def State.xWait (s : State) : State := { s with core := { s.core with xcycle := s.core.xcycle + 1 } }

/-- Land the windows that have closed. -/
def State.landDue (s : State) : State := { s with core := s.core.landDue }

/-- The syndrome of an entry, which cannot be corrected, of a loop frame that the word at PC steps when it completes (04 R101). -/
def State.stepPoisoned (s : State) (len : Nat) : Option (BitVec 8) :=
  match s.core.complete s.spillMem len with
  | .error z => some z
  | .ok _ => none

/-- Whether a lane that consumes x[i] contains it: an undefined value has a valid code (00 R7). -/
def Core.lost (c : Core) (i : Nat) : Bool := c.containedX i && !c.inWindow (.x i)

/-- The syndrome of the first register of a list that holds a word which a lane contains. -/
def Core.badX (c : Core) (uses : List Nat) : Option (BitVec 8) :=
  uses.findSome? (fun i => if c.lost i then tget c.xbad i else none)

/-- Whether a lane that consumes x[i] corrects it. -/
def Core.mends (c : Core) (i : Nat) : Bool := (tget c.xbad i).any fixable && !c.inWindow (.x i)

/-- A word's lanes take its registers: what they correct is counted (13 R331). -/
def State.takeX (s : State) (uses : List Nat) : State := s.fixed (uses.filter s.core.mends).length

/-- A scalar lane contains a word of a register or of the return stack: the word does not complete, and the context parks with
DATA (13 Table 13-5). -/
def State.xContained (s : State) (z : BitVec 8) : State := s.raiseLeave false (.fault causeData) 0 (z.zeroExtend 32)

/-- Whether a leave word completes once its leave is accepted or its wait satisfied. -/
def AskKind.completes (k : AskKind) : Bool :=
  match k with
  | .yield | .xfer .. | .wait .. => true
  | _ => false

/-- How a word's end changes the stream; `s` is the state before it, which a trap leaves. A word that would step a loop frame
with a contained entry does not complete. -/
def State.xEnd (s : State) (len : Nat) : WordEnd → State
  | .done t => match s.stepPoisoned len with
    | some z => s.xContained z
    | none => t.xDone len
  | .jump t pc => t.xJump pc
  | .trap cause data => s.raiseLeave false (.fault cause) data 0
  | .leave kind data tcode => match (if kind.completes then s.stepPoisoned len else none) with
    | some z => s.xContained z
    | none => s.raiseLeave false kind data tcode
  | .wait t => t.xWait

/-- One word of the X stream, `len` words long: windows that have closed land; a false guard skips it (02 R33); a word that
reads or writes a pending register of `uses` holds issue (05 R111); one that consumes a contained word parks (13 R334);
otherwise it acts as `f` says. `uses` lists a register whose value no lane consumes as 64 + its number. -/
def State.xWordN (s : State) (len : Nat) (g : BitVec 7) (gn : Bool) (uses : List Nat) (f : State → WordEnd) : State :=
  let s := s.landDue
  if s.guard g gn then
    if uses.any (fun i => s.core.pendingX (i % 64)) then s.xWait
    else match s.core.badX uses with
      | some z => s.xContained z
      | none => (s.takeX uses).xEnd len (f (s.takeX uses))
  else s.xEnd len (.done s)

/-- One word of the X stream of one word's length. -/
def State.xWord (s : State) (g : BitVec 7) (gn : Bool) (uses : List Nat) (f : State → WordEnd) : State :=
  s.xWordN 1 g gn uses f

/-- Whether the context on the core in focus is a supervisor (12 R310). -/
def State.isSuper (s : State) : Bool := s.here?.any (fun kc => kc.2.super)

/-- A privileged word (02 R47): in a user context it traps with VIOL before its guard is considered. -/
def State.xPriv (s : State) (g : BitVec 7) (gn : Bool) (uses : List Nat) (f : State → WordEnd) : State :=
  if s.isSuper then s.xWord g gn uses f else s.landDue.raiseLeave false (.fault causeViol) 0 0

/-- An illegal word (02 R46): cause ILL, no effect. -/
def State.xIllegal (s : State) : State := s.landDue.raiseLeave false (.fault causeIll) 0 0

/-! ### Words of the A stream (08 R183-R191) -/

/-- Read a[i]; a0 reads zero. -/
def State.getA (s : State) (port i : Nat) : Word := if i = 0 then 0 else s.core.a.get i s.tick (1024 * port + 192 + i)

/-- Write a[d]; a write to a0 is discarded. -/
def State.setA (s : State) (d : Nat) (v : Word) : State :=
  if d = 0 then s else { s with core := { s.core with a := s.core.a.put d v } }

/-- Whether an earlier word has still to write a[i] (08 R183). -/
def Core.pendingA (c : Core) (i : Nat) : Bool :=
  decide (i ≠ 0) && c.amos.any (fun m => decide (m.d = i) || (m.status.isSome && decide (m.d + 1 = i)))

/-- Whether an earlier word of the A stream, remote atomics among them, has still to write a[i] (08 R183, R220). -/
def State.pendingA (s : State) (i : Nat) : Bool :=
  s.core.pendingA i || (decide (i ≠ 0) && s.ramos.any (fun m =>
    decide (some m.slot = s.core.ctx) && decide (m.pos = s.core.pos) && (decide (m.d = i) || decide (m.d + 1 = i))))

/-- The innermost active level (08 R188): the one with the least number. -/
def Core.innermost (c : Core) : Option (Nat × ALevel) := c.levels.head?

/-- Apply the binds of a level (08 R190). -/
def Core.applyBinds (c : Core) (l tick : Nat) : Core :=
  let mine := c.binds.filter (fun b => decide (b.level = l))
  { c with a := mine.foldl (fun r b => r.put b.d (r.get b.d tick (4096 + b.d) + b.inc)) c.a }

/-- Step the innermost levels whose last word has completed (08 R190). -/
def Core.nestStep (tick : Nat) (at_ : Word) : Nat → Core → Core
  | 0, c => c
  | fuel + 1, c =>
    match c.innermost with
    | none => c
    | some (l, v) =>
      if v.stop = at_ then
        let c := c.applyBinds l tick
        if v.idx + 1 < v.count then { c with apc := v.start, levels := tset c.levels l { v with idx := v.idx + 1 } }
        else Core.nestStep tick at_ fuel { c with apc := v.stop + 4, levels := tdel c.levels l }
      else c

/-- The A stream's word at PC has completed. -/
def State.aDone (s : State) : State :=
  { s with core := Core.nestStep s.tick s.core.apc 6 { s.core with apc := s.core.apc + 4, adoubt := false } }

/-- Levels whose bodies do not hold the target of a taken branch are deactivated (08 R191). -/
def leaveLevels (target : Word) : Table ALevel → Table ALevel
  | [] => []
  | (l, v) :: r =>
    if v.start.toNat ≤ target.toNat ∧ target.toNat ≤ v.stop.toNat then (l, v) :: r else leaveLevels target r

/-- How a word's end changes the A stream. -/
def State.aEnd (s : State) : WordEnd → State
  | .done t => t.aDone
  | .jump t pc => { t with core := { t.core with apc := pc, levels := leaveLevels pc t.core.levels, adoubt := false } }
  | .trap cause data => s.raiseLeave true (.fault cause) data 0
  | .leave kind data tcode => s.raiseLeave true kind data tcode
  | .wait t => t

/-- Whether a word issues in this iteration (02 R40): F holds at index 0 and L at the last index, of the innermost level. -/
def Core.issues (c : Core) (l f : Bool) : Bool :=
  match c.innermost with
  | none => true
  | some (_, v) => (!f || decide (v.idx = 0)) && (!l || decide (v.idx + 1 = v.count))

/-- The registers that binds step when a word completes that is the last of the innermost body (08 R190): they too must have been
written (08 R183). -/
def Core.endBindsAt (c : Core) (at_ : Word) : List Nat :=
  if c.innermost.any (fun v => decide (v.2.stop = at_)) then c.binds.map (fun b => b.d) else []

/-- Those of the word at PC. -/
def Core.endBinds (c : Core) : List Nat := c.endBindsAt c.apc

/-- One word of the A stream: a word that F or L keeps from issuing completes; one that reads a register still to be
written holds issue (08 R183); a committing word waits for earlier `ldq` and `ldt` (08 R184). -/
def State.aWord (s : State) (l f : Bool) (reads : List Nat) (commits : Bool) (fn : State → WordEnd) : State :=
  if s.core.issues l f then
    if (reads ++ s.core.endBinds).any s.pendingA then s
    else if commits ∧ s.core.loads ≠ [] then s
    else s.aEnd (fn s)
  else if s.core.endBinds.any s.pendingA then s
  else s.aDone

/-- An illegal word of the A stream. -/
def State.aIllegal (s : State) : State := s.raiseLeave true (.fault causeIll) 0 0

end Sys2Proof.Machine
end

