-- ==== Sys2Proof/Machine/Flags.lean ====
section
/-! DEFINITION. FPFLAGS of the two streams (03 R70, R71). The flag results of each operation are in Numbers. -/

namespace Sys2Proof.Machine

/-- OR flags into the FPFLAGS of a stream (03 R70). -/
def Core.orFlags (c : Core) (aStream : Bool) (fl : Flags) : Core :=
  if aStream then { c with aflags := c.aflags ||| fl } else { c with xflags := c.xflags ||| fl }

/-- OR flags into the FPFLAGS of a stream of the core in focus. -/
def State.orFlags (s : State) (aStream : Bool) (fl : Flags) : State := { s with core := s.core.orFlags aStream fl }

end Sys2Proof.Machine
end

