-- ==== Sys2Proof/Machine/Access.lean ====
section
/-! DEFINITION. Address spaces, translation, protection, and the accesses that words and engines make (01 R16-R20, 07,
12 R297-R307). An access takes effect at one instant at its point of coherence (log 8). -/

namespace Sys2Proof.Machine

/-! ### The physical address map (01 R19, R20) -/

/-- What a physical address names (01 Table 01-4). -/
inductive Place where
  | hbm | share | device | pool | remote (pkg : Nat) | reserved
  deriving DecidableEq, Repr

/-- Decode a physical address. -/
def placeOf (pa : Nat) : Place :=
  if pa < 2 ^ 39 then (if pa % 2 ^ 36 < 0xF80000000 then .hbm else .share)
  else if pa < 2 ^ 40 then .device
  else if pa < 2 ^ 50 then .reserved
  else if pa < 2 ^ 51 then .pool
  else if pa < 3 * 2 ^ 50 then .remote (bits pa 49 40)
  else .reserved

/-- The stack and die of an HBM4E address (01 R10, R20). -/
def stackOf (pa : Nat) : Nat := pa / 2 ^ 36 % 8
def dieOfPa (pa : Nat) : Nat := stackOf pa / 2

/-- The L2 slice of its die that is home of an HBM4E line (01 R18). The model keeps no L2 state: an access is performed at its
home (log 8). -/
def l2Slice (pa : Nat) : Nat := bits pa 10 6 ^^^ bits pa 15 11 ^^^ bits pa 20 16

/-- The stack whose memory-side cache is home of a pool line (01 R18). -/
def poolStack (pa : Nat) : Nat := (bits pa 14 12) ^^^ (bits pa 17 15)

/-- The CXL port of a pool line (14 R356): the die of its home stack. -/
def poolPort (pa : Nat) : Nat := poolStack pa / 2

/-- The port behind which a pool address lies, when its link is down (14 R356). -/
def State.downPort (s : State) (pa : Nat) : Option Nat :=
  if placeOf pa = .pool ∧ (tget s.down (poolPort pa)).isSome then some (poolPort pa) else none

/-- Whether a down link has stayed down for 1 ms: requests behind it are answered with poisoned words (14 R356). -/
def State.linkDead (s : State) (port : Nat) : Bool := (tget s.down port).any (fun t => decide (t + 1000000 ≤ s.ptp))

/-- Whether another package refuses an access under its export windows (14 R357): its windows are not known here, so the answer
is free; `slot` tells accesses of one step apart (log 11). -/
def State.refusedAway (s : State) (slot : Nat) : Bool := decide (Config.freeBits 1 s.tick (2 ^ 30 + slot) = 1)

/-- Whether a die belongs to a domain (12 R308). -/
def State.domHasDie (s : State) (d die : Nat) : Bool := (s.dom d).any (fun x => x.dies.getLsbD die)

/-- HBM4E of the domain's dies. -/
def State.inDomHbm (s : State) (d pa : Nat) : Bool := decide (placeOf pa = .hbm) && s.domHasDie d (dieOfPa pa)

/-- The pool segment that holds an address (14 R356). -/
def State.poolSeg (s : State) (pa : Nat) : Option PoolSeg :=
  s.ports.segs.find? (fun g => decide (g.base ≤ pa) && decide (pa < g.base + g.size))

/-! ### How the pool device holds a segment (13 R330): 512 bytes of data, then their 64 codes -/

/-- The device offset of a data byte at an offset of its segment, and of the code of the word that holds it. -/
def poolDataAt (o : Nat) : Nat := o / 512 * 576 + o % 512
def poolCodeAt (o : Nat) : Nat := o / 512 * 576 + 512 + o % 512 / 8

/-- The device bytes that a segment of data takes. -/
def poolBytes (size : Nat) : Nat := 9 * size / 8

/-- The byte that the pool device holds at an offset of a segment: a data byte, or the code of the word `k` of data line `m` at
byte `8 m + k` of the code line. -/
def State.poolByte (s : State) (g : PoolSeg) (o : Nat) : BitVec 8 :=
  let group := g.base + o / 576 * 512
  if o % 576 < 512 then BitVec.ofNat 8 (ofBytes (s.mem.bytes (group + o % 576) 1))
  else
    let w := s.mem.word (group + 8 * (o % 576 - 512))
    hsiaoCode w.v ^^^ w.syn

/-- Whether a domain's agents may reach a physical address at all (12 R301): its HBM4E and pool memory, other packages;
device registers only for a supervisor. -/
def State.physOk (s : State) (d : Nat) (super : Bool) (pa : Nat) : Bool :=
  match placeOf pa with
  | .hbm => s.domHasDie d (dieOfPa pa)
  | .pool => (s.poolSeg pa).any (fun g => decide (g.dom = d))
  | .remote p => decide (p ≠ s.pkg)
  | .device => super
  | .share => false
  | .reserved => false

/-! ### Physical memory, with the page directory in it (11 R284) -/

/-- The directory entry of a KV page: unlisted entries are TIER 3 with PREF 1. -/
def dirFree : Word := 0xC400000000000000
def State.dirEntry (s : State) (k : Nat) : Word := (tget s.dir k).getD dirFree

/-- Replace a directory entry. -/
def State.setDir (s : State) (k : Nat) (e : Word) : State :=
  { s with dir := if e = dirFree then tdel s.dir k else tset s.dir k e }

/-- The KV page whose directory entry lies at a physical address, if one does: die `d`'s table holds KVPN 4i + d. -/
def State.dirAt (s : State) (pa : Nat) : Option Nat :=
  (List.range 4).findSome? (fun d =>
    let b := s.res.dirbase.getD d 0
    if b ≤ pa ∧ pa < b + 2 ^ 25 then some ((pa - b) / 8 * 4 + d) else none)

/-- The check word at an aligned physical address. -/
def State.physWord (s : State) (pa : Nat) : CWord :=
  match s.dirAt pa with
  | some k => CWord.good (s.dirEntry k)
  | none => s.mem.word pa

/-- A lane's read of physical memory. -/
def State.physRead (s : State) (pa n : Nat) : Except Nat (List Byte) :=
  match s.dirAt pa with
  | some k => .ok ((toBytes 8 (s.dirEntry k).toNat ++ toBytes 8 (s.dirEntry (k + 4)).toNat).drop (pa % 8) |>.take n)
  | none => s.mem.lane pa n

/-- A write clears the scrub tags of the words it reaches (13 R343). -/
def State.clearScrub (s : State) (pa n : Nat) : State :=
  if s.scrubTags = [] then s
  else { s with scrubTags := s.scrubTags.filter (fun t => decide (t.1 * 8 + 8 ≤ pa) || decide (pa + n ≤ t.1 * 8)) }

/-- Write check words, codes and all: the device's own write. -/
def State.physPut (s : State) (pa : Nat) (ws : List CWord) : State :=
  { s.clearScrub pa (8 * ws.length) with mem := s.mem.setWords pa ws }

/-! ### Control blocks as agents write them (10 R247, Table 10-3; 00 R5, R6) -/

/-- The bits of a control block's word that a write sets: SPAN and ASID, PBUDGET, SPILLBASE, FLAGS. Every other bit is read-only
or reserved. -/
def cbMask (off : Nat) : Word :=
  if off = 0 then 0x0004FFFF00000000 else if off = 8 then 0xFFF else if off = 0x10 then 0xFFFFFFFF else if off = 0x18 then 0x1F else 0

/-- The slot of the context whose control block holds an address. -/
def State.cbSlot (s : State) (pa : Nat) : Option (Nat × Ctx) :=
  s.ctxs.find? (fun x => decide (x.2.cb ≤ pa) && decide (pa < x.2.cb + 256))

/-- A word of a control block after a write of `new` over `old`: the bits that may be written, with the code that came; a word
whose old value cannot be corrected stays as it is. -/
def cbMerge (mask : Word) (old new : CWord) : CWord :=
  match old.use with
  | none => old
  | some v => { v := (v &&& ~~~mask) ||| (new.v &&& mask), syn := if mask = 0 then 0 else new.syn }

/-- A context that is not running takes ASID and SPAN as soon as they are written; one that runs takes them at its next
placement (10 R247). -/
def Ctx.follow (c : Ctx) (w0 : Word) : Ctx :=
  if c.state = .running then c else { c with asid := (w0.extractLsb' 32 16).toNat, span := w0.getLsbD 50 }

/-- An agent has written the word at `pa`; `old` is what stood there. -/
def State.cbFilter (s : State) (old : CWord) (pa : Nat) : State :=
  match s.cbSlot pa with
  | none => s
  | some (k, c) =>
    let w := cbMerge (cbMask (pa - c.cb)) old (s.mem.word pa)
    let s := { s with mem := s.mem.setWord pa w }
    if pa = c.cb then { s with ctxs := tset s.ctxs k (c.follow w.v) } else s

/-- Whether `n` bytes at an address meet a control block. -/
def State.meetsBlock (s : State) (pa n : Nat) : Bool := s.ctxs.any (fun x => decide (x.2.cb < pa + n) && decide (pa < x.2.cb + 256))

/-- The words of `n` bytes from an address, written by an agent over the memory `old`. -/
def State.cbFilters (s : State) (old : Memory) (pa n : Nat) : State :=
  if s.meetsBlock pa n then
    (from' (pa / 8) ((pa + n + 7) / 8 - pa / 8)).foldl (fun s k => s.cbFilter (old.word (8 * k)) (8 * k)) s
  else s

/-- A lane's store to physical memory; it answers the address of a word that it cannot merge with (07 R169). Only the
residency engine writes the directory tables (11 R284); of control blocks it writes what Table 10-3 lets it (10 R247). -/
def State.physStore (s : State) (pa : Nat) (bs : List Byte) : Except Nat State :=
  if (s.dirAt pa).isSome then .ok s
  else match s.mem.store pa bs with
    | .error a => .error a
    | .ok m => .ok (({ s.clearScrub pa bs.length with mem := m } : State).cbFilters s.mem pa bs.length)

/-- An agent writes whole check words, codes and all. -/
def State.physSetWords (s : State) (pa : Nat) (ws : List CWord) : State :=
  if (s.dirAt pa).isSome then s else (s.physPut pa ws).cbFilters s.mem pa (8 * ws.length)

/-! ### Corrections (13 R331) -/

/-- A lane of a domain has corrected a word: its address is posted to the scrubber, and the correction counted. Addresses of
store words, as the scrubber sees them, are those of `scrubStore`. -/
def State.corrected (s : State) (d a : Nat) : State :=
  { s.count d 9 1 with directed := if s.directed.contains a then s.directed else s.directed ++ [a] }

/-- Post the words that a lane has corrected among `n` bytes of a memory; `base` is the address of its byte 0. -/
def State.post (s : State) (d : Nat) (m : Memory) (base a n : Nat) : State :=
  if m.bad = [] then s
  else (from' (a / 8) ((a + n + 7) / 8 - a / 8)).foldl (fun s k =>
    if (tget m.bad k).any fixable then s.corrected d (base + 8 * k) else s) s

/-- The words, by address div 8, that `n` bytes at `a` cover in part: a store merges with them (07 R169). -/
def partials (a n : Nat) : List Nat :=
  (from' (a / 8) ((a + n + 7) / 8 - a / 8)).filter (fun k => !(decide (a ≤ 8 * k) && decide (8 * k + 8 ≤ a + n)))

/-- Post the words that a store of `n` bytes corrects to merge with them. -/
def State.postMerge (s : State) (d : Nat) (m : Memory) (base a n : Nat) : State :=
  if m.bad = [] then s
  else (partials a n).foldl (fun s k => if (tget m.bad k).any fixable then s.corrected d (base + 8 * k) else s) s

/-- Post corrected words of physical memory. -/
def State.postPhys (s : State) (d pa n : Nat) : State := s.post d s.mem 0 pa n

/-- The address by which the scrubber names byte 0 of a bank. -/
def scrubStore (key b : Nat) : Nat := 2 ^ 57 + (key * 16 + b) * 2 ^ 15

/-- Post corrected words of a bank. -/
def State.postBank (s : State) (d key b off n : Nat) : State := s.post d ((s.storeAt key).bank b).data (scrubStore key b) off n

/-! ### Traffic that the memory controllers and the memory-side cache see -/

/-- The bank of an HBM4E address (09 R226): stack × 1024 + pseudo-channel × 16 + bank. -/
def bankOf (pa : Nat) : Nat :=
  let o := pa % 2 ^ 36
  let row := bits o 35 21
  let b := if o.testBit 15 then bits o 20 17 ^^^ row % 16 else bits o 20 17
  stackOf pa * 1024 + bits o 16 11 * 16 + b

/-- The row of an HBM4E address within its bank, and its subarray (09 R226). -/
def rowOf (pa : Nat) : Nat := bits (pa % 2 ^ 36) 35 21
def subarrayOf (pa : Nat) : Nat := rowOf pa / 512

/-- A stack's controller state; unlisted: nothing counted. -/
def Stack.reset : Stack :=
  { sketch := [], working := [], top := [], since := 0, filter := [], misses := 0, lines := [] }
def State.stack (s : State) (k : Nat) : Stack := (tget s.hbm k).getD Stack.reset

/-- Rotate left within `w` bits. -/
def rotW (w v k : Nat) : Nat := (v * 2 ^ (k % w) % 2 ^ w) + v % 2 ^ w / 2 ^ (w - k % w)

/-- The three filter bits of a pool line (11 R293). -/
def mscBits (la : Nat) : List Nat :=
  (List.range 3).map (fun j => bits la 15 0 ^^^ rotW 16 (bits la 31 16) (5 * j) ^^^ rotW 16 (bits la 45 32) (7 * j))

/-- Lines that a slice holds for one domain at most: 2 GiB of each stack (01 R15, R19), divided equally among the domains (12 R309). -/
def State.mscShare (s : State) : Nat := 2 ^ 25 / max 1 s.doms.length

/-- The domain whose line a pool line is. -/
def State.lineDom (s : State) (la : Nat) : Option Nat := (s.poolSeg (la * 64)).map (fun g => g.dom)

/-- Enter a line in a slice. With the domain's share full, a free one of the domain's lines leaves (log 8). -/
def State.mscEnter (s : State) (lines : List Nat) (la : Nat) : List Nat :=
  let mine := lines.filter (fun x => decide (s.lineDom x = s.lineDom la))
  if mine.length < s.mscShare then la :: lines
  else
    let out := mine.getD ((Config.freeBits 64 s.tick (2 ^ 31)).toNat % mine.length) la
    la :: lines.filter (fun x => decide (x ≠ out))

/-- A pool access at its MSC slice (11 R293): a line not held is a miss, which allocates on the second miss in a window. After
MSCWIN misses the filter is cleared, by MSC_FILTER_CLEAR or before the next miss. -/
def State.mscAccess (s : State) (pa : Nat) : State :=
  let k := poolStack pa
  let t := s.stack k
  let la := bits pa 51 6
  if t.lines.contains la then s
  else
    let t := if s.res.mscwin ≤ t.misses then { t with filter := [], misses := 0 } else t
    let bs := mscBits la
    let t := if bs.all t.filter.contains then { t with lines := s.mscEnter t.lines la }
      else { t with filter := bs.filter (fun b => !t.filter.contains b) ++ t.filter }
    { s with hbm := tset s.hbm k { t with misses := t.misses + 1 } }

/-- A request for a line arrives at its bank's queue (11 R294), or at its MSC slice. The first four requests are those in the
queue; later ones enter as it drains. -/
def State.noteLine (s : State) (pa : Nat) : State :=
  match placeOf pa with
  | .hbm =>
    let q := (tget s.reqs (bankOf pa)).getD []
    { s with reqs := tset s.reqs (bankOf pa) (q ++ [{ row := rowOf pa, since := s.ptp, pn := bits pa 38 16, owed := false }]) }
  | .pool => s.mscAccess pa
  | _ => s

/-- The first bytes of the lines that `n` bytes from an address meet. -/
def linesOf (pa n : Nat) : List Nat := (from' (pa / 64) ((pa + n + 63) / 64 - pa / 64)).map (fun k => max pa (64 * k))

/-- An access of `n` bytes: one request for each line of it. -/
def State.note (s : State) (pa n : Nat) : State := (linesOf pa n).foldl State.noteLine s

/-! ### Translation (12 R297-R302) -/

/-- An outcome of a walk (12 R300). -/
inductive Walk where
  | page (base size : Nat) (entry : Word)
  | fault
  | bad (at_ : Nat)
  | data (at_ : Nat)
  deriving DecidableEq, Repr

/-- Index bits and page size of a level (12 Table 12-1). -/
def lvlShift (lvl : Nat) : Nat := [16, 21, 30, 39].getD lvl 16
def lvlIndex (lvl va : Nat) : Nat := va / 2 ^ lvlShift lvl % [32, 512, 512, 131072].getD lvl 32

/-- Alignment of the table that an entry of a level names: tables of levels 2, 1 and 0. -/
def tableAlign (lvl : Nat) : Nat := [256, 256, 4096, 4096].getD lvl 256

/-- Whether an entry breaks the rules of 12 R299 and R300 at its level. -/
def State.pteBad (s : State) (d lvl : Nat) (e : Word) : Bool :=
  let leaf := e.getLsbD 1
  let addr := bits e.toNat 51 8 * 256
  decide (e.extractLsb' 52 12 ≠ 0) || e.getLsbD 2 || (leaf && decide (lvl = 3)) || (!leaf && decide (lvl = 0)) ||
    (leaf && decide (e.extractLsb' 6 2 = 3)) || (!leaf && decide (e.extractLsb' 3 5 ≠ 0)) ||
    (if leaf then decide (addr % 2 ^ lvlShift lvl ≠ 0) else decide (addr % tableAlign lvl ≠ 0) || !s.inDomHbm d addr)

/-- An entry that a walk reads: its level, its address, and the entry where it could be read. -/
abbrev WalkStep := Nat × Nat × Option Word

/-- Walk from the table of a level downwards, with the entries read on the way. -/
def State.walkFrom (s : State) (d va : Nat) : Nat → Nat → Walk × List WalkStep
  | lvl, t =>
    let at_ := t + 8 * lvlIndex lvl va
    match (s.physWord at_).use with
    | none => (.data at_, [(lvl, at_, none)])
    | some e =>
      if !e.getLsbD 0 then (.fault, [(lvl, at_, none)])
      else if s.pteBad d lvl e then (.bad at_, [(lvl, at_, none)])
      else if e.getLsbD 1 then (.page (va / 2 ^ lvlShift lvl * 2 ^ lvlShift lvl) (2 ^ lvlShift lvl) e, [(lvl, at_, some e)])
      else match lvl with
        | 0 => (.fault, [(lvl, at_, none)])
        | l + 1 =>
          let r := s.walkFrom d va l (bits e.toNat 51 8 * 256)
          (r.1, (lvl, at_, some e) :: r.2)

/-- `Walk` (12 R300): an ASID table out of the domain's reach is a forbidden physical range (01 R20, 12 R306). -/
def State.walk (s : State) (d asid va : Nat) : Walk × List WalkStep :=
  if 2 ^ 56 ≤ va then (.fault, [])
  else match s.dom d with
    | none => (.fault, [])
    | some x =>
      let at_ := x.asidtab + 8 * asid
      if !s.inDomHbm d at_ then (.bad at_, [])
      else match (s.physWord at_).use with
        | none => (.data at_, [(4, at_, none)])
        | some r =>
          if !r.getLsbD 0 then (.fault, [(4, at_, none)])
          else
            let root := bits r.toNat 51 20 * 2 ^ 20
            if s.inDomHbm d root then
              let w := s.walkFrom d va 3 root
              (w.1, (4, at_, none) :: w.2)
            else (.bad at_, [(4, at_, none)])

/-- What a walk's reads leave: requests at the memory controllers, and the corrections posted (13 R331). -/
def State.walked (s : State) (d : Nat) (l : List WalkStep) : State := l.foldl (fun s x => (s.note x.2.1 8).postPhys d x.2.1 8) s

/-- The cluster of a physical core (01 R9). -/
def clusterOf (core : Nat) : Nat := core / 64 / 8 * 8 + core % 64 / 8

/-- Who makes an access: the address space, the privilege, and where it stands; `rect` is the partition of an engine command
whose launch may have ended; `cluster` has the translation cache that it asks, none where it walks (log 46). -/
structure Who where
  dom : Nat
  asid : Nat
  super : Bool
  slot : Nat
  pos : Nat
  rect : Option Nat := none
  cluster : Option Nat := none
  deriving DecidableEq, Repr

/-- The agents of the core in focus. -/
def State.who (s : State) : Who :=
  match s.here? with
  | some (k, c) => { dom := c.tdom, asid := c.asid, super := c.super, slot := k, pos := s.core.pos, cluster := some (clusterOf s.here) }
  | none => { dom := 0, asid := 0, super := false, slot := 0, pos := 0 }

/-- Needs of an access (12 R301). -/
structure Need where
  r : Bool
  w : Bool
  x : Bool
  deriving DecidableEq, Repr

def needR : Need := { r := true, w := false, x := false }
def needW : Need := { r := false, w := true, x := false }
def needRW : Need := { r := true, w := true, x := false }
def needX : Need := { r := false, w := false, x := true }

/-- The outcome of a translation: a physical address and memory type, a translation fault, a violation or a containment
event with PDATA (12 R300, R301, R304). -/
inductive Tr where
  | ok (pa ty : Nat)
  | fault
  | viol (pdata : Nat)
  | data (pdata : Nat)
  deriving DecidableEq, Repr

/-- Whether a cached entry covers an address of an address space. -/
def Tlb.covers (t : Tlb) (dom asid va : Nat) : Bool :=
  decide (t.dom = dom) && decide (t.asid = asid) && decide (t.base ≤ va) && decide (va < t.base + 2 ^ lvlShift t.lvl)

/-- The entries of a cluster's cache; an agent without a cluster has none. -/
def State.cacheOf (s : State) (w : Who) : List Tlb := (w.cluster.bind (tget s.tlb)).getD []

/-- Enter a translation in a cluster's cache of 4,096 entries; from a full one a free entry leaves (12 R302; log 46). -/
def tlbEnter (k : Nat) (l : List Tlb) (t : Tlb) : List Tlb :=
  if l.contains t then l else if l.length < 4096 then t :: l else t :: l.eraseIdx (k % 4096)

/-- The entries that a walk has gone through enter the cache of its cluster (12 R302). -/
def State.tlbFill (s : State) (w : Who) (va : Nat) (l : List WalkStep) : State :=
  match w.cluster with
  | none => s
  | some k =>
    let es := l.filterMap (fun x => x.2.2.map (fun e =>
      ({ dom := w.dom, asid := w.asid, lvl := x.1, base := va / 2 ^ lvlShift x.1 * 2 ^ lvlShift x.1, entry := e } : Tlb)))
    { s with tlb := tset s.tlb k (es.foldl (tlbEnter (Config.freeBits 12 s.tick (2 ^ 32)).toNat) (s.cacheOf w)) }

/-- Resolve an address: by a cached leaf, by a walk from the lowest table that a cached entry names, or by a whole walk
(12 R300, R302). -/
def State.resolve (s : State) (w : Who) (va : Nat) : State × Walk :=
  let mine := (s.cacheOf w).filter (fun t => t.covers w.dom w.asid va)
  match mine.find? (fun t => t.entry.getLsbD 1) with
  | some t => (s, .page t.base (2 ^ lvlShift t.lvl) t.entry)
  | none =>
    let r := match (List.range 3).findSome? (fun i => mine.find? (fun t => decide (t.lvl = i + 1))) with
      | some t => s.walkFrom w.dom va (t.lvl - 1) (bits t.entry.toNat 51 8 * 256)
      | none => s.walk w.dom w.asid va
    ((s.walked w.dom r.2).tlbFill w va r.2, r.1)

/-- Translate and check the permission and the physical range (12 R300, R301). -/
def State.translate (s : State) (w : Who) (need : Need) (va : Nat) : State × Tr :=
  let (s, r) := s.resolve w va
  (s, match r with
    | .fault => .fault
    | .bad a => .viol a
    | .data a => .data a
    | .page b _ e =>
      let pa := bits e.toNat 51 8 * 256 + (va - b)
      if (need.r && !e.getLsbD 3) || (need.w && !e.getLsbD 4) || (need.x && !e.getLsbD 5) then .viol va
      else if s.physOk w.dom w.super pa then .ok pa (e.extractLsb' 6 2).toNat else .viol va)

/-- The pieces of an access: one when it is aligned to its size, which then divides a page; single bytes in ascending order
otherwise (07 R169). -/
def pieces (va n : Nat) : List (Nat × Nat) :=
  if va % n = 0 ∧ 65536 % n = 0 then [(va, n)] else (List.range n).map (fun i => ((va + i) % 2 ^ 64, 1))

/-- What an access comes to. `dev` is a device register, `far` another package or a pool port whose link is down. -/
inductive Got (α : Type) where
  | ok (v : α)
  | pages (va : Nat)
  | viol (pdata : Nat)
  | data (pdata : Nat)
  | dev (pa : Nat)
  | far (pa : Nat)
  deriving DecidableEq, Repr

/-- Translate every piece of an access before any is performed. -/
def State.translateAll (s : State) (w : Who) (need : Need) : List (Nat × Nat) → State × Got (List (Nat × Nat × Nat))
  | [] => (s, .ok [])
  | (va, n) :: r =>
    match s.translate w need va with
    | (s, .fault) => (s, .pages va)
    | (s, .viol a) => (s, .viol a)
    | (s, .data a) => (s, .data a)
    | (s, .ok pa ty) =>
      match placeOf pa with
      | .device => (s, .dev pa)
      | .remote _ => (s, .far pa)
      | p =>
        if p = .pool ∧ (tget s.down (poolPort pa)).isSome then (s, .far pa)
        else match s.translateAll w need r with
          | (s, .ok l) => (s, .ok ((pa, n, ty) :: l))
          | o => o

/-- Read the pieces of an access through consuming lanes. -/
def State.readPieces (s : State) (d : Nat) : List (Nat × Nat × Nat) → State × Got (List Byte)
  | [] => (s, .ok [])
  | (pa, n, _) :: r =>
    match s.physRead pa n with
    | .error a => (s, .data a)
    | .ok bs => match ((s.note pa n).postPhys d pa n).readPieces d r with
      | (s, .ok t) => (s, .ok (bs ++ t))
      | o => o

/-- A global load of `n` bytes by a stream or engine. -/
def State.gRead (s : State) (w : Who) (need : Need) (va n : Nat) : State × Got (List Byte) :=
  match s.translateAll w need (pieces va n) with
  | (s, .ok l) => s.readPieces w.dom l
  | (s, .pages a) => (s, .pages a)
  | (s, .viol a) => (s, .viol a)
  | (s, .data a) => (s, .data a)
  | (s, .dev a) => (s, .dev a)
  | (s, .far a) => (s, .far a)

/-- Store the pieces of an access. -/
def State.writePieces (s : State) (d : Nat) (bs : List Byte) : List (Nat × Nat × Nat) → State × Got Unit
  | [] => (s, .ok ())
  | (pa, n, _) :: r =>
    match (s.postMerge d s.mem 0 pa n).physStore pa (bs.take n) with
    | .error a => (s, .data a)
    | .ok t => (t.note pa n).writePieces d (bs.drop n) r

/-- A global store of bytes. -/
def State.gWrite (s : State) (w : Who) (va : Nat) (bs : List Byte) : State × Got Unit :=
  match s.translateAll w needW (pieces va bs.length) with
  | (s, .ok l) => s.writePieces w.dom bs l
  | (s, .pages a) => (s, .pages a)
  | (s, .viol a) => (s, .viol a)
  | (s, .data a) => (s, .data a)
  | (s, .dev a) => (s, .dev a)
  | (s, .far a) => (s, .far a)

/-- Read whole check words, 64-byte lines each of one page, with their codes unchanged. -/
def State.gReadWords (s : State) (w : Who) (va : Nat) : Nat → State × Got (List CWord)
  | 0 => (s, .ok [])
  | n + 1 =>
    match s.translateAll w needR [(va, 8)] with
    | (s, .ok l) =>
      let pa := (l.head?.map (fun x => x.1)).getD 0
      match (if pa % 64 = 0 then s.note pa 64 else s).gReadWords w (va + 8) n with
      | (t, .ok r) => (t, .ok (s.physWord pa :: r))
      | o => o
    | (s, .pages a) => (s, .pages a)
    | (s, .viol a) => (s, .viol a)
    | (s, .data a) => (s, .data a)
    | (s, .dev a) => (s, .dev a)
    | (s, .far a) => (s, .far a)

/-- Physical addresses of consecutive aligned words for writing. -/
def State.gWordAddrs (s : State) (w : Who) (va : Nat) : Nat → State × Got (List Nat)
  | 0 => (s, .ok [])
  | n + 1 =>
    match s.translateAll w needW [(va, 8)] with
    | (s, .ok l) =>
      match s.gWordAddrs w (va + 8) n with
      | (t, .ok r) => (t, .ok ((l.head?.map (fun x => x.1)).getD 0 :: r))
      | o => o
    | (s, .pages a) => (s, .pages a)
    | (s, .viol a) => (s, .viol a)
    | (s, .data a) => (s, .data a)
    | (s, .dev a) => (s, .dev a)
    | (s, .far a) => (s, .far a)

/-- Write whole check words with their codes unchanged: one request for each line. -/
def State.gWriteWords (s : State) (w : Who) (va : Nat) (ws : List CWord) : State × Got Unit :=
  match s.gWordAddrs w va ws.length with
  | (s, .ok l) => ((l.zip ws).zipIdx.foldl (fun s x =>
      let t := s.physSetWords x.1.1 [x.1.2]
      if x.2 = 0 ∨ x.1.1 % 64 = 0 then t.note x.1.1 8 else t) s, .ok ())
  | (s, .pages a) => (s, .pages a)
  | (s, .viol a) => (s, .viol a)
  | (s, .data a) => (s, .data a)
  | (s, .dev a) => (s, .dev a)
  | (s, .far a) => (s, .far a)

/-! ### Store space (01 R16, 12 R306) -/

/-- Physical index of the core on which a context's launch has a logical position placed. -/
def State.placedAt (s : State) (slot pos : Nat) : Option Nat :=
  if s.core.ctx = some slot ∧ s.core.pos = pos then some s.here
  else (s.cores.find? (fun c => decide (c.2.ctx = some slot) && decide (c.2.pos = pos))).map (fun c => c.1)

/-- The core record of a logical position: on its core, or in its saved frame. -/
def State.coreOf (s : State) (slot pos : Nat) : Option Core :=
  match s.placedAt slot pos with
  | some i => some (s.coreAt i)
  | none => (tget s.ctxs slot).bind (fun c => c.launch.bind (fun l => tget l.frames pos))

/-- Change the core record of a logical position, wherever it lies. -/
def State.updCore (s : State) (slot pos : Nat) (f : Core → Core) : State :=
  match s.placedAt slot pos with
  | some i => s.setCoreAt i (f (s.coreAt i))
  | none => match tget s.ctxs slot with
    | none => s
    | some c => match c.launch with
      | none => s
      | some l => match tget l.frames pos with
        | none => s
        | some k => s.setCtx slot { c with launch := some { l with frames := tset l.frames pos (f k) } }

/-- SPILLBASE of the cores of a context's partition (04 R99). -/
def State.spillbaseOf (s : State) (slot pos : Nat) : BitVec 32 := ((s.coreOf slot pos).map (fun c => c.spillbase)).getD 0

/-- Whether bytes `[off, off+n)` of a bank meet the spill area (04 R103). -/
def inSpill (sb : BitVec 32) (bank off n : Nat) : Bool :=
  let lines := (sb.extractLsb' 24 8).toNat
  let line := (sb.extractLsb' 6 9).toNat
  let top := min (line + lines) 512
  decide (lines ≠ 0) && decide ((sb.extractLsb' 15 4).toNat = bank) && decide (line * 64 < off + n) && decide (off < top * 64)

/-- The logical position, bank and offset that a store-space address names for an issuer at `pos` (01 R16); none when
bits [31:25] are not zero. -/
def storeDecode (pos addr : Nat) : Option (Nat × Nat × Nat) :=
  if addr / 2 ^ 25 = 0 then
    some ((pos / 64 / 8 * 8 + bits addr 21 19) * 64 + (pos % 64 / 8 * 8 + bits addr 24 22), bits addr 18 15, addr % 2 ^ 15)
  else none

/-- The rectangle of the launch that a context has placed and not ended. -/
def State.rectOfCtx (s : State) (slot : Nat) : Option Nat :=
  (tget s.ctxs slot).bind (fun c => c.launch.map (fun l => l.record.rect.toNat))

/-- Where `n` bytes at a store-space address lie: store key, bank, offset. None is a violation (01 R16, 12 R306). -/
def State.storeTarget (s : State) (w : Who) (addr n : Nat) : Option (Nat × Nat × Nat) :=
  match storeDecode w.pos addr with
  | none => none
  | some (pos, b, off) =>
    let bank := (s.storeAt (storeKey w.slot pos)).bank b
    if (w.rect.or (s.rectOfCtx w.slot)).any (fun r => inRect r pos) && decide (off + n ≤ 0x8000) &&
        (decide (bank.mode = .scratch) || decide (bank.mode = .skew)) && bank.page.isNone &&
        !inSpill (s.spillbaseOf w.slot pos) b off n then
      some (storeKey w.slot pos, b, off)
    else none

/-- A store-space read of `n` bytes by a lane; a violation's PDATA is the address. The address of a contained word of store
space carries the mark 2^56, which the records of it drop. -/
def State.sRead (s : State) (w : Who) (addr n : Nat) : Got (List Byte) :=
  match s.storeTarget w addr n with
  | none => .viol addr
  | some (key, b, off) =>
    match ((s.storeAt key).bank b).data.lane off n with
    | .error e => .data (addr - off + e + 2 ^ 56)
    | .ok bs => .ok bs

/-- Post the words that a lane has corrected in a store-space read. -/
def State.postStore (s : State) (w : Who) (addr n : Nat) : State :=
  match s.storeTarget w addr n with
  | none => s
  | some (key, b, off) => s.postBank w.dom key b off n

/-- Replace the bytes of a bank. -/
def State.setBankData (s : State) (key b : Nat) (m : Memory) : State :=
  let t := s.storeAt key
  s.setStore key (t.setBank b { t.bank b with data := m })

/-- A store-space store of bytes by a lane. -/
def State.sWrite (s : State) (w : Who) (addr : Nat) (bs : List Byte) : State × Got Unit :=
  match s.storeTarget w addr bs.length with
  | none => (s, .viol addr)
  | some (key, b, off) =>
    match ((s.storeAt key).bank b).data.store off bs with
    | .error e => (s, .data (addr - off + e + 2 ^ 56))
    | .ok m => ((s.postMerge w.dom ((s.storeAt key).bank b).data (scrubStore key b) off bs.length).setBankData key b m, .ok ())

/-- Whole check words of store space, each with its code. -/
def State.sReadWords (s : State) (w : Who) (addr : Nat) : Nat → Got (List CWord)
  | 0 => .ok []
  | n + 1 =>
    match s.storeTarget w addr 8 with
    | none => .viol addr
    | some (key, b, off) => match s.sReadWords w (addr + 8) n with
      | .ok r => .ok (((s.storeAt key).bank b).data.word off :: r)
      | o => o

/-- Write whole check words of store space; every word is checked before any is written. -/
def State.sWriteWords (s : State) (w : Who) (addr : Nat) (ws : List CWord) : State × Got Unit :=
  match (List.range ws.length).find? (fun i => (s.storeTarget w (addr + 8 * i) 8).isNone) with
  | some i => (s, .viol (addr + 8 * i))
  | none =>
    ((ws.zipIdx).foldl (fun s x => match s.storeTarget w (addr + 8 * x.2) 8 with
      | some (key, b, off) => s.setBankData key b (((s.storeAt key).bank b).data.setWord off x.1)
      | none => s) s, .ok ())

end Sys2Proof.Machine
end

