-- ==== Sys2Proof/Machine/Events.lean ====
section
/-! DEFINITION. Control blocks, event vectors and their observers, contexts by handle, fault records (10 R246-R248,
R252, R259, R261; 13 R349). -/

namespace Sys2Proof.Machine

/-! ### Rings of fault records (13 R349) -/

/-- Append a record to a ring of 256; the oldest is replaced when it is full. -/
def Ring.add (r : Ring) (x : BitVec 256) : Ring :=
  if r.recs.length < 256 then { r with recs := r.recs ++ [x], written := r.written + 1 }
  else { recs := r.recs.drop 1 ++ [x], written := r.written + 1, lost := r.lost + 1 }

/-- A fault record (13 Table 13-10). -/
def faultRecord (time addr handle core syn tier kind : Nat) : BitVec 256 :=
  BitVec.ofNat 256 (time % 2 ^ 64 * 2 ^ 192 + addr % 2 ^ 56 * 2 ^ 136 + handle % 2 ^ 32 * 2 ^ 104 + core / 64 % 64 * 2 ^ 98 +
    core % 64 * 2 ^ 92 + syn % 256 * 2 ^ 84 + tier % 16 * 2 ^ 80 + kind % 16 * 2 ^ 76)

/-- Write a record in a domain's ring. -/
def State.domRecord (s : State) (d addr handle core syn tier kind : Nat) : State :=
  match s.dom d with
  | none => s
  | some x => s.setDom d { x with ring := x.ring.add (faultRecord s.ptp addr handle core syn tier kind) }

/-! ### Control blocks (10 Table 10-3) -/

/-- A word of a context's control block as the device takes it: corrected where it can be; one that cannot be corrected is free
(log 47). -/
def State.cbWord (s : State) (c : Ctx) (off : Nat) : Word :=
  (s.mem.word (c.cb + off)).use.getD (Config.freeBits 64 s.tick (2 ^ 33 + off))

/-- Write a word of a control block: the device's own write, with a valid code. -/
def State.setCb (s : State) (c : Ctx) (off : Nat) (v : Word) : State := s.physPut (c.cb + off) [CWord.good v]

/-- Write the bits `[hi:lo]` of a word of a control block. The device merges with the rest, which it corrects; a word that it
cannot correct stays, with a record (13 R324, R334). -/
def State.setCbBits (s : State) (c : Ctx) (off hi lo v : Nat) : State :=
  let w := s.mem.word (c.cb + off)
  match w.use with
  | some u => (s.postPhys c.tdom (c.cb + off) 8).setCb c off (BitVec.ofNat 64 (putBits u.toNat hi lo v))
  | none => (s.count c.tdom 10 1).domRecord c.tdom (c.cb + off) 0 0 w.syn.toNat 4 (if w.syn = 0xFF then 3 else 2)

/-! ### Handles (01 R27, 10 R248) -/

/-- The slot that a handle names, when the handle is neither null nor stale. A handle whose context has been destroyed is taken as
stale although its slot, not taken again, still has its INSTAR (log 48). -/
def State.slotOf (s : State) (h : Nat) : Option Nat :=
  let i := bits h 13 0
  if i ≠ 0 ∧ bits h 31 14 ≠ 0 ∧ (tget s.instars i).getD 0 = bits h 31 14 ∧ (tget s.ctxs i).isSome then some i else none

/-- The handle of the context in a slot. -/
def State.handleOf (s : State) (slot : Nat) : Nat := (tget s.instars slot).getD 0 * 2 ^ 14 + slot

/-- Whether the context in slot `y` is a peer of `c` in slot `k` (10 R248). -/
def State.isPeer (s : State) (k : Nat) (c : Ctx) (y : Nat) : Bool :=
  match tget s.ctxs y with
  | none => false
  | some v => decide (y = k) || (decide (v.tdom = c.tdom) && (c.super || decide (v.asid = c.asid)))

/-! ### Event vectors (10 R259) -/

/-- The 64-bit word `w` of an event vector. -/
def eventWord (v : BitVec 256) (w : Nat) : Word := v.extractLsb' (64 * w) 64

/-- Whether an `ev.wait` is satisfied (10 R261). -/
def waitSat (v : BitVec 256) (w : Nat) (any : Bool) (mask : Word) : Bool :=
  if any then decide (eventWord v w &&& mask ≠ 0) else decide (eventWord v w &&& mask = mask)

/-- The hardware bits 224-255 of an observed mask are consumed (10 R259, R261). -/
def consume (v : BitVec 256) (w : Nat) (mask : Word) : BitVec 256 :=
  if w = 3 then v &&& ~~~((mask &&& 0xFFFFFFFF00000000#64).zeroExtend 256 <<< 192) else v

/-- A word of a saved or placed core completes. It checked before it left that the frames it steps hold no contained entry. -/
def State.completeAt (s : State) (slot pos : Nat) : State :=
  match s.coreOf slot pos with
  | none => s
  | some c => match c.complete ((s.storeAt (storeKey slot pos)).bank c.spBank).data 1 with
    | .error _ => s
    | .ok (k, n) => (s.updCore slot pos (fun _ => { k with xcycle := k.xcycle + 1 })).count ((tget s.ctxs slot).elim 0 (fun x => x.tdom)) 9 n

/-- Let the context's `ev.wait` observe its vector (10 R259, R261). -/
def State.observeWait (s : State) (slot : Nat) : State :=
  match tget s.ctxs slot with
  | none => s
  | some c => match c.evWait with
    | none => s
    | some w =>
      if waitSat c.events w.word w.any w.mask then
        (s.setCtx slot { c with events := consume c.events w.word w.mask, evWait := none, woken := s.ptp }).completeAt slot w.pos
      else s

/-- Let each armed node observe the vector in order of arming (10 R252, R253, R259), the vector and the count
of readiness going on from one to the next. `m` holds the bits just set, zero when none was. The node `busy`, whose launch has been
placed and has not ended, observes nothing: it is disarmed when the launch ends (10 R252). -/
def observeNodes (busy : Option Nat) (m : BitVec 256) : List Node → BitVec 256 × Nat → List Node × BitVec 256 × Nat
  | [], (v, o) => ([], v, o)
  | n :: r, (v, o) =>
    let sat := n.ready.isNone && decide (busy ≠ some n.pa) &&
      (if n.record.wait = 0 then !n.latch || decide (m ≠ 0)
        else decide (v &&& n.record.wait = n.record.wait) && (!n.latch || decide (m &&& n.record.wait ≠ 0)))
    let v1 := if sat then v &&& ~~~n.record.wait else v
    let (t, v2, o2) := observeNodes busy m r (v1, if sat then o + 1 else o)
    ((if sat then { n with ready := some o, latch := false } else n) :: t, v2, o2)

/-- Let every node of a context observe its vector. -/
def State.observeAll (s : State) (slot : Nat) (m : BitVec 256) : State :=
  match tget s.ctxs slot with
  | none => s
  | some c =>
    let (ns, v, o) := observeNodes (c.launch.map (fun l => l.nodePa)) m c.nodes (c.events, s.orders)
    { s.setCtx slot { c with nodes := ns, events := v, woken := if o = s.orders then c.woken else s.ptp } with orders := o }

/-- Set bits of a context's vector and let its observers look, `ev.wait` first (10 R259). -/
def State.setEvents (s : State) (slot : Nat) (m : BitVec 256) : State :=
  match tget s.ctxs slot with
  | none => s
  | some c =>
    if m = 0 then s
    else ((s.setCtx slot { c with events := c.events ||| m }).observeWait slot).observeAll slot m

/-- Set one bit of a context's vector. -/
def State.setEvent (s : State) (slot bit : Nat) : State := s.setEvents slot (BitVec.twoPow 256 bit)

/-- Set event 228 of a domain's supervisor (10 R246). -/
def State.tellSuper (s : State) (d : Nat) : State :=
  match (s.dom d).bind (fun x => x.super) with
  | none => s
  | some k => s.setEvent k 228

/-! ### Fault records and monitors (13 R349, R350) -/

/-- Write a record in the package's ring. -/
def State.pkgRecord (s : State) (addr syn tier kind : Nat) : State :=
  { s with pkgRing := s.pkgRing.add (faultRecord s.ptp addr 0 0 syn tier kind) }

/-- Names of words that have no address: of a tile register or accumulator by its byte, of a queue by the command's window and
the place in it (13 R336 tells words apart). -/
def tileName (t off : Nat) : Nat := 2 ^ 60 + t * 2 ^ 12 + off
def accName (a off : Nat) : Nat := 2 ^ 60 + 2 ^ 20 + a * 2 ^ 13 + off
def queueName (q i : Nat) : Nat := 2 ^ 61 + q * 2 ^ 32 + i

/-- PDATA of a containment event (13 Table 13-5): the word's address, or 0 for a word that has none. -/
def wordAddr (a : Nat) : Nat := if 2 ^ 60 ≤ a then 0 else a % 2 ^ 56

/-- The tier in which a word was found: addresses of store space carry the mark 2^56, and 0 stands for a register. -/
def tierOf (a : Nat) : Nat := if a = 0 then 0 else if 2 ^ 61 ≤ a then 1 else if 2 ^ 60 ≤ a then 0 else if 2 ^ 56 ≤ a then 1 else match placeOf a with
  | .pool => 6
  | .hbm => 4
  | _ => 8

/-- The syndrome of the word that an event names: a physical address, or one of store space with the mark 2^56 as the core's
position sees it. -/
def State.synAt (s : State) (slot core a : Nat) : BitVec 8 :=
  if 2 ^ 56 ≤ a then
    match s.storeTarget { dom := 0, asid := 0, super := false, slot := slot, pos := (s.coreAt core).pos } (a - 2 ^ 56) 8 with
    | some (key, b, off) => (((s.storeAt key).bank b).data.word off).syn
    | none => 0
  else (s.physWord a).syn

/-- Write a record about a word that a core's lanes contained; only physical addresses are named, and `reg` is the syndrome
of a word that has no address. A lasting event of a poisoned word is of the kind poison (13 R327, Table 13-10). -/
def State.wordRecord (s : State) (d slot core a kind : Nat) (reg : BitVec 8) : State :=
  let z := if a = 0 ∨ 2 ^ 60 ≤ a then reg else s.synAt slot core a
  (s.count d 10 1).domRecord d (if 2 ^ 56 ≤ a then 0 else a) (s.handleOf slot) core z.toNat (tierOf a) (if kind = 2 ∧ z = 0xFF then 3 else kind)

/-- A monitor with no sample. -/
def Monitor.clear : Monitor := { min := 2 ^ 64 - 1, max := 0, count := 0, sum := 0, bins := List.replicate 16 0 }

/-- The bin of a sample (13 R350). -/
def monitorBin (shift v : Nat) : Nat := if v < 2 ^ shift then 0 else min 15 (Nat.log2 v - shift + 1)

/-- Count a sample: everything saturates (13 R350). -/
def Monitor.add (m : Monitor) (shift v : Nat) : Monitor :=
  let b := monitorBin shift v
  { min := Nat.min m.min v
    max := Nat.max m.max v
    count := Nat.min (m.count + 1) (2 ^ 64 - 1)
    sum := Nat.min (m.sum + v) (2 ^ 64 - 1)
    bins := setAt m.bins b (Nat.min (m.bins.getD b 0 + 1) (2 ^ 32 - 1)) }

/-- The SHIFT of each domain monitor (13 Table 13-11). -/
def monitorShift (i : Nat) : Nat := [4, 8, 6, 8, 4, 2, 8, 0, 0, 0, 0].getD i 0

/-- Count a sample in a domain's monitor. -/
def State.sample (s : State) (d i v : Nat) : State :=
  match s.dom d with
  | none => s
  | some x => s.setDom d { x with monitors := tset x.monitors i (((tget x.monitors i).getD Monitor.clear).add (monitorShift i) v) }

end Sys2Proof.Machine
end

