-- ==== Sys2Proof/Machine/Residency.lean ====
section
/-! DEFINITION. KV pages: the directory, moves, leases, homes, and the policy that starts moves (11 R280-R292, 17
R374-R377). -/

namespace Sys2Proof.Machine

/-! ### Frames and room (01 R21, R22) -/

/-- Bytes of one core's frame under a live mask. -/
def frameBytes (live : BitVec 20) : Nat :=
  11264 + 4096 * ((List.range 16).filter (fun i => live.getLsbD i)).length +
    8192 * ((List.range 4).filter (fun i => live.getLsbD (16 + i))).length

/-- Physical index of a logical position of a launch placed at an origin (01 R26). -/
def physOf (rect origin pos : Nat) : Nat :=
  let (c, r, _, _) := rectOf rect
  (origin / 64 + (pos / 64 - r)) * 64 + (origin % 64 + (pos % 64 - c))

/-- Cores of a launch that lie on a die. -/
def coresOnDie (l : Launch) (die : Nat) : Nat :=
  ((rectCores l.record.rect.toNat).filter (fun p => dieOf (physOf l.record.rect.toNat l.origin p) = die)).length

/-- Chrysalis-store bytes that saved frames take on a die: 96 MiB are there. -/
def State.chrysalisUsed (s : State) (die : Nat) : Nat :=
  (s.ctxs.map (fun c => match c.2.launch with
    | some l => if l.frames ≠ [] ∧ !l.inHbm then coresOnDie l die * frameBytes l.record.live else 0
    | none => 0)).sum

/-! ### Directory entries (11 Table 11-3) -/

def eTier (e : Word) : Nat := bits e.toNat 63 62
def eMoving (e : Word) : Bool := e.getLsbD 61
def ePin (e : Word) : Bool := e.getLsbD 60
def ePref (e : Word) : Nat := bits e.toNat 59 58
def eAsid (e : Word) : Nat := bits e.toNat 55 40
def eLoc (e : Word) : Nat := bits e.toNat 35 0

/-- An entry with MOVING set or clear. -/
def withMoving (e : Word) (b : Bool) : Word := BitVec.ofNat 64 (putBits e.toNat 61 61 (if b then 1 else 0))

/-- An entry with a new tier and location, MOVING clear. -/
def placedIn (e : Word) (tier loc : Nat) : Word :=
  BitVec.ofNat 64 (putBits (putBits (putBits e.toNat 63 62 tier) 61 61 0) 35 0 loc)

/-- Physical core and even bank of a store-tier LOC. -/
def locCore (loc : Nat) : Nat := bits loc 5 0 * 64 + bits loc 11 6
def locBank (loc : Nat) : Nat := bits loc 15 12

/-- The store-tier LOC of a bank of a physical core. -/
def storeLoc (core bank : Nat) : Nat := bank * 2 ^ 12 + core % 64 * 2 ^ 6 + core / 64

/-- The domain that has a die. -/
def State.domOfDie (s : State) (die : Nat) : Option Nat := (s.doms.find? (fun d => d.2.dies.getLsbD die)).map (fun d => d.1)

/-- The die of a page's location: of its frame or of its core; a pool page has none. -/
def pageDie (e : Word) : Option Nat :=
  match eTier e with
  | 0 => some (dieOf (locCore (eLoc e)))
  | 1 => some (dieOfPa (eLoc e * 2 ^ 16))
  | _ => none

/-- The domain in which a page lies; a free page lies in none. -/
def State.pageDom (s : State) (e : Word) : Option Nat :=
  match eTier e with
  | 2 => (s.poolSeg (eLoc e * 2 ^ 16)).map (fun g => g.dom)
  | 3 => none
  | _ => (pageDie e).bind s.domOfDie

/-! ### The bytes of a page -/

/-- The store key and bank of a page's store home. -/
def State.homeOf (s : State) (k : Nat) : Option (Nat × Nat) := (tget s.homes k).map (fun h => (storeKey h.slot h.pos, h.bank))

/-- `n` check words at byte `off` of page `k` at a tier and location; they lie in one bank. A store-tier page without a home
has undefined contents. -/
def State.kvWords (s : State) (k tier loc off n : Nat) : List CWord :=
  if tier = 0 then
    match s.homeOf k with
    | none => (List.range n).map (fun i => CWord.good (Config.freeBits 64 s.tick (2 ^ 24 + off / 8 + i)))
    | some (key, b) => ((s.storeAt key).bank (b + off / 0x8000)).data.words (off % 0x8000) n
  else s.mem.words (loc * 2 ^ 16 + off) n

/-- Write check words of a page. -/
def State.kvSetWords (s : State) (k tier loc off : Nat) (ws : List CWord) : State :=
  if tier = 0 then
    match s.homeOf k with
    | none => s
    | some (key, b) =>
      let m := ((s.storeAt key).bank (b + off / 0x8000)).data
      s.setBankData key (b + off / 0x8000) (m.setWords (off % 0x8000) ws)
  else s.physSetWords (loc * 2 ^ 16 + off) ws

/-- Copy a page's 8,192 check words, codes and all (11 R286). The memory controllers see the copy's reads and writes; a pool
destination is written directly, not through the memory-side cache. -/
def State.kvCopy (s : State) (k t0 l0 t1 l1 : Nat) : State :=
  if t0 = t1 ∧ l0 = l1 then s
  else
    let lo := s.kvWords k t0 l0 0 4096
    let hi := s.kvWords k t0 l0 0x8000 4096
    let s := if t0 = 0 then s else s.note (l0 * 2 ^ 16) 65536
    let s := if t1 = 1 then s.note (l1 * 2 ^ 16) 65536 else s
    (s.kvSetWords k t1 l1 0 lo).kvSetWords k t1 l1 0x8000 hi

/-! ### Frames (17 R374) -/

/-- Whether a 64 KiB frame holds a page, is the target of a move or is still fenced. -/
def State.frameUsed (s : State) (f : Nat) : Bool :=
  s.dir.any (fun e => (decide (eTier e.2 = 1) || decide (eTier e.2 = 2)) && decide (eLoc e.2 = f)) ||
    s.moves.any (fun m => decide (m.tier ≠ 0) && decide (m.loc = f)) || s.moveQueue.any (fun m => decide (m.tier ≠ 0) && decide (m.loc = f)) ||
    s.fences.any (fun m => decide (m.tier ≠ 0) && decide (m.loc = f))

/-- Free KV frames of a domain that meet a condition. -/
def State.freeFrames (s : State) (d : Nat) (ok : Nat → Bool) : List Nat :=
  match s.dom d with
  | none => []
  | some x => x.kvFrames.filter (fun f => ok f && !s.frameUsed f)

/-- The least number of a list. -/
def least (l : List Nat) : Option Nat :=
  l.foldl (fun m f => match m with
    | none => some f
    | some g => some (min g f)) none

/-- Whether a frame number lies in HBM4E, and on a die. -/
def frameHbm (f : Nat) : Bool := decide (placeOf (f * 2 ^ 16) = .hbm)
def framePool (f : Nat) : Bool := decide (placeOf (f * 2 ^ 16) = .pool)
def frameOnDie (die f : Nat) : Bool := frameHbm f && decide (dieOfPa (f * 2 ^ 16) = die)

/-! ### Distances and eligibility (11 R288) -/

/-- The wake distance of a context. -/
def State.wakeDistance (s : State) (c : Ctx) : Nat :=
  match c.state with
  | .running => 0
  | .ready => 0
  | _ => (s.cbWord c 0x40).toNat - s.ptp

/-- A page's distance: none is unbounded. -/
def State.pageDistance (s : State) (d asid : Nat) : Option Nat :=
  least ((s.ctxs.filter (fun c => decide (c.2.tdom = d) && decide (c.2.asid = asid))).map (fun c => s.wakeDistance c.2))

/-- Whether a page is on a published top-64 list. -/
def State.onTop (s : State) (e : Word) : Bool :=
  decide (eTier e = 1) &&
    (s.stack (stackOf (eLoc e * 2 ^ 16))).top.any (fun t => decide (t.1 = eLoc e % 2 ^ 23))

/-- Whether a page is eligible for demotion. -/
def State.mayDemote (s : State) (k : Nat) : Bool :=
  let e := s.dirEntry k
  let t := eTier e
  decide (t ≤ 1) && !ePin e && !eMoving e && !s.onTop e &&
    (match s.pageDom e with
      | none => false
      | some d => match s.pageDistance d (eAsid e) with
        | none => true
        | some x => decide ((if t = 0 then s.res.dstore else s.res.dpool) < x) && decide (s.res.plead ≤ x))

/-- Whether a fix-up entry or a PAGES park names a page that is not present (11 R289). -/
def State.faultNames (s : State) (k : Nat) : Bool :=
  s.cmds.any (fun c => c.fixups.any (fun f => decide (f.promote = some k))) ||
    s.ctxs.any (fun c => decide (c.2.parkCause = 3) && decide (c.2.pagesOf = some k))

/-- Whether a faulted page of the home die still waits for its move, which goes before any other. -/
def State.faultWaits (s : State) (die : Nat) : Bool :=
  s.dir.any (fun e => decide (e.1 % 4 = die) && decide (eTier e.2 = 2) && !eMoving e.2 && s.faultNames e.1)

/-- The greater distance first: unbounded before any number. -/
def farther (a b : Option Nat) : Bool :=
  match a, b with
  | none, some _ => true
  | some x, some y => decide (y < x)
  | _, none => false

/-- A die is short of HBM4E for KV pages, or of chrysalis store (11 R288). -/
def State.pressed (s : State) (d die : Nat) : Bool :=
  decide ((s.freeFrames d (frameOnDie die)).length * 2 ^ 16 < s.res.hreserve) ||
    decide (96 * 2 ^ 20 < s.chrysalisUsed die + ((s.dom d).map (fun x => x.sched.dlreserve)).getD 0)

/-! ### Moves (11 R286, R287) -/

/-- The earliest time at which the last lease on a page's old entry has ended, on the package cycle counter. -/
def State.leaseEnd (s : State) (k : Nat) : Nat :=
  (s.leases.filter (fun l => decide (l.kvpn = k))).foldl (fun m l => max m l.ends) s.cycle

/-- Whether a location is still fenced: it is reused only after every lease on an old entry that named it has ended (11 R286). -/
def State.fenced (s : State) (tier loc : Nat) : Bool := s.fences.any (fun f => decide (f.tier = tier) && decide (f.loc = loc))

/-- Whether a store-tier location on a physical core is still fenced. -/
def State.coreFenced (s : State) (core : Nat) : Bool := s.fences.any (fun f => decide (f.tier = 0) && decide (locCore f.loc = core))

/-- Whether a move of a page to a location may start: its home die's engine runs fewer than 16, the new location is not fenced, and
no faulted page waits for its own move (11 R286, R289). -/
def State.moveMay (s : State) (k tier loc : Nat) (fault : Bool) : Bool :=
  decide ((s.moves.filter (fun m => decide (m.kvpn % 4 = k % 4))).length < 16) && (fault || !s.faultWaits (k % 4)) &&
    (decide (eTier (s.dirEntry k) = tier ∧ eLoc (s.dirEntry k) = loc) || !s.fenced tier loc)

/-- The move of a page to a location, under an entry whose other fields `e` gives. -/
def State.moveOf (s : State) (k : Nat) (e : Word) (tier loc : Nat) (demotion : Bool) : Move :=
  { kvpn := k, old := s.dirEntry k, entry := placedIn e tier loc, tier := tier, loc := loc, t0 := s.ptp, demotion := demotion }

/-- A move starts: MOVING is set and the old location is fenced (11 R286). -/
def State.begin (s : State) (m : Move) : State :=
  { s.setDir m.kvpn (withMoving m.old true) with moves := s.moves ++ [m] }

/-- Start a move of a page to a location, if it may start now. -/
def State.startMove (s : State) (k tier loc : Nat) (demotion fault : Bool) : State :=
  if s.moveMay k tier loc fault then s.begin (s.moveOf k (s.dirEntry k) tier loc demotion) else s

/-- Carry out a requested move: at once, or as soon as it may start. -/
def State.wantMove (s : State) (m : Move) : State :=
  if s.moveMay m.kvpn m.tier m.loc false then s.begin m else { s with moveQueue := s.moveQueue ++ [m] }

/-- The requested moves that wait are tried again, the oldest first; one whose page has been freed is forgotten. -/
def State.startQueued (s : State) : State :=
  s.moveQueue.foldl (fun s m =>
    let e := s.dirEntry m.kvpn
    if eMoving e then { s with moveQueue := s.moveQueue ++ [m] }
    else if eTier e = 3 then s
    else s.wantMove { m with old := e, t0 := s.ptp }) { s with moveQueue := [] }

/-- Start a move to the lowest-addressed free frame of HBM4E (tier 1) or the pool (tier 2). -/
def State.startFrameMove (s : State) (d k tier : Nat) (demotion fault : Bool) : State :=
  match least (s.freeFrames d (if tier = 1 then frameHbm else framePool)) with
  | none => s
  | some f => s.startMove k tier f demotion fault

/-- Cancel the demotions of an address space that are not yet installed: the old entries stand (11 R287, R289). -/
def State.cancelDemotions (s : State) (d asid : Nat) : State :=
  let gone := s.moves.filter (fun m => m.demotion && decide (eAsid m.old = asid) && decide (s.pageDom m.old = some d))
  let s := gone.foldl (fun s m => s.setDir m.kvpn m.old) s
  ({ s with moves := s.moves.filter (fun m => !gone.contains m) } : State).startQueued

/-- Whether a page is present to KV commands (11 Table 11-1). -/
def State.isPresent (s : State) (k : Nat) : Bool := decide (eTier (s.dirEntry k) ≤ 1) && !eMoving (s.dirEntry k)

/-- The park that a page ends: event 224, and the context waits for nothing more (10 R245, 11 R289). -/
def State.pagePresent (s : State) (k : Nat) : State :=
  let waiting := s.ctxs.filter (fun c => decide (c.2.parkCause = 3) && decide (c.2.pagesOf = some k) && decide (c.2.state ≠ .running))
  waiting.foldl (fun s x => match tget s.ctxs x.1 with
    | none => s
    | some c => (s.setCtx x.1 { c with parkCause := 0, pagesOf := none, woken := s.ptp }).setEvent x.1 224) s

/-- MOVE_INSTALL: the copy is complete; the new entry stands and the old location, if the page has left it, stays fenced until its
leases have ended. -/
def State.moveInstall (s : State) (k : Nat) : State :=
  match s.moves.find? (fun m => decide (m.kvpn = k)) with
  | none => s
  | some m =>
    let s := s.kvCopy k (eTier m.old) (eLoc m.old) m.tier m.loc
    let d := (s.pageDom m.old).getD 0
    let f : Fence := { tier := eTier m.old, loc := eLoc m.old, dom := d, kvpn := k, ends := s.leaseEnd k }
    let s := { s.setDir k m.entry with
      moves := s.moves.filter (fun x => decide (x.kvpn ≠ k))
      fences := if m.tier = f.tier ∧ m.loc = f.loc then s.fences else s.fences ++ [f] }
    (if m.tier ≤ 1 then s.pagePresent k else s).startQueued

/-- OLD_LOCATION_RELEASE: the fence of an old location is lifted once every lease on the old entry has ended. -/
def State.releaseOld (s : State) (i : Nat) : State :=
  match s.fences[i]? with
  | none => s
  | some f => if f.ends ≤ s.cycle then ({ s with fences := s.fences.eraseIdx i } : State).startQueued else s

/-- DIRECTORY_LEASE_EXPIRY: the die drops its copy (11 R285). -/
def State.leaseExpiry (s : State) (die k : Nat) : State :=
  { s with leases := s.leases.filter (fun l => !(decide (l.die = die) && decide (l.kvpn = k) && decide (l.ends ≤ s.cycle))) }

/-- The leases after a die whose cache of 1,024 entries is full has dropped the copy that ends first (11 R284): the lease itself runs
to its end. -/
def dropCopy (die : Nat) (l : List DirLease) : List DirLease :=
  let mine := l.filter (fun x => decide (x.die = die) && x.held)
  if mine.length < 1024 then l
  else match mine.foldl (fun (b : Option DirLease) x => match b with
    | none => some x
    | some y => some (if x.ends < y.ends then x else y)) none with
    | none => l
    | some y => l.map (fun x => if x = y then { x with held := false } else x)

/-- A die's lookup of a page (11 R285, R286): it waits while the page moves; otherwise the die holds the entry under a lease
of DLEASE, counted in cycles of the nominal 1.8 GHz. -/
def State.kvLookup (s : State) (die k : Nat) : Option (State × Word) :=
  let e := s.dirEntry k
  if eMoving e then none
  else if s.leases.any (fun l => decide (l.die = die) && decide (l.kvpn = k) && l.held && decide (s.cycle < l.ends) && decide (l.entry = e)) then
    some (s, e)
  else
    let l : DirLease := { die := die, kvpn := k, entry := e, ends := s.cycle + s.res.dlease * 9 / 5, held := true }
    some ({ s with leases := dropCopy die (s.leases.filter (fun x => !(decide (x.die = die) && decide (x.kvpn = k) && x.held))) ++ [l] }, e)

/-- Whether the pacing of its address space lets a demotion of a page of a domain start (11 R288). -/
def State.due (s : State) (d : Nat) (e : Word) : Bool :=
  match tget s.paced (d * 65536 + eAsid e) with
  | none => true
  | some t => decide (t + s.res.dpace ≤ s.ptp)

/-- Whether a demotion of a page could start now: it is eligible, there is a free frame of the next tier, and its home die's engine
takes it. -/
def State.demotable (s : State) (d k : Nat) : Bool :=
  s.mayDemote k && (match least (s.freeFrames d (if eTier (s.dirEntry k) = 0 then frameHbm else framePool)) with
    | none => false
    | some f => s.moveMay k (eTier (s.dirEntry k) + 1) f false)

/-- DEMOTION_START (11 R288): a page that could be demoted and is not held back by the pacing, before which no such page comes in the
order of the tiers and KVPNs; or one of a die that is short of room, the farthest first. -/
def State.demotionStart (s : State) (k : Nat) : State :=
  let e := s.dirEntry k
  match s.pageDom e with
  | none => s
  | some d =>
    if !s.demotable d k then s
    else
      let before (j : Nat) (f : Word) : Bool := decide (eTier f < eTier e) || (decide (eTier f = eTier e) && decide (j < k))
      let first := !s.dir.any (fun x => before x.1 x.2 && (s.pageDom x.2).any (fun g => s.due g x.2 && s.demotable g x.1))
      let die := (pageDie e).getD 0
      let short := s.pressed d die &&
        !s.dir.any (fun x => decide (pageDie x.2 = some die) && decide (s.pageDom x.2 = some d) && s.demotable d x.1 &&
          farther (s.pageDistance d (eAsid x.2)) (s.pageDistance d (eAsid e)))
      if s.due d e && first then
        { s.startFrameMove d k (eTier e + 1) true false with paced := tset s.paced (d * 65536 + eAsid e) s.ptp }
      else if short then s.startFrameMove d k (eTier e + 1) true false
      else s

/-- PROMOTION_START (11 R289, 17 R375, R377): for a fault, or at a wake, which first cancels the demotions of the address
space; one tier at a time, and to the store tier only when the page has a store home. -/
def State.promotionStart (s : State) (k : Nat) : State :=
  let e := s.dirEntry k
  match s.pageDom e with
  | none => s
  | some d =>
    let wakes := match s.pageDistance d (eAsid e) with
      | none => false
      | some x => decide (x = 0) || decide (x < s.res.plead)
    let s := if wakes then s.cancelDemotions d (eAsid e) else s
    let e := s.dirEntry k
    if eMoving e then s
    else if s.faultNames k ∧ eTier e = 2 then s.startFrameMove d k 1 false true
    else if !wakes || decide (eTier e ≤ ePref e) then s
    else if eTier e = 2 then s.startFrameMove d k 1 false false
    else if s.dir.any (fun x => decide (eAsid x.2 = eAsid e) && decide (s.pageDom x.2 = some d) && decide (eTier x.2 = 2) && decide (ePref x.2 < 2)) then s
    else match s.homeOf k with
      | none => s
      | some (key, b) => match tget s.bound key with
        | none => s
        | some core => s.startMove k 0 (storeLoc core b) false false

/-! ### Reclaiming banks (11 R287, 17 R375, 01 R22) -/

/-- Mark or unmark the bank pair of a home. -/
def State.markPair (s : State) (key b : Nat) (page : Option Nat) : State :=
  let t := s.storeAt key
  let t := t.setBank b { t.bank b with page := page }
  s.setStore key (t.setBank (b + 1) { t.bank (b + 1) with page := page })

/-- Drop a page's store home. The pair's contents are undefined from then on. -/
def State.dropHome (s : State) (k : Nat) : State :=
  match s.homeOf k with
  | none => s
  | some (key, b) =>
    let s := s.markPair key b none
    let e := s.epoch key (b % 16)
    let s := s.setBankData key b { cells := [], fill := some e, bad := [] }
    let s := s.setBankData key (b + 1) { cells := [], fill := some (e + 1), bad := [] }
    { s with homes := tdel s.homes k }

/-- Take back the physical banks of a store. Pages of the store tier first move to HBM4E; once none is left and no lease on an old
entry still names the banks, the homes are dropped and the banks are no longer bound. -/
def State.reclaim (s : State) (key : Nat) : State :=
  let mine := (s.homes.filter (fun h => decide (storeKey h.2.slot h.2.pos = key))).map (fun h => h.1)
  let inStore := mine.filter (fun k => decide (eTier (s.dirEntry k) = 0))
  if inStore = [] then
    if mine.any (fun k => (s.moves ++ s.moveQueue).any (fun m => decide (m.kvpn = k) && decide (m.tier = 0))) ||
        (tget s.bound key).any s.coreFenced then s
    else { mine.foldl State.dropHome s with bound := tdel s.bound key }
  else inStore.foldl (fun s k =>
    let e := s.dirEntry k
    if eMoving e then s
    else match s.pageDom e with
      | none => s
      | some d => s.startFrameMove d k 1 false false) s

/-- BANK_RECLAIM: the scheduler takes back the physical banks of a position of a context that is not running. -/
def State.bankReclaim (s : State) (slot pos : Nat) : State :=
  let key := storeKey slot pos
  let idle := (tget s.ctxs slot).any (fun c => decide (c.state ≠ .running) || !c.launch.any (fun l => inRect l.record.rect.toNat pos))
  if (tget s.bound key).isSome ∧ idle then s.reclaim key else s

/-! ### Residency requests (14 R355) -/

/-- Set the status of the domain's last residency request: 0 done, 1 not in the domain, 2 busy, 3 bad field. -/
def State.resAnswer (s : State) (d status : Nat) : State :=
  match s.dom d with
  | none => s
  | some x => s.setDom d { x with resStatus := status }

/-- Carry out a request on a page of the domain that does not move. -/
def State.resOp (s : State) (d k : Nat) (f : State → Word → State × Nat) : State :=
  let e := s.dirEntry k
  if s.pageDom e ≠ some d then s.resAnswer d 1
  else if eMoving e then s.resAnswer d 2
  else
    let (t, n) := f s e
    t.resAnswer d n

/-- A request that changes PIN or PREF: a move of the page to where it is, under its new entry (11 R284, R286). -/
def State.resEntry (s : State) (d k : Nat) (f : Nat → Nat) : State :=
  s.resOp d k (fun s e => (s.wantMove (s.moveOf k (BitVec.ofNat 64 (f e.toNat)) (eTier e) (eLoc e) false), 0))

/-- Operations 0 and 1: PIN. -/
def State.resPin (s : State) (d k : Nat) (on : Bool) : State := s.resEntry d k (fun e => putBits e 60 60 (if on then 1 else 0))

/-- Operation 2: PREF. -/
def State.resPref (s : State) (d k pref : Nat) : State :=
  if pref = 3 then s.resAnswer d 3 else s.resEntry d k (fun e => putBits e 59 58 pref)

/-- A PAGES park that names a page which cannot be made present becomes a violation (10 R246). -/
def State.pageLost (s : State) (k : Nat) : State :=
  let waiting := s.ctxs.filter (fun c => decide (c.2.parkCause = 3) && decide (c.2.pagesOf = some k) && decide (c.2.state ≠ .running))
  waiting.foldl (fun s x => match tget s.ctxs x.1 with
    | none => s
    | some c => ((s.setCtx x.1 { c with parkCause := 2, pagesOf := none }).setCbBits c 0x20 3 0 2).tellSuper c.tdom) s

/-- Operation 3: free the page. Its frame is free again once the leases on its entry have ended; a park that waits for it cannot be
resolved any more. -/
def State.resFree (s : State) (d k : Nat) : State :=
  s.resOp d k (fun s e =>
    let f : Fence := { tier := eTier e, loc := eLoc e, dom := d, kvpn := k, ends := s.leaseEnd k }
    (({ (s.dropHome k).setDir k dirFree with fences := s.fences ++ [f] } : State).pageLost k, 0))

/-- Operation 4: move to the store tier. The pair must be bound to the store state of a context of the page's ASID, in
SCRATCH or SKEW mode and with no other page. -/
def State.resToStore (s : State) (d k loc : Nat) : State :=
  s.resOp d k (fun s e =>
    let b := locBank loc
    let owner := s.bound.findSome? (fun x =>
      if x.2 = locCore loc ∧ (tget s.ctxs (x.1 / 4096)).any (fun c => decide (c.tdom = d) && decide (c.asid = eAsid e)) then some x.1 else none)
    match owner with
    | none => (s, 3)
    | some key =>
      let t := s.storeAt key
      let fit (i : Nat) : Bool := ((t.bank i).page.isNone || decide ((t.bank i).page = some k)) && (decide ((t.bank i).mode = .scratch) || decide ((t.bank i).mode = .skew))
      if loc / 2 ^ 16 ≠ 0 ∨ b % 2 ≠ 0 ∨ !fit b ∨ !fit (b + 1) then (s, 3)
      else if eTier e = 0 ∧ eLoc e = loc then (s, 0)
      else if eTier e = 0 then (s, 3)
      else
        let s := s.dropHome k
        let s := (s.markPair key b (some k))
        let h : Home := { slot := key / 4096, pos := key % 4096, bank := b }
        let s := { s with homes := tset s.homes k h }
        (s.wantMove (s.moveOf k e 0 loc false), 0))

/-- A request as written to a domain's residency block: 16 bytes. -/
def State.resRequest (s : State) (d v : Nat) : State :=
  let k := bits v 127 104
  let op := bits v 103 100
  let pref := bits v 99 98
  let loc := bits v 35 0
  if bits v 97 36 ≠ 0 ∨ (op ≠ 2 ∧ pref ≠ 0) ∨ (op ≠ 4 ∧ loc ≠ 0) then s.resAnswer d 3
  else match op with
    | 0 => s.resPin d k true
    | 1 => s.resPin d k false
    | 2 => s.resPref d k pref
    | 3 => s.resFree d k
    | 4 => s.resToStore d k loc
    | _ => s.resAnswer d 3

end Sys2Proof.Machine
end

