-- ==== Sys2Proof/Machine/Sched.lean ====
section
/-! DEFINITION. Launch records, nodes, placement, leaving the cores and coming back (10 R249-R274, 01 R21-R29). -/

namespace Sys2Proof.Machine

/-! ### Reading records (10 R251) -/

/-- The agent that reads in a context's address space: from the cores of its launch while they are placed (log 46). -/
def State.whoOf (s : State) (slot pos : Nat) : Who :=
  match tget s.ctxs slot with
  | some c => { dom := c.tdom, asid := c.asid, super := c.super, slot := slot, pos := pos, cluster := (s.placedAt slot pos).map clusterOf }
  | none => { dom := 0, asid := 0, super := false, slot := slot, pos := pos }

/-- The domain whose lane reads in a space. -/
def Space.domOf (sp : Space) : Nat :=
  match sp with
  | .virt d _ => d
  | .phys d => d

/-- A place in a record's address space. Physical memory too is read within the domain's reach alone (01 R20, 12 R301). -/
def State.spaceAt (s : State) (sp : Space) (va : Nat) : State × Got Nat :=
  match sp with
  | .phys d => (s, if s.physOk d false va then .ok va else .viol va)
  | .virt d a =>
    match s.translate { dom := d, asid := a, super := false, slot := 0, pos := 0 } needR va with
    | (s, .ok pa _) => (s, .ok pa)
    | (s, .fault) => (s, .pages va)
    | (s, .viol x) => (s, .viol x)
    | (s, .data x) => (s.wordRecord d 0 0 x 2 0, .data x)

/-- The word that the scheduler reads at a physical address; `i` tells reads of one step apart. A word of another package is free,
and that package may refuse it (14 R357; log 11); one behind a pool link that is down is not there yet, or is poisoned (14 R356). -/
def State.spaceWord (s : State) (d pa i : Nat) : State × Got Nat :=
  match placeOf pa with
  | .remote _ =>
    (s, if s.refusedAway (2 ^ 20 + i) then .viol pa else .ok (Config.freeBits 64 s.tick (2 ^ 34 + i)).toNat)
  | _ => match s.downPort pa with
    | some p => (s, if s.linkDead p then .data pa else .far pa)
    | none => match (s.physWord pa).use with
      | none => (s.wordRecord d 0 0 pa 2 0, .data pa)
      | some v => ((s.note pa 8).postPhys d pa 8, .ok v.toNat)

/-- Read `n` words from an address of a space, each as a load at system scope. -/
def State.readWords (s : State) (sp : Space) (va : Nat) : Nat → State × Got (List Nat)
  | 0 => (s, .ok [])
  | n + 1 =>
    match s.spaceAt sp va with
    | (s, .ok pa) =>
      match s.spaceWord sp.domOf pa va with
      | (s, .ok v) => match s.readWords sp (va + 8) n with
        | (t, .ok r) => (t, .ok (v :: r))
        | o => o
      | (s, .pages x) => (s, .pages x)
      | (s, .viol x) => (s, .viol x)
      | (s, .data x) => (s, .data x)
      | (s, .dev x) => (s, .dev x)
      | (s, .far x) => (s, .far x)
    | (s, .pages x) => (s, .pages x)
    | (s, .viol x) => (s, .viol x)
    | (s, .data x) => (s, .data x)
    | (s, .dev x) => (s, .dev x)
    | (s, .far x) => (s, .far x)

/-- The value of a span register entry is one that the descriptor may hold (10 R250): TYPE not 11 or 15, QUEUE not
17-31, reserved bits zero. -/
def descOk (v : Nat) : Bool :=
  decide (bits v 47 44 ≠ 11) && decide (bits v 47 44 ≠ 15) && decide (bits v 43 39 ≤ 16) && decide (bits v 38 0 = 0)

/-- Span entries of an image descriptor (10 Table 10-11), four words each; none when a rule is broken. -/
def spanEntries : Nat → List Nat → Table Desc → Option (Table Desc)
  | 0, _, t => some t
  | n + 1, a :: z :: lo :: hi :: r, t =>
    let v := hi * 2 ^ 64 + lo
    if a < 384 ∧ z = 0 ∧ descOk v ∧ (tget t a).isNone then spanEntries n r (tset t a (BitVec.ofNat 128 v)) else none
  | _, _, _ => none

/-- Read and check an image descriptor (10 R250): the live mask and the spans, none when it is to be rejected, `far` when a word of it
is not there yet. -/
def State.readDescriptor (s : State) (sp : Space) (ldesc : Nat) : State × Got (Option (BitVec 20 × Table Desc)) :=
  if ldesc = 0 then (s, .ok (some (BitVec.allOnes 20, [])))
  else match s.readWords sp ldesc 2 with
    | (s, .ok [a, b]) =>
      if a / 2 ^ 20 ≠ 0 ∨ 384 < b then (s, .ok none)
      else match s.readWords sp (ldesc + 16) (4 * b) with
        | (s, .ok l) => (s, .ok ((spanEntries b l []).map (fun t => (BitVec.ofNat 20 a, t))))
        | (s, .far x) => (s, .far x)
        | (s, _) => (s, .ok none)
    | (s, .far x) => (s, .far x)
    | (s, _) => (s, .ok none)

/-- Whether some physical rectangle of a shape lies within a set of dies (10 R251). -/
def shapeFits (dies : BitVec 4) (r : Nat) : Bool :=
  let (_, _, w, h) := rectOf r
  let d (i : Nat) := dies.getLsbD i
  if w = 64 ∧ h = 64 then d 0 && d 1 && d 2 && d 3
  else if w = 64 then (d 0 && d 1) || (d 2 && d 3)
  else if h = 64 then (d 0 && d 2) || (d 1 && d 3)
  else d 0 || d 1 || d 2 || d 3

/-- A 256-bit mask from four words, the lowest first. -/
def mask256 (l : List Nat) : BitVec 256 := BitVec.ofNat 256 (l.foldr (fun v t => v + 2 ^ 64 * t) 0)

/-- The fields of a launch record's sixteen words (10 Table 10-4), less its descriptor. -/
def parseRecord (w : List Nat) : LaunchRec :=
  let g (i : Nat) := w.getD i 0
  { ncase := bits (g 0) 63 50, node := bits (g 0) 49 48, weight := bits (g 0) 47 40, level := bits (g 0) 36 34
    cls := bits (g 0) 33 32, handle := BitVec.ofNat 32 (g 0), rect := BitVec.ofNat 18 (g 1)
    xentry := BitVec.ofNat 64 (g 2), aentry := BitVec.ofNat 64 (g 3), args := BitVec.ofNat 64 (g 4), deadline := g 5
    wait := mask256 [g 6, g 7, g 8, g 9], set := mask256 [g 10, g 11, g 12, g 13], cond := BitVec.ofNat 64 (g 14)
    succ0 := BitVec.ofNat 32 (g 15), succ1 := BitVec.ofNat 32 (g 15 / 2 ^ 32), live := 0, spans := [] }

/-- The field and alignment checks of 10 R251, less the descriptor and the rectangle's place. -/
def recordOk (w : List Nat) (r : LaunchRec) (span : Bool) : Bool :=
  let top (x : Word) := decide (x.extractLsb' 56 8 = 0)
  let (_, _, cw, ch) := rectOf r.rect.toNat
  decide (bits (w.getD 0 0) 39 37 = 0) && rectOk r.rect.toNat && (span || (decide (cw < 64) && decide (ch < 64))) &&
    top r.xentry && top r.aentry && top r.cond && decide (r.xentry.toNat % 8 = 0) && decide (r.aentry.toNat % 4 = 0) &&
    (if r.cls = 2 then decide (r.weight ≠ 0) else decide (r.weight = 0)) && (decide (r.cls = 1) || decide (r.level = 0)) &&
    (decide (r.cls = 0) || decide (r.deadline = 0)) &&
    (if r.node = 0 then decide (r.cond = 0) else decide (r.cond ≠ 0) && decide (r.cond.toNat % 8 = 0)) &&
    (decide (r.node = 3) || decide (r.ncase = 0)) && decide (r.set.extractLsb' 224 32 = 0)

/-- Who arms a record (10 R251): `launch` of the context in a slot, a host launch port, or a successor link. -/
inductive Armer where
  | launch (slot : Nat)
  | host (dom : Nat)
  | link
  deriving DecidableEq, Repr

/-- Arm a record whose words have been read at the physical address `pa` (10 R251): the status, or `far` when its descriptor is not
there yet. -/
def State.armWords (s : State) (by_ : Armer) (sp : Space) (va pa : Nat) (w : List Nat) : State × Got Nat :=
  let r := parseRecord w
  match s.slotOf r.handle.toNat with
  | none => (s, .ok 1)
  | some k =>
    match tget s.ctxs k with
    | none => (s, .ok 1)
    | some c =>
      let domOk := match by_ with | .host d => decide (c.tdom = d) | _ => true
      let peer := match by_ with
        | .launch j => (tget s.ctxs j).any (fun x => s.isPeer j x k)
        | _ => true
      if !domOk then (s, .ok 1)
      else if !peer then (s, .ok 3)
      else if !recordOk w r c.span then (s, .ok 2)
      else match s.readDescriptor (.virt c.tdom c.asid) (bits (w.getD 1 0) 63 18 * 2 ^ 10) with
        | (s, .ok (some (live, spans))) =>
          if !(s.dom c.tdom).any (fun d => shapeFits d.dies r.rect.toNat) then (s, .ok 5)
          else if s.ctxs.any (fun x => x.2.nodes.any (fun n => decide (n.pa = pa))) then (s, .ok 0)
          else if 256 ≤ c.nodes.length ∨ 65536 ≤ (s.ctxs.map (fun x => x.2.nodes.length)).sum then (s, .ok 4)
          else
            let n : Node := { pa := pa, va := va, space := sp, record := { r with live := live, spans := spans }, ready := none, latch := false }
            match tget s.ctxs k with
            | none => (s, .ok 1)
            | some c => ((s.setCtx k { c with nodes := c.nodes ++ [n] }).observeAll k 0, .ok 0)
        | (s, .far x) => (s, .far x)
        | (s, _) => (s, .ok 2)

/-- Arm the record at `va` of a space (10 R251): the status; the translation fault or violation of a read; or `far` when a word lies
behind a pool link that is down. A record with a word that cannot be corrected is rejected (13 R334). -/
def State.armRecord (s : State) (by_ : Armer) (sp : Space) (va : Nat) : State × Got Nat :=
  if va % 128 ≠ 0 then (s, .ok 2)
  else match s.spaceAt sp va with
    | (s, .ok pa) =>
      match s.readWords sp va 16 with
      | (s, .ok w) => s.armWords by_ sp va pa w
      | (s, .data _) => (s.tellSuper sp.domOf, .ok 2)
      | (s, .pages x) => (s, .pages x)
      | (s, .viol x) => (s, .viol x)
      | (s, .dev x) => (s, .viol x)
      | (s, .far x) => (s, .far x)
    | (s, .pages x) => (s, .pages x)
    | (s, .viol x) => (s, .viol x)
    | (s, .data x) => (s, .data x)
    | (s, .dev x) => (s, .viol x)
    | (s, .far x) => (s, .far x)

/-- Arm the successor at an address (10 R251, R252): a record that is rejected sets event 228; one behind a pool link that is down
waits for the link. -/
def State.armAt (s : State) (l : Link) : State :=
  match s.armRecord .link l.space l.va with
  | (t, .ok 0) => t
  | (t, .far _) => { t with links := t.links ++ [l] }
  | (t, _) => t.tellSuper l.dom

/-- Arm the successor that lies `off` records from the record at `va`. -/
def State.armLink (s : State) (dom : Nat) (sp : Space) (va : Nat) (off : Int) : State :=
  s.armAt { dom := dom, space := sp, va := (((va : Int) + 128 * off) % 2 ^ 64).toNat }

/-- Arm the successor that a link field names; 0 means none. -/
def State.armSucc (s : State) (dom : Nat) (sp : Space) (va : Nat) (succ : BitVec 32) : State :=
  if succ = 0 then s else s.armLink dom sp va succ.toInt

/-- The successors that wait for a pool link are tried again. -/
def State.armWaiting (s : State) : State := s.links.foldl State.armAt { s with links := [] }

/-! ### Room for frames (01 R22) -/

/-- Whether every die has room for its share of a launch's frames (01 R22). -/
def State.roomFor (s : State) (l : Launch) (useReserve : Bool) (reserve : Nat) : Bool :=
  (List.range 4).all (fun d =>
    let need := coresOnDie l d * frameBytes l.record.live
    decide (need = 0) || decide (need + s.chrysalisUsed d + (if useReserve then 0 else reserve) ≤ 96 * 2 ^ 20))

/-- An exponential average with weight 1/8 (10 Table 10-3). -/
def average (old new : Nat) : Nat := (7 * old + new) / 8

/-- What bulk virtual time has grown by since a launch was placed: cores × running ns / WEIGHT (10 R264). -/
def State.vtimeRun (s : State) (l : Launch) : Nat :=
  if l.record.cls = 2 then (rectCores l.record.rect.toNat).length * (s.ptp - l.since) / l.record.weight else 0

/-- VTIME of a context now: that of its control block, and of the run under way what has not reached it yet. -/
def State.vtime (s : State) (c : Ctx) : Nat :=
  ((s.cbWord c 0x58).toNat + (if c.state = .running then (c.launch.map s.vtimeRun).getD 0 else 0)) % 2 ^ 64

/-- VTIME of a bulk context reaches its control block when its launch leaves the cores. -/
def State.chargeVtime (s : State) (c : Ctx) (l : Launch) : State :=
  if l.record.cls = 2 then s.setCb c 0x58 (s.cbWord c 0x58 + BitVec.ofNat 64 (s.vtimeRun l)) else s

/-- Least VTIME of a domain's running bulk contexts. -/
def State.leastVtime (s : State) (d : Nat) : Option Nat :=
  least ((s.ctxs.filter (fun x => decide (x.2.tdom = d) && decide (x.2.state = .running) && x.2.launch.any (fun l => decide (l.record.cls = 2)))).map
    (fun x => s.vtime x.2))

/-- The launch that a ready context would run next (10 R252): its unended launch, or its first ready node. -/
def Ctx.nextLaunch (c : Ctx) : Option (Nat × LaunchRec) :=
  match c.launch with
  | some l => some (l.nodePa, l.record)
  | none =>
    ((c.nodes.filter (fun n => n.ready.isSome && decide (n.record.node = 0))).foldl (fun b n => match b with
      | none => some n
      | some m => if n.ready.getD 0 < m.ready.getD 0 then some n else b) none).map (fun n => (n.pa, n.record))

/-- A bulk context that becomes ready takes at least the least VTIME of its domain's running bulk contexts (10 R264). -/
def State.floorVtime (s : State) (c : Ctx) : State :=
  match s.leastVtime c.tdom with
  | some v => if c.nextLaunch.any (fun (n : Nat × LaunchRec) => decide (n.2.cls = 2)) ∧ (s.cbWord c 0x58).toNat < v then s.setCb c 0x58 (BitVec.ofNat 64 v) else s
  | none => s

/-- Take a context off its cores: each core is as after reset. -/
def State.freeCores (s : State) (slot : Nat) : State :=
  let s := { s with cores := s.cores.filter (fun c => decide (c.2.ctx ≠ some slot)) }
  if s.core.ctx = some slot then { s with core := Core.reset } else s

/-- The core records of a launch's positions, on cores or in frames. -/
def State.launchCores (s : State) (slot : Nat) (l : Launch) : Table Core :=
  (rectCores l.record.rect.toNat).filterMap (fun p => (s.coreOf slot p).map (fun c => (p, c)))

/-! ### Parking (10 R246, R247; 12 R381) -/

/-- Write the park record (10 R247, Table 10-3); one that stands already is kept, and NFAULT counts instead (12 R381). -/
def State.parkRecord (s : State) (c : Ctx) (a : Ask) (cause : Nat) : State :=
  if c.parkCause ≠ 0 then s.setCbBits c 0x20 31 24 (min 255 (bits (s.cbWord c 0x20).toNat 31 24 + 1))
  else
    let data := if cause = 4 then BitVec.ofNat 64 (wordAddr a.data.toNat) else a.data
    let v := (if cause = 8 then a.tcode.toNat else 0) * 2 ^ 32 + a.pos / 64 * 2 ^ 18 + a.pos % 64 * 2 ^ 12 + (if a.aStream then 2 ^ 11 else 0) + cause
    (((s.setCb c 0x20 (BitVec.ofNat 64 v)).setCb c 0x28 a.word).setCb c 0x30 a.addr).setCb c 0x38 data

/-- A cause that event 228 reports (10 R246): every one but none and PAGES. -/
def reports (cause : Nat) : Bool := decide (cause ≠ 0) && decide (cause ≠ 3)

/-- A lasting containment event writes a fault record (13 R334, R349). -/
def State.dataRecord (s : State) (slot : Nat) (c : Ctx) (a : Ask) (cause : Nat) : State :=
  if cause = 4 then s.wordRecord c.tdom slot ((s.placedAt slot a.pos).getD 0) a.data.toNat 2 (a.tcode.setWidth 8) else s

/-- A fault comes while a record stands: NFAULT counts it. -/
def State.countFault (s : State) (c : Ctx) : State := s.setCbBits c 0x20 31 24 (min 255 (bits (s.cbWord c 0x20).toNat 31 24 + 1))

/-- A context is parked with a cause, whatever its state is: the record is written unless one stands, and event 228 is set (12 R381).
A wait on which it was parked no longer makes it ready. -/
def State.parkNow (s : State) (slot : Nat) (c : Ctx) (a : Ask) (cause : Nat) : State :=
  ((s.parkRecord c a cause).setCtx slot { c with
    parkCause := if c.parkCause = 0 then cause else c.parkCause
    parkPassed := if c.parkCause = 0 then a.passed else c.parkPassed, evWait := none, pagesOf := none,
    state := if c.state = .running then .running else if c.launch.any (fun l => l.inHbm) then .swapped else .parked }).tellSuper c.tdom

/-- A violation or lasting error of an asynchronous command (12 R381): a running context is asked to leave; any other is
parked at once, and only `ctx.sev` ends that park. -/
def State.lateFault (s : State) (slot : Nat) (a : Ask) (cause : Nat) : State :=
  match tget s.ctxs slot with
  | none => s
  | some c =>
    if c.state = .running then s.setCtx slot { c with asks := c.asks ++ [{ a with kind := .late cause, time := s.ptp }] }
    else (s.dataRecord slot c a cause).parkNow slot c a cause

/-! ### The end of a launch (10 R256) -/

/-- The end of a launch (10 R256): flags into the control block, RUNEST and MISSES, SET, successors, free cores.
`normal` is false when `ctx.sev` ends it: then neither SET nor successors take effect (12 R315). -/
def State.endNow (s : State) (slot : Nat) (normal : Bool) : State :=
  match tget s.ctxs slot with
  | none => s
  | some c => match c.launch with
    | none => s
    | some l =>
      let fl := (s.launchCores slot l).foldl (fun f x => f ||| x.2.xflags ||| x.2.aflags) (0 : BitVec 5)
      let s := s.setCbBits c 0x18 4 0 (bits (s.cbWord c 0x18).toNat 4 0 ||| fl.toNat)
      let s := if c.state = .running then s.chargeVtime c l else s
      let s := if l.record.cls = 0 ∧ normal then
          let s := s.setCb c 0x50 (BitVec.ofNat 64 (average (s.cbWord c 0x50).toNat (s.ptp - l.started)))
          if l.record.deadline < s.ptp then s.setCbBits c 0x60 31 0 (bits (s.cbWord c 0x60).toNat 31 0 + 1) else s
        else s
      let node := c.nodes.find? (fun n => decide (n.pa = l.nodePa))
      let s := s.freeCores slot
      let ns := c.nodes.filter (fun n => decide (n.pa ≠ l.nodePa))
      let s := s.setCtx slot { c with readied := s.ptp, launch := none, nodes := ns, leave := none, asks := [], evWait := none, parkCause := 0, bars := c.bars.map (fun (b : Nat × Barrier) => (b.1, { b.2 with last := [] })), state := .parked, parkedAt := s.ptp }
      let s := if normal then s.setEvents slot l.record.set else s
      let s := match node with
        | some n => if normal then (s.armSucc c.tdom n.space n.va l.record.succ0).armSucc c.tdom n.space n.va l.record.succ1 else s
        | none => s
      match tget s.ctxs slot with
      | none => s
      | some c =>
        if c.nodes.any (fun n => n.ready.isSome && decide (n.record.node = 0)) then
          let s := s.floorVtime c
          { s.setCtx slot { c with state := .ready, order := s.orders } with orders := s.orders + 1 }
        else s

/-- The end of a launch. Requests of asynchronous commands that were not answered before it park the context (12 R381). -/
def State.endLaunch (s : State) (slot : Nat) (normal : Bool) : State :=
  let late := ((tget s.ctxs slot).map (fun c => c.asks)).getD []
  late.foldl (fun s a => match a.kind with
    | .late cause => s.lateFault slot a cause
    | _ => s) (s.endNow slot normal)

/-- Whether a core's streams have both exited and its commands are complete (10 R256). -/
def Core.gone (c : Core) : Bool := c.xexited && c.aexited

/-- The last stream of the partition has exited: the launch ends (10 R256). -/
def State.checkEnd (s : State) (slot : Nat) : State :=
  match tget s.ctxs slot with
  | none => s
  | some c => match c.launch with
    | none => s
    | some l => if c.state = .running ∧ (s.launchCores slot l).all (fun x => x.2.gone) then s.endLaunch slot true else s

/-! ### Placement (10 R254, R262) -/

/-- The order of a launch in its scheduler (10 R262): class, then the class's own measure, then the context index. -/
def State.rank (s : State) (slot : Nat) (c : Ctx) (r : LaunchRec) : List Nat :=
  [r.cls, match r.cls with
    | 0 => r.deadline
    | 1 => (7 - r.level) * 2 ^ 64 + c.order
    | 2 => (s.cbWord c 0x58).toNat
    | _ => c.order, slot]

def listLt : List Nat → List Nat → Bool
  | a :: r, b :: t => decide (a < b) || (decide (a = b) && listLt r t)
  | _, _ => false

/-- Physical cores of a shape placed at an origin; none unless the rectangle is legal and lies in the domain (01 R26). -/
def State.rectAt (s : State) (d rect origin : Nat) : Option (List Nat) :=
  let (_, _, w, h) := rectOf rect
  let r := rect / 2 ^ 12 * 2 ^ 12 + origin / 64 * 64 + origin % 64
  if origin < 4096 ∧ origin % 64 % w = 0 ∧ origin / 64 % h = 0 then
    let cs := rectCores r
    if cs.all (fun p => decide (p < 4096) && s.domHasDie d (dieOf p)) then some cs else none
  else none

/-- Origins at which a shape may stand, in order of row and column. -/
def origins (rect : Nat) : List Nat :=
  let (_, _, w, h) := rectOf rect
  (List.range (64 / h)).flatMap (fun j => (List.range (64 / w)).map (fun i => j * h * 64 + i * w))

/-- Whether a rectangle is free of contexts and of withdrawn cores. -/
def State.freeAt (s : State) (d rect origin : Nat) : Bool :=
  (s.rectAt d rect origin).any (fun cs => cs.all (fun p => (s.coreAt p).ctx.isNone && !s.withdrawn.contains p))

/-- Whether a rectangle has no withdrawn core, occupied or not. -/
def State.usableAt (s : State) (d rect origin : Nat) : Bool :=
  (s.rectAt d rect origin).any (fun cs => cs.all (fun p => !s.withdrawn.contains p))

/-- Some free rectangle fits. -/
def State.fits (s : State) (d rect : Nat) : Bool := (origins rect).any (fun o => s.freeAt d rect o)

/-- Whether another ready launch of the domain that fits a free rectangle goes first (10 R262). -/
def State.outranked (s : State) (slot : Nat) (c : Ctx) (r : LaunchRec) : Bool :=
  s.ctxs.any (fun x => decide (x.1 ≠ slot) && decide (x.2.state = .ready) && decide (x.2.tdom = c.tdom) &&
    (match x.2.nextLaunch with
      | some (_, q) => listLt (s.rank x.1 x.2 q) (s.rank slot c r) && s.fits x.2.tdom q.rect.toNat
      | none => false))

/-- Cores of each class that stand on the rectangle of a shape at an origin; none where it may not stand. -/
def State.occupants (s : State) (d rect origin : Nat) : Option (List Nat) :=
  (s.rectAt d rect origin).bind (fun cs =>
    if cs.any s.withdrawn.contains then none
    else some (cs.foldl (fun n p => match (((s.coreAt p).ctx.bind (fun k => tget s.ctxs k)).bind (fun c => c.launch)).map (fun l => l.record.cls) with
      | none => n
      | some v => setAt n v (n.getD v 0 + 1)) [0, 0, 0, 0]))

/-- The rectangle that the scheduler chooses for a bulk launch that has waited for a whole QUANTUM (10 R262, R263): the one with the
fewest cores of the highest classes, then the lowest row and column (log 30). -/
def State.chooseRect (s : State) (d rect : Nat) : Option Nat :=
  (((origins rect).filterMap (fun o => (s.occupants d rect o).map (fun n => (n, o)))).foldl (fun b v => match b with
    | none => some v
    | some u => if listLt v.1 u.1 then some v else b) none).map (fun v => v.2)

/-- The ready bulk launch of a domain that is first in bulk order (10 R262), with its slot. -/
def State.bulkHead (s : State) (d : Nat) : Option (Nat × Ctx × LaunchRec) :=
  (s.ctxs.filterMap (fun x =>
    if x.2.state = .ready ∧ x.2.tdom = d then
      x.2.nextLaunch.bind (fun n => if n.2.cls = 2 then some (x.1, x.2, n.2) else none)
    else none)).foldl (fun b v => match b with
      | none => some v
      | some u => if listLt (s.rank v.1 v.2.1 v.2.2) (s.rank u.1 u.2.1 u.2.2) then some v else b) none

/-- What a domain remembers of the bulk context that is first: since when, and the rectangle chosen for it (10 R262). -/
def State.bulkFirst (s : State) (d : Nat) (x : Dom) : Option BulkFirst :=
  match s.bulkHead d with
  | none => none
  | some (k, _, r) => match x.bulkFirst with
    | none => some { slot := k, since := s.ptp, origin := none }
    | some b =>
      if b.slot ≠ k then some { slot := k, since := s.ptp, origin := none }
      else if b.since + x.sched.quantum ≤ s.ptp then
        match b.origin with
        | some o => some { b with origin := if s.usableAt d r.rect.toNat o then some o else s.chooseRect d r.rect.toNat }
        | none => some { b with origin := s.chooseRect d r.rect.toNat }
      else some b

/-- The schedulers watch their bulk orders at the end of every step (10 R262). -/
def State.watchBulk (s : State) : State :=
  { s with doms := s.doms.map (fun d => (d.1, { d.2 with bulkFirst := s.bulkFirst d.1 d.2 })) }

/-- Whether a bulk or idle launch would stand over the rectangle chosen for another bulk launch (10 R262). -/
def State.reserved (s : State) (slot : Nat) (c : Ctx) (r : LaunchRec) (origin : Nat) : Bool :=
  decide (2 ≤ r.cls) &&
    ((s.dom c.tdom).bind (fun x => x.bulkFirst)).any (fun b => decide (b.slot ≠ slot) &&
      (match b.origin, ((tget s.ctxs b.slot).bind (fun k => k.nextLaunch)) with
        | some o, some n => ((s.rectAt c.tdom n.2.rect.toNat o).getD []).any (fun p => ((s.rectAt c.tdom r.rect.toNat origin).getD []).contains p)
        | _, _ => false))

/-- A core at a placement that restores no frame (10 R254, 03 R70, 04 R77, 05 R104, 06 R135, 08 R183). -/
def Core.first (slot pos : Nat) (l : LaunchRec) (spillbase : BitVec 32) (e : Nat) : Core :=
  { Core.reset with
    ctx := some slot
    pos := pos
    xpc := l.xentry
    apc := l.aentry
    x := Regs.undefined 64
    p := Regs.undefined 1
    sp := { cells := l.spans, undef := true }
    a := { cells := [(1, l.args)], undef := true }
    spillbase := spillbase
    tdata := { cells := [], fill := some e, bad := [] }
    adata := { cells := [], fill := some (e + 1), bad := [] } }

/-- Forget the tiles and accumulators that a live mask leaves out of a frame (01 R21): restored empty and undefined. -/
def Core.trim (c : Core) (live : BitVec 20) (e : Nat) : Core :=
  let cut (m : Memory) (n base size : Nat) : Memory :=
    if (List.range n).all (fun i => live.getLsbD (base + i)) then m
    else (List.range n).foldl (fun r i => if live.getLsbD (base + i) then r.setWords (i * size) (m.words (i * size) (size / 8)) else r)
      { cells := [], fill := some (e + base), bad := [] }
  { c with
    tdata := cut c.tdata 16 0 4096
    adata := cut c.adata 4 16 8192
    tfull := c.tfull.filter (fun t => live.getLsbD t.1) }

/-- Bind a position's store to the physical core on which it is placed; the banks that another store held there are copied
out first (01 R22, R23). -/
def State.bindStore (s : State) (slot pos phys : Nat) : State :=
  let key := storeKey slot pos
  { s with stores := tset s.stores key (s.storeAt key), bound := tset (s.bound.filter (fun b => decide (b.2 ≠ phys))) key phys }

/-- Whether a store holds a KV page or a store home. -/
def State.holdsPage (s : State) (key : Nat) : Bool := (s.storeAt key).banks.any (fun b => b.page.isSome)

/-- Whether a position's banks can be bound to a physical core: no store that would have to leave its banks for it holds a KV page or a
store home, or has banks that a lease on an old entry still names (01 R22; 11 R286, R287: those are reclaimed first). -/
def State.bankFree (s : State) (key i : Nat) : Bool :=
  decide (tget s.bound key = some i) ||
    (!s.coreFenced i && !s.bound.any (fun b => (decide (b.1 = key) && (s.holdsPage key || s.coreFenced b.2)) || (decide (b.2 = i) && s.holdsPage b.1)))

/-- Whether the banks of a rectangle can be bound to a context. -/
def State.banksFree (s : State) (slot rect origin : Nat) : Bool :=
  (rectCores rect).all (fun p => s.bankFree (storeKey slot p) (physOf rect origin p))

/-- A pause in a saved frame runs on from where it stood (08 R224). -/
def Hold.wake (cycle : Nat) (h : Hold) : Hold :=
  match h with
  | .paused n => .paused (cycle + n)
  | h => h

/-- Tags at a first placement (08 R206, 10 R254): as after reset, but for those on which commands are still outstanding. -/
def Store.freshTags (t : Store) : Store := { t with tags := t.tags.filter (fun g => decide (g.2.pend ≠ 0)) }

/-- Put one core of a launch on its physical core. -/
def State.putCore (s : State) (slot : Nat) (l : Launch) (sb : BitVec 32) (pos : Nat) : State :=
  let i := physOf l.record.rect.toNat l.origin pos
  let s := s.bindStore slot pos i
  let e := s.epoch i 16
  match tget l.frames pos with
  | some c => s.setCoreAt i { c with ctx := some slot, pos := pos, xhold := c.xhold.wake s.cycle, ahold := c.ahold.wake s.cycle }
  | none => (s.setStore (storeKey slot pos) (s.storeAt (storeKey slot pos)).freshTags).setCoreAt i (Core.first slot pos l.record sb e)

/-- The bits of SPILLBASE that are not reserved (04 Table 04-10). -/
def spillMask : BitVec 32 := 0xFF07FFC0

/-- Place a ready context's launch at an origin: restore its frames, or initialise its cores (10 R254). -/
def State.placeAt (s : State) (slot : Nat) (c : Ctx) (pa : Nat) (r : LaunchRec) (origin : Nat) : State :=
  let sb := BitVec.ofNat 32 (s.cbWord c 0x10).toNat &&& spillMask
  let l : Launch := match c.launch with
    | some l => { l with origin := origin, since := s.ptp }
    | none => { nodePa := pa, record := r, frames := [], inHbm := false, origin := origin, started := s.ptp, since := s.ptp,
                fresh := if r.cls = 0 then some c.readied else Option.none }
  let s := (rectCores r.rect.toNat).foldl (fun s p => s.putCore slot l sb p) s
  let w0 := s.cbWord c 0
  let nodes := if c.launch.isNone then c.nodes.map (fun n => if n.pa = pa then { n with ready := none } else n) else c.nodes
  s.setCtx slot { c with
    state := .running, launch := some { l with frames := [], inHbm := false }, nodes := nodes,
    asid := (w0.extractLsb' 32 16).toNat, span := w0.getLsbD 50, pbudget := bits (s.cbWord c 8).toNat 11 0, evWait := none, parkCause := 0 }

/-- Whether an accepted transfer names a context: it waits for the partition of the caller (10 R270). -/
def State.awaited (s : State) (slot : Nat) : Bool :=
  s.ctxs.any (fun x => x.2.leave.any (fun a => match a.kind with
    | .xfer y _ => decide (y = slot)
    | _ => false))

/-- PLACEMENT (10 R254, R262; 01 R26): a ready context that no other goes before is placed at `origin`, if that rectangle
is free and not kept for a bulk launch; if no rectangle could ever hold it, event 228 is set. -/
def State.place (s : State) (slot origin : Nat) : State :=
  match tget s.ctxs slot with
  | none => s
  | some c => match c.nextLaunch with
    | none => s
    | some (pa, r) =>
      if c.state = .ready ∧ s.ready ∧ !s.quiesced ∧ s.pNow ≠ 3 ∧ !s.awaited slot then
        if !(origins r.rect.toNat).any (fun o => s.usableAt c.tdom r.rect.toNat o) then s.tellSuper c.tdom
        else if s.freeAt c.tdom r.rect.toNat origin ∧ s.banksFree slot r.rect.toNat origin ∧ !s.outranked slot c r ∧
            !s.reserved slot c r origin then
          s.placeAt slot c pa r origin
        else s
      else s

/-! ### Leaving the cores (10 R245-R247, R258, R271-R273) -/

/-- The streams of a position take up their words again: what they held on is forgotten. -/
def Core.release (c : Core) (aStream : Bool) : Core :=
  if aStream then { c with ahold := if c.ahold = .asking then .none else c.ahold }
  else { c with xhold := if c.xhold = .asking then .none else c.xhold }

/-- A transfer completes with a status. -/
def State.xferEnd (s : State) (slot : Nat) (a : Ask) (d n : Nat) : State :=
  ((s.updCore slot a.pos (fun k => { k with x := if d = 0 then k.x else k.x.put d (BitVec.ofNat 64 n), xbad := tdel k.xbad d })).completeAt slot a.pos).updCore
    slot a.pos (fun k => k.release false)

/-- A leave request that comes after an accepted leave (10 R245, R247): a yield completes, a transfer completes with status 4; a
stream's fault is counted when a record stands, and its word is evaluated again; a fault of an asynchronous command parks
(12 R381). The words of the others stay to be evaluated again. -/
def State.lateAsk (s : State) (slot : Nat) (a : Ask) : State :=
  match tget s.ctxs slot with
  | none => s
  | some c =>
    let s := match a.kind with
      | .yield => s.completeAt slot a.pos
      | .xfer _ d => s.xferEnd slot a d 4
      | .fault cause =>
        let s := s.dataRecord slot c a cause
        if c.parkCause ≠ 0 then s.countFault c else s
      | .late cause => (s.dataRecord slot c a cause).parkNow slot c a cause
      | _ => s
    match a.kind with
    | .late _ => s
    | _ => s.updCore slot a.pos (fun k => k.release a.aStream)

/-- The status of a transfer by the context in a slot to the one that handle `h` names (10 R270): 0 when it can take the caller's
rectangle. -/
def State.xferStatus (s : State) (slot h : Nat) : Nat :=
  match tget s.ctxs slot, (if h < 2 ^ 32 then s.slotOf h else none) with
  | some c, some y => match tget s.ctxs y with
    | none => 1
    | some cy =>
      if !s.isPeer slot c y then 3
      else match c.launch, cy.nextLaunch with
        | some l, some (_, q) => if cy.state = .ready ∧ bits q.rect.toNat 17 12 = bits l.record.rect.toNat 17 12 then 0 else 2
        | _, _ => 2
  | _, _ => 1

/-- Accept a leave request (10 R245-R247). An `ev.wait` whose condition has come true meanwhile completes instead, and so does a
transfer that can no longer be made. -/
def State.acceptAsk (s : State) (slot : Nat) (c : Ctx) (a : Ask) : State :=
  match a.kind with
  | .fault cause =>
    let s := s.dataRecord slot c a cause
    let s := (s.parkRecord c a cause).setCtx slot { c with leave := some a, parkCause := cause, parkPassed := a.passed, pagesOf := if cause = 3 ∧ a.tcode = 1 then some a.data.toNat else none }
    if reports cause then s.tellSuper c.tdom else s
  | .late cause =>
    let s := s.dataRecord slot c a cause
    let s := (s.parkRecord c a cause).setCtx slot { c with leave := some a, parkCause := cause, parkPassed := a.passed }
    if reports cause then s.tellSuper c.tdom else s
  | .yield => (s.setCtx slot { c with leave := some a }).completeAt slot a.pos
  | .xfer _ d =>
    let n := s.xferStatus slot a.data.toNat
    if n = 0 then s.setCtx slot { c with leave := some a } else (s.setCtx slot c).xferEnd slot a d n
  | .wait w any mask hint =>
    if waitSat c.events w any mask then
      ((s.setCtx slot { c with events := consume c.events w mask }).completeAt slot a.pos).updCore slot a.pos (fun k => k.release false)
    else
      let h := hint % 2 ^ 63
      let s := s.setCb c 0x40 (BitVec.ofNat 64 (a.time + (if h = 0 then (s.cbWord c 0x48).toNat else h)))
      s.setCtx slot { c with leave := some a, timer := if 2 ^ 63 ≤ hint then some (a.time + h) else c.timer, evWait := some { pos := a.pos, word := w, any := any, mask := mask } }
  | .preempt _ => s.setCtx slot { c with leave := some a }

/-- Whether a leave request is a fault's. -/
def AskKind.faults (k : AskKind) : Bool :=
  match k with
  | .fault _ | .late _ => true
  | _ => false

/-- Whether a leave request is the scheduler's. -/
def AskKind.preempts (k : AskKind) : Bool :=
  match k with
  | .preempt _ => true
  | _ => false

/-- The leave request to be answered next, and those that stay: the first, but a fault goes before a pre-emption that is requested
and not yet accepted (10 R258). -/
def nextAsk (l : List Ask) : Option (Ask × List Ask) :=
  match l with
  | [] => none
  | a :: r =>
    match (if a.kind.preempts then r.findIdx? (fun b => b.kind.faults) else none) with
    | none => some (a, r)
    | some i => (r[i]?).map (fun b => (b, a :: r.eraseIdx i))

/-- LEAVE_ACCEPT (10 R245): the first leave request that reached the scheduler. -/
def State.leaveAccept (s : State) (slot : Nat) : State :=
  match tget s.ctxs slot with
  | none => s
  | some c => match nextAsk c.asks with
    | none => s
    | some (a, r) =>
      let s1 := s.setCtx slot { c with asks := r }
      if c.leave.isSome then s1.lateAsk slot a else s1.acceptAsk slot { c with asks := r } a

/-- A pre-emption by a deadline launch, where the request was for another reason (01 R22). -/
def Ask.press (deadline : Bool) (a : Ask) : Ask :=
  match a.kind with
  | .preempt b => { a with kind := .preempt (b || deadline) }
  | _ => a

/-- Raise a request of the scheduler's own (10 R271), once; `deadline`: for a deadline launch. -/
def State.askPreempt (s : State) (slot : Nat) (deadline : Bool) : State :=
  match tget s.ctxs slot with
  | none => s
  | some c =>
    if c.state ≠ .running then s
    else if c.leave.isSome ∨ c.asks.any (fun a => a.kind.preempts) then
      s.setCtx slot { c with leave := c.leave.map (Ask.press deadline), asks := c.asks.map (Ask.press deadline) }
    else
      s.setCtx slot { c with asks := c.asks ++ [{ kind := .preempt deadline, pos := 0, aStream := false, word := 0, addr := 0, data := 0, tcode := 0, passed := true, time := s.ptp }] }

/-- Abandon the uncommitted `ldq` and `ldt` with rollback to the earliest (08 R196, R197). -/
def Core.dropLoads (c : Core) : Core :=
  match c.loads with
  | [] => c
  | l :: _ =>
    let freed := c.loads.filterMap (fun (x : PendLoad) => match x.dest with | .tile t _ => some t | _ => none)
    { c with loads := [], apc := l.pc, a := l.a, levels := l.nest, binds := l.binds,
             tfull := c.tfull.filter (fun t => !freed.contains t.1) }

/-- Write a register of the A stream whose word was issued before the loads under way: their rollback keeps it (08 R183, R197). -/
def Core.lateA (c : Core) (d : Nat) (v : Word) : Core :=
  { c with a := c.a.put d v, loads := c.loads.map (fun (l : PendLoad) => { l with a := l.a.put d v }) }

/-- Write the result of an A-stream atomic (08 R218, R220). -/
def Core.landAmo (c : Core) (m : PendAmo) : Core :=
  let c := if m.d = 0 then c else c.lateA m.d m.value
  let c := match m.status with
    | none => c
    | some v => c.lateA (m.d + 1) (v.zeroExtend 64)
  { c with aflags := c.aflags ||| m.flags }

/-- At a pre-emption point the flags of the granules completed reach FPFLAGS (03 R71). -/
def Core.pointFlags (c : Core) : Core :=
  { c with
    xflags := c.mq.foldl (fun f m => f ||| m.flags) (c.vq.foldl (fun f v => f ||| v.flags) c.xflags)
    vq := c.vq.map (fun (v : VCmd) => { v with flags := 0 })
    mq := c.mq.map (fun (m : MCmd) => { m with flags := 0 }) }

/-- A stop inside a granule makes that place the start of a new one; before it stops, the engine sets empty the tiles whose
release is deferred (06 R156). -/
def Core.settle (c : Core) : Core :=
  let freed := c.mq.flatMap (fun (m : MCmd) => m.release)
  { c with
    tfull := c.tfull.filter (fun t => !freed.contains t.1)
    mq := c.mq.map (fun (m : MCmd) => { m with release := [], check := none, fetched := [], flags := m.flags ||| m.granFlags, granFlags := 0 }) }

/-- What is left of a hold once the stream stops for a leave: a pause keeps the cycles still to run (08 R224). -/
def Hold.calm (cycle : Nat) (h : Hold) : Hold :=
  match h with
  | .paused n => .paused (n - cycle)
  | _ => .none

/-- A stream or engine stops at its point and is drained (10 Table 10-7): results land with their flags, unlanded loads
are abandoned with rollback (08 R197), results of A-stream atomics are written (08 R218), and words that hold issue have
not taken effect (08 R203, 10 R276); a pause keeps its cycles (08 R224). -/
def Core.drain (c : Core) (cycle : Nat) : Core :=
  let c : Core := c.dropLoads.landAll.settle.pointFlags
  let c : Core := c.amos.foldl Core.landAmo { c with amos := [] }
  { c with xhold := c.xhold.calm cycle, ahold := c.ahold.calm cycle, xdoubt := false, adoubt := false }

/-- Engines of the context's frames take up their commands again. -/
def Core.thaw (c : Core) : Core :=
  { c with vq := c.vq.map (fun (v : VCmd) => { v with frozen := false }), mq := c.mq.map (fun (m : MCmd) => { m with frozen := false }) }

/-- Whether a hold is a store under way to another package. -/
def Hold.sends (h : Hold) : Bool :=
  match h with
  | .access g => decide (placeOf g.pa ≠ .pool) && (match g.kind with
    | .store _ | .storeWords _ | .stq .. | .stt .. => true
    | _ => false)
  | _ => false

/-- Whether a core still has a store under way that the memory system carries to its end (08 R197, R203). -/
def Core.sending (c : Core) : Bool := c.xhold.sends || c.ahold.sends

/-- Whether the granule of the matrix engine ends: it has run to its end; or, once a leave is accepted, the engine stops inside it at a
step that waits for a tile, and in redundant mode its results are compared first (06 R156, R159). -/
def Core.granuleEnds (c : Core) (leaving : Bool) : Bool :=
  c.mq.head?.any (fun m => m.check.isSome && !m.frozen &&
    (decide (m.cursor = m.granEnd) || (leaving && c.redundant && decide (m.granStart < m.cursor))))

/-- Whether a vector command has popped queue words of whole elements, with which its window ends at a stop (05 R131). After a
containment event it stops at its marker (13 R337). -/
def Core.windowEnds (c : Core) : Bool :=
  c.vq.head?.any (fun v => v.started && !v.frozen && decide (v.ready ≠ 0) && decide (c.strike = []))

/-- A PAGES park whose page has become present, or can no longer be, before the frames were saved (10 R245, R246). -/
def State.pageSettled (s : State) (k : Nat) : State :=
  if s.isPresent k then s.pagePresent k else if eTier (s.dirEntry k) = 3 then s.pageLost k else s

/-- Whether a leave leaves its context waiting. -/
def AskKind.waits (k : AskKind) : Bool :=
  match k with
  | .fault _ | .late _ | .wait .. => true
  | _ => false

/-- Every unit has stopped: the frames are saved, trimmed by the live mask, and the context takes the state that its leave gives it. A
stream's own translation fault, which the device cannot resolve, becomes a VIOL park (12 R304). An engine command that is frozen goes
on from its cursor when no park that `ctx.sev` ends stands. -/
def State.saveNow (s : State) (slot : Nat) : State :=
  match tget s.ctxs slot with
  | none => s
  | some c => match c.launch, c.leave with
    | some l, some a =>
      if (s.launchCores slot l).all (fun x => x.2.gone) ∧ a.kind.preempts ∧ c.parkCause = 0 then s.endLaunch slot true
      else
        let reserve := ((s.dom c.tdom).map (fun d => d.sched.dlreserve)).getD 0
        let goes := decide (c.parkCause = 0) || c.pagesOf.isSome
        let frames := (s.launchCores slot l).map (fun x =>
          (x.1, let k := (x.2.drain s.cycle).trim l.record.live (s.epoch (s.here + 4096 * x.1) 8); if goes then k.thaw else k))
        let inHbm := !s.roomFor l (decide (a.kind = .preempt true)) reserve
        let s := (s.chargeVtime c l).freeCores slot
        let waits := a.kind.waits || decide (c.parkCause ≠ 0)
        let viol := decide (c.parkCause = 3) && decide (a.tcode ≠ 1)
        let s := if viol then (s.setCbBits c 0x20 3 0 2).tellSuper c.tdom else s
        -- the context may be the supervisor just told: read it again
        let c := (tget s.ctxs slot).getD c
        let c : Ctx := { c with
          launch := some { l with frames := frames, inHbm := inHbm }, leave := none, parkedAt := s.ptp,
          parkCause := if viol then 2 else c.parkCause, order := s.orders,
          state := if waits then (if inHbm then .swapped else .parked) else .ready }
        let s := { s.setCtx slot c with orders := s.orders + 1 }
        let s := if waits ∨ a.kind = .yield then s else s.floorVtime c
        let s := (if a.kind.preempts then s.sample c.tdom 0 (s.ptp - a.time) else s).sample c.tdom 1 (Config.stepTime s.tick)
        match c.pagesOf with
        | some k => s.pageSettled k
        | none => s
    | _, _ => s

/-- Whether every core of a launch is halted: no store is under way, and its engines have come to their points. -/
def State.halted (s : State) (slot : Nat) (l : Launch) : Bool := !(s.launchCores slot l).any (fun x => x.2.sending || x.2.granuleEnds true || x.2.windowEnds)

/-- The leave requests that were raised and not answered before the frames are saved come after the accepted one. -/
def State.answerAll (s : State) (slot : Nat) (c : Ctx) : State :=
  c.asks.foldl (fun s a => s.lateAsk slot a) (s.setCtx slot { c with asks := [] })

/-- FRAME_SAVE (01 R21, R22; 10 R273) of a halted context. -/
def State.frameSave (s : State) (slot : Nat) : State :=
  match tget s.ctxs slot with
  | none => s
  | some c => match c.launch, c.leave with
    | some l, some _ => if c.state = .running ∧ s.halted slot l then (s.answerAll slot c).saveNow slot else s
    | _, _ => s

/-- The stores whose banks a rectangle needs for a context, and that keep it from taking them. -/
def State.inTheWay (s : State) (slot rect origin : Nat) : List Nat :=
  (rectCores rect).flatMap (fun p =>
    let key := storeKey slot p
    if s.bankFree key (physOf rect origin p) then []
    else (s.bound.filter (fun b => decide (b.1 = key) || decide (b.2 = physOf rect origin p))).map (fun b => b.1))

/-- The transfer of a halted caller's partition to the context in slot `y` (10 R270): the caller's word completes with status 0, its
frames are saved, and the target takes the same rectangle. What has changed since the request was accepted decides: a transfer that
can no longer be made ends with its status, without a leave; banks that hold KV pages are reclaimed first (11 R287). -/
def State.transfer (s : State) (slot : Nat) (c : Ctx) (l : Launch) (a : Ask) (y d : Nat) : State :=
  let n := s.xferStatus slot a.data.toNat
  match (tget s.ctxs y).bind (fun cy => cy.nextLaunch) with
  | none => (s.setCtx slot { c with leave := none }).xferEnd slot a d (if n = 0 then 2 else n)
  | some (pa, r) =>
    let n := if n = 0 ∧ (s.quiesced ∨ !s.usableAt c.tdom r.rect.toNat l.origin) then 4 else n
    if n ≠ 0 then (s.setCtx slot { c with leave := none }).xferEnd slot a d n
    else if !s.banksFree y r.rect.toNat l.origin then (s.inTheWay y r.rect.toNat l.origin).foldl State.reclaim s
    else
      let s := (s.xferEnd slot a d 0).frameSave slot
      match tget s.ctxs y with
      | none => s
      | some cy => s.placeAt y cy pa r l.origin

/-- FRAME_SAVE, with the placement that a leave by `ctx.xfer` brings (10 R270). -/
def State.frameSaveXfer (s : State) (slot : Nat) : State :=
  match tget s.ctxs slot with
  | none => s
  | some c => match c.leave, c.launch with
    | some a, some l => match a.kind with
      | .xfer y d => if c.state = .running ∧ s.halted slot l then s.transfer slot c l a y d else s
      | _ => s.frameSave slot
    | _, _ => s

/-! ### Becoming ready (10 R245, R252, R264) -/

/-- Make a context ready: PARKAVG takes the park, a bulk context's VTIME is raised to the least running one, and frames
move to the chrysalis store when its dies have room (01 R29, 10 R264). -/
def State.makeReady (s : State) (slot : Nat) : State :=
  match tget s.ctxs slot with
  | none => s
  | some c =>
    let s := s.setCb c 0x48 (BitVec.ofNat 64 (average (s.cbWord c 0x48).toNat (s.ptp - c.parkedAt)))
    let s := s.floorVtime c
    let reserve := ((s.dom c.tdom).map (fun (d : Dom) => d.sched.dlreserve)).getD 0
    let l := c.launch.map (fun (l : Launch) => { l with inHbm := l.inHbm && !s.roomFor l false reserve })
    { s.setCtx slot { c with state := .ready, launch := l, order := s.orders, pagesOf := none, readied := s.ptp } with orders := s.orders + 1 }

/-- CONTEXT_READY (10 R245, R252): a parked or swapped context whose wait is satisfied, or that has a ready node and no
unended launch. A context parked by a trap waits for the supervisor. The wake cancels demotions of its pages that are not
installed (11 R289). -/
def State.contextReady (s : State) (slot : Nat) : State :=
  match tget s.ctxs slot with
  | none => s
  | some c =>
    let idle := decide (c.state = .parked) || decide (c.state = .swapped)
    let free := decide (c.parkCause = 0) && c.evWait.isNone && c.leave.isNone
    if idle ∧ free ∧ c.nextLaunch.isSome then ((s.cancelDemotions c.tdom c.asid).sample c.tdom 2 (s.ptp - c.woken)).makeReady slot else s

/-! ### The scheduler's choices (10 R263, R264) -/

/-- Whether the launch of a running context may be displaced for a ready launch `q` (10 R263, R264). -/
def mayDisplace (q v : LaunchRec) : Bool :=
  match q.cls with
  | 0 => decide (0 < v.cls) || decide (q.deadline < v.deadline)
  | 1 => decide (1 < v.cls)
  | 2 => decide (v.cls = 3)
  | _ => false

/-- Cores of each class that placing a shape at an origin would displace; none when it may not stand there. -/
def State.victims (s : State) (d : Nat) (q : LaunchRec) (origin : Nat) : Option (List Nat × List Nat) :=
  (s.rectAt d q.rect.toNat origin).bind (fun cs =>
    if cs.any s.withdrawn.contains then none
    else cs.foldl (fun r p => r.bind (fun (n, ks) =>
      match (s.coreAt p).ctx with
      | none => some (n, ks)
      | some k => match ((tget s.ctxs k).bind (fun c => c.launch)).map (fun l => l.record) with
        | none => some (n, ks)
        | some v => if mayDisplace q v then some (setAt n v.cls (n.getD v.cls 0 + 1), if ks.contains k then ks else k :: ks) else none)) (some ([0, 0, 0, 0], [])))

/-- The contexts that a ready launch pre-empts: those over the rectangle with the fewest cores of the highest classes,
then the lowest row and column (10 R263). -/
def State.bestVictims (s : State) (d : Nat) (q : LaunchRec) : List Nat :=
  (((origins q.rect.toNat).filterMap (fun o => s.victims d q o)).foldl (fun b v => match b with
    | none => some v
    | some u => if listLt v.1 u.1 then some v else b) none).elim [] (fun v => v.2)

/-- Whether a ready launch pre-empts now (10 R263, R264): it fits no free rectangle, and a deadline launch's slack is
below HORIZON. -/
def State.presses (s : State) (c : Ctx) (q : LaunchRec) : Bool :=
  !s.fits c.tdom q.rect.toNat && decide (q.cls ≤ 2) &&
    (decide (q.cls ≠ 0) || decide (q.deadline < s.ptp + (s.cbWord c 0x50).toNat + ((s.dom c.tdom).map (fun d => d.sched.horizon)).getD 0))

/-- PREEMPTION (10 R263, R264, R271): the request is sent to a context that some ready launch displaces, or that runs on
a withdrawn core (12 R316). -/
def State.preempt (s : State) (slot : Nat) : State :=
  match tget s.ctxs slot with
  | none => s
  | some v =>
    let wanted (f : LaunchRec → Bool) : Bool := s.ctxs.any (fun x => decide (x.2.state = .ready) && decide (x.2.tdom = v.tdom) &&
      (match x.2.nextLaunch with
        | some (_, q) => f q && s.presses x.2 q && (s.bestVictims x.2.tdom q).contains slot
        | none => false))
    let out := (v.launch.map (fun l => (rectCores l.record.rect.toNat).any (fun p => s.withdrawn.contains (physOf l.record.rect.toNat l.origin p)))).getD false
    if wanted (fun q => decide (q.cls = 0)) then s.askPreempt slot true
    else if wanted (fun _ => true) || out || s.quiesced then s.askPreempt slot false else s

/-- QUANTUM_EXPIRY (10 R264): a bulk context yields its cores when another bulk launch is ready in its domain. -/
def State.quantumExpiry (s : State) (slot : Nat) : State :=
  match tget s.ctxs slot with
  | none => s
  | some v =>
    let q := ((s.dom v.tdom).map (fun d => d.sched.quantum)).getD 0
    let due := v.launch.any (fun l => decide (l.record.cls = 2) && decide (l.since + q ≤ s.ptp))
    let other := s.ctxs.any (fun x => decide (x.2.state = .ready) && decide (x.2.tdom = v.tdom) && x.2.nextLaunch.any (fun n => decide (n.2.cls = 2)))
    if due && other then s.askPreempt slot false else s

/-- SWAP_OUT (01 R29): the frames of a context that is off its cores move to HBM4E; a context without frames stays as it is. -/
def State.swapOut (s : State) (slot : Nat) : State :=
  match tget s.ctxs slot with
  | none => s
  | some c => match c.launch with
    | none => s
    | some l =>
      if c.state = .parked then s.setCtx slot { c with state := .swapped, launch := some { l with inHbm := true } }
      else if c.state = .ready then s.setCtx slot { c with launch := some { l with inHbm := true } } else s

/-- SWAP_IN (01 R29, 10 R273): the frames move to the chrysalis store when every die has room for its share. -/
def State.swapIn (s : State) (slot : Nat) : State :=
  match tget s.ctxs slot with
  | none => s
  | some c => match c.launch with
    | none => s
    | some l =>
      let reserve := ((s.dom c.tdom).map (fun d => d.sched.dlreserve)).getD 0
      if l.inHbm ∧ s.roomFor l false reserve then
        s.setCtx slot { c with launch := some { l with inHbm := false }, state := if c.state = .swapped then .parked else c.state }
      else s

/-- WAKE_TIMER_EXPIRY (10 R261): the armed timer sets bit 225 and is used up. -/
def State.timerExpiry (s : State) (slot : Nat) : State :=
  match tget s.ctxs slot with
  | none => s
  | some c => match c.timer with
    | none => s
    | some t => if t ≤ s.ptp then (s.setCtx slot { c with timer := none }).setEvent slot 225 else s

/-- Disarm a control node, or leave a `while` node armed, waiting for its next setting (10 R253). -/
def State.settleNode (s : State) (slot pa : Nat) (stay : Bool) : State :=
  match tget s.ctxs slot with
  | none => s
  | some c =>
    if stay then s.setCtx slot { c with nodes := c.nodes.map (fun n => if n.pa = pa then { n with ready := none, latch := true } else n) }
    else s.setCtx slot { c with nodes := c.nodes.filter (fun n => decide (n.pa ≠ pa)) }

/-- CONTROL_NODE_EVAL (10 R253): the scheduler reads the condition word, ORs SET and arms a successor. A word behind a pool link that
is down is waited for. A `switch` whose SUCC0 is 0, none, arms nothing for any case (log 49). -/
def State.evalNode (s : State) (pa : Nat) : State :=
  match s.ctxs.findSome? (fun x => (x.2.nodes.find? (fun n => decide (n.pa = pa) && n.ready.isSome && decide (n.record.node ≠ 0))).map (fun n => (x.1, x.2, n))) with
  | none => s
  | some (slot, c, n) => if s.quiesced then s else
    let r := n.record
    match s.readWords n.space r.cond.toNat 1 with
    | (s, .ok [v]) =>
      let stay := decide (r.node = 2) && decide (v ≠ 0)
      let s := (s.settleNode slot pa stay).setEvents slot r.set
      if r.node = 3 then
        if v < r.ncase then (if r.succ0 = 0 then s else s.armLink c.tdom n.space n.va (r.succ0.toInt + v)) else s.armSucc c.tdom n.space n.va r.succ1
      else s.armSucc c.tdom n.space n.va (if v ≠ 0 then r.succ0 else r.succ1)
    | (_, .far _) => s
    | (s, _) => (s.settleNode slot pa false).tellSuper c.tdom

end Sys2Proof.Machine
end

