-- ==== Sys2Proof/Machine/Scalar.lean ====
section
/-! DEFINITION. Integer, immediate, move, compare, predicate and select words of the X stream (04 R83-R89). -/

namespace Sys2Proof.Machine

/-- The outcome of every step of the machine. -/
abbrev Out := Host.Outcome State Fault Refusal

/-! ### Word arithmetic (04 R83-R85) -/

/-- Rotate left by `n` mod 64. -/
def rol64 (a : Word) (n : Nat) : Word := a.rotateLeft n

/-- Signed and unsigned minimum and maximum (04 Table 04-2). -/
def smin (a b : Word) : Word := if a.toInt ≤ b.toInt then a else b
def smax (a b : Word) : Word := if b.toInt ≤ a.toInt then a else b
def umin (a b : Word) : Word := if a.toNat ≤ b.toNat then a else b
def umax (a b : Word) : Word := if b.toNat ≤ a.toNat then a else b

/-- Leading and trailing zero bits, and one bits (04 Table 04-2). -/
def clz64 (a : Word) : Word :=
  BitVec.ofNat 64 (match (List.range 64).find? (fun i => a.getLsbD (63 - i)) with | some i => i | none => 64)
def ctz64 (a : Word) : Word :=
  BitVec.ofNat 64 (match (List.range 64).find? (fun i => a.getLsbD i) with | some i => i | none => 64)
def popc64 (a : Word) : Word := BitVec.ofNat 64 ((List.range 64).filter (fun i => a.getLsbD i)).length

/-- Upper halves of the exact products (04 R84): `floor` of the quotient by 2^64. -/
def mulhSS (a b : Word) : Word := BitVec.ofInt 64 ((a.toInt * b.toInt) / 2 ^ 64)
def mulhUU (a b : Word) : Word := BitVec.ofNat 64 (a.toNat * b.toNat / 2 ^ 64)
def mulhSU (a b : Word) : Word := BitVec.ofInt 64 ((a.toInt * (b.toNat : Int)) / 2 ^ 64)

/-- Division with the corners of 04 R84. -/
def sdiv (a b : Word) : Word :=
  if b = 0 then BitVec.allOnes 64 else BitVec.ofInt 64 (a.toInt.tdiv b.toInt)
def udiv (a b : Word) : Word := if b = 0 then BitVec.allOnes 64 else BitVec.ofNat 64 (a.toNat / b.toNat)
def srem (a b : Word) : Word := if b = 0 then a else BitVec.ofInt 64 (a.toInt.tmod b.toInt)
def urem (a b : Word) : Word := if b = 0 then a else BitVec.ofNat 64 (a.toNat % b.toNat)

/-- Compares (04 Table 04-4). -/
def cmpEq (a b : Word) : Bool := a == b
def cmpNe (a b : Word) : Bool := a != b
def cmpLt (a b : Word) : Bool := decide (a.toInt < b.toInt)
def cmpLe (a b : Word) : Bool := decide (a.toInt ≤ b.toInt)
def cmpLtu (a b : Word) : Bool := decide (a.toNat < b.toNat)
def cmpLeu (a b : Word) : Bool := decide (a.toNat ≤ b.toNat)

/-! ### Shapes of scalar words -/

/-- x[D] := f(x[A], x[B]), landing under the word's latency bound (04 R79). -/
def xBinary (f : Word → Word → Word) (r : Xr) (s : State) : State :=
  s.xWord r.g r.gn [r.a.toNat, r.b.toNat, 64 + r.d.toNat] fun s =>
    .done (s.putX r.d.toNat (f (s.getX 0 r.a.toNat) (s.getX 1 r.b.toNat)) r.lb 0)

/-- x[D] := f(x[A]). -/
def xUnary (f : Word → Word) (r : Xr) (s : State) : State :=
  s.xWord r.g r.gn [r.a.toNat, 64 + r.d.toNat] fun s => .done (s.putX r.d.toNat (f (s.getX 0 r.a.toNat)) r.lb 0)

/-- x[D] := f(x[A], SExt(IMM)) (04 R85). -/
def xImmediate (f : Word → Word → Word) (r : Xi) (s : State) : State :=
  s.xWord r.g r.gn [r.a.toNat, 64 + r.d.toNat] fun s =>
    .done (s.putX r.d.toNat (f (s.getX 0 r.a.toNat) (r.imm.signExtend 64)) r.lb 0)

/-- p[PD] := f(x[A], x[B]) (04 R87). -/
def xCompare (f : Word → Word → Bool) (r : Xr) (s : State) : State :=
  s.xWord r.g r.gn [r.a.toNat, r.b.toNat] fun s =>
    .done (s.putP r.pd.toNat (f (s.getX 0 r.a.toNat) (s.getX 1 r.b.toNat)) r.lb 0)

/-- p[D] := f(x[A], SExt(IMM)) (04 R87). -/
def xCompareImm (f : Word → Word → Bool) (r : Xi) (s : State) : State :=
  s.xWord r.g r.gn [r.a.toNat] fun s =>
    .done (s.putP r.d.toNat (f (s.getX 0 r.a.toNat) (r.imm.signExtend 64)) r.lb 0)

/-- p[PD] := f(p[PA], p[PB]) (04 R88, 02 R36). -/
def xPredicate (f : Bool → Bool → Bool) (r : Xr) (s : State) : State :=
  s.xWord r.g r.gn [] fun s => .done (s.putP r.pd.toNat (f (s.getP 0 r.pa.toNat) (s.getP 1 r.pb.toNat)) r.lb 0)

/-! ### Meanings -/

/-- ADD (04 R83). -/
def execAdd (r : Xr) (s : State) : Out := .next (xBinary (fun a b => a + b) r s)

/-- SUB (04 R83). -/
def execSub (r : Xr) (s : State) : Out := .next (xBinary (fun a b => a - b) r s)

/-- AND (04 R83). -/
def execAnd (r : Xr) (s : State) : Out := .next (xBinary (fun a b => a &&& b) r s)

/-- OR (04 R83). -/
def execOr (r : Xr) (s : State) : Out := .next (xBinary (fun a b => a ||| b) r s)

/-- XOR (04 R83). -/
def execXor (r : Xr) (s : State) : Out := .next (xBinary (fun a b => a ^^^ b) r s)

/-- ANDN (04 R83). -/
def execAndn (r : Xr) (s : State) : Out := .next (xBinary (fun a b => a &&& ~~~b) r s)

/-- SLL (04 R83). -/
def execSll (r : Xr) (s : State) : Out := .next (xBinary (fun a b => a <<< (b.toNat % 64)) r s)

/-- SRL (04 R83). -/
def execSrl (r : Xr) (s : State) : Out := .next (xBinary (fun a b => a >>> (b.toNat % 64)) r s)

/-- SRA (04 R83). -/
def execSra (r : Xr) (s : State) : Out := .next (xBinary (fun a b => a.sshiftRight (b.toNat % 64)) r s)

/-- ROL (04 R83). -/
def execRol (r : Xr) (s : State) : Out := .next (xBinary (fun a b => rol64 a (b.toNat % 64)) r s)

/-- MIN (04 R83). -/
def execMin (r : Xr) (s : State) : Out := .next (xBinary (smin) r s)

/-- MAX (04 R83). -/
def execMax (r : Xr) (s : State) : Out := .next (xBinary (smax) r s)

/-- MINU (04 R83). -/
def execMinu (r : Xr) (s : State) : Out := .next (xBinary (umin) r s)

/-- MAXU (04 R83). -/
def execMaxu (r : Xr) (s : State) : Out := .next (xBinary (umax) r s)

/-- CLZ (04 R83). -/
def execClz (r : Xr) (s : State) : Out := .next (xUnary clz64 r s)

/-- CTZ (04 R83). -/
def execCtz (r : Xr) (s : State) : Out := .next (xUnary ctz64 r s)

/-- POPC (04 R83). -/
def execPopc (r : Xr) (s : State) : Out := .next (xUnary popc64 r s)

/-- SEXT (04 R83): sign-extend the low 8, 16 or 32 bits, by T. -/
def execSext (r : Xr) (s : State) : Out := .next (xUnary (fun a => BitVec.ofInt 64 (signed (tyWidth r.t.toNat) a.toNat)) r s)

/-- ZEXT (04 R83): zero-extend the low 8, 16 or 32 bits, by T. -/
def execZext (r : Xr) (s : State) : Out := .next (xUnary (fun a => BitVec.ofNat 64 (a.toNat % 2 ^ tyWidth r.t.toNat)) r s)

/-- MOV (04 R83). -/
def execMov (r : Xr) (s : State) : Out := .next (xUnary (fun a => a) r s)

/-- MUL (04 R84). -/
def execMul (r : Xr) (s : State) : Out := .next (xBinary (fun a b => a * b) r s)

/-- MULH (04 R84). -/
def execMulh (r : Xr) (s : State) : Out := .next (xBinary (mulhSS) r s)

/-- MULHU (04 R84). -/
def execMulhu (r : Xr) (s : State) : Out := .next (xBinary (mulhUU) r s)

/-- MULHSU (04 R84). -/
def execMulhsu (r : Xr) (s : State) : Out := .next (xBinary (mulhSU) r s)

/-- MAD (04 R84): the low half of the product, plus x[C]. -/
def execMad (r : Xr) (s : State) : Out :=
  .next (s.xWord r.g r.gn [r.a.toNat, r.b.toNat, r.c.toNat, 64 + r.d.toNat] fun s =>
    .done (s.putX r.d.toNat (s.getX 0 r.a.toNat * s.getX 1 r.b.toNat + s.getX 2 r.c.toNat) r.lb 0))

/-- DIV (04 R84). -/
def execDiv (r : Xr) (s : State) : Out := .next (xBinary sdiv r s)

/-- DIVU (04 R84). -/
def execDivu (r : Xr) (s : State) : Out := .next (xBinary udiv r s)

/-- REM (04 R84). -/
def execRem (r : Xr) (s : State) : Out := .next (xBinary srem r s)

/-- REMU (04 R84). -/
def execRemu (r : Xr) (s : State) : Out := .next (xBinary urem r s)

/-- CEQ (04 R87). -/
def execCeq (r : Xr) (s : State) : Out := .next (xCompare cmpEq r s)

/-- CNE (04 R87). -/
def execCne (r : Xr) (s : State) : Out := .next (xCompare cmpNe r s)

/-- CLT (04 R87). -/
def execClt (r : Xr) (s : State) : Out := .next (xCompare cmpLt r s)

/-- CLE (04 R87). -/
def execCle (r : Xr) (s : State) : Out := .next (xCompare cmpLe r s)

/-- CLTU (04 R87). -/
def execCltu (r : Xr) (s : State) : Out := .next (xCompare cmpLtu r s)

/-- CLEU (04 R87). -/
def execCleu (r : Xr) (s : State) : Out := .next (xCompare cmpLeu r s)

/-- PAND (04 R88). -/
def execPand (r : Xr) (s : State) : Out := .next (xPredicate (fun a b => a && b) r s)

/-- POR (04 R88). -/
def execPor (r : Xr) (s : State) : Out := .next (xPredicate (fun a b => a || b) r s)

/-- PXOR (04 R88). -/
def execPxor (r : Xr) (s : State) : Out := .next (xPredicate (fun a b => a != b) r s)

/-- PANDN (04 R88). -/
def execPandn (r : Xr) (s : State) : Out := .next (xPredicate (fun a b => a && !b) r s)

/-- PNAND (04 R88). -/
def execPnand (r : Xr) (s : State) : Out := .next (xPredicate (fun a b => !(a && b)) r s)

/-- PNOR (04 R88). -/
def execPnor (r : Xr) (s : State) : Out := .next (xPredicate (fun a b => !(a || b)) r s)

/-- PGET (04 R88): x[D] := p[PA]. -/
def execPget (r : Xr) (s : State) : Out :=
  .next (s.xWord r.g r.gn [64 + r.d.toNat] fun s => .done (s.putX r.d.toNat (if s.getP 0 r.pa.toNat then 1 else 0) r.lb 0))

/-- PPUT (04 R88): p[PD] := x[A] ≠ 0. -/
def execPput (r : Xr) (s : State) : Out :=
  .next (s.xWord r.g r.gn [r.a.toNat] fun s => .done (s.putP r.pd.toNat (s.getX 0 r.a.toNat != 0) r.lb 0))

/-- SEL (04 R89): x[D] := p[PD] ? x[A] : x[B]. -/
def execSel (r : Xr) (s : State) : Out :=
  .next (s.xWord r.g r.gn [r.a.toNat, r.b.toNat, 64 + r.d.toNat] fun s =>
    .done (s.putX r.d.toNat (if s.getP 2 r.pd.toNat then s.getX 0 r.a.toNat else s.getX 1 r.b.toNat) r.lb 0))

/-- ADDI (04 R85). -/
def execAddi (r : Xi) (s : State) : Out := .next (xImmediate (fun a b => a + b) r s)

/-- ANDI (04 R85). -/
def execAndi (r : Xi) (s : State) : Out := .next (xImmediate (fun a b => a &&& b) r s)

/-- ORI (04 R85). -/
def execOri (r : Xi) (s : State) : Out := .next (xImmediate (fun a b => a ||| b) r s)

/-- XORI (04 R85). -/
def execXori (r : Xi) (s : State) : Out := .next (xImmediate (fun a b => a ^^^ b) r s)

/-- SLLI (04 R85). -/
def execSlli (r : Xi) (s : State) : Out := .next (xImmediate (fun a b => a <<< (b.toNat % 64)) r s)

/-- SRLI (04 R85). -/
def execSrli (r : Xi) (s : State) : Out := .next (xImmediate (fun a b => a >>> (b.toNat % 64)) r s)

/-- SRAI (04 R85). -/
def execSrai (r : Xi) (s : State) : Out := .next (xImmediate (fun a b => a.sshiftRight (b.toNat % 64)) r s)

/-- ROLI (04 R85). -/
def execRoli (r : Xi) (s : State) : Out := .next (xImmediate (fun a b => rol64 a (b.toNat % 64)) r s)

/-- MINI (04 R85). -/
def execMini (r : Xi) (s : State) : Out := .next (xImmediate (smin) r s)

/-- MAXI (04 R85). -/
def execMaxi (r : Xi) (s : State) : Out := .next (xImmediate (smax) r s)

/-- MULI (04 R85). -/
def execMuli (r : Xi) (s : State) : Out := .next (xImmediate (fun a b => a * b) r s)

/-- CEQI (04 R87). -/
def execCeqi (r : Xi) (s : State) : Out := .next (xCompareImm cmpEq r s)

/-- CNEI (04 R87). -/
def execCnei (r : Xi) (s : State) : Out := .next (xCompareImm cmpNe r s)

/-- CLTI (04 R87). -/
def execClti (r : Xi) (s : State) : Out := .next (xCompareImm cmpLt r s)

/-- CLEI (04 R87). -/
def execClei (r : Xi) (s : State) : Out := .next (xCompareImm cmpLe r s)

/-- CLTUI (04 R87). -/
def execCltui (r : Xi) (s : State) : Out := .next (xCompareImm cmpLtu r s)

/-- CLEUI (04 R87). -/
def execCleui (r : Xi) (s : State) : Out := .next (xCompareImm cmpLeu r s)

/-- x[D] := f(IMM, x[D]) (04 R86); `movh` alone reads x[D]: `use` lists it. -/
def xConst (use : Nat) (f : BitVec 32 → Word → Word) (r : Xk) (s : State) : State :=
  s.xWord r.g r.gn [use + r.d.toNat] fun s => .done (s.putX r.d.toNat (f r.imm (s.getX 0 r.d.toNat)) r.lb 0)

/-- MOVI (04 R86). -/
def execMovi (r : Xk) (s : State) : Out := .next (xConst 64 (fun i _ => i.signExtend 64) r s)

/-- MOVU (04 R86). -/
def execMovu (r : Xk) (s : State) : Out := .next (xConst 64 (fun i _ => i.zeroExtend 64) r s)

/-- MOVH (04 R86): the low half keeps its value. -/
def execMovh (r : Xk) (s : State) : Out := .next (xConst 0 (fun i x => i ++ x.extractLsb' 0 32) r s)

end Sys2Proof.Machine
end

