-- ==== Sys2Proof/Machine/Float.lean ====
section
/-! DEFINITION. Scalar floating-point words (04 R90-R92, 03). -/

namespace Sys2Proof.Machine

/-- A pattern of type `t` in a scalar register: bits above its width are ignored on reading, zero on writing (04 R78). -/
def xPat (t : Nat) (x : Word) : Nat := x.toNat % 2 ^ tyWidth t

/-- The rounding code of a scalar form: M[54:52] (04 "Scalar floating point"). -/
def fRm (r : Xr) : Nat := r.m.toNat % 8

/-- x[D] := f of the patterns of x[A], x[B], x[C]; its flags land with it (03 R71). -/
def xFloat (f : Nat → Nat → Nat → Nat × Flags) (r : Xr) (s : State) : State :=
  s.xWord r.g r.gn [r.a.toNat, r.b.toNat, r.c.toNat, 64 + r.d.toNat] fun s =>
    let t := r.t.toNat
    let (v, fl) := f (xPat t (s.getX 0 r.a.toNat)) (xPat t (s.getX 1 r.b.toNat)) (xPat t (s.getX 2 r.c.toNat))
    .done (s.putX r.d.toNat (BitVec.ofNat 64 v) r.lb fl)

/-- p[PD] := f of the patterns of x[A], x[B]. -/
def xFloatCmp (f : FV → FV → Bool × Flags) (r : Xr) (s : State) : State :=
  s.xWord r.g r.gn [r.a.toNat, r.b.toNat] fun s =>
    let t := r.t.toNat
    let (v, fl) := f (decF t (xPat t (s.getX 0 r.a.toNat))) (decF t (xPat t (s.getX 1 r.b.toNat)))
    .done (s.putP r.pd.toNat v r.lb fl)

/-- Rounded sums, products and quotients of two patterns (04 Table 04-6). -/
def fAdd (t rm a b : Nat) : Nat × Flags := let x := decF t a; let y := decF t b; finish t rm false [x, y] false 0 (sumV rm [x, y])
def fSub (t rm a b : Nat) : Nat × Flags := let x := decF t a; let y := decF t b; finish t rm false [x, y] false 0 (sumV rm [x, y.neg])
def fMul (t rm a b : Nat) : Nat × Flags := let x := decF t a; let y := decF t b; finish t rm false [x, y] false 0 (mulV x y)
def fDiv (t rm a b : Nat) : Nat × Flags :=
  let x := decF t a
  let y := decF t b
  let (q, fl) := divV x y
  finish t rm false [x, y] false fl q

/-- The square root with the special cases of 03 Table 03-6. -/
def fSqrt (t rm a : Nat) : Nat × Flags :=
  let x := decF t a
  finish t rm false [x] false 0 (match x with
    | .zero n => some (.zero n)
    | .inf n => if n then none else some (.inf false)
    | .fin n a b => if n then none else let (p, q) := sqrtQ a b; some (.fin false p q)
    | y => some y)

/-- Sign-bit forms (04 R90): they act on the pattern alone and raise no flag. -/
def fAbs (t a : Nat) : Nat := a % signBit t
def fNeg (t a : Nat) : Nat := if a < signBit t then a + signBit t else a - signBit t
def fSgnj (t a b : Nat) : Nat := a % signBit t + b / signBit t * signBit t

/-- Compares (04 Table 04-7). -/
def cmpFeq (a b : FV) : Bool × Flags :=
  if a.isNaN || b.isNaN then (false, if a.isSig || b.isSig then flagNV else 0) else (eqV a b, 0)
def cmpFlt (a b : FV) : Bool × Flags := if a.isNaN || b.isNaN then (false, flagNV) else (ltV a b, 0)
def cmpFle (a b : FV) : Bool × Flags := if a.isNaN || b.isNaN then (false, flagNV) else (ltV a b || eqV a b, 0)
def cmpFun (a b : FV) : Bool × Flags := (a.isNaN || b.isNaN, if a.isSig || b.isSig then flagNV else 0)

/-- The one-hot class of a pattern (04 R91). -/
def fClass (t p : Nat) : Nat :=
  let sub := p / 2 ^ tyFrac t % 2 ^ (tyWidth t - 1 - tyFrac t) == 0
  match decF t p with
  | .inf true => 1
  | .fin true _ _ => if sub then 4 else 2
  | .zero true => 8
  | .zero false => 16
  | .fin false _ _ => if sub then 32 else 64
  | .inf false => 128
  | .nan _ true _ _ => 256
  | .nan _ false _ _ => 512

/-! ### Meanings -/

/-- FADD (04 R90). -/
def execFadd (r : Xr) (s : State) : Out := .next (xFloat (fun a b _ => fAdd r.t.toNat (fRm r) a b) r s)

/-- FSUB (04 R90). -/
def execFsub (r : Xr) (s : State) : Out := .next (xFloat (fun a b _ => fSub r.t.toNat (fRm r) a b) r s)

/-- FMUL (04 R90). -/
def execFmul (r : Xr) (s : State) : Out := .next (xFloat (fun a b _ => fMul r.t.toNat (fRm r) a b) r s)

/-- FDIV (04 R90). -/
def execFdiv (r : Xr) (s : State) : Out := .next (xFloat (fun a b _ => fDiv r.t.toNat (fRm r) a b) r s)

/-- FSQRT (04 R90). -/
def execFsqrt (r : Xr) (s : State) : Out := .next (xFloat (fun a _ _ => fSqrt r.t.toNat (fRm r) a) r s)

/-- FMIN (04 R90). -/
def execFmin (r : Xr) (s : State) : Out := .next (xFloat (fun a b _ => minMax r.t.toNat false a b) r s)

/-- FMAX (04 R90). -/
def execFmax (r : Xr) (s : State) : Out := .next (xFloat (fun a b _ => minMax r.t.toNat true a b) r s)

/-- FMA (04 R90): one rounding. -/
def execFma (r : Xr) (s : State) : Out := .next (xFloat (fun a b c => fusedV r.t.toNat (fRm r) false false (decF r.t.toNat a) (decF r.t.toNat b) (decF r.t.toNat c)) r s)

/-- FMS (04 R90): one rounding. -/
def execFms (r : Xr) (s : State) : Out := .next (xFloat (fun a b c => fusedV r.t.toNat (fRm r) false true (decF r.t.toNat a) (decF r.t.toNat b) (decF r.t.toNat c)) r s)

/-- FNMA (04 R90): one rounding. -/
def execFnma (r : Xr) (s : State) : Out := .next (xFloat (fun a b c => fusedV r.t.toNat (fRm r) true false (decF r.t.toNat a) (decF r.t.toNat b) (decF r.t.toNat c)) r s)

/-- FABS (04 R90). -/
def execFabs (r : Xr) (s : State) : Out := .next (xFloat (fun a _ _ => (fAbs r.t.toNat a, 0)) r s)

/-- FNEG (04 R90). -/
def execFneg (r : Xr) (s : State) : Out := .next (xFloat (fun a _ _ => (fNeg r.t.toNat a, 0)) r s)

/-- FSGNJ (04 R90). -/
def execFsgnj (r : Xr) (s : State) : Out := .next (xFloat (fun a b _ => (fSgnj r.t.toNat a b, 0)) r s)

/-- FEQ (04 R91). -/
def execFeq (r : Xr) (s : State) : Out := .next (xFloatCmp cmpFeq r s)

/-- FLT (04 R91). -/
def execFlt (r : Xr) (s : State) : Out := .next (xFloatCmp cmpFlt r s)

/-- FLE (04 R91). -/
def execFle (r : Xr) (s : State) : Out := .next (xFloatCmp cmpFle r s)

/-- FUN (04 R91). -/
def execFun (r : Xr) (s : State) : Out := .next (xFloatCmp cmpFun r s)

/-- FCLASS (04 R91). -/
def execFclass (r : Xr) (s : State) : Out := .next (xFloat (fun a _ _ => (fClass r.t.toNat a, 0)) r s)

/-- The source type of a conversion: B[39:36] (04 R92). -/
def cvtSrc (r : Xr) : Nat := r.b.toNat % 16

/-- x[D] := f of the source pattern in x[A] (04 R92). -/
def xConvert (f : Nat → Nat × Flags) (ext : Nat → Word) (r : Xr) (s : State) : State :=
  s.xWord r.g r.gn [r.a.toNat, 64 + r.d.toNat] fun s =>
    let (v, fl) := f (xPat (cvtSrc r) (s.getX 0 r.a.toNat))
    .done (s.putX r.d.toNat (ext v) r.lb fl)

/-- FCVT (04 R92, 03 R61). -/
def execFcvt (r : Xr) (s : State) : Out := .next (xConvert (fun p => cvtF r.t.toNat (cvtSrc r) (fRm r) false p) (BitVec.ofNat 64) r s)

/-- FCVTI (04 R92): an i-type result is sign-extended, an n-type result zero-extended. -/
def execFcvti (r : Xr) (s : State) : Out := .next (xConvert (fun p => toInt r.t.toNat (fRm r) (decF (cvtSrc r) p)) (fun v => BitVec.ofInt 64 (decInt r.t.toNat v)) r s)

/-- ICVTF (04 R92). -/
def execIcvtf (r : Xr) (s : State) : Out := .next (xConvert (fun p => roundV r.t.toNat (fRm r) false (FV.ofInt (decInt (cvtSrc r) p))) (BitVec.ofNat 64) r s)

end Sys2Proof.Machine
end

