-- ==== Sys2Proof/Machine/Special.lean ====
section
/-! DEFINITION. Special functions rounded once from the exact value (03 R72, Table 03-6). A function's value is enclosed
between fixed-point numbers of P fraction bits, and P grows until both ends round alike; the bit that no P up to 8,192
decides is a free value (log 12). -/

namespace Sys2Proof.Machine

/-! ### Enclosures in units of 2^-P -/

def ceilDiv (a b : Nat) : Nat := (a + b - 1) / b

/-- Terms of the exponential series from the `i`-th on: lower and upper term, lower and upper sum. -/
def expTerms (P lo hi : Nat) : Nat → Nat → Nat → Nat → Nat → Nat → Nat × Nat
  | 0, _, _, th, sl, sh => (sl, sh + 2 * th)
  | k + 1, i, tl, th, sl, sh =>
    let tl := tl * lo / (2 ^ P * i)
    let th := ceilDiv (th * hi) (2 ^ P * i)
    expTerms P lo hi k (i + 1) tl th (sl + tl) (sh + th)

/-- Square an enclosure `m` times. -/
def squares (P : Nat) : Nat → Nat × Nat → Nat × Nat
  | 0, x => x
  | m + 1, (l, h) => squares P m (l * l / 2 ^ P, ceilDiv (h * h) (2 ^ P))

/-- `exp` of a number of `[lo, hi] / 2^P`, `0 ≤ lo`. -/
def expPos (P lo hi : Nat) : Nat × Nat :=
  let m := if hi ≤ 2 ^ (P - 1) then 0 else Nat.log2 hi + 2 - P
  let (l, h) := expTerms P (lo / 2 ^ m) (ceilDiv hi (2 ^ m)) (P / 6 + 32) 1 (2 ^ P) (2 ^ P) (2 ^ P) (2 ^ P)
  squares P m (l, h)

/-- The reciprocal of a positive enclosure. -/
def recip (P : Nat) (x : Nat × Nat) : Nat × Nat := (2 ^ (2 * P) / x.2, ceilDiv (2 ^ (2 * P)) x.1)

/-- `n / d` rounded down and up. -/
def fixed (P n d : Nat) : Nat × Nat := (n * 2 ^ P / d, ceilDiv (n * 2 ^ P) d)

/-- `exp` of `± n / d`. -/
def expEnc (P : Nat) (neg : Bool) (n d : Nat) : Nat × Nat :=
  let (lo, hi) := fixed P n d
  if neg then recip P (expPos P lo hi) else expPos P lo hi

/-- Terms of the series of atanh: the power, and the sums. -/
def atanhTerms (P l2 h2 : Nat) : Nat → Nat → Nat → Nat → Nat → Nat → Nat × Nat
  | 0, _, _, zh, sl, sh => (sl, sh + zh)
  | k + 1, i, zl, zh, sl, sh =>
    let zl' := zl * l2 / 2 ^ P
    let zh' := ceilDiv (zh * h2) (2 ^ P)
    atanhTerms P l2 h2 k (i + 2) zl' zh' (sl + zl / i) (sh + ceilDiv zh i)

/-- `ln` of `n / d`, `d ≤ n < 2 d`: twice the atanh of `(n - d) / (n + d)`. -/
def lnUnit (P n d : Nat) : Nat × Nat :=
  let (zl, zh) := fixed P (n - d) (n + d)
  let (l, h) := atanhTerms P (zl * zl / 2 ^ P) (ceilDiv (zh * zh) (2 ^ P)) (P / 3 + 8) 1 zl zh 0 0
  (2 * l, 2 * h)

/-- `ln 2`: twice the atanh of a third. -/
def ln2 (P : Nat) : Nat × Nat :=
  let (zl, zh) := fixed P 1 3
  let (l, h) := atanhTerms P (zl * zl / 2 ^ P) (ceilDiv (zh * zh) (2 ^ P)) (P / 3 + 8) 1 zl zh 0 0
  (2 * l, 2 * h)

/-- A positive fraction as `f × 2^e`, `1 ≤ f < 2`. -/
def unitPart (n d : Nat) : Int × Nat × Nat :=
  let e := floorLog n d
  if 0 ≤ e then (e, n, d * 2 ^ e.toNat) else (e, n * 2 ^ (-e).toNat, d)

/-- `ln (n / d)` as a signed enclosure. -/
def lnEnc (P n d : Nat) : Int × Int :=
  let (e, a, b) := unitPart n d
  let (l, h) := lnUnit P a b
  let (cl, ch) := ln2 P
  if 0 ≤ e then (e * cl + l, e * ch + h) else (e * ch + l, e * cl + h)

/-- `log2 (n / d)` as a signed enclosure. -/
def log2Enc (P n d : Nat) : Int × Int :=
  let (e, a, b) := unitPart n d
  let (l, h) := lnUnit P a b
  let (cl, ch) := ln2 P
  (e * 2 ^ P + ((l * 2 ^ P / ch : Nat) : Int), e * 2 ^ P + ((ceilDiv (h * 2 ^ P) cl : Nat) : Int))

/-! ### Rounding an enclosure -/

/-- The rounded value when both ends of an enclosure of `P` fraction bits have one sign and round alike. -/
def roundEnc (t rm P : Nat) (x : Int × Int) : Option (Nat × Flags) :=
  if x.1 = 0 ∨ x.2 = 0 ∨ (x.1 < 0 ∧ 0 < x.2) then none
  else
    let a := roundMag t rm false (decide (x.1 < 0)) x.1.natAbs (2 ^ P)
    let b := roundMag t rm false (decide (x.2 < 0)) x.2.natAbs (2 ^ P)
    if a = b then some a else none

/-- The precisions tried. -/
def precisions : List Nat := [256, 512, 1024, 2048, 4096, 8192]

/-- Round the value that `enc` encloses; `fn` and `p` name the free value of log 12. -/
def roundExact (t rm fn p : Nat) (enc : Nat → Int × Int) : Nat × Flags :=
  match precisions.findSome? (fun P => roundEnc t rm P (enc P)) with
  | some r => r
  | none => ((Config.freeSpecial (tyWidth t) fn p).toNat, flagNX)

def natEnc (x : Nat × Nat) : Int × Int := ((x.1 : Int), (x.2 : Int))

/-- Operands of a greater magnitude than 1,000 give the rounded value that ±1,000 gives in every type of the span engine. -/
def clamp (n d : Nat) : Nat × Nat := if 1000 * d < n then (1000, 1) else (n, d)

/-- `exp`, `exp2`, `tanh` and `sigm` of a finite nonzero operand. -/
def expR (t rm p : Nat) (neg : Bool) (n d : Nat) : Nat × Flags :=
  let (n, d) := clamp n d
  roundExact t rm 6 p (fun P => natEnc (expEnc P neg n d))

def exp2R (t rm p : Nat) (neg : Bool) (n d : Nat) : Nat × Flags :=
  let (n, d) := clamp n d
  let k : Int := if neg then -((ceilDiv n d : Nat) : Int) else ((n / d : Nat) : Int)
  let f := if neg then (ceilDiv n d) * d - n else n % d
  let place (m : Nat) : Nat × Nat := scaled m k
  if f = 0 then
    let (a, b) := place 1
    roundMag t rm false false a b
  else roundExact t rm 7 p (fun P =>
    let (cl, ch) := ln2 P
    let (l, h) := expPos P (f * cl / d) (ceilDiv (f * ch) d)
    if 0 ≤ k then ((l * 2 ^ k.toNat : Nat), (h * 2 ^ k.toNat : Nat)) else ((l / 2 ^ (-k).toNat : Nat), (ceilDiv h (2 ^ (-k).toNat) : Nat)))

def tanhR (t rm p : Nat) (neg : Bool) (n d : Nat) : Nat × Flags :=
  let (n, d) := clamp n d
  roundExact t rm 9 p (fun P =>
    let (l, h) := expEnc P false (2 * n) d
    let one := 2 ^ P
    let down : Nat := ceilDiv (2 * one * one) (l + one)
    let up : Nat := 2 * one * one / (h + one)
    let lo : Int := (one : Int) - (down : Int)
    let hi : Int := (one : Int) - (up : Int)
    if neg then (-hi, -lo) else (lo, hi))

def sigmR (t rm p : Nat) (neg : Bool) (n d : Nat) : Nat × Flags :=
  let (n, d) := clamp n d
  roundExact t rm 10 p (fun P =>
    let (l, h) := expEnc P (!neg) n d
    let one := 2 ^ P
    ((one * one / (h + one) : Nat), (ceilDiv (one * one) (l + one) : Nat)))

/-- `log2` of a positive operand. -/
def log2R (t rm p : Nat) (n d : Nat) : Nat × Flags :=
  let (e, a, b) := unitPart n d
  if a = b then roundV t rm false (FV.ofInt e) else roundExact t rm 8 p (fun P => log2Enc P n d)

/-- `1 / sqrt (n / d)`, as a value that rounds as it does. -/
def rsqrtV (n d : Nat) : FV := let (a, b) := sqrtQ d n; .fin false a b

/-- The pattern of 1. -/
def onePat (t : Nat) : Nat := tyBias t * 2 ^ tyFrac t

/-- The special functions of OP 0x41 by their FN, 3 to 10 (05 R115). -/
def specialFn (fn t rm p : Nat) : Nat × Flags :=
  let x := decF t p
  let nan (_ : Unit) : Nat × Flags := (nanPat t, flagNV)
  match x with
  | .nan .. => finish t rm false [x] false 0 (some x)
  | .zero neg => match fn with
    | 3 => (withSign t neg (infPat t), flagDZ)
    | 4 => (withSign t neg 0, 0)
    | 5 => (withSign t neg (infPat t), flagDZ)
    | 6 => (onePat t, 0)
    | 7 => (onePat t, 0)
    | 8 => (withSign t true (infPat t), flagDZ)
    | 9 => (withSign t neg 0, 0)
    | _ => (onePat t - 2 ^ tyFrac t, 0)
  | .inf neg => match fn with
    | 3 => (withSign t neg 0, 0)
    | 4 => if neg then nan () else (infPat t, 0)
    | 5 => if neg then nan () else (0, 0)
    | 6 => if neg then (0, 0) else (infPat t, 0)
    | 7 => if neg then (0, 0) else (infPat t, 0)
    | 8 => if neg then nan () else (infPat t, 0)
    | 9 => (withSign t neg (onePat t), 0)
    | _ => if neg then (0, 0) else (onePat t, 0)
  | .fin neg n d => match fn with
    | 3 => roundMag t rm false neg d n
    | 4 => fSqrt t rm p
    | 5 => if neg then nan () else roundV t rm false (rsqrtV n d)
    | 6 => expR t rm p neg n d
    | 7 => exp2R t rm p neg n d
    | 8 => if neg then nan () else log2R t rm p n d
    | 9 => tanhR t rm p neg n d
    | _ => sigmR t rm p neg n d

end Sys2Proof.Machine
end

