-- ==== Sys2Proof/Machine/Operands.lean ====
section
/-! DEFINITION. Operand forms that several instructions share: sizes, A-stream addresses (02 R42), engine operands (08
R205), queues and the ingress windows that stand in for them (08 R193, R202; 14 R359, R361). -/

namespace Sys2Proof.Machine

/-- Bytes of a size code (02 Table 02-3). -/
def sizeBytes (sz : Nat) : Nat := [1, 2, 4, 8, 64].getD sz 1

/-! ### A-stream addresses (02 R42) -/

/-- The address of an AM word. -/
def State.amAddr (s : State) (r : Am) : Word :=
  if r.ix then s.getA 0 r.a.toNat + s.getA 1 r.bo.toNat
  else s.getA 0 r.a.toNat + BitVec.ofNat 64 (r.bo.toNat * sizeBytes r.sz.toNat)

/-- The registers that the address reads. -/
def amReads (r : Am) : List Nat := if r.ix then [r.a.toNat, r.bo.toNat] else [r.a.toNat]

/-- A read of `n` bytes at an AM address: store space with S = 1, global otherwise. A store-space address that does not fit
in 32 bits breaks 01 R16. -/
def State.amRead (s : State) (r : Am) (n : Nat) : State × Got (List Byte) :=
  let a := (s.amAddr r).toNat
  if r.s = 1 then (s.postStore s.who a n, s.sRead s.who a n) else s.gRead s.who needR a n

/-- A store of bytes at an AM address. -/
def State.amWrite (s : State) (r : Am) (bs : List Byte) : State × Got Unit :=
  let a := (s.amAddr r).toNat
  if r.s = 1 then s.sWrite s.who a bs else s.gWrite s.who a bs

/-- The first 64-byte line of `n` words from a store-space address that does not lie in one bank, or is otherwise forbidden:
a line is one access (01 R16). -/
def State.lineBad (s : State) (a n : Nat) : Option Nat :=
  ((List.range ((n + 7) / 8)).find? (fun j => (s.storeTarget s.who (a + 64 * j) 64).isNone)).map (fun j => a + 64 * j)

/-- `n` words from an address that is no multiple of 64, byte by byte in ascending order: the landing lanes give them new
codes (07 R169). -/
def State.looseRead (s : State) (store : Bool) (a : Nat) : Nat → State × Got (List CWord)
  | 0 => (s, .ok [])
  | n + 1 =>
    match (if store then (s.postStore s.who a 8, s.sRead s.who a 8) else s.gRead s.who needR a 8) with
    | (s, .ok bs) => match s.looseRead store (a + 8) n with
      | (s, .ok ws) => (s, .ok (CWord.good (BitVec.ofNat 64 (ofBytes bs)) :: ws))
      | o => o
    | (s, .pages x) => (s, .pages x)
    | (s, .viol x) => (s, .viol x)
    | (s, .data x) => (s, .data x)
    | (s, .dev x) => (s, .dev x)
    | (s, .far x) => (s, .far x)

/-- `n` whole check words at an AM address; at an address that is no multiple of 64 they are read byte by byte (07 R169, 08
R193, R194). -/
def State.amReadWords (s : State) (r : Am) (n : Nat) : State × Got (List CWord) :=
  let a := (s.amAddr r).toNat
  if a % 64 = 0 then
    if r.s = 1 then (s, s.sReadWords s.who a n) else s.gReadWords s.who a n
  else if r.s = 1 then match s.lineBad a n with
    | some x => (s, .viol x)
    | none => s.looseRead true a n
  else s.looseRead false a n

/-- Store words from an address that is no multiple of 64: they are consumed and stored as bytes. -/
def State.looseWrite (s : State) (store : Bool) (a : Nat) : List CWord → State × Got Unit
  | [] => (s, .ok ())
  | w :: ws => match w.use with
    | none => (s, .data a)
    | some v =>
      match (if store then s.sWrite s.who a (toBytes 8 v.toNat) else s.gWrite s.who a (toBytes 8 v.toNat)) with
      | (s, .ok ()) => s.looseWrite store (a + 8) ws
      | o => o

/-- Store whole check words at an AM address. -/
def State.amWriteWords (s : State) (r : Am) (ws : List CWord) : State × Got Unit :=
  let a := (s.amAddr r).toNat
  if a % 64 = 0 then
    if r.s = 1 then s.sWriteWords s.who a ws else s.gWriteWords s.who a ws
  else if r.s = 1 then match s.lineBad a ws.length with
    | some x => (s, .viol x)
    | none => s.looseWrite true a ws
  else s.looseWrite false a ws

/-! ### Engine operands (08 R205) -/

/-- An operand of an engine: store space or global, or neither (bits [62:32] of a store-space operand). -/
inductive EngAddr where
  | store (a : Nat)
  | global (a : Nat)
  | bad
  deriving DecidableEq, Repr

def engAddr (w : Word) : EngAddr :=
  if w.getLsbD 63 then (if w.extractLsb' 32 31 = 0 then .store (w.toNat % 2 ^ 32) else .bad) else .global w.toNat

/-! ### Flow entries (14 Table 14-5) -/

def fwV (e : BitVec 256) : Bool := e.getLsbD 128
def fwKind (e : BitVec 256) : Bool := e.getLsbD 198
def fwCtx (e : BitVec 256) : Nat := (e.extractLsb' 160 32).toNat
def fwPos (e : BitVec 256) : Nat := (e.extractLsb' 203 6).toNat * 64 + (e.extractLsb' 209 6).toNat
def fwQ (e : BitVec 256) : Nat := (e.extractLsb' 199 4).toNat
def fwBank (e : BitVec 256) : Nat := (e.extractLsb' 192 4).toNat

/-- The handle of the context in a slot (01 R27). -/
def State.handleAt (s : State) (slot : Nat) : Nat := (tget s.instars slot).getD 0 * 2 ^ 14 + slot

/-- The bank of the ingress window that a valid flow entry binds to a queue number of a position (14 R361). -/
def State.windowOf (s : State) (slot pos q : Nat) : Option Nat :=
  s.flows.findSome? (fun f =>
    if fwV f.2 && fwKind f.2 && decide (fwCtx f.2 = s.handleAt slot) && decide (fwPos f.2 = pos) && decide (fwQ f.2 = q) then some (fwBank f.2)
    else none)

/-! ### Queues -/

/-- What a queue number names on a core: a queue of the queue bank, an ingress window, or nothing (07 R167). -/
inductive QHome where
  | queue
  | window (b : Nat)
  | none
  deriving DecidableEq, Repr

/-- Whether some bank is in FIFO use 0. -/
def Store.hasQueues (t : Store) : Bool := t.banks.any (fun b => decide (b.mode = .fifo) && decide (b.use = 0))

/-- What queue number `q` names on the core in focus. -/
def State.qHome (s : State) (q : Nat) : QHome :=
  match s.windowOf (s.core.ctx.getD 0) s.core.pos q with
  | some b => .window b
  | none => if s.own.hasQueues then .queue else .none

/-- The words that a consumer of a queue number finds. -/
def Store.qWords (t : Store) (h : QHome) (q : Nat) : List CWord :=
  match h with
  | .queue => (tget t.queues q).getD []
  | .window b => (tget t.windows b).getD []
  | .none => []

/-- Replace them. -/
def Store.setQ (t : Store) (h : QHome) (q : Nat) (ws : List CWord) : Store :=
  match h with
  | .queue => { t with queues := if ws = [] then tdel t.queues q else tset t.queues q ws }
  | .window b => { t with windows := if ws = [] then tdel t.windows b else tset t.windows b ws }
  | .none => t

/-- Words that issued `ldq` words have reserved in a queue (08 R193). -/
def Core.reserved (c : Core) (q : Nat) : Nat :=
  (c.loads.map (fun l => match l.dest with
    | .queue k ws => if k = q then ws.length else 0
    | _ => 0)).sum

/-- Room in a queue of the queue bank: 256 words, less those held and reserved. -/
def State.qRoom (s : State) (q : Nat) : Nat := 256 - ((s.own.qWords .queue q).length + s.core.reserved q)

/-- The words that queue number `q` offers on the core in focus. -/
def State.qOffer (s : State) (q : Nat) : List CWord := s.own.qWords (s.qHome q) q

/-- Take `n` words. -/
def State.qTake (s : State) (q n : Nat) : State :=
  s.setOwn (s.own.setQ (s.qHome q) q ((s.qOffer q).drop n))

/-- Append words to a queue of the queue bank. -/
def State.qPush (s : State) (q : Nat) (ws : List CWord) : State :=
  s.setOwn (s.own.setQ .queue q (s.own.qWords .queue q ++ ws))

end Sys2Proof.Machine
end

