-- ==== Sys2Proof/Machine/Mgmt.lean ====
section
/-! DEFINITION. The management window (14 R352-R355, Tables 14-2 to 14-5): what its registers read, and what writes to them
do. Offsets of registers within a block that the spec does not give are those of log 6. -/

namespace Sys2Proof.Machine

/-! ### The host launch port (14 R353) -/

/-- A write to RADDR: dropped and counted when a must-be-zero bit is set or 256 addresses are queued. -/
def State.raddrWrite (s : State) (d : Nat) (v : Word) : State :=
  match s.dom d with
  | none => s
  | some x =>
    if v.extractLsb' 52 12 ≠ 0 ∨ v.extractLsb' 0 7 ≠ 0 ∨ 256 ≤ x.fifo.length then
      s.setDom d { x with ovf := min (x.ovf + 1) 65535 }
    else s.setDom d { x with fifo := x.fifo ++ [v.toNat] }

/-! ### Flow entries (14 R359, R361) -/

/-- The reserved bits of a flow entry read zero. -/
def flowMask : BitVec 256 :=
  BitVec.ofNat 256 (2 ^ 256 - 1 - 3 * 2 ^ 196 - 4095 * 2 ^ 132 - 15 * 2 ^ 96 - (2 ^ 80 - 1))

def fwAddr (e : BitVec 256) : Nat := (e.extractLsb' 220 36).toNat * 2 ^ 16
def fwLog (e : BitVec 256) : Nat := (e.extractLsb' 215 5).toNat
def fwMax (e : BitVec 256) : Nat := (e.extractLsb' 144 16).toNat

/-- Two valid entries that name one window. -/
def sameWindow (e f : BitVec 256) : Bool :=
  if fwKind e then fwKind f && decide (fwCtx e = fwCtx f) && decide (fwPos e = fwPos f) && decide (fwBank e = fwBank f)
  else !fwKind f && decide (fwAddr e < fwAddr f + 2 ^ fwLog f) && decide (fwAddr f < fwAddr e + 2 ^ fwLog e)

/-- Two valid entries that name one queue of one core and different banks. -/
def clashQueue (e f : BitVec 256) : Bool :=
  fwKind e && fwKind f && decide (fwCtx e = fwCtx f) && decide (fwPos e = fwPos f) && decide (fwQ e = fwQ f) && decide (fwBank e ≠ fwBank f)

/-- Write a flow entry; one out of range, or in conflict with others, is ignored and leaves the entry invalid. -/
def State.flowWrite (s : State) (port i : Nat) (e : BitVec 256) : State :=
  if 4 ≤ port ∨ 64 ≤ i then s
  else
    let key := port * 64 + i
    let e := e &&& flowMask
    let others := s.flows.filter (fun f => decide (f.1 ≠ key) && fwV f.2)
    let range := decide (64 ≤ fwMax e) && decide (fwMax e ≤ 9216) &&
      (fwKind e || (decide (16 ≤ fwLog e) && decide (fwLog e ≤ 30) && decide (placeOf (fwAddr e) = .hbm) && decide (placeOf (fwAddr e + 2 ^ fwLog e - 1) = .hbm)))
    let clash := others.any (fun f => (decide (f.1 / 64 ≠ port) && sameWindow e f.2) || clashQueue e f.2)
    let old := (tget s.flows key).getD 0
    let new := if fwV e && (!range || clash) then old &&& ~~~(BitVec.twoPow 256 128) else e
    { s with flows := if new = 0 then tdel s.flows key else tset s.flows key new }

/-! ### Words of the window -/

/-- A 64-bit word of a wider value. -/
def wordOf (v i : Nat) : Word := BitVec.ofNat 64 (v / 2 ^ (64 * i))

/-- A word of a fault ring: HEAD, TAIL and LOST, then records by their slot. -/
def Ring.read (r : Ring) (off : Nat) : Word :=
  if off = 0 then BitVec.ofNat 64 (r.written % 256)
  else if off = 8 then BitVec.ofNat 64 ((r.written - r.recs.length) % 256)
  else if off = 16 then BitVec.ofNat 64 r.lost
  else if off < 64 then 0
  else
    let slot := (off - 64) / 32
    let q := r.written - r.recs.length
    match r.recs[(slot + 256 - q % 256) % 256]? with
    | some v => if slot < 256 then wordOf v.toNat ((off - 64) % 32 / 8) else 0
    | none => 0

/-- A word of a monitor (13 R350). -/
def Monitor.read (m : Monitor) (off : Nat) : Word :=
  match off / 8 with
  | 0 => BitVec.ofNat 64 m.min
  | 1 => BitVec.ofNat 64 m.max
  | 2 => BitVec.ofNat 64 m.count
  | 3 => BitVec.ofNat 64 m.sum
  | n => if n < 12 then BitVec.ofNat 64 (m.bins.getD (2 * (n - 4)) 0 + 2 ^ 32 * m.bins.getD (2 * (n - 4) + 1) 0) else 0

/-- An entry of a published top-64 list (11 Table 11-8). -/
def State.topEntry (s : State) (stack i : Nat) : Word :=
  match (s.stack stack).top[i]? with
  | none => 0
  | some (pn, est) =>
    let k := s.dir.find? (fun e => decide (eTier e.2 = 1) && decide (eLoc e.2 = pn))
    BitVec.ofNat 64 (min est 65535 * 2 ^ 48 + (k.map (fun e => e.1)).getD 0 * 2 ^ 24 + (if k.isSome then 2 ^ 23 else 0) + pn % 2 ^ 23)

/-- STATUS (14 Table 14-4). -/
def State.statusWord (s : State) : Word :=
  BitVec.ofNat 64 (s.step % 16 * 16 + (if s.synced then 8 else 0) + (if s.recovery then 4 else 0) + (if s.ready then 2 else 0))

/-- How a domain's supervisor has parked (12 R310): the word of its park record with the cause, or zero (log 6). -/
def State.superPark (s : State) (d : Nat) : Word :=
  match (s.dom d).bind (fun x => x.super.bind (fun k => tget s.ctxs k)) with
  | some c => if c.parkCause = 0 then 0 else s.cbWord c 0x20
  | none => 0

/-- The aligned word at an offset of the window; unallocated offsets read zero. -/
def State.mgmtWord (s : State) (off : Nat) : Word :=
  if off = 0x000 then s.statusWord
  else if off = 0x008 then Config.moduleSerial.extractLsb' 0 64
  else if off = 0x010 then Config.moduleSerial.extractLsb' 64 64
  else if off = 0x018 then BitVec.ofNat 64 s.apbase
  else if off = 0x020 then BitVec.ofNat 64 s.pkg
  else if 0x028 ≤ off ∧ off < 0x048 then s.superPark ((off - 0x028) / 8)
  else if off = 0x1000 then s.pAsked.zeroExtend 64
  else if off = 0x1008 then Config.freeBits 64 s.tick 0x1008
  else if off = 0x1010 then Config.freeBits 64 s.tick 0x1010
  else if 0x10000 ≤ off ∧ off < 0x14000 then
    match s.dom ((off - 0x10000) / 0x1000) with
    | none => 0
    | some x => match off % 0x1000 with
      | 0x008 => BitVec.ofNat 64 (x.fifo.length * 2 ^ 32 + x.reject * 2 ^ 16 + x.ovf)
      | 0x010 => BitVec.ofNat 64 (x.lastStatus * 2 ^ 60 + x.lastAddr)
      | _ => 0
  else if 0x20000 ≤ off ∧ off < 0x24000 then
    match s.dom ((off - 0x20000) / 0x1000) with
    | none => 0
    | some x => if off % 0x1000 = 0x010 then BitVec.ofNat 64 x.resStatus else 0
  else if 0x100000 ≤ off ∧ off < 0x10A000 then
    let i := (off - 0x100000) / 0x2000
    if i = 4 then s.pkgRing.read (off % 0x2000)
    else match s.dom i with
      | none => 0
      | some x => x.ring.read ((off - 0x100000) % 0x2000)
  else if 0x200000 ≤ off ∧ off < 0x202000 then
    match s.dom ((off - 0x200000) / 0x800) with
    | none => 0
    | some x =>
      let i := off % 0x800 / 128
      if i ≤ 10 then ((tget x.monitors i).getD Monitor.clear).read (off % 128) else 0
  else if 0x300000 ≤ off ∧ off < 0x301000 then s.topEntry ((off - 0x300000) / 0x200) (off % 0x200 / 8)
  else if 0x400000 ≤ off ∧ off < 0x402000 then
    wordOf ((tget s.flows ((off - 0x400000) / 0x800 * 64 + off % 0x800 / 32)).getD 0).toNat (off % 32 / 8)
  else 0

/-- A write of PSTATE (14 R364): the state takes effect, unless a die that was hot keeps a lower one (14 R365). -/
def State.askPower (s : State) (p : BitVec 2) : State :=
  { s with pAsked := p, pNow := if s.hot ∧ p < s.pNow then s.pNow else p }

/-- Write an aligned word of the window. A residency request is carried out when its second word is written (log 6). -/
def State.mgmtSet (s : State) (off : Nat) (v : Word) : State :=
  if off = 0x018 then { s with apbase := v.toNat % 2 ^ 16 }
  else if off = 0x1000 then s.askPower (v.extractLsb' 0 2)
  else if 0x10000 ≤ off ∧ off < 0x14000 then
    if off % 0x1000 = 0 then s.raddrWrite ((off - 0x10000) / 0x1000) v else s
  else if 0x20000 ≤ off ∧ off < 0x24000 then
    let d := (off - 0x20000) / 0x1000
    match s.dom d with
    | none => s
    | some x =>
      if off % 0x1000 = 0 then s.setDom d { x with resReq := [v.toNat] }
      else if off % 0x1000 = 8 then (s.setDom d { x with resReq := [] }).resRequest d (x.resReq.headD 0 + 2 ^ 64 * v.toNat)
      else s
  else if 0x200000 ≤ off ∧ off < 0x202000 then
    let d := (off - 0x200000) / 0x800
    match s.dom d with
    | none => s
    | some x => if off % 128 = 0x60 ∧ v = 1 ∧ off % 0x800 / 128 ≤ 10 then s.setDom d { x with monitors := tdel x.monitors (off % 0x800 / 128) } else s
  else if 0x400000 ≤ off ∧ off < 0x402000 then
    let port := (off - 0x400000) / 0x800
    let i := off % 0x800 / 32
    let old := ((tget s.flows (port * 64 + i)).getD 0).toNat
    let lo := off % 32 / 8 * 64
    s.flowWrite port i (BitVec.ofNat 256 (putBits old (lo + 63) lo v.toNat))
  else s

/-- Read bytes of the window. -/
def State.mgmtRead (s : State) (off n : Nat) : List Byte :=
  (List.range n).map (fun i => (s.mgmtWord ((off + i) / 8 * 8)).extractLsb' ((off + i) % 8 * 8) 8)

/-- Write bytes within one word of the window: its other bytes are written as they read. -/
def State.mgmtWrite (s : State) (off : Nat) (bs : List Byte) : State :=
  let w := off / 8 * 8
  let old := toBytes 8 (s.mgmtWord w).toNat
  let new := (List.range 8).map (fun i => if off ≤ w + i then bs.getD (w + i - off) (old.getD i 0) else old.getD i 0)
  s.mgmtSet w (BitVec.ofNat 64 (ofBytes new))

/-- Whether a supervisor of a domain may access an offset: only blocks of its own domain (14 R352), stacks and Ethernet ports
of its dies among them. -/
def State.mgmtOwn (s : State) (d off : Nat) : Bool :=
  if 0x10000 ≤ off ∧ off < 0x14000 then decide ((off - 0x10000) / 0x1000 = d)
  else if 0x20000 ≤ off ∧ off < 0x24000 then decide ((off - 0x20000) / 0x1000 = d)
  else if 0x100000 ≤ off ∧ off < 0x108000 then decide ((off - 0x100000) / 0x2000 = d)
  else if 0x200000 ≤ off ∧ off < 0x202000 then decide ((off - 0x200000) / 0x800 = d)
  else if 0x300000 ≤ off ∧ off < 0x301000 then s.domHasDie d ((off - 0x300000) / 0x200 / 2)
  else if 0x400000 ≤ off ∧ off < 0x402000 then s.domHasDie d ((off - 0x400000) / 0x800)
  else false

/-- The offset of a device-register address: the window starts at the base of the range. -/
def devOffset (pa : Nat) : Nat := pa - 2 ^ 39

end Sys2Proof.Machine
end

