-- ==== Sys2Proof/Machine/XMem.lean ====
section
/-! DEFINITION. Memory words of the X stream: store space, blocking global accesses, atomics, queues, fences and bank modes
(08 R199-R203, R217, 07 R166-R168, R179). -/

namespace Sys2Proof.Machine

/-! ### Ordering against the core's engines (05 R108, 06 R151) -/

/-- Whether a matrix command reads store or global memory. -/
def MCmd.readsMem (m : MCmd) : Bool :=
  (decide (m.kind = .go) || decide (m.kind = .zero)) &&
    m.nest.head?.any (fun l => decide (l.asrc.extractLsb' 30 2 ≠ 0) || decide (l.bsrc.extractLsb' 30 2 ≠ 0))

/-- Whether the vector commands, and the matrix commands with store or global sources, have completed. -/
def Core.memReady (c : Core) : Bool := c.vq.isEmpty && c.mq.all (fun m => !m.readsMem)

/-- A word of OP 0x38-0x3C, 0x3E or 0x3F: it holds issue until those commands have completed. -/
def State.xOrdered (s : State) (f : State → WordEnd) : WordEnd := if s.core.memReady then f s else .wait s

/-! ### Endings of an access -/

/-- An access that leaves the package, or waits for a pool link, holds issue until its answer comes. -/
def State.xFar (s : State) (kind : GlobalKind) (va pa size : Nat) : WordEnd :=
  .wait { s with core := { s.core with xhold := .access { kind := kind, va := BitVec.ofNat 64 va, pa := pa, size := size } } }

/-- Whether a supervisor's access to a device register is to a block of its own domain (14 R352). -/
def State.devOk (s : State) (pa : Nat) : Bool := s.who.super && s.mgmtOwn s.who.dom (devOffset pa)

/-- Bytes extended to 64 bits. -/
def extend (sext : Bool) (bs : List Byte) : Word :=
  if sext then BitVec.ofInt 64 (signed (8 * bs.length) (ofBytes bs)) else BitVec.ofNat 64 (ofBytes bs)

/-! ### Store-space words (08 R199, R200) -/

/-- The address x[A] + SExt(IMM), computed exactly; none outside 32 bits. -/
def State.xStoreAddr (s : State) (r : Xi) : Option Nat :=
  let a := (s.getX 0 r.a.toNat).toInt + r.imm.toInt
  if 0 ≤ a ∧ a < 2 ^ 32 then some a.toNat else none

/-- PDATA of a store-space address that lies outside 32 bits. -/
def State.xStoreWord (s : State) (r : Xi) : Word := BitVec.ofInt 64 ((s.getX 0 r.a.toNat).toInt + r.imm.toInt)

/-- A store-space load. -/
def State.xLoadStore (s : State) (n : Nat) (sext : Bool) (r : Xi) : WordEnd :=
  match s.xStoreAddr r with
  | none => .trap causeViol (s.xStoreWord r)
  | some a => match s.sRead s.who a n with
    | .ok bs => .done ((s.postStore s.who a n).putX r.d.toNat (extend sext bs) r.lb 0)
    | .data p => .trap causeData (BitVec.ofNat 64 p)
    | _ => .trap causeViol (BitVec.ofNat 64 a)

/-- A store-space store: 8 bytes carry the register's code (13 R329), fewer are merged (07 R169). -/
def State.xStoreStore (s : State) (n : Nat) (r : Xi) : WordEnd :=
  match s.xStoreAddr r with
  | none => .trap causeViol (s.xStoreWord r)
  | some a =>
    let w := s.rawX 1 r.d.toNat
    match (if n = 8 ∧ a % 8 = 0 then s.sWriteWords s.who a [w] else s.sWrite s.who a (toBytes n (s.getX 1 r.d.toNat).toNat)) with
    | (t, .ok ()) => .done t
    | (_, .data p) => .trap causeData (BitVec.ofNat 64 p)
    | (_, _) => .trap causeViol (BitVec.ofNat 64 a)

/-- LDS (08 R199). -/
def execLds (fn : BitVec 6) (r : Xi) (s : State) : Out :=
  .next (s.xWord r.g r.gn [r.a.toNat, 64 + r.d.toNat] fun s => s.xOrdered fun s => s.xLoadStore (sizeBytes (fn.toNat % 8)) false r)

/-- LDSX (08 R199). -/
def execLdsx (fn : BitVec 6) (r : Xi) (s : State) : Out :=
  .next (s.xWord r.g r.gn [r.a.toNat, 64 + r.d.toNat] fun s => s.xOrdered fun s => s.xLoadStore (sizeBytes (fn.toNat % 8)) true r)

/-- STS (08 R200). -/
def execSts (fn : BitVec 6) (r : Xi) (s : State) : Out :=
  .next (s.xWord r.g r.gn [r.a.toNat, (if fn.toNat % 8 = 3 then 64 else 0) + r.d.toNat] fun s => s.xOrdered fun s => s.xStoreStore (sizeBytes (fn.toNat % 8)) r)

/-! ### Blocking global words (08 R201) -/

/-- A blocking global load. -/
def State.xLoadGlobal (s : State) (n : Nat) (r : Xr) : WordEnd :=
  let a := (s.getX 0 r.a.toNat + s.getX 1 r.b.toNat).toNat
  match s.gRead s.who needR a n with
  | (t, .ok bs) => .done (t.setX r.d.toNat (extend false bs))
  | (_, .pages v) => .trap causePages (BitVec.ofNat 64 v)
  | (_, .viol v) => .trap causeViol (BitVec.ofNat 64 v)
  | (_, .data p) => .trap causeData (BitVec.ofNat 64 p)
  | (t, .dev pa) => if s.devOk pa then .done (t.setX r.d.toNat (extend false (t.mgmtRead (devOffset pa) n))) else .trap causeViol (BitVec.ofNat 64 a)
  | (t, .far pa) => t.xFar (.load r.d.toNat) a pa n

/-- A blocking global store. -/
def State.xStoreGlobal (s : State) (n : Nat) (r : Xr) : WordEnd :=
  let a := (s.getX 0 r.a.toNat + s.getX 1 r.b.toNat).toNat
  let bs := toBytes n (s.getX 2 r.d.toNat).toNat
  let whole := decide (n = 8) && decide (a % 8 = 0)
  match (if whole then s.gWriteWords s.who a [s.rawX 2 r.d.toNat] else s.gWrite s.who a bs) with
  | (t, .ok ()) => .done t
  | (_, .pages v) => .trap causePages (BitVec.ofNat 64 v)
  | (_, .viol v) => .trap causeViol (BitVec.ofNat 64 v)
  | (_, .data p) => .trap causeData (BitVec.ofNat 64 p)
  | (t, .dev pa) => if s.devOk pa then .done (t.mgmtWrite (devOffset pa) bs) else .trap causeViol (BitVec.ofNat 64 a)
  | (t, .far pa) => t.xFar (if whole then .storeWords [t.rawX 2 r.d.toNat] else .store bs) a pa n

/-- LDG (08 R201). -/
def execLdg (fn : BitVec 6) (r : Xr) (s : State) : Out :=
  .next (s.xWord r.g r.gn [r.a.toNat, r.b.toNat, 64 + r.d.toNat] fun s => s.xOrdered fun s => s.xLoadGlobal (sizeBytes (fn.toNat % 8)) r)

/-- STG (08 R201). -/
def execStg (fn : BitVec 6) (r : Xr) (s : State) : Out :=
  .next (s.xWord r.g r.gn [r.a.toNat, r.b.toNat, (if fn.toNat % 8 = 3 then 64 else 0) + r.d.toNat] fun s => s.xOrdered fun s => s.xStoreGlobal (sizeBytes (fn.toNat % 8)) r)

/-! ### Atomics (08 R217-R219) -/

/-- What an atomic does: the pattern it writes, if it writes, its result, and flags. -/
structure AmoOut where
  new : Option Nat
  res : Nat
  flags : Flags
  deriving DecidableEq, Repr

/-- The effect of atomic `op` on a word of type `ty` (08 R217). -/
def amoApply (op ty old b c : Nat) : AmoOut :=
  let less (x y : Nat) : Bool := decide (decInt ty x ≤ decInt ty y)
  match op with
  | 0 => { new := some (wrapT ty (decInt ty old + decInt ty b)), res := old, flags := 0 }
  | 1 => { new := some (old &&& b), res := old, flags := 0 }
  | 2 => { new := some (old ||| b), res := old, flags := 0 }
  | 3 => { new := some (old ^^^ b), res := old, flags := 0 }
  | 4 => { new := some (if less old b then old else b), res := old, flags := 0 }
  | 5 => { new := some (if less old b then b else old), res := old, flags := 0 }
  | 6 => { new := some b, res := old, flags := 0 }
  | 7 => { new := if old = c then some b else none, res := old, flags := 0 }
  | 8 => let (v, f) := fAdd ty 0 old b; { new := some v, res := old, flags := f }
  | 9 => let (v, f) := minMax ty true old b; { new := some v, res := old, flags := f }
  | _ => { new := some c, res := if less old b then b else old, flags := 0 }

/-- The result as a register takes it: i types sign-extended, others zero-extended. -/
def amoExt (ty v : Nat) : Word := if tySigned ty then BitVec.ofInt 64 (decInt ty v) else BitVec.ofNat 64 v

/-- Perform an atomic on a word of physical memory: read, apply, write, at one instant. -/
def State.atomicAt (s : State) (d pa op ty b c : Nat) : State × Got AmoOut :=
  let n := tyWidth ty / 8
  match s.physRead pa n with
  | .error a => (s, .data a)
  | .ok bs =>
    let o := amoApply op ty (ofBytes bs) (b % 2 ^ tyWidth ty) (c % 2 ^ tyWidth ty)
    match o.new with
    | none => ((s.note pa n).postPhys d pa n, .ok o)
    | some v => match (s.postPhys d pa n).physStore pa (toBytes n v) with
      | .error a => (s, .data a)
      | .ok t => (t.note pa n, .ok o)

/-- An atomic at a virtual address. -/
def State.atomic (s : State) (w : Who) (va op ty b c : Nat) : State × Got AmoOut :=
  match s.translateAll w needRW [(va, tyWidth ty / 8)] with
  | (s, .ok l) => s.atomicAt w.dom ((l.head?.map (fun x => x.1)).getD 0) op ty b c
  | (s, .pages a) => (s, .pages a)
  | (s, .viol a) => (s, .viol a)
  | (s, .data a) => (s, .data a)
  | (s, .dev a) => (s, .dev a)
  | (s, .far a) => (s, .far a)

/-- An atomic word of the X stream. -/
def State.xAmoAt (s : State) (op : Nat) (r : Xr) : WordEnd :=
  let ty := r.t.toNat
  let a := (s.getX 0 r.a.toNat).toNat
  let b := (s.getX 1 r.b.toNat).toNat
  let c := (s.getX 2 r.c.toNat).toNat
  if a % (tyWidth ty / 8) ≠ 0 then .trap causeIll 0
  else match s.atomic s.who a op ty b c with
    | (t, .ok o) => .done ((t.setX r.d.toNat (amoExt ty o.res)).orFlags false o.flags)
    | (_, .pages v) => .trap causePages (BitVec.ofNat 64 v)
    | (_, .viol v) => .trap causeViol (BitVec.ofNat 64 v)
    | (_, .data p) => .trap causeData (BitVec.ofNat 64 p)
    | (t, .dev pa) =>
      if s.devOk pa then
        let o := amoApply op ty (ofBytes (t.mgmtRead (devOffset pa) (tyWidth ty / 8))) (b % 2 ^ tyWidth ty) (c % 2 ^ tyWidth ty)
        let t := match o.new with
          | none => t
          | some v => t.mgmtWrite (devOffset pa) (toBytes (tyWidth ty / 8) v)
        .done ((t.setX r.d.toNat (amoExt ty o.res)).orFlags false o.flags)
      else .trap causeViol (BitVec.ofNat 64 a)
    | (t, .far pa) =>
      match placeOf pa with
      | .pool => t.xFar (.amo r.d.toNat op ty (BitVec.ofNat 64 b) (BitVec.ofNat 64 c)) a pa (tyWidth ty / 8)
      | _ => .trap causeViol (BitVec.ofNat 64 a)

/-- An atomic word with its guard and its order. -/
def xAmo (op : Nat) (r : Xr) (s : State) : State :=
  s.xWord r.g r.gn [r.a.toNat, r.b.toNat, r.c.toNat, 64 + r.d.toNat] fun s => s.xOrdered fun s => s.xAmoAt op r

/-- AMO_ADD (08 R217). -/
def execAmoAdd (r : Xr) (s : State) : Out := .next (xAmo 0 r s)

/-- AMO_AND (08 R217). -/
def execAmoAnd (r : Xr) (s : State) : Out := .next (xAmo 1 r s)

/-- AMO_OR (08 R217). -/
def execAmoOr (r : Xr) (s : State) : Out := .next (xAmo 2 r s)

/-- AMO_XOR (08 R217). -/
def execAmoXor (r : Xr) (s : State) : Out := .next (xAmo 3 r s)

/-- AMO_MIN (08 R217). -/
def execAmoMin (r : Xr) (s : State) : Out := .next (xAmo 4 r s)

/-- AMO_MAX (08 R217). -/
def execAmoMax (r : Xr) (s : State) : Out := .next (xAmo 5 r s)

/-- AMO_SWAP (08 R217). -/
def execAmoSwap (r : Xr) (s : State) : Out := .next (xAmo 6 r s)

/-- AMO_CAS (08 R217). -/
def execAmoCas (r : Xr) (s : State) : Out := .next (xAmo 7 r s)

/-- AMO_FADD (08 R217). -/
def execAmoFadd (r : Xr) (s : State) : Out := .next (xAmo 8 r s)

/-- AMO_FMAX (08 R217). -/
def execAmoFmax (r : Xr) (s : State) : Out := .next (xAmo 9 r s)

/-- AMO_MAXX (08 R217). -/
def execAmoMaxx (r : Xr) (s : State) : Out := .next (xAmo 10 r s)

/-! ### Queue words (08 R202, 07 R167, 14 R361) -/

/-- POP (08 R202): the word taken keeps its code in x[D]. -/
def execPop (r : Xr) (s : State) : Out :=
  .next (s.xWord r.g r.gn [64 + r.d.toNat] fun s =>
    let q := r.a.toNat % 16
    match s.qHome q with
    | .none => .trap causeIll 0
    | _ => match s.qOffer q with
      | [] => .wait { s with core := { s.core with xhold := .queue } }
      | w :: _ => .done ((s.qTake q 1).setRawX r.d.toNat w))

/-- PUSH (08 R202). -/
def execPush (r : Xr) (s : State) : Out :=
  .next (s.xWord r.g r.gn [64 + r.b.toNat] fun s =>
    let q := r.a.toNat % 16
    match s.qHome q with
    | .queue => if s.qRoom q = 0 then .wait { s with core := { s.core with xhold := .queue } } else .done (s.qPush q [s.rawX 0 r.b.toNat])
    | _ => .trap causeIll 0)

/-! ### Fences and bank modes (07 R166-R168, R179) -/

/-- FENCE (07 R179): every earlier access of the stream is performed by then. -/
def execFence (r : Xr) (s : State) : Out := .next (s.xWord r.g r.gn [] fun s => s.xOrdered fun s => .done s)

/-- The mode of a code (07 Table 07-3). -/
def bankModeOf (c : Nat) : BankMode :=
  match c with
  | 0 => .scratch
  | 1 => .skew
  | 2 => .cache
  | _ => .fifo

/-- Whether the FIFO of a bank is empty (07 R167). -/
def State.fifoEmpty (s : State) (k : Nat) : Bool :=
  let t := s.own
  match (t.bank k).use with
  | 0 => t.queues.isEmpty && (List.range 16).all (fun q => decide (s.core.reserved q = 0))
  | 1 => t.defer.isEmpty
  | _ => (t.qWords (.window k) 0).isEmpty

/-- Whether a valid flow entry names bank `k` of the core in focus as its window. -/
def State.ingressNames (s : State) (k : Nat) : Bool :=
  s.flows.any (fun f => fwV f.2 && fwKind f.2 && decide (fwCtx f.2 = s.handleAt (s.core.ctx.getD 0)) && decide (fwPos f.2 = s.core.pos) && decide (fwBank f.2 = k))

/-- The trap of a `bank.mode`, in the order of 07 Table 07-5. -/
def State.bankTrap (s : State) (k : Nat) (mode : BankMode) (use : Nat) : Option Nat :=
  let b := s.own.bank k
  let leaves := decide (b.mode = .fifo) && (decide (mode ≠ .fifo) || decide (use ≠ b.use))
  if s.core.spLines ≠ 0 ∧ s.core.spBank = k then some causeViol
  else if b.mode = .fifo ∧ b.use = 2 ∧ s.ingressNames k then some causeViol
  else if b.page.isSome then some causeViol
  else if leaves && !s.fifoEmpty k then some causeIll
  else if mode = .fifo ∧ use ≤ 1 ∧ (List.range 16).any (fun j => decide (j ≠ k) && decide ((s.own.bank j).mode = .fifo) && decide ((s.own.bank j).use = use)) then some causeIll
  else none

/-- Whether a mode holds bytes at addresses. -/
def BankMode.plain (m : BankMode) : Bool := decide (m = .scratch) || decide (m = .skew)

/-- Switch a bank (07 Table 07-6): contents stay between SCRATCH and SKEW, and are undefined or lost otherwise. -/
def State.bankSwitch (s : State) (k : Nat) (mode : BankMode) (use shape : Nat) : State :=
  let b := s.own.bank k
  if b.mode = mode ∧ b.use = use ∧ b.shape = shape then s
  else
    let data := if b.mode.plain && mode.plain then b.data else { cells := [], fill := some (s.epoch s.ownKey k), bad := [] }
    s.setOwn (s.own.setBank k { b with mode := mode, use := use, shape := shape, data := data })

/-- BANK_MODE (07 R166-R168). -/
def execBankMode (r : Xi) (s : State) : Out :=
  .next (s.xWord r.g r.gn [] fun s =>
    let k := (r.imm.extractLsb' 0 4).toNat
    let mode := bankModeOf (r.imm.extractLsb' 4 2).toNat
    let use := (r.imm.extractLsb' 6 3).toNat
    let shape := (r.imm.extractLsb' 9 8).toNat
    if s.core.vq.isEmpty && s.core.mq.isEmpty then
      match s.bankTrap k mode use with
      | some c => .trap c 0
      | none => .done (s.bankSwitch k mode use shape)
    else .wait s)

end Sys2Proof.Machine
end

