-- ==== Sys2Proof/Machine/Span.lean ====
section
/-! DEFINITION. The span engine: span registers, vector commands and their checks at issue, element-wise forms, chains,
reductions, arrangement, quantisation, the deferral queue (05 R104-R127, R131). -/

namespace Sys2Proof.Machine

/-! ### Span registers (05 Table 05-1) -/

def dBase (d : Desc) : Nat := (d.extractLsb' 96 32).toNat
def dStride (d : Desc) : Int := (d.extractLsb' 64 32).toInt
def dCount (d : Desc) : Nat := (d.extractLsb' 48 16).toNat
def dType (d : Desc) : Nat := (d.extractLsb' 44 4).toNat
def dQueue (d : Desc) : Nat := (d.extractLsb' 39 5).toNat

/-- Read s[i]; its reserved bits read zero. -/
def State.getS (s : State) (port i : Nat) : Desc :=
  s.core.sp.get i s.tick (1024 * port + 320 + i) &&& ~~~(BitVec.ofNat 128 (2 ^ 39 - 1))

/-- Write the bits `[hi:lo]` of s[d]. -/
def State.putS (s : State) (d hi lo v : Nat) : State :=
  { s with core := { s.core with sp := s.core.sp.put d (BitVec.ofNat 128 (putBits (s.getS 0 d).toNat hi lo v)) } }

/-- A `vset*` word: a descriptor field takes a value in program order (05 R105). -/
def xVset (r : Xs) (use hi lo : Nat) (f : State → Nat) (s : State) : State :=
  s.xWord r.g r.gn [use] fun s => .done (s.putS r.sd.toNat hi lo (f s))

/-- VSETB (05 R105). -/
def execVsetb (r : Xs) (s : State) : Out := .next (xVset r r.sx.toNat 127 96 (fun s => (s.getX 0 r.sx.toNat).toNat) s)

/-- VSETS (05 R105). -/
def execVsets (r : Xs) (s : State) : Out := .next (xVset r r.sx.toNat 95 64 (fun s => (s.getX 0 r.sx.toNat).toNat) s)

/-- VSETN (05 R105). -/
def execVsetn (r : Xs) (s : State) : Out := .next (xVset r r.sx.toNat 63 48 (fun s => min (s.getX 0 r.sx.toNat).toNat 65535) s)

/-- VSETT (05 R105): TYPE and QUEUE. -/
def execVsett (r : Xs) (s : State) : Out := .next (xVset r 64 47 39 (fun _ => r.t.toNat * 32 + r.sx.toNat) s)

/-- A `vget*` word: x[SX] takes a field, with a bound of 1 cycle. -/
def xVget (r : Xs) (f : Desc → Nat) (s : State) : State :=
  s.xWord r.g r.gn [64 + r.sx.toNat] fun s => .done (s.putX r.sx.toNat (BitVec.ofNat 64 (f (s.getS 0 r.sa.toNat))) 0 0)

/-- VGETB (05 R105). -/
def execVgetb (r : Xs) (s : State) : Out := .next (xVget r dBase s)

/-- VGETN (05 R105). -/
def execVgetn (r : Xs) (s : State) : Out := .next (xVget r dCount s)

/-! ### Checks at issue (05 R106, R107, R109) -/

/-- An operand of a command: its snapshot, the type and count that it must have, and whether it is the destination. -/
structure Operand where
  d : Desc
  ty : Nat
  n : Nat
  dest : Bool
  deriving DecidableEq, Repr

/-- Alignment and stride of a store-space span (05 R106). -/
def alignOk (d : Desc) (ty : Nat) : Bool :=
  if ty = 14 then decide (dBase d % 16 = 0) && decide (dStride d = 1) else decide (dBase d % (tyWidth ty / 8) = 0)

/-- Whether a queue-bound span's queue is there for its use (05 R109, 14 R361). -/
def State.queueOk (s : State) (d : Desc) (dest : Bool) : Bool :=
  match s.qHome (dQueue d - 1) with
  | .queue => true
  | .window _ => !dest
  | .none => false

/-- The checks on one operand. -/
def State.operandOk (s : State) (o : Operand) : Bool :=
  decide (dType o.d ≠ 11) && decide (dType o.d ≠ 15) && decide (dQueue o.d ≤ 16) && decide (dType o.d = o.ty) && decide (dCount o.d = o.n) &&
    (if dQueue o.d = 0 then alignOk o.d o.ty else s.queueOk o.d o.dest)

/-- No queue is bound to two operands (05 R107). -/
def queuesApart (l : List Operand) : Bool :=
  let qs := (l.map (fun o => dQueue o.d)).filter (fun q => decide (q ≠ 0))
  decide (qs.eraseDups.length = qs.length)

/-- The checks on all the operands of a command. -/
def State.operandsOk (s : State) (l : List Operand) : Bool := l.all s.operandOk && queuesApart l

def Operand.src (d : Desc) (ty n : Nat) : Operand := { d := d, ty := ty, n := n, dest := false }
def Operand.dst (d : Desc) (ty n : Nat) : Operand := { d := d, ty := ty, n := n, dest := true }

/-! ### Element arithmetic on patterns (05 R114-R118) -/

/-- The magnitude of a difference, rounded once. -/
def fAbd (t rm a b : Nat) : Nat × Flags :=
  let x := decF t a
  let y := decF t b
  finish t rm false [x, y] false 0 ((sumV rm [x, y.neg]).map FV.abs)

/-- Shifts of a `w`-bit pattern by the low bits of a count (05 R114). -/
def shiftLeft (w a b : Nat) : Nat := a * 2 ^ (b % w) % 2 ^ w
def shiftRight (w a b : Nat) : Nat := a / 2 ^ (b % w)
def shiftSigned (w a b : Nat) : Nat := wrap w (signed w a / ((2 ^ (b % w) : Nat) : Int))

/-- Binary forms by their FN (05 R114). -/
def binaryFn (fn t rm a b c : Nat) : Nat × Flags :=
  let w := tyWidth t
  if tyFloat t then
    match fn with
    | 0 => fAdd t rm a b
    | 1 => fSub t rm a b
    | 2 => fMul t rm a b
    | 3 => fDiv t rm a b
    | 4 => minMax t false a b
    | 5 => minMax t true a b
    | 6 => fusedV t rm false false (decF t a) (decF t b) (decF t c)
    | 7 => fusedV t rm false true (decF t a) (decF t b) (decF t c)
    | 8 => fusedV t rm true false (decF t a) (decF t b) (decF t c)
    | _ => fAbd t rm a b
  else
    let x := decInt t a
    let y := decInt t b
    let z := decInt t c
    (match fn with
    | 0 => wrapT t (x + y)
    | 1 => wrapT t (x - y)
    | 2 => wrapT t (x * y)
    | 4 => if x ≤ y then a else b
    | 5 => if x ≤ y then b else a
    | 6 => wrapT t (x * y + z)
    | 7 => wrapT t (x * y - z)
    | 8 => wrapT t (-(x * y) + z)
    | 9 => a &&& b
    | 10 => a ||| b
    | 11 => a ^^^ b
    | 12 => shiftLeft w a b
    | 13 => shiftRight w a b
    | 14 => shiftSigned w a b
    | _ => wrapT t (if x ≤ y then y - x else x - y), 0)

/-- Unary forms by their FN (05 R115). -/
def unaryFn (fn t rm a : Nat) : Nat × Flags :=
  match fn with
  | 0 => (a, 0)
  | 1 => (if tyFloat t then fNeg t a else wrapT t (-decInt t a), 0)
  | 2 => (if tyFloat t then fAbs t a else wrapT t ((decInt t a).natAbs : Int), 0)
  | _ => specialFn fn t rm a

/-- Span-scalar forms by their FN, `c` the scalar (05 R116). -/
def scalarFn (fn t rm a b c : Nat) : Nat × Flags :=
  match fn with
  | 0 => binaryFn 0 t rm a c 0
  | 1 => binaryFn 1 t rm a c 0
  | 2 => binaryFn 2 t rm a c 0
  | 3 => binaryFn 4 t rm a c 0
  | 4 => binaryFn 5 t rm a c 0
  | 5 => if tyFloat t then fusedV t rm false false (decF t a) (decF t c) (decF t b) else (wrapT t (decInt t a * decInt t c + decInt t b), 0)
  | _ => (c, 0)

/-- Compares and select by their FN, `c` the mask (05 R117). -/
def compareFn (fn t a b c : Nat) : Nat × Flags :=
  let bit (x : Bool) : Nat := if x then 1 else 0
  if fn = 8 then (if c ≠ 0 then a else b, 0)
  else if tyFloat t then
    let x := decF t a
    let y := decF t b
    let (v, f) := match fn with
      | 0 => cmpFeq x y
      | 1 => let (v, f) := cmpFeq x y; (!v, f)
      | 2 => cmpFlt x y
      | _ => cmpFle x y
    (bit v, f)
  else
    let x := decInt t a
    let y := decInt t b
    (bit (match fn with
      | 0 => decide (x = y)
      | 1 => decide (x ≠ y)
      | 2 => decide (x < y)
      | _ => decide (x ≤ y)), 0)

/-- `vcvt` from type `u` (05 R118). -/
def convertFn (t u rm : Nat) (saturate : Bool) (a : Nat) : Nat × Flags :=
  if tyFloat t then (if tyFloat u then cvtF t u rm saturate a else roundV t rm saturate (FV.ofInt (decInt u a)))
  else if tyFloat u then toInt t rm (decF u a)
  else (sat t (decInt u a), 0)

/-! ### Chains (05 R123, R124) -/

def linkClass (k : Xl) : Nat := (k.fn.extractLsb' 4 2).toNat
def linkFn (k : Xl) : Nat := (k.fn.extractLsb' 0 4).toNat

/-- Whether a link uses the header's SB. -/
def linkUsesB (k : Xl) : Bool :=
  (linkClass k == 0 && (k.so == 511 || (decide (6 ≤ linkFn k) && decide (linkFn k ≤ 8)))) || (linkClass k == 2 && linkFn k == 5)

/-- Whether a link names a span of its own. -/
def linkHasSpan (k : Xl) : Bool := linkClass k == 0 && k.so != 511

/-- One link: `hb` is the header's SB element, `so` the link's own, `c` its scalar. -/
def linkApply (k : Xl) (acc hb so c : Nat) : Nat × Flags :=
  let t := k.t.toNat
  let rm := k.rm.toNat
  match linkClass k with
  | 0 => binaryFn (linkFn k) t rm acc (if linkHasSpan k then so else hb) hb
  | 1 => unaryFn (linkFn k) t rm acc
  | _ => scalarFn (linkFn k) t rm acc hb (c % 2 ^ tyWidth t)

/-- All the links in order; `sos` and `cs` give each its own span's element and scalar. -/
def chainApply (hb : Nat) : List Xl → List Nat → List Nat → Nat × Flags → Nat × Flags
  | k :: ks, sos, cs, (acc, f) =>
    let (v, g) := linkApply k acc hb (sos.headD 0) (cs.headD 0)
    chainApply hb ks sos.tail cs.tail (v, f ||| g)
  | [], _, _, x => x

/-- Costs of a chain for 64 elements (05 R113, R124). -/
def spanCost (d : Desc) : Nat := if dQueue d = 0 ∧ dStride d = 1 ∧ tyWidth (dType d) ≤ 32 then 1 else 2
def linkCost (k : Xl) : Nat := if (linkClass k == 1 && decide (3 ≤ linkFn k)) || (linkClass k == 0 && linkFn k == 3) then 4 else 1

/-! ### Forms -/

/-- Whether a form rounds in a type (05 Table 05-3); those that do not need a zero rounding field. Of `vsum` and `vdot`, whose entry
says "sums only", those on I types do not round (log 51). -/
def formRounds (op fn t : Nat) : Bool :=
  match op with
  | 0x40 => tyFloat t && decide (fn ≠ 4) && decide (fn ≠ 5)
  | 0x41 => decide (3 ≤ fn)
  | 0x42 => tyFloat t && decide (fn ≠ 3) && decide (fn ≠ 4) && decide (fn ≠ 6)
  | 0x44 => true
  | 0x45 => tyFloat t && (fn == 0 || fn == 4)
  | 0x46 => tyFloat t && fn == 2
  | 0x58 => true
  | _ => false

/-- The operands of a form, from its snapshots, with what each must be. -/
def VCmd.operands (v : VCmd) : List Operand :=
  let t := v.r.t.toNat
  let n := dCount v.dd
  match v.op with
  | 0x40 => [.dst v.dd t n, .src v.da t n, .src v.db t n] ++ (if 6 ≤ v.fn ∧ v.fn ≤ 8 then [.src v.dx t n] else [])
  | 0x41 => [.dst v.dd t n, .src v.da t n]
  | 0x42 => [.dst v.dd t n] ++ (if v.fn = 6 then [] else [.src v.da t n]) ++ (if v.fn = 5 then [.src v.db t n] else [])
  | 0x43 => if v.fn = 8 then [.dst v.dd t n, .src v.da t n, .src v.db t n, .src v.dx 4 n] else [.dst v.dd 4 n, .src v.da t n, .src v.db t n]
  | 0x44 => match v.fn with
    | 0 => [.dst v.dd t n, .src v.da (dType v.da) n]
    | 1 => [.dst v.dd 14 (dCount v.da), .src v.da (dType v.da) (dCount v.da), .dst v.db 4 (dCount v.da / 16)]
    | _ => [.dst v.dd t (dCount v.da), .src v.da 14 (dCount v.da), .src v.db 4 (dCount v.da / 16)]
  | 0x45 => .src v.da t (dCount v.da) :: (if v.fn = 4 then [.src v.db t (dCount v.da)] else [])
  | 0x46 => match v.fn with
    | 1 => [.dst v.dd t n, .src v.da t (dCount v.da)]
    | 3 => [.dst v.dd t n]
    | 4 => [.dst v.dd t n, .src v.da t (dCount v.da), .src v.db 6 n]
    | _ => [.dst v.dd t n, .src v.da t n]
  | 0x50 => [.dst v.dd t n, .src v.da t n] ++ (if v.links.any linkUsesB then [.src v.db t n] else []) ++
      ((v.links.zip v.linkSpans).filter (fun x => linkHasSpan x.1)).map (fun x => .src x.2 t n)
  | _ => match v.fn with
    | 0 => [.src v.da t (dCount v.da), .src v.db 6 (dCount v.da)]
    | _ => []

/-- Type columns that depend on a snapshot, and the rules of single entries (05 R118-R123). -/
def VCmd.formOk (v : VCmd) : Bool :=
  match v.op with
  | 0x44 => match v.fn with
    | 0 => decide (dType v.da < 14) && decide (dType v.da ≠ 3) && decide (dType v.da ≠ 7)
    | 1 => (dType v.da == 10 || dType v.da == 9 || dType v.da == 8) && decide (dCount v.da % 32 = 0)
    | _ => decide (dCount v.da % 32 = 0)
  | 0x46 =>
    (v.fn == 2 || v.fn == 3 || (decide (dQueue v.dd = 0) && decide (dQueue v.da = 0))) &&
      (match v.fn with
        | 1 => decide (1 ≤ dCount v.da)
        | 5 => let c := v.scalar.toNat % 65536; decide (1 ≤ c) && decide (dCount v.dd % c = 0)
        | _ => true)
  | 0x50 =>
    decide (((VCmd.operands v).map (fun o => spanCost o.d)).sum ≤ 8) && decide ((v.links.map linkCost).sum ≤ 8) &&
      v.links.all (fun k => k.rm == 0 || formRounds (0x40 + linkClass k) (linkFn k) v.r.t.toNat)
  | _ => true

/-- Whether the core has a deferral bank. -/
def State.hasDeferral (s : State) : Bool := s.own.banks.any (fun b => decide (b.mode = .fifo) && decide (b.use = 1))

/-- The checks of R109 on a span, chain or deferral command. -/
def State.vectorOk (s : State) (v : VCmd) : Bool :=
  (v.op == 0x50 || v.r.rm == 0 || formRounds v.op v.fn v.r.t.toNat) && s.operandsOk v.operands && v.formOk &&
    (if v.op = 0x54 then
      s.hasDeferral &&
        (v.fn == 1 ||
          (decide (dType v.dd = v.r.t.toNat) && decide (dQueue v.dd = 0) && alignOk v.dd v.r.t.toNat))
    else true)

/-! ### Issue (05 R108) -/

/-- Place a command in the vector command queue. -/
def State.vPush (s : State) (v : VCmd) : State := { s with core := { s.core with vq := s.core.vq ++ [v] } }

/-- The snapshot of a command of format XS. -/
def State.vSnap (s : State) (op fn : Nat) (r : Xs) : VCmd where
  seq := s.tick
  op := op
  fn := fn
  r := r
  links := []
  dd := s.getS 0 r.sd.toNat
  da := s.getS 1 r.sa.toNat
  db := s.getS 2 r.sb.toNat
  dx := s.getS 3 r.sx.toNat
  linkSpans := []
  scalar := s.getX 0 (r.sx.toNat % 64)
  linkScalars := []
  word := s.core.xir
  addr := s.core.xpc
  started := false
  frozen := false
  cursor := 0
  acc := []
  held := []
  took := []
  ready := 0
  flags := 0
  result := none

/-- Check and queue a command; the stream holds issue while the queue's four entries are taken, of which a command that has started
holds none (05 R130). `extra` are further traps. -/
def State.vIssue (s : State) (ok : State → VCmd → Bool) (extra : State → VCmd → Option Nat) (v : VCmd) : WordEnd :=
  if !ok s v then .trap causeIll 0
  else match extra s v with
    | some c => .trap c 0
    | none => if 4 ≤ (s.core.vq.filter (fun c => !c.started)).length then .wait s else .done (s.vPush v)

/-- Scalar registers that a form reads, and the one that it writes when it completes. -/
def vUses (op fn : Nat) (r : Xs) : List Nat :=
  if op = 0x42 ∨ (op = 0x46 ∧ fn = 5) ∨ op = 0x58 then [r.sx.toNat]
  else if op = 0x45 ∨ (op = 0x54 ∧ fn = 1) then [64 + r.sx.toNat]
  else []

/-- A vector command word of format XS. -/
def xVector (op fn : Nat) (r : Xs) (s : State) : State :=
  s.xWord r.g r.gn (vUses op fn r) fun s => s.vIssue State.vectorOk (fun _ _ => none) (s.vSnap op fn r)

/-- VADD (05 R114). -/
def execVadd (r : Xs) (s : State) : Out := .next (xVector 0x40 0 r s)

/-- VSUB (05 R114). -/
def execVsub (r : Xs) (s : State) : Out := .next (xVector 0x40 1 r s)

/-- VMUL (05 R114). -/
def execVmul (r : Xs) (s : State) : Out := .next (xVector 0x40 2 r s)

/-- VDIV (05 R114). -/
def execVdiv (r : Xs) (s : State) : Out := .next (xVector 0x40 3 r s)

/-- VMIN (05 R114). -/
def execVmin (r : Xs) (s : State) : Out := .next (xVector 0x40 4 r s)

/-- VMAX (05 R114). -/
def execVmax (r : Xs) (s : State) : Out := .next (xVector 0x40 5 r s)

/-- VFMA (05 R114). -/
def execVfma (r : Xs) (s : State) : Out := .next (xVector 0x40 6 r s)

/-- VFMS (05 R114). -/
def execVfms (r : Xs) (s : State) : Out := .next (xVector 0x40 7 r s)

/-- VFNMA (05 R114). -/
def execVfnma (r : Xs) (s : State) : Out := .next (xVector 0x40 8 r s)

/-- VAND (05 R114). -/
def execVand (r : Xs) (s : State) : Out := .next (xVector 0x40 9 r s)

/-- VOR (05 R114). -/
def execVor (r : Xs) (s : State) : Out := .next (xVector 0x40 10 r s)

/-- VXOR (05 R114). -/
def execVxor (r : Xs) (s : State) : Out := .next (xVector 0x40 11 r s)

/-- VSLL (05 R114). -/
def execVsll (r : Xs) (s : State) : Out := .next (xVector 0x40 12 r s)

/-- VSRL (05 R114). -/
def execVsrl (r : Xs) (s : State) : Out := .next (xVector 0x40 13 r s)

/-- VSRA (05 R114). -/
def execVsra (r : Xs) (s : State) : Out := .next (xVector 0x40 14 r s)

/-- VABD (05 R114). -/
def execVabd (r : Xs) (s : State) : Out := .next (xVector 0x40 15 r s)

/-- VMOV (05 R115). -/
def execVmov (r : Xs) (s : State) : Out := .next (xVector 0x41 0 r s)

/-- VNEG (05 R115). -/
def execVneg (r : Xs) (s : State) : Out := .next (xVector 0x41 1 r s)

/-- VABS (05 R115). -/
def execVabs (r : Xs) (s : State) : Out := .next (xVector 0x41 2 r s)

/-- VRCP (05 R115). -/
def execVrcp (r : Xs) (s : State) : Out := .next (xVector 0x41 3 r s)

/-- VSQRT (05 R115). -/
def execVsqrt (r : Xs) (s : State) : Out := .next (xVector 0x41 4 r s)

/-- VRSQRT (05 R115). -/
def execVrsqrt (r : Xs) (s : State) : Out := .next (xVector 0x41 5 r s)

/-- VEXP (05 R115). -/
def execVexp (r : Xs) (s : State) : Out := .next (xVector 0x41 6 r s)

/-- VEXP2 (05 R115). -/
def execVexp2 (r : Xs) (s : State) : Out := .next (xVector 0x41 7 r s)

/-- VLOG2 (05 R115). -/
def execVlog2 (r : Xs) (s : State) : Out := .next (xVector 0x41 8 r s)

/-- VTANH (05 R115). -/
def execVtanh (r : Xs) (s : State) : Out := .next (xVector 0x41 9 r s)

/-- VSIGM (05 R115). -/
def execVsigm (r : Xs) (s : State) : Out := .next (xVector 0x41 10 r s)

/-- VADDS (05 R116). -/
def execVadds (r : Xs) (s : State) : Out := .next (xVector 0x42 0 r s)

/-- VSUBS (05 R116). -/
def execVsubs (r : Xs) (s : State) : Out := .next (xVector 0x42 1 r s)

/-- VMULS (05 R116). -/
def execVmuls (r : Xs) (s : State) : Out := .next (xVector 0x42 2 r s)

/-- VMINS (05 R116). -/
def execVmins (r : Xs) (s : State) : Out := .next (xVector 0x42 3 r s)

/-- VMAXS (05 R116). -/
def execVmaxs (r : Xs) (s : State) : Out := .next (xVector 0x42 4 r s)

/-- VFMAS (05 R116). -/
def execVfmas (r : Xs) (s : State) : Out := .next (xVector 0x42 5 r s)

/-- VFILL (05 R116). -/
def execVfill (r : Xs) (s : State) : Out := .next (xVector 0x42 6 r s)

/-- VCEQ (05 R117). -/
def execVceq (r : Xs) (s : State) : Out := .next (xVector 0x43 0 r s)

/-- VCNE (05 R117). -/
def execVcne (r : Xs) (s : State) : Out := .next (xVector 0x43 1 r s)

/-- VCLT (05 R117). -/
def execVclt (r : Xs) (s : State) : Out := .next (xVector 0x43 2 r s)

/-- VCLE (05 R117). -/
def execVcle (r : Xs) (s : State) : Out := .next (xVector 0x43 3 r s)

/-- VSEL (05 R117). -/
def execVsel (r : Xs) (s : State) : Out := .next (xVector 0x43 8 r s)

/-- VCVT (05 R118). -/
def execVcvt (r : Xs) (s : State) : Out := .next (xVector 0x44 0 r s)

/-- VQ_J4 (05 R119). -/
def execVqJ4 (r : Xs) (s : State) : Out := .next (xVector 0x44 1 r s)

/-- VDQ_J4 (05 R120). -/
def execVdqJ4 (r : Xs) (s : State) : Out := .next (xVector 0x44 2 r s)

/-- VSUM (05 R121). -/
def execVsum (r : Xs) (s : State) : Out := .next (xVector 0x45 0 r s)

/-- VMAXR (05 R121). -/
def execVmaxr (r : Xs) (s : State) : Out := .next (xVector 0x45 1 r s)

/-- VMINR (05 R121). -/
def execVminr (r : Xs) (s : State) : Out := .next (xVector 0x45 2 r s)

/-- VAMAX (05 R121). -/
def execVamax (r : Xs) (s : State) : Out := .next (xVector 0x45 3 r s)

/-- VDOT (05 R121). -/
def execVdot (r : Xs) (s : State) : Out := .next (xVector 0x45 4 r s)

/-- VREV (05 R122). -/
def execVrev (r : Xs) (s : State) : Out := .next (xVector 0x46 0 r s)

/-- VBCAST (05 R122). -/
def execVbcast (r : Xs) (s : State) : Out := .next (xVector 0x46 1 r s)

/-- VSCAN (05 R122). -/
def execVscan (r : Xs) (s : State) : Out := .next (xVector 0x46 2 r s)

/-- VIDX (05 R122). -/
def execVidx (r : Xs) (s : State) : Out := .next (xVector 0x46 3 r s)

/-- VPERM (05 R122). -/
def execVperm (r : Xs) (s : State) : Out := .next (xVector 0x46 4 r s)

/-- VTRANS (05 R122). -/
def execVtrans (r : Xs) (s : State) : Out := .next (xVector 0x46 5 r s)

/-- VDEFER (05 R126). -/
def execVdefer (r : Xs) (s : State) : Out := .next (xVector 0x54 0 r s)

/-- VDRAIN (05 R127). -/
def execVdrain (r : Xs) (s : State) : Out := .next (xVector 0x54 1 r s)

/-- VCHAIN (05 R123, R124): header and links are one word of the stream. -/
def execVchain (r : Xc) (s : State) : Out :=
  .next (s.xWordN (1 + r.links.length) r.g r.gn ((r.links.filter (fun k => linkClass k == 2)).map (fun k => k.sx.toNat)) fun s =>
    let h : Xs := { g := r.g, gn := r.gn, rm := 0, t := r.t, sx := 0, sb := r.sb, sa := r.sa, sd := r.sd }
    let v := s.vSnap 0x50 0 h
    s.vIssue State.vectorOk (fun _ _ => none) { v with
      links := r.links
      linkSpans := r.links.zipIdx.map (fun k => s.getS (4 + k.2) k.1.so.toNat)
      linkScalars := r.links.zipIdx.map (fun k => s.getX (4 + k.2) k.1.sx.toNat) })

/-! ### Attempts of an engine -/

/-- An attempt of an engine: what it gives, or the violation or containment event that ends it, the latter with the name of its word
and the syndrome of a word that has no address. -/
inductive Attempt (α : Type) where
  | ok (v : α)
  | viol (pdata : Nat)
  | data (name : Nat) (syn : BitVec 8)
  | pages (va : Nat)
  | wait

/-- Go on with an attempt that came through. -/
def Attempt.andThen {α β : Type} (a : Attempt α) (f : α → Attempt β) : Attempt β :=
  match a with
  | .ok v => f v
  | .viol x => .viol x
  | .data x z => .data x z
  | .pages x => .pages x
  | .wait => .wait

/-- What an access tells an engine. -/
def Got.attempt {α : Type} (g : Got α) : Attempt α :=
  match g with
  | .ok v => .ok v
  | .pages x => .pages x
  | .viol x => .viol x
  | .data x => .data x 0
  | .dev x => .viol x
  | .far x => .viol x

/-- Whether an attempt came through. -/
def Attempt.came {α : Type} (a : Attempt α) : Bool :=
  match a with
  | .ok _ => true
  | _ => false

/-- Whether an attempt met a violation or a translation fault. -/
def Attempt.faults {α : Type} (a : Attempt α) : Bool :=
  match a with
  | .viol _ | .pages _ => true
  | _ => false

/-! ### Engines' leave requests and records (12 R304, R307; 13 R334) -/

/-- A leave request of an engine: its park record names the command's word; `syn` is the syndrome of a word that has no address. -/
def State.engineAsk (s : State) (word addr : Word) (cause data : Nat) (syn : BitVec 8) : State :=
  match s.here? with
  | none => s
  | some (k, c) =>
    s.setCtx k { c with asks := c.asks ++ [{ kind := .fault cause, pos := s.core.pos, aStream := false, word := word, addr := addr
                                             data := BitVec.ofNat 64 data, tcode := syn.setWidth 32, passed := true, time := s.ptp }] }

/-- Records of the words whose events were transient (13 R336). -/
def State.transients (s : State) (l : List (Nat × BitVec 8)) : State :=
  l.foldl (fun s x => s.wordRecord s.domHere (s.core.ctx.getD 0) s.here x.1 1 x.2) s

/-- Whether a leave of the context on the core in focus has been accepted: its engines stop at their points (10 R271). -/
def State.leaving (s : State) : Bool := s.here?.any (fun kc => kc.2.leave.isSome)

/-! ### Elements (05 R106, R107) -/

/-- Bits and bytes of an element. -/
def elemBytes (ty : Nat) : Nat := tyWidth ty / 8

/-- The address of element `j`, computed exactly. -/
def elemAddr (d : Desc) (ty j : Nat) : Int :=
  if ty = 14 then ((dBase d + j / 2 : Nat) : Int) else (dBase d : Int) + j * dStride d * elemBytes ty

/-- Read element `j` of a store-space span. -/
def State.elemRead (s : State) (d : Desc) (ty j : Nat) : Attempt Nat :=
  let a := elemAddr d ty j
  if a < 0 ∨ 2 ^ 32 ≤ a then .viol (a % 2 ^ 64).toNat
  else (s.sRead s.who a.toNat (max 1 (elemBytes ty))).attempt.andThen fun bs =>
    .ok (if ty = 14 then ofBytes bs / 16 ^ (j % 2) % 16 else ofBytes bs)

/-- What a store of an engine gives. -/
def storeAttempt (r : State × Got Unit) : Attempt State := r.2.attempt.andThen fun _ => .ok r.1

/-- Write element `j` of a store-space span. -/
def State.elemWrite (s : State) (d : Desc) (ty j p : Nat) : Attempt State :=
  let a := elemAddr d ty j
  if a < 0 ∨ 2 ^ 32 ≤ a then .viol (a % 2 ^ 64).toNat
  else if ty = 14 then
    (s.sRead s.who a.toNat 1).attempt.andThen fun bs =>
      let old := ofBytes bs
      let new := if j % 2 = 0 then old / 16 * 16 + p % 16 else p % 16 * 16 + old % 16
      storeAttempt (s.sWrite s.who a.toNat (toBytes 1 new))
  else storeAttempt (s.sWrite s.who a.toNat (toBytes (elemBytes ty) p))

/-- Queue words that `m` elements take. -/
def queueWords (ty m : Nat) : Nat := (m * tyWidth ty + 63) / 64

/-- The elements that lie in queue words. -/
def unpack (ty m : Nat) (ws : List Nat) : List Nat :=
  let all := ws.foldr (fun w n => w % 2 ^ 64 + 2 ^ 64 * n) 0
  (List.range m).map (fun i => all / 2 ^ (i * tyWidth ty) % 2 ^ tyWidth ty)

/-- Queue words that hold elements; bytes past the last are zero. -/
def pack (ty : Nat) (ps : List Nat) : List Word :=
  let all := ps.foldr (fun p n => p % 2 ^ tyWidth ty + 2 ^ tyWidth ty * n) 0
  (List.range (queueWords ty ps.length)).map (fun i => BitVec.ofNat 64 (all / 2 ^ (64 * i)))

/-- Read elements one by one until one fails. -/
def State.elemsRead (s : State) (d : Desc) (ty : Nat) : List Nat → Attempt (List Nat)
  | [] => .ok []
  | j :: js => (s.elemRead d ty j).andThen fun p => (s.elemsRead d ty js).andThen fun ps => .ok (p :: ps)

/-- Write elements one by one until one fails. -/
def State.elemsWrite (s : State) (d : Desc) (ty : Nat) : List (Nat × Nat) → Attempt State
  | [] => .ok s
  | (j, p) :: r => (s.elemWrite d ty j p).andThen fun t => t.elemsWrite d ty r

/-- Post the words that span lanes have corrected in reading elements. -/
def State.postElems (s : State) (d : Desc) (ty : Nat) (js : List Nat) : State :=
  js.foldl (fun s j =>
    let a := elemAddr d ty j
    if a < 0 then s else s.postStore s.who a.toNat (max 1 (elemBytes ty))) s

/-! ### The window's queue words (05 R107, R131; 13 R335) -/

/-- Elements of an operand that go with `m` elements of the command: a metadata plane has two for each block of 32. -/
def VCmd.per (v : VCmd) (o : Operand) (m : Nat) : Nat := if v.op = 0x44 ∧ v.fn ≠ 0 ∧ o.ty = 4 then m / 16 else m

/-- Source operands that are bound to queues, and the queue of each. -/
def VCmd.queueSrcs (v : VCmd) : List Operand := v.operands.filter (fun o => !o.dest && decide (dQueue o.d ≠ 0))
def Operand.queue (o : Operand) : Nat := dQueue o.d - 1

/-- The words of a queue that the window has popped. -/
def VCmd.tookFrom (v : VCmd) (o : Operand) : List CWord := (tget v.took o.queue).getD []

/-- Bits of a queue-bound operand that come before the first word of the window. -/
def VCmd.wordBase (v : VCmd) (o : Operand) : Nat := v.per o v.cursor * tyWidth o.ty / 64

/-- The number of elements of a command. -/
def VCmd.total (v : VCmd) : Nat := if v.op = 0x45 ∨ v.op = 0x54 ∨ (v.op = 0x44 ∧ v.fn ≠ 0) then dCount v.da else dCount v.dd

/-- Elements from the cursor to the next point of R131. -/
def VCmd.want (v : VCmd) : Nat :=
  let z := if v.op = 0x54 then 256 else 2048
  min (v.total - v.cursor) (z - v.cursor % z)

/-- Words of a queue that the elements up to `m` past the cursor still need. -/
def VCmd.lacks (v : VCmd) (o : Operand) (m : Nat) : Nat :=
  queueWords o.ty (v.per o (v.cursor + m)) - v.wordBase o - (v.tookFrom o).length

/-- Elements past the cursor that the popped words of an operand hold. -/
def VCmd.holds (v : VCmd) (o : Operand) : Nat :=
  let e := (v.wordBase o + (v.tookFrom o).length) * 64 / tyWidth o.ty
  (if v.op = 0x44 ∧ v.fn ≠ 0 ∧ o.ty = 4 then 16 * e else e) - v.cursor

/-- A window can end at a wait only with whole blocks and, for a queue-bound destination, with whole words. -/
def VCmd.group (v : VCmd) : Nat :=
  let g := if v.op = 0x44 ∧ v.fn ≠ 0 then 32 else 1
  ((v.operands.filter (fun o => o.dest && decide (dQueue o.d ≠ 0))).map (fun o =>
    let k := 64 / tyWidth o.ty
    if v.op = 0x44 ∧ v.fn ≠ 0 ∧ o.ty = 4 then 16 * k else k)).foldl max g

/-- Pop the words that the window still lacks, as far as the queues hold them, and note the elements with which it could end. -/
def State.gather (s : State) (v : VCmd) : State × VCmd :=
  let m := v.want
  let (s, v) := v.queueSrcs.foldl (fun (x : State × VCmd) o =>
    let k := min (x.1.qOffer o.queue).length (x.2.lacks o m)
    if k = 0 then x
    else (x.1.qTake o.queue k, { x.2 with took := tset x.2.took o.queue (x.2.tookFrom o ++ (x.1.qOffer o.queue).take k) })) (s, v)
  let r := v.queueSrcs.foldl (fun r o => min r (v.holds o)) m
  let h := v.cursor + r
  (s, { v with ready := if r = m then r else h / v.group * v.group - v.cursor })

/-- The words that the window is done with once `m` elements are: their corrections are counted (13 R331). -/
def State.spend (s : State) (v : VCmd) (m : Nat) : State × VCmd :=
  v.queueSrcs.foldl (fun (x : State × VCmd) o =>
    let ws := v.tookFrom o
    let k := if v.cursor + m = v.total then ws.length else v.per o (v.cursor + m) * tyWidth o.ty / 64 - v.wordBase o
    (x.1.fixed ((ws.take k).filter (fun w => fixable w.syn)).length, { x.2 with took := tset x.2.took o.queue (ws.drop k) })) (s, v)

/-- Source elements `[j, j+m)` of the command: from store space, or from the words that the window has popped; a word that its lane
contains ends the attempt. -/
def State.srcElems (s : State) (v : VCmd) (o : Operand) (j m : Nat) : Attempt (State × List Nat) :=
  let j0 := v.per o j
  let m0 := v.per o m
  if dQueue o.d = 0 then (s.elemsRead o.d o.ty (from' j0 m0)).andThen fun ps => .ok (s.postElems o.d o.ty (from' j0 m0), ps)
  else
    let b := v.wordBase o
    let lo := j0 * tyWidth o.ty / 64
    let ws := ((v.tookFrom o).drop (lo - b)).take (queueWords o.ty (j0 + m0) - lo)
    match (ws.zipIdx.find? (fun w => w.1.use.isNone)) with
    | some w => .data (queueName o.queue (lo + w.2)) w.1.syn
    | none =>
      let skip := j0 - lo * 64 / tyWidth o.ty
      .ok (s, (unpack o.ty (skip + m0) (ws.map (fun w => (w.use.getD 0).toNat))).drop skip)

/-- The elements of several sources in order. -/
def State.srcsElems (s : State) (v : VCmd) (j m : Nat) : List Operand → Attempt (State × List (List Nat))
  | [] => .ok (s, [])
  | o :: r => (s.srcElems v o j m).andThen fun x => (x.1.srcsElems v j m r).andThen fun y => .ok (y.1, x.2 :: y.2)

/-! ### Overlap (05 R110) -/

/-- Whether a source may have the destination's place: only in element-wise forms, `vscan`, row forms, and in `vcvt` between types of
equal size. -/
def VCmd.mayShare (v : VCmd) (td ts : Nat) : Bool :=
  match v.op with
  | 0x44 => v.fn == 0 && tyWidth td == tyWidth ts
  | 0x46 => v.fn == 2 && td == ts
  | _ => td == ts

/-- A destination of `n` elements shares a byte with a source of `m` elements. -/
def overlaps (d : Desc) (ty n : Nat) (e : Desc) (tu m : Nat) : Bool :=
  if dQueue d ≠ 0 ∨ dQueue e ≠ 0 ∨ n = 0 ∨ m = 0 then false
  else
    let zd := max 1 (elemBytes ty)
    let ze := max 1 (elemBytes tu)
    let step : Int := if tu = 14 then 1 else dStride e * ze
    let last := if tu = 14 then (m - 1) / 2 else m - 1
    (List.range n).any (fun j =>
      let a := elemAddr d ty j
      let k0 : Int := if step = 0 then 0 else (a - dBase e) / step
      (List.range 20).any (fun i =>
        let k := k0 + i - 10
        decide (0 ≤ k) && decide (k ≤ last) &&
          (let b := (dBase e : Int) + k * step
           decide (a < b + ze) && decide (b < a + zd))))

/-- Whether a destination overlaps a source against the rule: its elements are then undefined. -/
def VCmd.clashes (v : VCmd) (o : Operand) (srcs : List Operand) : Bool :=
  srcs.any (fun x => !x.dest && !(decide (dBase o.d = dBase x.d) && decide (dStride o.d = dStride x.d) && v.mayShare o.ty x.ty) &&
    overlaps o.d o.ty o.n x.d x.ty x.n)

/-- Undefined elements in the place of a destination's results from element `j` on. -/
def State.clashed (s : State) (bad : Bool) (ty j : Nat) (ps : List Nat) : List Nat :=
  if bad then ps.zipIdx.map (fun p => (Config.freeBits (tyWidth ty) s.tick (65536 + j + p.2)).toNat) else ps

/-! ### Elements of the forms -/

/-- The results of element-wise forms from the operands' elements, in the order of `VCmd.operands`. -/
def VCmd.element (v : VCmd) (srcs : List Nat) : Nat × Flags :=
  let t := v.r.t.toNat
  let rm := v.r.rm.toNat
  let a := srcs.getD 0 0
  let b := srcs.getD 1 0
  let c := srcs.getD 2 0
  match v.op with
  | 0x40 => binaryFn v.fn t rm a b c
  | 0x41 => unaryFn v.fn t rm a
  | 0x42 => scalarFn v.fn t rm a b (v.scalar.toNat % 2 ^ tyWidth t)
  | 0x43 => compareFn v.fn t a b c
  | 0x44 => convertFn t (dType v.da) rm (v.r.sx == 1) a
  | _ =>
    let usesB := v.links.any linkUsesB
    let rest := srcs.drop (if usesB then 2 else 1)
    let sos := (v.links.foldl (fun (x : List Nat × List Nat) k => if linkHasSpan k then (x.1 ++ [x.2.headD 0], x.2.tail) else (x.1 ++ [0], x.2)) ([], rest)).1
    chainApply (if usesB then b else 0) v.links sos (v.linkScalars.map (fun w => w.toNat)) (a, 0)

/-- Columns of element lists: element `i` of each. -/
def column (ls : List (List Nat)) (i : Nat) : List Nat := ls.map (fun l => l.getD i 0)

/-- Results of one granule: the state after its reads, the command with its flags, and what it writes. -/
structure Granule where
  s : State
  v : VCmd
  out : List (Operand × Nat × List Nat)

/-- The scan's running value and results (05 R122). -/
def scanRun (t rm : Nat) (run : Option Nat) : List Nat → List Nat × Option Nat × Flags
  | [] => ([], run, 0)
  | a :: r =>
    let (p, f) := match run with
      | none => (a, 0)
      | some x => if tyFloat t then fAdd t rm x a else (wrapT t (decInt t x + decInt t a), 0)
    let (ps, z, g) := scanRun t rm (some p) r
    (p :: ps, z, f ||| g)

/-! ### Quantisation (05 R119, R120) -/

/-- `a ≤ b` on fractions. -/
def fracLe (a b : Nat × Nat) : Bool := decide (a.1 * b.2 ≤ b.1 * a.2)

/-- The magnitude of a finite value. -/
def magOf : FV → Nat × Nat
  | .fin _ n d => (n, d)
  | _ => (0, 1)

/-- `Grid` (05 R119) of `± n / d`: the element's code. -/
def grid (rm : Nat) (neg : Bool) (n d sp : Nat) : Nat × Flags :=
  let halves : List Nat := [0, 1, 2, 3, 4, 6, 8, 12]
  let sign (c : Nat) (negative : Bool) : Nat := if c = 0 then (if negative && sp == 0x80 then 8 else 0) else (if neg then 8 + c else c)
  if 6 * d < n then (sign 7 (neg && decide (0 < n)), flagOF ||| flagNX)
  else
    let lo := ((List.range 8).filter (fun c => halves.getD c 0 * d ≤ 2 * n)).length - 1
    let l := halves.getD lo 0
    if l * d = 2 * n then (sign lo (neg && decide (0 < n)), 0)
    else
      let h := halves.getD (lo + 1) 0
      let below := 2 * n - l * d
      let above := h * d - 2 * n
      let up := match rm with
        | 0 => decide (above < below) || (decide (above = below) && lo % 2 == 1)
        | 1 => false
        | 2 => neg
        | 3 => !neg
        | _ => decide (above ≤ below)
      (sign (if up then lo + 1 else lo) (neg && decide (0 < n)), flagNX)

/-- Quantise one block of 32 decoded elements: codes, scale, special and flags. -/
def quantBlock (rm : Nat) (xs : List FV) : List Nat × Nat × Nat × Flags :=
  if xs.any (fun x => x.isNaN || x.isInf) then
    (List.replicate 32 0, 0xFF, 0x80, if xs.any (fun x => x.isSig || x.isInf) then flagNV else 0)
  else
    let ms := xs.map magOf
    let k := (List.range 32).foldl (fun b i => if fracLe (ms.getD i (0, 1)) (ms.getD b (0, 1)) then b else i) 0
    let top := ms.getD k (0, 1)
    let a2 := ((List.range 32).filter (fun i => decide (i ≠ k))).foldl (fun b i => if fracLe (ms.getD i (0, 1)) b then b else ms.getD i (0, 1)) (0, 1)
    let v := if a2.1 ≠ 0 then (a2.1, 6 * a2.2) else (top.1, 6 * top.2)
    let (scale, f0) := match (List.range 255).find? (fun c => fracLe v (e5m3 c)) with
      | some c => (c, (0 : Flags))
      | none => (0xFE, flagOF ||| flagNX)
    let S := e5m3 scale
    let special := decide (S.1 ≠ 0) && decide (6 * S.1 * top.2 < top.1 * S.2)
    let m0 := roundInt 0 false (8 * top.1 * S.2) (top.2 * S.1)
    let m := min m0 127
    let f1 : Flags := if special then (if 127 < m0 then flagOF else 0) ||| (if m * top.2 * S.1 = 8 * top.1 * S.2 then 0 else flagNX) else 0
    let sp := if special then (if (xs.getD k (.zero false)).sign then 0x80 else 0) + m else 0x80
    let cell (i : Nat) : Nat × Flags :=
      if special && i == k then (8, 0)
      else
        let x := ms.getD i (0, 1)
        if S.1 = 0 then grid rm (xs.getD i (.zero false)).sign 0 1 sp
        else grid rm (xs.getD i (.zero false)).sign (x.1 * S.2) (x.2 * S.1) sp
    let cs := (List.range 32).map cell
    (cs.map (fun c => c.1), scale, sp, cs.foldl (fun f c => f ||| c.2) (f0 ||| f1))

/-- Split a list in blocks of 32. -/
def blocks (xs : List Nat) : List (List Nat) := (List.range (xs.length / 32)).map (fun b => (xs.drop (32 * b)).take 32)

/-! ### Granules of the span forms -/

/-- Elements `[j, j+m)` of a span form, `j` not before its cursor. -/
def State.spanGranule (s : State) (v : VCmd) (j m : Nat) : Attempt Granule :=
  let t := v.r.t.toNat
  let rm := v.r.rm.toNat
  let n := dCount v.dd
  let js := from' j m
  let pick (idx : List Nat) : Attempt Granule := (s.elemsRead v.da t idx).andThen fun ps =>
    .ok { s := s.postElems v.da t idx, v := v, out := [(.dst v.dd t n, j, ps)] }
  if v.op = 0x44 ∧ v.fn = 1 then
    (s.srcElems v (.src v.da (dType v.da) n) j m).andThen fun x =>
      let qs := (blocks x.2).map (fun b => quantBlock rm (b.map (decF (dType v.da))))
      let f := qs.foldl (fun f q => f ||| q.2.2.2) v.flags
      .ok { s := x.1, v := { v with flags := f }, out := [(.dst v.dd 14 n, j, qs.flatMap (fun q => q.1)), (.dst v.db 4 (n / 16), j / 16, qs.flatMap (fun q => [q.2.1, q.2.2.1]))] }
  else if v.op = 0x44 ∧ v.fn = 2 then
    (s.srcsElems v j m [.src v.da 14 n, .src v.db 4 (n / 16)]).andThen fun x =>
      let md := x.2.getD 1 []
      let rs := (x.2.getD 0 []).zipIdx.map (fun c => roundV t rm false (decJ4 c.1 (md.getD (2 * (c.2 / 32)) 0) (md.getD (2 * (c.2 / 32) + 1) 0)))
      .ok { s := x.1, v := { v with flags := rs.foldl (fun f r => f ||| r.2) v.flags }, out := [(.dst v.dd t n, j, rs.map (fun r => r.1))] }
  else if v.op = 0x46 then
    match v.fn with
    | 0 => pick (js.map (fun i => n - 1 - i))
    | 1 => (s.elemsRead v.da t [0]).andThen fun ps =>
      .ok { s := s.postElems v.da t [0], v := v, out := [(.dst v.dd t n, j, List.replicate m (ps.headD 0))] }
    | 2 => (s.srcElems v (.src v.da t n) j m).andThen fun x =>
      let (rs, run, f) := scanRun t rm (tget v.acc 0) x.2
      .ok { s := x.1, v := { v with flags := v.flags ||| f, acc := match run with | some x => [(0, x)] | none => [] }, out := [(.dst v.dd t n, j, rs)] }
    | 3 => .ok { s := s, v := v, out := [(.dst v.dd t n, j, js.map (fun i => wrapT t i))] }
    | 4 => (s.srcElems v (.src v.db 6 n) j m).andThen fun x =>
      let inside := x.2.filter (fun i => i < dCount v.da)
      (x.1.elemsRead v.da t inside).andThen fun ps =>
        let rs := (x.2.foldl (fun (y : List Nat × List Nat) i => if i < dCount v.da then (y.1 ++ [y.2.headD 0], y.2.tail) else (y.1 ++ [0], y.2)) ([], ps)).1
        .ok { s := x.1.postElems v.da t inside, v := v, out := [(.dst v.dd t n, j, rs)] }
    | _ =>
      let c := v.scalar.toNat % 65536
      let cr := n / c
      pick (js.map (fun k => k % cr * c + k / cr))
  else
    (s.srcsElems v j m (v.operands.filter (fun o => !o.dest))).andThen fun x =>
      let rs := (List.range m).map (fun i => v.element (column x.2 i))
      let ty := (v.operands.head?.map (fun o => o.ty)).getD t
      .ok { s := x.1, v := { v with flags := rs.foldl (fun f r => f ||| r.2) v.flags }, out := [(.dst v.dd ty n, j, rs.map (fun r => r.1))] }

/-! ### Reductions (05 R121, 03 R74) -/

/-- A lane's start from its first element (or pair). Values of F types are f32 patterns, those of I types i64 patterns. -/
def foldStart (fn t rm : Nat) (x : List Nat) : Nat × Flags :=
  let a := x.getD 0 0
  let b := x.getD 1 0
  if tyFloat t then
    if fn = 4 then finish 10 rm false [decF t a, decF t b] false 0 (mulV (decF t a) (decF t b))
    else
      let (p, f) := cvtF 10 t 0 false a
      (if fn = 3 && !(decF 10 p).isNaN then fAbs 10 p else p, f)
  else (wrap 64 (if fn = 4 then decInt t a * decInt t b else decInt t a), 0)

/-- Combine two values. -/
def foldNode (fn t rm x y : Nat) : Nat × Flags :=
  if tyFloat t then
    match fn with
    | 1 => minMax 10 true x y
    | 2 => minMax 10 false x y
    | 3 => minMax 10 true x y
    | _ => fAdd 10 rm x y
  else
    let a := signed 64 x
    let b := signed 64 y
    (wrap 64 (match fn with
      | 1 => max a b
      | 2 => min a b
      | _ => a + b), 0)

/-- Fold one element (or pair) into a lane; of the operands of a `vdot` step, a fused form, the lane's value comes last (03 R68). -/
def foldStep (fn t rm acc : Nat) (x : List Nat) : Nat × Flags :=
  if fn = 4 then
    let a := x.getD 0 0
    let b := x.getD 1 0
    if tyFloat t then
      let p := decF 10 acc
      let inv := !(decF t a).isNaN && !(decF t b).isNaN && (mulV (decF t a) (decF t b)).isNone
      finish 10 rm false [decF t a, decF t b, p] inv 0 ((mulV (decF t a) (decF t b)).bind (fun q => sumV rm [p, q]))
    else (wrap 64 (signed 64 acc + decInt t a * decInt t b), 0)
  else
    let (y, f) := foldStart fn t rm x
    let (z, g) := foldNode fn t rm acc y
    (z, f ||| g)

/-- Fold elements into the 64 lanes, from element `j` on. -/
def foldLanes (fn t rm : Nat) : Nat → List (List Nat) → Table Nat × Flags → Table Nat × Flags
  | _, [], x => x
  | j, e :: r, (acc, f) =>
    let (p, g) := match tget acc (j % 64) with
      | none => foldStart fn t rm e
      | some a => foldStep fn t rm a e
    foldLanes fn t rm (j + 1) r (tset acc (j % 64) p, f ||| g)

/-- One level of the tree over lanes. -/
def treeLevel (fn t rm : Nat) : List (Option Nat) → List (Option Nat) × Flags
  | a :: b :: r =>
    let (l, f) := treeLevel fn t rm r
    match a, b with
    | some x, some y => let (z, g) := foldNode fn t rm x y; (some z :: l, f ||| g)
    | some x, none => (some x :: l, f)
    | none, y => (y :: l, f)
  | l => (l, 0)

/-- The fixed binary tree: six levels over 64 lanes (03 R74). -/
def treeOf (fn t rm : Nat) : Nat → List (Option Nat) → Option Nat × Flags
  | 0, l => (l.headD none, 0)
  | k + 1, l =>
    let (m, f) := treeLevel fn t rm l
    let (r, g) := treeOf fn t rm k m
    (r, f ||| g)

/-- The result of a reduction over no elements (05 Table 05-5). -/
def foldEmpty (fn t : Nat) : Nat :=
  match fn with
  | 1 => if tyFloat t then withSign 10 true (infPat 10) else wrap 64 (minInt t)
  | 2 => if tyFloat t then infPat 10 else wrap 64 (maxIntOf t)
  | _ => 0

/-- The combined value of the lanes. -/
def foldResult (fn t rm : Nat) (acc : Table Nat) : Nat × Flags :=
  match treeOf fn t rm 6 ((List.range 64).map (tget acc)) with
  | (some v, f) => (v, f)
  | (none, f) => (foldEmpty fn t, f)

/-! ### The deferral queue (05 R125-R127) -/

/-- The words of an entry (05 Table 05-8). -/
def deferEntry (value type opc index : Nat) (target : Desc) : DeferEntry :=
  [CWord.good (target.extractLsb' 0 64), CWord.good (target.extractLsb' 64 64),
   CWord.good (BitVec.ofNat 64 (index % 2 ^ 32 + opc % 2 ^ 7 * 2 ^ 32 + type % 2 ^ 4 * 2 ^ 39)), CWord.good (BitVec.ofNat 64 value)]

/-- The new value of an update (05 R127): rounding is RNE. -/
def deferNew (opc t old v : Nat) : Nat × Flags :=
  match opc with
  | 0 => binaryFn 0 t 0 old v 0
  | 1 => binaryFn 5 t 0 old v 0
  | 2 => binaryFn 4 t 0 old v 0
  | _ => (v, 0)

/-- Apply the oldest entry and remove it: whether it counted. The lane contains an entry's word that it cannot correct. -/
def State.deferApply (s : State) : Attempt (State × Bool × Flags) :=
  match s.own.defer with
  | [] => .ok (s, false, 0)
  | e :: r =>
    match e.zipIdx.find? (fun w => w.1.use.isNone) with
    | some w => .data (queueName 16 w.2) w.1.syn
    | none =>
      let s := s.fixed (e.filter (fun w => fixable w.syn)).length
      let word (i : Nat) : Nat := (((e[i]?).bind CWord.use).getD 0).toNat
      let target : Desc := BitVec.ofNat 128 (word 0 + word 1 * 2 ^ 64)
      let index := bits (word 2) 31 0
      let type := bits (word 2) 42 39
      let drop (s : State) : State := let t := s.own; s.setOwn { t with defer := r }
      if dCount target ≤ index then .ok (drop s, false, 0)
      else (s.elemRead target type index).andThen fun old =>
        let (p, f) := deferNew (bits (word 2) 38 32) type old (word 3)
        ((s.postElems target type [index]).elemWrite target type index p).andThen fun t => .ok (drop t, true, f)

/-! ### Running a command (05 R108, R112, R131; 13 R335-R337) -/

/-- Write a granule's results to store space; those of a queue-bound destination are held, each queue's for itself, until they are
pushed. -/
def State.granuleWrite (s : State) (v : VCmd) : List (Operand × Nat × List Nat) → Attempt (State × VCmd)
  | [] => .ok (s, v)
  | (o, j, ps) :: r =>
    if dQueue o.d = 0 then
      (s.elemsWrite o.d o.ty ((from' j ps.length).zip (s.clashed (v.clashes o v.operands) o.ty j ps))).andThen fun s => s.granuleWrite v r
    else s.granuleWrite { v with held := tset v.held o.queue ((tget v.held o.queue).getD [] ++ pack o.ty ps) } r

/-- Push computed words into their queues, as far as there is room. -/
def State.pushHeld (s : State) (v : VCmd) : State × VCmd :=
  v.held.foldl (fun (x : State × VCmd) h =>
    let k := min (x.1.qRoom h.1) h.2.length
    (x.1.qPush h.1 ((h.2.take k).map CWord.good),
      { x.2 with held := if k = h.2.length then x.2.held else tset x.2.held h.1 (h.2.drop k) })) (s, { v with held := [] })

/-- The command moves past `m` elements: its window ends. -/
def State.windowEnd (s : State) (v : VCmd) (m : Nat) : State × VCmd :=
  let (s, v) := s.spend v m
  s.pushHeld { v with cursor := v.cursor + m, ready := 0 }

/-- The sources of elements `[j, j+m)`; of several that fail, the first element's counts (05 R112; log 52). -/
def State.columns (s : State) (v : VCmd) (ops : List Operand) (j m : Nat) : Attempt (State × List (List Nat)) :=
  match s.srcsElems v j m ops with
  | .ok x => .ok x
  | a => (((from' j m).map (fun i => s.srcsElems v i 1 ops)).find? (fun b => !b.came)).getD a

/-- One attempt of the command at the head of the queue, whose window ends `m` elements past its cursor. -/
def State.spanAttempt (s : State) (v : VCmd) (m : Nat) : Attempt (State × VCmd) :=
  let t := v.r.t.toNat
  let rm := v.r.rm.toNat
  if v.op = 0x54 ∧ v.fn = 1 then
    s.deferApply.andThen fun (s, counted, f) =>
      let k := (tget v.acc 0).getD 0 + (if counted then 1 else 0)
      .ok (s, { v with acc := [(0, k)], flags := v.flags ||| f, result := if s.own.defer = [] then some (BitVec.ofNat 64 k) else none })
  else if v.op = 0x54 then
    if 1024 ≤ s.own.defer.length then s.deferApply.andThen fun (s, _, f) => .ok (s, { v with flags := v.flags ||| f })
    else
      let m := min m (1024 - s.own.defer.length)
      (s.columns v v.operands v.cursor m).andThen fun (s, ls) =>
        let es := ((ls.getD 0 []).zip (ls.getD 1 [])).map (fun x => deferEntry x.1 t v.r.sx.toNat x.2 v.dd)
        let o := s.own
        .ok ((s.setOwn { o with defer := o.defer ++ es }).windowEnd v m)
  else if v.op = 0x45 then
    (s.columns v v.operands v.cursor m).andThen fun (s, ls) =>
      let (acc, f) := foldLanes v.fn t rm v.cursor ((List.range m).map (column ls)) (v.acc, v.flags)
      let (s, v) := s.windowEnd { v with acc := acc, flags := f } m
      if v.cursor = v.total then
        let (p, g) := foldResult v.fn t rm acc
        .ok (s, { v with result := some (BitVec.ofNat 64 p), flags := v.flags ||| g })
      else .ok (s, v)
  else
    (s.spanGranule v v.cursor m).andThen fun g => (g.s.granuleWrite g.v g.out).andThen fun (s, v) => .ok (s.windowEnd v m)

end Sys2Proof.Machine
end

