-- ==== Sys2Proof/Machine/Row.lean ====
section
/-! DEFINITION. The row engine (05 R128-R131) and the pre-emption budget that commands are held to at issue (10 R267). -/

namespace Sys2Proof.Machine

/-! ### The pre-emption budget (10 R267) -/

/-- The budget of the launch on the core in focus: none in the deadline class; zero selects the configuration default. -/
def State.budget (s : State) : Option Nat :=
  match s.here? with
  | none => none
  | some (_, c) =>
    if c.launch.any (fun l => decide (l.record.cls = 0)) then none
    else if c.pbudget = 0 then (s.dom c.tdom).map (fun d => d.sched.pbudget)
    else some c.pbudget

/-- Whether work exceeds the budget. -/
def State.overBudget (s : State) (work : Nat) : Bool := s.budget.any (fun b => decide (b < work))

/-! ### The row control word and the checks (05 R128) -/

def rowScale (v : VCmd) : Nat := v.scalar.toNat / 2 ^ 32
def rowCol (v : VCmd) : Nat := bits v.scalar.toNat 31 16
def rowLen (v : VCmd) : Nat := bits v.scalar.toNat 15 0

/-- Whether the command reads a mask: FN 1 is `row.norm`. -/
def rowMasked (v : VCmd) : Bool := v.fn != 1 && rowCol v != 0xFFFF

/-- The number of rows. -/
def rowCount (v : VCmd) : Nat := dCount v.da / rowLen v

/-- The operands of a row command. -/
def rowOperands (v : VCmd) : List Operand :=
  [.dst v.dd v.r.t.toNat (if v.fn = 2 then rowCount v else dCount v.da), .src v.da (dType v.da) (dCount v.da)] ++
    (if rowMasked v then [.src v.db 7 (rowCount v)] else [])

/-- The checks of R128 at issue. -/
def State.rowOk (s : State) (v : VCmd) : Bool :=
  decide (1 ≤ rowLen v) && decide (rowLen v ≤ 8192) && decide (dCount v.da % rowLen v = 0) && tyFloat (dType v.da) &&
    (v.fn != 2 || v.r.t == 10) && s.operandsOk (rowOperands v) && (rowOperands v).all (fun o => decide (dQueue o.d = 0))

/-! ### The timetable (05 Table 05-9) -/

/-- `P(x)`. -/
def rowPass (d : Desc) (l : Nat) : Nat := if spanCost d = 1 then ceilDiv l 64 else ceilDiv l 32

/-- Row work: the five columns of Table 05-9. -/
def rowWork (v : VCmd) : Nat :=
  let l := rowLen v
  match v.fn with
  | 0 => rowPass v.da l + 6 + ceilDiv l 16 + 6 + max (ceilDiv l 16) (rowPass v.dd l)
  | 1 => rowPass v.da l + 6 + 8 + max (ceilDiv l 64) (rowPass v.dd l)
  | _ => rowPass v.da l + 6 + ceilDiv l 16 + 6 + 8

/-- A row command word. -/
def xRow (fn : Nat) (r : Xs) (s : State) : State :=
  s.xWord r.g r.gn (vUses 0x58 fn r) fun s =>
    s.vIssue State.rowOk (fun s v => if s.overBudget (rowWork v) then some causeBudget else none) (s.vSnap 0x58 fn r)

/-- ROW_SM (05 R129). -/
def execRowSm (r : Xs) (s : State) : Out := .next (xRow 0 r s)

/-- ROW_NORM (05 R129). -/
def execRowNorm (r : Xs) (s : State) : Out := .next (xRow 1 r s)

/-- ROW_LSE (05 R129). -/
def execRowLse (r : Xs) (s : State) : Out := .next (xRow 2 r s)

/-! ### The phases (05 R129) -/

/-- Column `j` of a row is admitted by its mask word. -/
def admitted (v : VCmd) (mask j : Nat) : Bool :=
  !(rowMasked v && decide (rowCol v ≤ j) && decide (j < rowCol v + 64) && !mask.testBit (j - rowCol v))

/-- Fold f32 values into lanes by their column, then along the tree, in the order of 03 R74: FN 0 sums, FN 1 is the
maximum; every step is rounded RNE (03 R75). -/
def rowFold (fn : Nat) (xs : List (Nat × Nat)) : Option Nat × Flags :=
  let (acc, f) := xs.foldl (fun (x : Table Nat × Flags) c => match tget x.1 (c.1 % 64) with
    | none => (tset x.1 (c.1 % 64) c.2, x.2)
    | some a => let (p, g) := foldNode fn 10 0 a c.2; (tset x.1 (c.1 % 64) p, x.2 ||| g)) (([], 0) : Table Nat × Flags)
  let (r, g) := treeOf fn 10 0 6 ((List.range 64).map (tget acc))
  (r, f ||| g)

/-- `RoundTo(f32, exp(y - m), RNE)` of two f32 patterns. -/
def rowExp (y m : Nat) : Nat × Flags :=
  let a := decF 10 y
  let b := decF 10 m
  if a.isNaN || b.isNaN then finish 10 0 false [a, b] false 0 (some a)
  else match sumV 0 [a, b.neg] with
    | none => (nanPat 10, flagNV)
    | some (.zero _) => (onePat 10, 0)
    | some (.fin neg n d) => expR 10 0 (2 ^ 64 + y * 2 ^ 32 + m) neg n d
    | some (.inf neg) => (if neg then 0 else infPat 10, 0)
    | some x => roundV 10 0 false x

/-- `RoundTo(f32, m + ln(s), rm)` of two f32 patterns, `s` not zero. -/
def rowLn (rm m sm : Nat) : Nat × Flags :=
  let a := decF 10 m
  let b := decF 10 sm
  if a.isNaN || b.isNaN then finish 10 rm false [a, b] false 0 (some a)
  else match b with
    | .fin false n d =>
      if n = d then finish 10 rm false [a] false 0 (sumV rm [a, .zero false])
      else match a with
        | .inf _ => (m, 0)
        | _ =>
          let (x, y) := a.frac
          roundExact 10 rm 11 (m * 2 ^ 32 + sm) (fun P =>
            let (l, h) := lnEnc P n d
            let lo := x * (2 ^ P : Nat) / (y : Int)
            let exact := decide (lo * y = x * (2 ^ P : Nat))
            (lo + l, (if exact then lo else lo + 1) + h))
    | .inf false => (match sumV rm [a, .inf false] with
      | none => (nanPat 10, flagNV)
      | some x => roundV 10 rm false x)
    | _ => (nanPat 10, flagNV)

/-- `RoundTo(f32, 1 / sqrt(q / L + eps), RNE)` of f32 patterns. -/
def rowRsqrt (q l eps : Nat) : Nat × Flags :=
  let a := decF 10 q
  let e := decF 10 eps
  if a.isNaN || e.isNaN then finish 10 0 false [a, e] false 0 (some a)
  else match (divV a (FV.ofInt l)).1.bind (fun x => sumV 0 [x, e]) with
    | none => (nanPat 10, flagNV)
    | some (.zero _) => (infPat 10, flagDZ)
    | some (.inf neg) => if neg then (nanPat 10, flagNV) else (0, 0)
    | some (.fin neg n d) => if neg then (nanPat 10, flagNV) else roundV 10 0 false (rsqrtV n d)
    | some x => roundV 10 0 false x

/-- A list of results and the union of their flags. -/
def gather (l : List (Nat × Flags)) : List Nat × Flags := (l.map (fun x => x.1), l.foldl (fun f x => f ||| x.2) 0)

/-- The results of one row from its elements and its mask word. -/
def rowResult (v : VCmd) (xs : List Nat) (mask : Nat) : List Nat × Flags :=
  let t := v.r.t.toNat
  let rm := v.r.rm.toNat
  let u := dType v.da
  let sc := rowScale v
  if v.fn = 1 then
    let (acc, f0) := foldLanes 4 u 0 0 (xs.map (fun x => [x, x])) ([], 0)
    let (q, f1) := foldResult 4 u 0 acc
    let (g, f2) := rowRsqrt q (rowLen v) sc
    let (out, f3) := gather (xs.map (fun x => finish t rm false [decF u x, decF 10 g] false 0 (mulV (decF u x) (decF 10 g))))
    (out, f0 ||| f1 ||| f2 ||| f3)
  else
    let (ys, f0) := gather (xs.map (fun x => finish 10 0 false [decF 10 sc, decF u x] false 0 (mulV (decF 10 sc) (decF u x))))
    let (m?, f1) := rowFold 1 ((ys.zipIdx.filter (fun y => admitted v mask y.2)).map (fun y => (y.2, y.1)))
    let m := m?.getD (withSign 10 true (infPat 10))
    let (es, f2) := gather (ys.zipIdx.map (fun y => if admitted v mask y.2 then rowExp y.1 m else (0, 0)))
    let (s?, f3) := rowFold 0 (es.zipIdx.map (fun e => (e.2, e.1)))
    let sm := s?.getD 0
    let zero := (decF 10 sm).isZero
    let (out, f4) := if v.fn = 0 then
        gather (es.map (fun e => if zero then (0, 0)
          else let (q, f) := divV (decF 10 e) (decF 10 sm); finish t rm false [decF 10 e, decF 10 sm] false f q))
      else gather [if zero then (withSign 10 true (infPat 10), 0) else rowLn rm m sm]
    (out, f0 ||| f1 ||| f2 ||| f3 ||| f4)

/-- One attempt of the row at the cursor: its writes are performed only after its last check (13 R335). A destination that
overlaps a source against the rule takes undefined elements (05 R110). -/
def State.rowAttempt (s : State) (v : VCmd) : Attempt (State × VCmd) :=
  let l := rowLen v
  let i := v.cursor
  let u := dType v.da
  (s.elemsRead v.da u (from' (i * l) l)).andThen fun xs =>
    (if rowMasked v then s.elemsRead v.db 7 [i] else .ok [0]).andThen fun ms =>
      let s := (s.postElems v.da u (from' (i * l) l)).postElems v.db 7 (if rowMasked v then [i] else [])
      let (out, f) := rowResult v xs (ms.headD 0)
      let ty := v.r.t.toNat
      let o : Operand := .dst v.dd ty (if v.fn = 2 then rowCount v else dCount v.da)
      let j := if v.fn = 2 then i else i * l
      (s.elemsWrite v.dd ty ((from' j out.length).zip (s.clashed (v.clashes o (rowOperands v)) ty j out))).andThen fun s =>
        .ok (s, { v with cursor := i + 1, flags := v.flags ||| f })

end Sys2Proof.Machine
end

