-- ==== Sys2Proof/Machine/Matrix.lean ====
section
/-! DEFINITION. The matrix engine: tiles, accumulators, the loop-nest table, commands, granules, redundant mode (06; 03 R73;
13 R334-R337). -/

namespace Sys2Proof.Machine

/-! ### The nest table (06 R139, R142, R143) -/

/-- A nest level with one field replaced; the reserved bit of a source descriptor is not stored (06 Table 06-3; 00 R6). -/
def NestLevel.put (l : NestLevel) (fld : Nat) (v : BitVec 32) : NestLevel :=
  match fld with
  | 0 => { l with count := v }
  | 1 => { l with astep := v }
  | 2 => { l with bstep := v }
  | 3 => { l with ostep := v }
  | 4 => { l with asrc := v &&& 0xFDFFFFFF }
  | _ => { l with bsrc := v &&& 0xFDFFFFFF }

/-- MM_NEST (06 R142). -/
def execMmNest (r : Xm) (s : State) : Out :=
  .next (s.xWord r.g r.gn [] fun s =>
    let sh := s.core.shadow
    .done { s with core := { s.core with shadow := setAt sh r.l.toNat ((sh.getD r.l.toNat NestLevel.reset).put r.fld.toNat r.v) } })

/-- MM_SWAP (06 R143). -/
def execMmSwap (r : Xr) (s : State) : Out :=
  .next (s.xWord r.g r.gn [] fun s => .done { s with core := { s.core with shadow := s.core.active, active := s.core.shadow } })

/-! ### Source descriptors (06 Table 06-3) -/

def srcKind (d : BitVec 32) : Nat := (d.extractLsb' 30 2).toNat
def srcRel (d : BitVec 32) : Bool := d.getLsbD 29
def srcScope (d : BitVec 32) : Nat := (d.extractLsb' 26 3).toNat
def srcBase (d : BitVec 32) : Nat := (d.extractLsb' 0 25).toNat

/-- One of the two operands of a command: its source descriptor, tile field, steps by level, base register value, whether
it is sparse, and its bytes (06 Table 06-1). -/
structure MOp where
  src : BitVec 32
  tile : Nat
  steps : List (BitVec 32)
  base : Word
  sparse : Bool
  bytes : Nat
  deriving DecidableEq, Repr

/-- Bytes of the two operands, K and chunk of a type, and its step time (06 Table 06-1, 03 Table 03-7). -/
def mmBytesA (t : Nat) : Nat := if t = 14 then 1152 else 2048
def mmBytesB (t : Nat) : Nat := if t = 14 then 2304 else 4096
def mmK (t : Nat) : Nat := if t = 15 then 128 else if t = 8 ∨ t = 9 then 32 else 64
def mmChunk (t : Nat) : Nat := if t = 15 then 64 else if t = 8 ∨ t = 9 then 16 else 32
def mmCycles (t : Nat) : Nat := if t = 14 then 32 else 64

/-- The operands of a command. -/
def MCmd.opA (m : MCmd) : MOp :=
  { src := (m.nest.headD NestLevel.reset).asrc, tile := m.r.a.toNat, steps := m.nest.map (fun l => l.astep), base := m.baseA
    sparse := m.r.m.getLsbD 0, bytes := mmBytesA m.r.t.toNat }
def MCmd.opB (m : MCmd) : MOp :=
  { src := (m.nest.headD NestLevel.reset).bsrc, tile := m.r.b.toNat, steps := m.nest.map (fun l => l.bstep), base := m.baseB
    sparse := m.r.m.getLsbD 1, bytes := mmBytesB m.r.t.toNat }

/-! ### Enumerating steps (06 R141) -/

/-- The iterations of each level at step `k`, level 0 first. -/
def digits : List Nat → Nat → List Nat
  | [], _ => []
  | c :: r, k => k % c :: digits r (k / c)

/-- The offset of an operand at given iterations. -/
def MOp.offset (o : MOp) (ds : List Nat) : Int := (ds.zip o.steps).foldl (fun a x => a + x.1 * x.2.toInt) 0

/-- The tile that a tile operand names: of a negative sum too, its remainder in 0-15 (log 53). -/
def MOp.tileAt (o : MOp) (ds : List Nat) : Nat := (((o.tile : Int) + o.offset ds) % 16).toNat

/-- The accumulator of a step. -/
def MCmd.accAt (m : MCmd) (ds : List Nat) : Nat :=
  ((ds.zip m.nest).foldl (fun a x => a + x.1 * x.2.ostep.toNat) m.r.d.toNat) % 4

def MCmd.digitsAt (m : MCmd) (k : Nat) : List Nat := digits (m.nest.map (fun l => l.count.toNat)) k

/-! ### The checks at issue (06 R150, R156) -/

/-- Whether a source descriptor keeps the rules of Table 06-3. -/
def srcOk (d : BitVec 32) : Bool :=
  decide (srcKind d ≤ 2) && (srcKind d == 0 || !srcRel d) && (srcKind d == 2 || srcScope d == 0) && decide (srcScope d ≤ 4) &&
    (match srcKind d with
      | 0 => decide (srcBase d = 0)
      | 1 => decide (srcBase d % 64 = 0)
      | _ => decide (srcBase d < 64))

/-- Whether an operand keeps the rules of R150. -/
def MOp.ok (o : MOp) : Bool :=
  srcOk o.src && (srcKind o.src == 0 || decide (o.tile = 0) && o.steps.all (fun s => s.toNat % 64 == 0)) &&
    (srcKind o.src != 2 || decide (o.base.toNat % 64 = 0)) && !(o.sparse && srcKind o.src == 0)

/-- Tiles that the REL sources of a command read at given iterations. -/
def MCmd.relTiles (m : MCmd) (ds : List Nat) : List Nat :=
  ([m.opA, m.opB].filter (fun o => srcKind o.src == 0 && srcRel o.src)).map (fun o => o.tileAt ds)

/-- Whether some granule reads one tile twice through a REL source (06 R144). Tiles repeat every sixteen iterations of a
level, and more reads than tiles must repeat one. -/
def MCmd.doubleRel (m : MCmd) : Bool :=
  let n := m.granSize
  let rels := (m.relTiles []).length
  if rels = 0 then false
  else if 16 < n * rels then true
  else
    let cs := m.nest.map (fun l => l.count.toNat)
    let outer := (cs.drop m.r.c.toNat).map (fun c => min c 16)
    let starts := (List.range (outer.foldl (fun a b => a * b) 1)).map (fun k => digits outer k)
    starts.any (fun ds =>
      let ts := (List.range n).flatMap (fun k => m.relTiles (digits (cs.take m.r.c.toNat) k ++ ds))
      decide (ts.eraseDups.length ≠ ts.length))

/-- Whether a command is legal; `red` is the redundant mode in which it will run. -/
def MCmd.ok (m : MCmd) (red : Bool) : Bool :=
  mmTypeOk m.r.t.toNat && m.nest.all (fun l => decide (1 ≤ l.count.toNat) && decide (l.count.toNat < 65536) && decide (l.ostep.toNat < 4)) &&
    (m.nest.drop 1).all (fun l => l.asrc == 0 && l.bsrc == 0) && m.opA.ok && m.opB.ok && decide (m.r.c.toNat ≤ 6) &&
    (decide (4 ≤ m.r.c.toNat) || decide (m.granSize ≤ if red then 4 else 8)) && !m.doubleRel

/-- Granule work (06 R156). -/
def MCmd.work (m : MCmd) (red : Bool) : Nat := m.granSize * mmCycles m.r.t.toNat * (if red then 2 else 1)

/-- The redundant mode that stands after every queued `mm.cfg`. -/
def Core.redundantAt (c : Core) : Bool :=
  c.mq.foldl (fun b m => if m.kind = .cfg then decide (m.arg = 1) else b) c.redundant

/-! ### Issue (06 R149, R151, R153, R154, R158) -/

/-- A matrix command with its snapshots. -/
def State.mSnap (s : State) (kind : MKind) (r : Xr) (arg : Nat) : MCmd :=
  let l := s.core.active.headD NestLevel.reset
  let reg (d : BitVec 32) (port : Nat) : Word := if srcKind d = 2 then s.getX port (srcBase d % 64) else 0
  { seq := s.tick, kind := kind, r := r, rm := r.lb.toNat, arg := arg, nest := s.core.active, baseA := reg l.asrc 0, baseB := reg l.bsrc 1
    word := s.core.xir, addr := s.core.xpc, started := false, frozen := false, cursor := 0, granStart := 0, touched := []
    release := [], check := none, fetched := [], seen := none, granFlags := 0, flags := 0, amax := none }

/-- Place a command in the matrix command queue, or hold issue while it is full. -/
def State.mIssue (s : State) (m : MCmd) : WordEnd :=
  if 4 ≤ s.core.mq.length then .wait s else .done { s with core := { s.core with mq := s.core.mq ++ [m] } }

/-- The scalar registers whose values a command of the active bank takes. -/
def State.mUses (s : State) : List Nat :=
  let l := s.core.active.headD NestLevel.reset
  [l.asrc, l.bsrc].filterMap (fun d => if srcKind d = 2 then some (srcBase d % 64) else none)

/-- `mm.go` and `mm.zero`. -/
def xMatrix (kind : MKind) (r : Xr) (s : State) : State :=
  s.xWord r.g r.gn s.mUses fun s =>
    let m := s.mSnap kind r 0
    let red := s.core.redundantAt
    if !m.ok red then .trap causeIll 0
    else if s.overBudget (m.work red) then .trap causeBudget 0
    else s.mIssue { m with seen := if m.readsMem then some (s.mem, s.stores) else none }

/-- MM_GO (06 R149). -/
def execMmGo (r : Xr) (s : State) : Out := .next (xMatrix .go r s)

/-- MM_ZERO (06 R149). -/
def execMmZero (r : Xr) (s : State) : Out := .next (xMatrix .zero r s)

/-- MM_DRAIN (06 R153). -/
def execMmDrain (r : Xr) (s : State) : Out :=
  .next (s.xWord r.g r.gn (if r.m.getLsbD 0 then [64 + r.b.toNat] else []) fun s => s.mIssue (s.mSnap .drain r 0))

/-- MM_CFG (06 R158). -/
def execMmCfg (r : Xi) (s : State) : Out :=
  .next (s.xWord r.g r.gn [] fun s => s.mIssue (s.mSnap .cfg default (r.imm.toNat % 2)))

/-- TSET (06 R154). -/
def execTset (r : Xr) (s : State) : Out := .next (s.xWord r.g r.gn [] fun s => s.mIssue (s.mSnap .tset r (r.d.toNat % 16)))

/-- TCLR (06 R154). -/
def execTclr (r : Xr) (s : State) : Out := .next (s.xWord r.g r.gn [] fun s => s.mIssue (s.mSnap .tclr r (r.d.toNat % 16)))

/-! ### Operand regions (06 R137, R144-R147) -/

/-- Whether a tile register is full. -/
def Core.tileFull (c : Core) (t : Nat) : Bool := decide (tget c.tfull t = some .full)

/-- Whether the operand is there to be read: tile sources must be full. -/
def MOp.present (o : MOp) (c : Core) (ds : List Nat) : Bool := srcKind o.src != 0 || c.tileFull (o.tileAt ds)

/-- Words that the operand and accumulator lanes take, with their names: their values, or the first that is contained. -/
def takeWords (ws : List (Nat × CWord)) : Attempt (List Nat) :=
  match ws.find? (fun w => w.2.use.isNone) with
  | some w => .data w.1 w.2.syn
  | none => .ok (ws.map (fun w => (w.2.use.getD 0).toNat))

/-- How many words the lanes correct. -/
def mended (ws : List (Nat × CWord)) : Nat := (ws.filter (fun w => fixable w.2.syn)).length

/-- The words of a tile register and of an accumulator, with their names. -/
def Core.tileWords (c : Core) (t n : Nat) : List (Nat × CWord) :=
  (c.tdata.words (t * 4096) n).zipIdx.map (fun w => (tileName t (8 * w.2), w.1))
def Core.accWords (c : Core) (q first n : Nat) : List (Nat × CWord) :=
  (c.adata.words (q * 8192 + first) n).zipIdx.map (fun w => (accName q (first + 8 * w.2), w.1))

/-- The base address of a region. -/
def MOp.addr (o : MOp) (ds : List Nat) : Int :=
  (if srcKind o.src = 1 then (srcBase o.src : Int) else (o.base.toNat : Int)) + o.offset ds

/-- The place of a word among the fetched ones. -/
def MOp.key (o : MOp) (a : Int) : Nat := if srcKind o.src = 1 then 2 ^ 64 + a.toNat else (a % 2 ^ 64).toNat

/-- Fetch a word with its code, once in an attempt of the granule (06 R146). A word that its lane will correct is posted. -/
def State.fetchWord (s : State) (o : MOp) (f : Table (Nat × CWord)) (a : Int) : Attempt (State × Table (Nat × CWord)) :=
  let key := o.key a
  if (tget f key).isSome then .ok (s, f)
  else if srcKind o.src = 1 then
    (s.sReadWords s.who a.toNat 1).attempt.andThen fun ws =>
      .ok (s.postStore s.who a.toNat 8, tset f key (a.toNat + 2 ^ 56, ws.headD (CWord.good 0)))
  else match s.translateAll s.who needR [(key, 8)] with
    | (t, .ok l) =>
      let pa := (l.head?.map (fun x => x.1)).getD 0
      .ok ((if pa % 64 = 0 then t.note pa 64 else t).postPhys s.domHere pa 8, tset f key (pa, t.physWord pa))
    | (t, .far pa) =>
      if placeOf pa = .pool then .wait
      else if s.refusedAway (s.core.ctx.getD 0) then .viol key
      else .ok (t, tset f key (pa, CWord.good (Config.freeBits 64 s.tick (131072 + key))))
    | (_, g) => g.attempt.andThen fun _ => .wait

/-- Fetch words at rising addresses. -/
def State.fetchWords (s : State) (o : MOp) (f : Table (Nat × CWord)) : List Int → Attempt (State × Table (Nat × CWord))
  | [] => .ok (s, f)
  | a :: r => (s.fetchWord o f a).andThen fun x => x.1.fetchWords o x.2 r

/-- Addresses of `n` words of a region. -/
def MOp.addrs (o : MOp) (ds : List Nat) (n : Nat) : List Int := (List.range n).map (fun i => o.addr ds + 8 * i)

/-- The fetched words of a region. -/
def MOp.words (o : MOp) (f : Table (Nat × CWord)) (ds : List Nat) (n : Nat) : List (Nat × CWord) :=
  (o.addrs ds n).map (fun a => (tget f (o.key a)).getD (0, CWord.good 0))

/-- The bytes of words as one number, the lowest address in the lowest bits. -/
def joined (ws : List Nat) : Nat := ws.foldr (fun w n => w % 2 ^ 64 + 2 ^ 64 * n) 0

/-- The set bits of a bitmap among the first `n`. -/
def bitsBelow (bm n : Nat) : Nat := ((List.range n).filter (fun j => bm.testBit j)).length

/-- The number of words of an operand: a sparse slot has a bitmap of eight, and those that its set bits stand for, when it can be
read (06 R147). -/
def MOp.count (o : MOp) (f : Table (Nat × CWord)) (ds : List Nat) : Nat :=
  if o.sparse then 8 + (match takeWords (o.words f ds 8) with
    | .ok ws => bitsBelow (joined ws) (o.bytes / 8)
    | _ => 0)
  else o.bytes / 8

/-- A store-space region lies within one bank range (06 R145). -/
def State.regionCheck (s : State) (o : MOp) (ds : List Nat) (n : Nat) : Attempt Unit :=
  let a := o.addr ds
  if srcKind o.src = 1 ∧ (a < 0 ∨ 2 ^ 32 ≤ a ∨ (s.storeTarget s.who a.toNat (8 * n)).isNone) then .viol (a % 2 ^ 64).toNat else .ok ()

/-- Fetch the words of an operand's region: of a sparse slot, first its bitmap. -/
def State.fetchOperand (s : State) (o : MOp) (f : Table (Nat × CWord)) (ds : List Nat) : Attempt (State × Table (Nat × CWord)) :=
  if srcKind o.src = 0 then .ok (s, f)
  else
    let n := if o.sparse then 8 else o.bytes / 8
    (s.regionCheck o ds n).andThen fun _ => (s.fetchWords o f (o.addrs ds n)).andThen fun x =>
      let k := o.count x.2 ds
      (x.1.regionCheck o ds k).andThen fun _ => x.1.fetchWords o x.2 ((o.addrs ds k).drop n)

/-- Put the words of a sparse slot in their places. -/
def expand (bm : Nat) : Nat → Nat → List Nat → List Nat
  | 0, _, _ => []
  | n + 1, j, ws => if bm.testBit j then ws.headD 0 :: expand bm n (j + 1) ws.tail else 0 :: expand bm n (j + 1) ws

/-- The words of an operand that a step takes. -/
def State.operandWords (s : State) (m : MCmd) (o : MOp) (ds : List Nat) : List (Nat × CWord) :=
  if srcKind o.src = 0 then s.core.tileWords (o.tileAt ds) (o.bytes / 8) else o.words m.fetched ds (o.count m.fetched ds)

/-- The bytes of an operand as one number, from the values of its words. -/
def MOp.value (o : MOp) (ws : List Nat) : Nat :=
  if o.sparse && srcKind o.src != 0 then joined (expand (joined (ws.take 8)) (o.bytes / 8) 0 (ws.drop 8)) else joined ws

/-- A fetched word is not what memory held when the command issued: a program has written it meanwhile (06 R151; log 54). -/
def State.rewritten (s : State) (m : MCmd) (w : Nat × CWord) : Bool :=
  match m.seen with
  | none => false
  | some (mem, stores) =>
    let s0 : State := { s with mem := mem, stores := stores }
    if 2 ^ 56 ≤ w.1 then
      match s0.sReadWords s.who (w.1 - 2 ^ 56) 1 with
      | .ok [v] => decide (v.use ≠ w.2.use)
      | _ => false
    else match placeOf w.1 with
      | .remote _ => false
      | _ => decide ((s0.physWord w.1).use ≠ w.2.use)

/-! ### One step (06 R138, 03 R73) -/

/-- Element number `i` of a region, as a pattern. -/
def regionElem (t n i : Nat) : Nat := n / 2 ^ (i * tyWidth t) % 2 ^ tyWidth t

/-- The decoded operand at number `i`; in j4, `plane` is the byte at which the metadata start. -/
def regionValue (t plane n i : Nat) : FV :=
  if t = 14 then
    let meta_ := n / 2 ^ (8 * (plane + i / 32 * 2)) % 2 ^ 16
    decJ4 (regionElem t n i) (meta_ % 256) (meta_ / 256)
  else decF t (regionElem t n i)

/-- Whether terms hold infinities of both signs. -/
def opposed (ts : List FV) : Bool := ts.any (fun t => t.isInf && t.sign) && ts.any (fun t => t.isInf && !t.sign)

/-- One chunk of one accumulator element: products are summed exactly with the accumulator and rounded once. The terms of a j4 chunk
are its products, each with its scales, and a sum that is invalid raises NV beside a NaN operand too (log 50). -/
def chunk (t acc : Nat) (xs : List (Nat × Nat)) (fs : List (FV × FV)) : Nat × Flags :=
  if tyFloat t || t == 14 then
    let c := decF 10 acc
    let ps := fs.map (fun x => if x.1.isNaN || x.2.isNaN then some (.zero false) else mulV x.1 x.2)
    let ts := c :: ps.map (fun p => p.getD (.zero false))
    let inv := ps.any (fun p => p.isNone) || opposed ts
    let res := if inv then none else sumV 0 ts
    finish 10 0 false (c :: fs.flatMap (fun x => [x.1, x.2])) inv 0 res
  else (wrap 32 (signed 32 acc + xs.foldl (fun a x => a + decInt t x.1 * decInt t x.2) 0), 0)

/-- Element `(m, n)` of an accumulator after a step on the operand regions `a` and `b`. -/
def stepElem (t a b m n acc : Nat) : Nat × Flags :=
  let k := mmK t
  let ch := mmChunk t
  (List.range (k / ch)).foldl (fun (x : Nat × Flags) i =>
    let ks := from' (i * ch) ch
    let (v, f) := if tyFloat t || t == 14 then chunk t x.1 [] (ks.map (fun j => (regionValue t 0x400 a (m * k + j), regionValue t 0x800 b (n * k + j))))
      else chunk t x.1 (ks.map (fun j => (regionElem t a (m * k + j), regionElem t b (n * k + j)))) []
    (v, x.2 ||| f)) (acc, 0)

/-- The two 32-bit elements of each word of an accumulator. -/
def halves (ws : List Nat) : List Nat := ws.flatMap (fun w => [w % 2 ^ 32, w / 2 ^ 32])

/-- Words of pairs of 32-bit elements. -/
def pairUp : List Nat → List Word
  | a :: b :: r => BitVec.ofNat 64 (a % 2 ^ 32 + 2 ^ 32 * b) :: pairUp r
  | _ => []

/-- Write the elements of an accumulator, with new codes. -/
def Core.setAcc (c : Core) (q : Nat) (es : List Nat) : Core :=
  { c with adata := c.adata.setWords (q * 8192) ((pairUp es).map CWord.good) }

/-- Perform step `k` of the command: its operands must be present. -/
def State.mStep (s : State) (m : MCmd) (k : Nat) : Attempt (State × MCmd) :=
  let ds := m.digitsAt k
  let q := m.accAt ds
  let wa := s.operandWords m m.opA ds
  let wb := s.operandWords m m.opB ds
  let wq := if m.kind = .zero ∧ !m.touched.contains q then [] else s.core.accWords q 0 1024
  (takeWords wa).andThen fun va => (takeWords wb).andThen fun vb => (takeWords wq).andThen fun vq =>
    let es := if wq = [] then List.replicate 2048 0 else halves vq
    let a := m.opA.value va
    let b := m.opB.value vb
    let lost := (if srcKind m.opA.src = 0 then false else wa.any (s.rewritten m)) || (if srcKind m.opB.src = 0 then false else wb.any (s.rewritten m))
    let rs := es.zipIdx.map (fun e =>
      if lost then ((Config.freeBits 32 s.tick (2 ^ 40 + 4096 * k + e.2)).toNat, Config.freeBits 5 s.tick (2 ^ 40 + 4096 * k + 2048))
      else stepElem m.r.t.toNat a b (e.2 / 64) (e.2 % 64) e.1)
    let f := rs.foldl (fun f r => f ||| r.2) m.granFlags
    let rel := (m.relTiles ds).filter (fun t => !m.release.contains t)
    let tiles := (if srcKind m.opA.src = 0 then mended wa else 0) + (if srcKind m.opB.src = 0 then mended wb else 0)
    .ok (({ s with core := s.core.setAcc q (rs.map (fun r => r.1)) } : State).fixed (tiles + mended wq),
      { m with cursor := k + 1, granFlags := f, release := m.release ++ rel, touched := if m.touched.contains q then m.touched else q :: m.touched })

/-! ### Granules (06 R152, R155-R157) -/

/-- Translate, check and fetch every store and global region of the granule's steps before its first (06 R146, R152). -/
def State.granuleFetch (s : State) (m : MCmd) : List Nat → Attempt (State × MCmd)
  | [] => .ok (s, m)
  | k :: ks =>
    let ds := m.digitsAt k
    (s.fetchOperand m.opA m.fetched ds).andThen fun x => (x.1.fetchOperand m.opB x.2 ds).andThen fun y =>
      y.1.granuleFetch { m with fetched := y.2 } ks

/-- Run steps until the granule ends or the next step's tiles are not full. -/
def State.granuleSteps (s : State) (m : MCmd) (anyTile : Bool) : Nat → Attempt (State × MCmd)
  | 0 => .ok (s, m)
  | n + 1 =>
    let ds := m.digitsAt m.cursor
    if anyTile || (m.opA.present s.core ds && m.opB.present s.core ds) then
      (s.mStep m m.cursor).andThen fun x => x.1.granuleSteps x.2 anyTile n
    else .ok (s, m)

/-- Begin a granule: its fetches and checks, and the checkpoint (06 R157). -/
def State.granuleBegin (s : State) (m : MCmd) : Attempt (State × MCmd) :=
  let m := { m with granStart := m.cursor, fetched := [] }
  (s.granuleFetch m (from' m.cursor (m.granEnd - m.cursor))).andThen fun x =>
    .ok (x.1, { x.2 with check := some (m.touched, s.core.adata), granFlags := 0, release := [] })

/-- Discard the granule under way: the accumulators and the cursor are as at its start, and its flags are dropped. -/
def Core.granuleDrop (c : Core) (m : MCmd) : Core × MCmd :=
  match m.check with
  | none => (c, m)
  | some (t, d) =>
    ({ c with adata := d }, { m with cursor := m.granStart, touched := t, release := [], granFlags := 0, check := none, fetched := [] })

/-- One attempt at the granule under way, or at the next one. -/
def State.granuleAttempt (s : State) (m : MCmd) : Attempt (State × MCmd) :=
  (if m.check.isSome then .ok (s, m) else s.granuleBegin m).andThen fun x => x.1.granuleSteps x.2 false (x.2.granEnd - x.2.cursor)

/-! ### Drain (06 R153) -/

/-- The drained pattern of an accumulator element. -/
def drainElem (m : MCmd) (v : Nat) : Nat × Flags :=
  let t := m.r.t.toNat
  if t = 10 ∨ t = 2 then (v, 0)
  else if t = 0 then (sat 0 (signed 32 v), 0)
  else finish t m.rm (m.r.m.getLsbD 2) [decF 10 v] false 0 (some (decF 10 v))

/-- Whether the drained value is read as f32. -/
def drainFloat (m : MCmd) : Bool := tyFloat m.r.t.toNat

/-- The greatest magnitude of the drained values (06 R153). -/
def drainMax (m : MCmd) (vs : List Nat) : Nat :=
  if drainFloat m then
    let ns := vs.filter (fun v => !(decF 10 v).isNaN)
    if ns = [] then (match vs.head?.map (decF 10) with
      | some (.nan neg _ f w) => quietTo 10 neg f w
      | _ => 0)
    else ns.foldl (fun b v => max b (v % 2 ^ 31)) 0
  else vs.foldl (fun b v => max b (signed 32 v).natAbs) 0

/-- The bytes of the tile that a drain writes, as words. -/
def drainWords (t : Nat) (es : List Nat) : List Nat :=
  let n := es.foldr (fun e n => e % 2 ^ tyWidth t + 2 ^ tyWidth t * n) 0
  (List.range 512).map (fun i => n / 2 ^ (64 * i) % 2 ^ 64)

/-- The words of the accumulator that a drain reads. -/
def State.drainSrc (s : State) (m : MCmd) : List (Nat × CWord) :=
  let wide := m.r.t.toNat == 10 || m.r.t.toNat == 2
  s.core.accWords (m.r.a.toNat % 4) (if wide && m.r.m.getLsbD 1 then 4096 else 0) (if wide then 512 else 1024)

/-- Perform a drain whose tile is empty. Words that the drain lane contains leave their tile words poisoned. -/
def State.drainRun (s : State) (m : MCmd) : State × MCmd :=
  let t := m.r.t.toNat
  let ws := s.drainSrc m
  let bad (i : Nat) : Bool := (ws.getD (i / 2) (0, CWord.good 0)).2.use.isNone
  let vs := halves (ws.map (fun w => (w.2.use.getD 0).toNat))
  let n := vs.length
  let rs := vs.map (drainElem m)
  let words := drainWords t (rs.map (fun r => r.1))
  let per := 64 / tyWidth t
  let cw := words.zipIdx.map (fun w =>
    if (from' (w.2 * per) per).any (fun i => decide (i < n) && bad i) then CWord.poison else CWord.good (BitVec.ofNat 64 w.1))
  let tile := m.r.d.toNat % 16
  let amax := if ws.any (fun w => w.2.use.isNone) then Config.freeBits 64 s.tick 196608 else BitVec.ofNat 64 (drainMax m vs)
  let c : Core := { s.core with tdata := s.core.tdata.setWords (tile * 4096) cw, tfull := tset s.core.tfull tile .full }
  (({ s with core := c } : State).fixed (mended ws), { m with cursor := 1, flags := rs.foldl (fun f r => f ||| r.2) m.flags, amax := some amax })

/-- The word that a drain would have to contain. -/
def State.drainBad (s : State) (m : MCmd) : Option (Nat × CWord) := (s.drainSrc m).find? (fun w => w.2.use.isNone)

/-- The window replay of the last granule, which touched the drained accumulator: its steps run again on its operands from
its checkpoint (13 Table 13-5). -/
def State.replayLast (s : State) (q : Nat) : Option State :=
  match s.core.lastGran with
  | none => none
  | some g => match g.check with
    | none => none
    | some (t, d) =>
      let steps := from' g.granStart (g.cursor - g.granStart)
      if steps.any (fun k => decide (g.accAt (g.digitsAt k) = q)) then
        let c : Core := { s.core with adata := d }
        match (State.granuleFetch { s with core := c } { g with cursor := g.granStart, touched := t, release := [], fetched := [] } steps).andThen
            (fun x => x.1.granuleSteps x.2 true steps.length) with
        | .ok (s, _) => some s
        | _ => none
      else none

/-- Replace the command at the head of the matrix command queue. -/
def State.setMHead (s : State) (m : MCmd) : State := { s with core := { s.core with mq := setAt s.core.mq 0 m } }

/-- What a failed granule attempt leaves: a translation fault or violation freezes the engine at the granule's start; a
containment event is kept for the replay, and lasts when the word failed before or four words have (13 R336). -/
def State.granuleFail (s : State) (m : MCmd) (a : Attempt (State × MCmd)) : State :=
  let (c, m) := s.core.granuleDrop m
  let s := { s with core := c }
  let strikes := s.core.mstrike
  let freeze (cause x : Nat) (z : BitVec 8) : State :=
    let t := ((s.setMHead { m with started := true, frozen := true }).transients (strikes.filter (fun y => decide (y.1 ≠ x)))).engineAsk m.word m.addr cause x z
    { t with core := { t.core with mstrike := [], mdog := false } }
  match a with
  | .viol x => freeze causeViol x 0
  | .pages x => freeze causePages x 0
  | .data x z =>
    if strikes.any (fun y => decide (y.1 = x)) ∨ 3 ≤ strikes.length then freeze causeData x z
    else
      let t := s.setMHead { m with started := true }
      { t with core := { t.core with mstrike := (x, z) :: strikes } }
  | _ => s

/-- A successful attempt. A replay that has come through makes its events transient ones. -/
def State.granulePass (s : State) (m : MCmd) : State :=
  let t := (s.setMHead { m with started := true }).transients s.core.mstrike
  { t with core := { t.core with mstrike := [], mdog := false } }

/-- A drain whose tile is empty: when its lane contains a word, the last granule is replayed if it touched that accumulator; a word that
it still contains parks the context (13 Table 13-5). -/
def State.drainNow (s : State) (m : MCmd) : State :=
  let done (s : State) : State := let (t, m) := s.drainRun { m with started := true }; t.setMHead m
  match s.drainBad m with
  | none => done s
  | some w => match (s.replayLast (m.r.a.toNat % 4)).bind (fun t => if (t.drainBad m).isNone then some t else none) with
    | some t => done (t.transients [(w.1, w.2.syn)])
    | none => (done s).engineAsk m.word m.addr causeData 0 w.2.syn

/-- Run the command at the head of the queue as far as it goes now: a granule, a drain, or a change of mode or tile. -/
def State.matrixRun (s : State) (m : MCmd) : State :=
  match m.kind with
  | .cfg =>
    let t := s.setMHead { m with started := true, cursor := 1 }
    { t with core := { t.core with redundant := decide (m.arg = 1) } }
  | .tset =>
    let t := s.setMHead { m with started := true, cursor := 1 }
    { t with core := { t.core with tfull := tset t.core.tfull m.arg .full } }
  | .tclr =>
    let t := s.setMHead { m with started := true, cursor := 1 }
    { t with core := { t.core with tfull := tdel t.core.tfull m.arg } }
  | .drain => if (tget s.core.tfull (m.r.d.toNat % 16)).isSome then s.setMHead { m with started := true } else s.drainNow m
  | _ =>
    match s.granuleAttempt m with
    | .ok (t, m) => t.granulePass m
    | .wait => s
    | a => s.granuleFail m a

/-- Whether the matrix engine may take up the command at the head now (06 R151). -/
def Core.matrixMay (c : Core) (m : MCmd) : Bool :=
  !m.frozen && decide (m.cursor < m.total) && !(m.check.isSome && decide (m.cursor = m.granEnd)) &&
    (m.started || !m.readsMem || c.vq.all (fun v => decide (m.seq < v.seq)))

/-- MATRIX_COMMAND_START (06 R151): the engine starts the next command, or goes on with it at its next granule or when its
operands have come. Once a leave is accepted it stops at its point (06 R156). -/
def execMatrixCommandStart (s : State) : Out :=
  .next (match s.core.mq with
    | [] => s
    | m :: _ => if s.core.matrixMay m && decide (s.core.mstrike = []) && !s.leaving then s.matrixRun m else s)

/-- End a granule whose results are kept. -/
def State.granuleKeep (s : State) (m : MCmd) : State :=
  let c := { s.core with
    tfull := s.core.tfull.filter (fun t => !m.release.contains t.1)
    lastGran := some { m with fetched := [] }
    mq := setAt s.core.mq 0 { m with release := [], check := none, fetched := [], flags := m.flags ||| m.granFlags, granFlags := 0 } }
  { s with core := c }

/-- The accumulators of the steps of the granule under way. -/
def MCmd.granAccs (m : MCmd) : List Nat :=
  ((from' m.granStart (m.cursor - m.granStart)).map (fun k => m.accAt (m.digitsAt k))).eraseDups

/-- MATRIX_GRANULE_END (06 R144, R157-R160): tiles are released; in redundant mode `twin` tells how the two results
compared, at a stop inside the granule too, and an unresolved granule is discarded, its context parked with ARITH, the core,
accumulators and cursor noted, and the core withdrawn. -/
def execMatrixGranuleEnd (twin : Twin) (s : State) : Out :=
  .next (match s.core.mq with
    | [] => s
    | m :: _ =>
      if s.core.granuleEnds s.leaving then
        let dom := s.domHere
        let slot := s.core.ctx.getD 0
        if !s.core.redundant then s.granuleKeep m
        else match twin with
          | .agree => s.granuleKeep m
          | .transient => (s.granuleKeep m).domRecord dom 0 (s.handleOf slot) s.here 0 8 5
          | .unresolved =>
            let (c, m') := s.core.granuleDrop m
            let s := ({ s with core := c }.setMHead { m' with frozen := true }).engineAsk m.word m.addr causeArith 0 0
            let s := s.domRecord dom 0 (s.handleOf slot) s.here 0 8 6
            let s := match s.dom dom with
              | some x => s.setDom dom { x with unresolved := x.unresolved ++ [(s.here, m.granAccs, m.granStart)] }
              | none => s
            { s with withdrawn := if s.withdrawn.contains s.here then s.withdrawn else s.here :: s.withdrawn }
      else s)

/-- MATRIX_COMMAND_COMPLETE (06 R151, R153; 03 R71): flags reach FPFLAGS and the amax of a drain its register. -/
def execMatrixCommandComplete (s : State) : Out :=
  .next (match s.core.mq with
    | [] => s
    | m :: r =>
      if m.started && !m.frozen && decide (m.cursor = m.total) && m.check.isNone then
        let s := { s with core := { s.core with mq := r, xflags := s.core.xflags ||| m.flags } }
        match m.pends, m.amax with
        | some d, some v => s.setX d v
        | _, _ => s
      else s)

end Sys2Proof.Machine
end

