-- ==== Sys2Proof/Machine/Vector.lean ====
section
/-! DEFINITION. The span and row engines at work: starting, replaying and completing vector commands (05 R108, R111, R112,
R131; 13 R334-R337). -/

namespace Sys2Proof.Machine

/-- Whether a command has done all its work. -/
def VCmd.finished (v : VCmd) : Bool :=
  decide (v.held = []) &&
    (if v.pends.isSome then v.result.isSome else if v.op = 0x58 then decide (v.cursor = rowCount v) else decide (v.cursor = v.total))

/-- One attempt of the command, a row or a span window of `m` elements. -/
def State.vectorAttempt (s : State) (v : VCmd) (m : Nat) : Attempt (State × VCmd) :=
  if v.op = 0x58 then s.rowAttempt v else s.spanAttempt v m

/-- Replace the command at the head of the vector command queue. -/
def State.setVHead (s : State) (v : VCmd) : State := { s with core := { s.core with vq := setAt s.core.vq 0 v } }

/-- The elements of a faulting granule in order, `step` at a time from element `j` on: those before the faulting element are each
written or not (05 R112), as a free value says; and the fault of the first that fails (log 52). -/
def State.partialWrites (s : State) (v : VCmd) (step : Nat) : Nat → Nat → State × Option (Attempt Granule)
  | 0, _ => (s, none)
  | n + 1, j =>
    match s.spanGranule v j step with
    | .ok g => match g.s.granuleWrite v g.out with
      | .ok (t, _) =>
        State.partialWrites (if Config.freeBits 1 s.tick (262144 + j) = 1 then t else s) { g.v with held := v.held } step n (j + step)
      | .viol x => (s, some (.viol x))
      | .pages x => (s, some (.pages x))
      | _ => (s, none)
    | .viol x => (s, some (.viol x))
    | .pages x => (s, some (.pages x))
    | _ => (s, none)

/-- What a violation leaves of a window of `m` elements, and the violation of its first faulting element. -/
def State.granuleRemains (s : State) (v : VCmd) (m : Nat) (a : Attempt (State × VCmd)) : State × Attempt (State × VCmd) :=
  if v.op = 0x58 ∨ v.op = 0x54 ∨ v.op = 0x45 then (s, a)
  else
    let step := if v.op = 0x44 ∧ v.fn ≠ 0 then 32 else 1
    match s.partialWrites v step (m / step) v.cursor with
    | (t, some (.viol x)) => (t, .viol x)
    | (t, some (.pages x)) => (t, .pages x)
    | (t, _) => (t, a)

/-- What a failed attempt leaves: a violation freezes the engine at its cursor; a containment event is kept for the replay,
and lasts when the word failed before or four words have (13 R336). -/
def State.vectorFail (s : State) (v : VCmd) (m : Nat) (a : Attempt (State × VCmd)) : State :=
  let strikes := s.core.strike
  let freeze (s : State) (cause x : Nat) (z : BitVec 8) : State :=
    let t := ((s.setVHead { v with started := true, frozen := true }).transients (strikes.filter (fun y => decide (y.1 ≠ x)))).engineAsk v.word v.addr cause x z
    { t with core := { t.core with strike := [], vdog := false } }
  match a with
  | .data x z =>
    if strikes.any (fun y => decide (y.1 = x)) ∨ 3 ≤ strikes.length then freeze s causeData x z
    else
      let t := s.setVHead { v with started := true }
      { t with core := { t.core with strike := (x, z) :: strikes } }
  | a =>
    let (t, a) := if a.faults then s.granuleRemains v m a else (s, a)
    match a with
    | .viol x => freeze t causeViol x 0
    | .pages x => freeze t causePages x 0
    | _ => t.setVHead { v with started := true }

/-- Run the command at the head of the queue: push what is held, pop what the window lacks, and when it is whole, or a stop ends it
with what it has, attempt it (05 R131). A replay that comes through makes its events transient ones. -/
def State.vectorRun (s : State) (v : VCmd) : State :=
  if v.finished then s.setVHead { v with started := true }
  else if v.held ≠ [] then let (s, v) := s.pushHeld v; s.setVHead { v with started := true }
  else
    let row := decide (v.op = 0x58)
    let drain := decide (v.op = 0x54) && decide (v.fn = 1)
    let (s, v) := if row || drain then (s, v) else s.gather { v with started := true }
    let s := s.setVHead { v with started := true }
    let m := if row || drain then 0 else v.ready
    if row || drain || decide (m = v.want) || (s.leaving && decide (m ≠ 0)) then
      match s.vectorAttempt v m with
      | .ok (t, v) =>
        let t := (t.setVHead { v with started := true }).transients s.core.strike
        { t with core := { t.core with strike := [], vdog := false } }
      | a => s.vectorFail v m a
    else s

/-- Whether the engine may take up the command at the head now: earlier matrix commands that read memory have completed (06
R151). -/
def Core.vectorMay (c : Core) (v : VCmd) : Bool :=
  !v.frozen && !(v.started && v.finished) && (v.started || c.mq.all (fun m => !m.readsMem || decide (v.seq < m.seq)))

/-- VECTOR_COMMAND_START (05 R108): the engine starts the next command, or goes on with it at its next granule. Once a leave is
accepted it only ends a window at a wait (05 R131). -/
def execVectorCommandStart (s : State) : Out :=
  .next (match s.core.vq with
    | [] => s
    | v :: _ => if s.core.vectorMay v && decide (s.core.strike = []) && (!s.leaving || s.core.windowEnds) then s.vectorRun v else s)

/-- VECTOR_COMMAND_COMPLETE (05 R111; 03 R71): flags reach FPFLAGS, and a scalar result its register. -/
def execVectorCommandComplete (s : State) : Out :=
  .next (match s.core.vq with
    | [] => s
    | v :: r =>
      if v.started && !v.frozen && v.finished then
        let s := { s with core := { s.core with vq := r, xflags := s.core.xflags ||| v.flags } }
        match v.pends, v.result with
        | some d, some x => s.setX d x
        | _, _ => s
      else s)

/-- WINDOW_REPLAY (13 R335, R336): an engine whose window met a contained word runs it again from its marker. -/
def execWindowReplay (engine : LaneEngine) (s : State) : Out :=
  .next (match engine with
    | .matrix => match s.core.mq with
      | [] => s
      | m :: _ => if s.core.matrixMay m && decide (s.core.mstrike ≠ []) && !s.leaving then s.matrixRun m else s
    | _ => match s.core.vq with
      | [] => s
      | v :: _ =>
        if s.core.vectorMay v && decide (s.core.strike ≠ []) && !s.leaving && decide ((engine = .row) ↔ (v.op = 0x58)) then s.vectorRun v
        else s)

end Sys2Proof.Machine
end

