-- ==== Sys2Proof/Machine/Sync.lean ====
section
/-! DEFINITION. Barriers, events, yielding and transfer, launch, exit and trap, identity and time, pauses and tag waits of the
X stream (10 R255-R261, R269-R279; 08 R212, R224). -/

namespace Sys2Proof.Machine

/-! ### Barriers (10 R275, R276; 01 R25) -/

/-- Whether a coded rectangle is an aligned sub-rectangle of a partition (01 R25). -/
def subRect (g part : Nat) : Bool :=
  rectOk g && (let (c, r, w, h) := rectOf g; inRect part (r * 64 + c) && inRect part ((r + h - 1) * 64 + c + w - 1))

/-- The number of members of a group. -/
def rectSize (g : Nat) : Nat := 2 ^ bits g 14 12 * 2 ^ bits g 17 15

/-- The key of a barrier with a descriptor. -/
def barKey (k : Nat) (d : Word) : Nat := k * 2 ^ 31 + d.toNat

/-- The descriptor installed in barrier `k` of a position. -/
def Ctx.barDesc (c : Ctx) (k pos : Nat) : Option Word := tget c.barAt (pos * 512 + k)

/-- A barrier's state; unlisted: nothing has arrived. -/
def Ctx.bar (c : Ctx) (k : Nat) (d : Word) : Barrier := (tget c.bars (barKey k d)).getD { arrived := 0, phase := 0, last := [] }

/-- Install a descriptor in every member core. -/
def Ctx.install (c : Ctx) (k : Nat) (d : Word) : Ctx :=
  { c with
    barAt := (rectCores d.toNat).foldl (fun t p => tset t (p * 512 + k) d) c.barAt
    bars := tset c.bars (barKey k d) { arrived := 0, phase := 0, last := [] } }

/-- BAR_INIT (10 R275). -/
def execBarInit (r : Xk) (s : State) : Out :=
  .next (s.xWord r.g r.gn [r.d.toNat] fun s =>
    let k := r.imm.toNat % 512
    let d := s.getX 0 r.d.toNat
    let g := bits d.toNat 17 0
    let n := bits d.toNat 30 18
    match s.here? with
    | none => .trap causeIll 0
    | some (slot, c) =>
      if 2 ^ 31 ≤ d.toNat ∨ !subRect g s.partition ∨ !inRect g s.core.pos ∨ n = 0 ∨ rectSize g < n then .trap causeIll 0
      else if (rectCores g).all (fun p => decide (c.barDesc k p = some d)) then .done s
      else if (rectCores g).any (fun p => (c.barDesc k p).any (fun e => decide (e ≠ d) && decide ((c.bar k e).arrived ≠ 0))) then .trap causeIll 0
      else .done (s.setCtx slot (c.install k d)))

/-- Whether the position's last arrival is in a phase not yet complete. -/
def Barrier.waits (b : Barrier) (pos : Nat) : Bool := decide (tget b.last pos = some b.phase)

/-- An arrival of a position at the current phase; the last of COUNT completes it. -/
def Barrier.arrive (b : Barrier) (n pos : Nat) : Barrier :=
  let l := tset b.last pos b.phase
  if b.arrived + 1 = n then { arrived := 0, phase := b.phase + 1, last := l } else { b with arrived := b.arrived + 1, last := l }

/-- The barrier state with an arrival of the core in focus. -/
def State.barArrive (s : State) (slot : Nat) (c : Ctx) (k : Nat) (d : Word) : State :=
  s.setCtx slot { c with bars := tset c.bars (barKey k d) ((c.bar k d).arrive (bits d.toNat 30 18) s.core.pos) }

/-- A barrier word: a barrier that is not installed is given no descriptor. -/
def xBarrier (r : Xk) (f : State → Nat → Ctx → Option (Word × Barrier) → WordEnd) (s : State) : State :=
  s.xWord r.g r.gn [] fun s =>
    match s.here? with
    | none => .trap causeIll 0
    | some (slot, c) => f s slot c ((c.barDesc (r.imm.toNat % 512) s.core.pos).map (fun d => (d, c.bar (r.imm.toNat % 512) d)))

/-- BAR_ARR (10 R276): the stream's earlier accesses are performed before the arrival (07 Table 07-8). -/
def execBarArr (r : Xk) (s : State) : Out :=
  .next (xBarrier r (fun s slot c b => match b with
    | none => .trap causeIll 0
    | some (d, b) => if b.waits s.core.pos then .wait s else s.xOrdered fun s => .done (s.barArrive slot c (r.imm.toNat % 512) d)) s)

/-- BAR_WAIT (10 R276). -/
def execBarWait (r : Xk) (s : State) : Out :=
  .next (xBarrier r (fun s _ _ b => match b with
    | none => .done s
    | some (_, b) => if b.waits s.core.pos then .wait s else .done s) s)

/-- BAR_SYNC (10 R276): an arrival that has taken effect is not repeated while the word waits. -/
def execBarSync (r : Xk) (s : State) : Out :=
  .next (xBarrier r (fun s slot c b =>
    let k := r.imm.toNat % 512
    match b with
    | none => .trap causeIll 0
    | some (d, b) =>
      let ended (s : State) : WordEnd := .done { s with core := { s.core with syncing := none } }
      if b.waits s.core.pos then .wait s
      else if s.core.syncing = some k then ended s
      else s.xOrdered fun s =>
        let t := s.barArrive slot c k d
        if (b.arrive (bits d.toNat 30 18) s.core.pos).waits s.core.pos then .wait { t with core := { t.core with syncing := some k } } else ended t) s)

/-! ### Events (10 R248, R259-R261) -/

/-- The context that a handle register names to an event word: x0 the issuing one; none when stale or no peer. -/
def State.eventTarget (s : State) (a : Nat) : Option Nat :=
  match s.here? with
  | none => none
  | some (k, c) =>
    if a = 0 then some k
    else match s.slotOf (s.getX 0 a).toNat with
      | none => none
      | some y => if (s.getX 0 a).toNat < 2 ^ 32 ∧ s.isPeer k c y then some y else none

/-- EV_SET (10 R260): every earlier access of the stream is performed before the bit is set. -/
def execEvSet (r : Xi) (s : State) : Out :=
  .next (s.xWord r.g r.gn [r.a.toNat] fun s =>
    match s.eventTarget r.a.toNat with
    | none => .trap causeViol 0
    | some y => s.xOrdered fun s => .done (s.setEvent y (r.imm.toNat % 256)))

/-- EV_CLR (10 R260). -/
def execEvClr (r : Xi) (s : State) : Out :=
  .next (s.xWord r.g r.gn [r.a.toNat] fun s =>
    match s.eventTarget r.a.toNat with
    | none => .trap causeViol 0
    | some y => match tget s.ctxs y with
      | none => .trap causeViol 0
      | some c => .done (s.setCtx y { c with events := c.events &&& ~~~(BitVec.twoPow 256 (r.imm.toNat % 256)) }))

/-- EV_WAIT (10 R261). -/
def execEvWait (r : Xi) (s : State) : Out :=
  .next (s.xWord r.g r.gn [r.a.toNat, r.d.toNat] fun s =>
    let w := (r.imm.extractLsb' 0 2).toNat
    let any := r.imm.getLsbD 2
    let mask := s.getX 0 r.a.toNat
    match s.here? with
    | none => .trap causeIll 0
    | some (k, c) =>
      if any ∧ mask = 0 then .trap causeIll 0
      else if waitSat c.events w any mask then .done (s.setCtx k { c with events := consume c.events w mask })
      else .leave (.wait w any mask (s.getX 1 r.d.toNat).toNat) 0 0)

/-! ### Yield and transfer (10 R269, R270) -/

/-- CTX_YIELD (10 R269). -/
def execCtxYield (r : Xr) (s : State) : Out := .next (s.xWord r.g r.gn [] fun _ => .leave .yield 0 0)

/-- CTX_XFER (10 R270): a status that refuses is written at once; a transfer is a leave request. -/
def execCtxXfer (r : Xr) (s : State) : Out :=
  .next (s.xWord r.g r.gn [r.a.toNat, 64 + r.d.toNat] fun s =>
    let h := (s.getX 0 r.a.toNat).toNat
    let answer (n : Nat) : WordEnd := .done (s.setX r.d.toNat (BitVec.ofNat 64 n))
    match s.here? with
    | none => answer 1
    | some (k, c) =>
      match (if h < 2 ^ 32 then s.slotOf h else none) with
      | none => answer 1
      | some y => match tget s.ctxs y with
        | none => answer 1
        | some cy =>
          if !s.isPeer k c y then answer 3
          else match cy.nextLaunch with
            | none => answer 2
            | some (_, q) =>
              if cy.state = .ready ∧ bits q.rect.toNat 17 12 = bits s.partition 17 12 then .leave (.xfer y r.d.toNat) (s.getX 0 r.a.toNat) 0 else answer 2)

/-! ### Launch, exit and trap (10 R255-R257) -/

/-- LAUNCH (10 R255): a record behind a pool link that is down is waited for (14 R356). -/
def execLaunch (r : Xr) (s : State) : Out :=
  .next (s.xWord r.g r.gn [r.a.toNat, 64 + r.d.toNat] fun s => s.xOrdered fun s => if s.quiesced then .wait s else
    match s.here? with
    | none => .trap causeIll 0
    | some (k, c) =>
      match s.armRecord (.launch k) (.virt c.tdom c.asid) (s.getX 0 r.a.toNat).toNat with
      | (t, .ok n) => .done (t.setX r.d.toNat (BitVec.ofNat 64 n))
      | (_, .pages v) => .trap causePages (BitVec.ofNat 64 v)
      | (_, .viol v) => .trap causeViol (BitVec.ofNat 64 v)
      | (_, .data v) => .trap causeData (BitVec.ofNat 64 v)
      | (_, .dev v) => .trap causeViol (BitVec.ofNat 64 v)
      | (_, .far _) => .wait s)

/-- EXIT (10 R256): the stream has exited once its results and its commands are complete. The last exit ends the launch. -/
def execExit (r : Xr) (s : State) : Out :=
  .next (
    let slot := s.core.ctx.getD 0
    let t := s.xWord r.g r.gn [] fun s =>
      if s.core.vq.isEmpty && s.core.mq.isEmpty then .done { s with core := { s.core.landAll with xexited := true } } else .wait s
    if t.core.xexited then t.checkEnd slot else t)

/-- TRAP (10 R257). -/
def execTrap (r : Xk) (s : State) : Out := .next (s.xWord r.g r.gn [] fun _ => .leave (.fault causeTrap) 0 r.imm)

/-- UDF (02 R44): an illegal-instruction trap. -/
def execUdf (_w : BitVec 64) (s : State) : Out := .next s.xIllegal

/-! ### Identity and time (10 R279) -/

/-- ID (10 R279). -/
def execId (r : Xr) (s : State) : Out :=
  .next (s.xWord r.g r.gn [64 + r.d.toNat] fun s =>
    let v := match r.m.toNat with
      | 0 => s.core.pos % 64
      | 1 => s.core.pos / 64
      | 2 => s.handleOf (s.core.ctx.getD 0)
      | 3 => s.partition
      | _ => dieOf s.core.pos
    .done (s.putX r.d.toNat (BitVec.ofNat 64 v) 0 0))

/-- TIME (10 R279): the bound is 4 cycles. -/
def execTime (r : Xr) (s : State) : Out :=
  .next (s.xWord r.g r.gn [64 + r.d.toNat] fun s =>
    .done (s.putX r.d.toNat (BitVec.ofNat 64 (if r.m = 0 then s.ptp else s.cycle)) 3 0))

/-! ### Pauses (08 R224, 07 R170) -/

/-- PAUSE (08 R224): the clocks advance by n ticks, and the stream issues no word for n cycles. -/
def execPause (r : Xk) (s : State) : Out :=
  .next (s.xWord r.g r.gn [] fun s =>
    let n := r.imm.toNat
    .done { s with core := { s.core with xclk := s.core.xclk.map (fun c => c + n), xhold := .paused (s.cycle + n), xcycle := s.core.xcycle + n } })

/-- PAUSE_EXPIRY (08 R224): the pause of one of the streams has run out. -/
def execPauseExpiry (aStream : Bool) (s : State) : Out :=
  .next (
    let up (h : Hold) : Hold := match h with
      | .paused n => if n ≤ s.cycle then .none else h
      | _ => h
    { s with core := if aStream then { s.core with ahold := up s.core.ahold } else { s.core with xhold := up s.core.xhold } })

/-! ### Tag waits of the X stream (08 R212, 12 R305) -/

/-- The KV page whose promotion from the pool a command of the core's tag `t` awaits (12 R305). -/
def State.tagPage (s : State) (t : Nat) : Option Nat :=
  s.cmds.findSome? (fun c =>
    if decide (some c.slot = s.core.ctx) && decide (c.pos = s.core.pos) && decide (c.tag = t) then c.fixups.findSome? (fun f => f.promote) else none)

/-- A tag wait: done when every tag of `ts` is; otherwise it waits, or leaves with cause PAGES (12 R305). -/
def State.tagWait (s : State) (ts : List Nat) (f : State → WordEnd) : WordEnd :=
  if ts.all (fun t => (s.own.tag t).done) then f s
  else match (ts.filter (fun t => !(s.own.tag t).done)).findSome? s.tagPage with
    | some k => .leave (.fault causePages) (BitVec.ofNat 64 k) 1
    | none => .wait s

/-- Tags of a mask, and the mask of those in error. -/
def maskTags (m : Word) : List Nat := (List.range 64).filter (fun i => m.getLsbD i)
def State.tagErrs (s : State) : Word :=
  (List.range 64).foldl (fun v i => if (s.own.tag i).err then v ||| BitVec.twoPow 64 i else v) 0

/-- TW (08 R212). -/
def execTw (r : Xk) (s : State) : Out :=
  .next (s.xWord r.g r.gn [64 + r.d.toNat] fun s =>
    let t := r.imm.toNat % 64
    s.tagWait [t] fun s => .done (s.setX r.d.toNat (if (s.own.tag t).err then 1 else 0)))

/-- TWA (08 R212). -/
def execTwa (r : Xk) (s : State) : Out :=
  .next (s.xWord r.g r.gn [r.d.toNat] fun s =>
    let m := s.getX 0 r.d.toNat
    s.tagWait (maskTags m) fun s => .done (s.setX r.d.toNat (s.tagErrs &&& m)))

/-! ### Results with a latency bound (04 R79, 03 R71) -/

/-- RESULT_LAND (04 R79): the result of an open window is written, and its flags reach FPFLAGS. Its register holds the value
from issue on, and reads of it are undefined until the window closes. -/
def execResultLand (slot : Nat) (s : State) : Out :=
  .next (match s.core.wins[slot]? with
    | none => s
    | some w => { s with core := { s.core with xflags := s.core.xflags ||| w.flags, wins := setAt s.core.wins slot { w with flags := 0 } } })

end Sys2Proof.Machine
end

