-- ==== Sys2Proof/Machine/Sys.lean ====
section
/-! DEFINITION. Supervisor words: system registers, saved frames, contexts, translation caches, withdrawn cores (12 R302,
R303, R310-R316). -/

namespace Sys2Proof.Machine

/-- The supervisor's tenancy domain, with its number. -/
def State.myDom (s : State) : Option (Nat × Dom) :=
  match s.here? with
  | none => none
  | some (_, c) => (s.dom c.tdom).map (fun d => (c.tdom, d))

/-! ### Saved frames (12 R313, Table 12-4; 01 R21) -/

/-- RSSTATE of a core (04 Table 04-11). -/
def Core.rsstate (c : Core) : Nat := c.spilled % 256 * 256 + c.rstack.length % 64

/-- Predicates p1-p64 and p65-p95 as the frame holds them. -/
def Core.predWord (c : Core) (tick base n : Nat) : Nat :=
  (List.range n).foldl (fun v i => if c.p.get (base + i) tick (4096 + base + i) = 1 then v + 2 ^ i else v) 0

/-- The words of the tiles and accumulators that a live mask keeps, by their place in the frame: tile or accumulator and
word number. -/
def liveWord (live : BitVec 20) (off : Nat) : Option (Nat × Nat) :=
  let units := ((List.range 16).filter (fun i => live.getLsbD i)).map (fun i => (i, 4096)) ++
    ((List.range 4).filter (fun i => live.getLsbD (16 + i))).map (fun i => (16 + i, 8192))
  (units.foldl (fun (x : Option (Nat × Nat) × Nat) u => match x.1 with
    | some _ => x
    | none => if x.2 < u.2 then (some (u.1, x.2), 0) else (none, x.2 - u.2)) ((none, off) : Option (Nat × Nat) × Nat)).1

/-- The bits of the lower half of a span register that are not reserved (05 Table 05-1). -/
def spanMask : Word := 0xFFFFFF8000000000

/-- The 8 bytes at an offset of a saved frame. The rest of the control part reads as the device's encoding, which the spec
does not give: a free value. -/
def frameGet (c : Core) (live : BitVec 20) (tick off : Nat) : Word :=
  let i := off / 8
  if off = 0 then c.xpc
  else if off = 8 then c.apc
  else if off = 0x10 then c.xflags.zeroExtend 64
  else if off = 0x18 then c.aflags.zeroExtend 64
  else if off = 0x20 then BitVec.ofNat 64 c.rsstate
  else if off < 0x1000 then Config.freeBits 64 tick (8192 + i)
  else if off < 0x11F8 then c.x.get (i - 0x200 + 1) tick (8192 + i)
  else if off < 0x12F0 then c.a.get (i - 0x23F + 1) tick (8192 + i)
  else if off = 0x12F0 then BitVec.ofNat 64 (c.predWord tick 1 64)
  else if off = 0x12F8 then BitVec.ofNat 64 (c.predWord tick 65 31)
  else if off = 0x1300 then BitVec.ofNat 64 ((List.range 16).foldl (fun v t => if c.tileFull t then v + 2 ^ t else v) 0)
  else if off < 0x1400 then Config.freeBits 64 tick (8192 + i)
  else if off < 0x2C00 then
    let w := c.sp.get ((off - 0x1400) / 16) tick (8192 + i)
    if off % 16 = 0 then w.extractLsb' 0 64 &&& spanMask else w.extractLsb' 64 64
  else match liveWord live (off - 0x2C00) with
    | none => 0
    | some (u, b) => if u < 16 then (c.tdata.word (u * 4096 + b)).v else (c.adata.word ((u - 16) * 8192 + b)).v

/-- Write the 8 bytes at an offset of a saved frame; the control part beyond 0x27 ignores writes. -/
def frameSet (c : Core) (live : BitVec 20) (tick off : Nat) (v : Word) : Core :=
  let i := off / 8
  if off = 0 then { c with xpc := v }
  else if off = 8 then { c with apc := v }
  else if off = 0x10 then { c with xflags := v.extractLsb' 0 5 }
  else if off = 0x18 then { c with aflags := v.extractLsb' 0 5 }
  else if off = 0x20 then
    let n := min 32 (v.extractLsb' 0 6).toNat
    let more := (List.range (n - c.rstack.length)).map (fun j => CWord.good (Config.freeBits 64 tick (12288 + j)))
    { c with spilled := (v.extractLsb' 8 8).toNat, rstack := (c.rstack ++ more).take n }
  else if off < 0x1000 then c
  else if off < 0x11F8 then { c with x := c.x.put (i - 0x200 + 1) v, xbad := tdel c.xbad (i - 0x200 + 1) }
  else if off < 0x12F0 then { c with a := c.a.put (i - 0x23F + 1) v }
  else if off = 0x12F0 then { c with p := (List.range 64).foldl (fun r j => r.put (1 + j) (BitVec.ofBool (v.getLsbD j))) c.p }
  else if off = 0x12F8 then { c with p := (List.range 31).foldl (fun r j => r.put (65 + j) (BitVec.ofBool (v.getLsbD j))) c.p }
  else if off = 0x1300 then { c with tfull := ((List.range 16).filter (fun t => v.getLsbD t)).map (fun t => (t, .full)) }
  else if off < 0x1400 then c
  else if off < 0x2C00 then
    let j := (off - 0x1400) / 16
    let w := c.sp.get j tick (8192 + i)
    { c with sp := c.sp.put j (if off % 16 = 0 then w.extractLsb' 64 64 ++ (v &&& spanMask) else v ++ w.extractLsb' 0 64) }
  else match liveWord live (off - 0x2C00) with
    | none => c
    | some (u, b) =>
      if u < 16 then { c with tdata := c.tdata.setWord (u * 4096 + b) (CWord.good v) }
      else { c with adata := c.adata.setWord ((u - 16) * 8192 + b) (CWord.good v) }

/-- What an FDATA access reaches: the slot, the launch, the position and its frame, or the FSTAT that refuses it. -/
def State.frameTarget (s : State) (dn : Nat) (d : Dom) : Except Nat (Nat × Ctx × Launch × Nat × Core) :=
  match s.slotOf d.tgt.toNat with
  | none => .error 1
  | some y => match tget s.ctxs y with
    | none => .error 1
    | some c =>
      if c.tdom ≠ dn then .error 3
      else if c.state = .running then .error 2
      else match c.launch with
        | none => .error 4
        | some l =>
          let pos := (d.tgtcore.extractLsb' 8 6).toNat * 64 + (d.tgtcore.extractLsb' 0 6).toNat
          match tget l.frames pos with
          | none => .error 4
          | some k => if frameBytes l.record.live < d.foff + 8 then .error 4 else .ok (y, c, l, pos, k)

/-- FOFF after an access. -/
def nextFoff (n : Nat) : Nat := (n + 8) % 2 ^ 17

/-! ### System registers (12 R311, R312, Table 12-3) -/

/-- The value of a system register; none is not in the table. -/
def State.sysGet (s : State) (n : Nat) : Option Nat :=
  match s.myDom with
  | none => none
  | some (dn, d) => match n with
    | 0x000 => some s.core.xflags.toNat
    | 0x001 => some s.core.aflags.toNat
    | 0x002 => some s.core.spillbase.toNat
    | 0x003 => some s.core.rsstate
    | 0x010 => some d.tgt.toNat
    | 0x011 => some d.tgtcore.toNat
    | 0x012 => some d.foff
    | 0x014 => some d.fstat
    | 0x015 => some 0
    | 0x020 => some d.kvfree
    | 0x021 => some d.asidtab
    | 0x022 => some (dn * 16 + d.dies.toNat)
    | 0x023 => some s.pkg
    | _ => none

/-- Every core of the partition holds the same SPILLBASE (04 R99). -/
def State.setSpillbase (s : State) (v : BitVec 32) : State :=
  { s with
    core := { s.core with spillbase := v }
    cores := s.cores.map (fun c => if s.core.ctx.isSome ∧ c.2.ctx = s.core.ctx then (c.1, { c.2 with spillbase := v }) else c) }

/-- Write a system register: RO registers ignore it, reserved bits stay zero. -/
def State.sysSet (s : State) (n : Nat) (v : Word) : State :=
  match s.myDom with
  | none => s
  | some (dn, d) => match n with
    | 0x000 => { s with core := { s.core with xflags := v.extractLsb' 0 5 } }
    | 0x001 => { s with core := { s.core with aflags := v.extractLsb' 0 5 } }
    | 0x002 => s.setSpillbase (v.extractLsb' 0 32 &&& spillMask)
    | 0x010 => s.setDom dn { d with tgt := v.extractLsb' 0 32 }
    | 0x011 => s.setDom dn { d with tgtcore := v.extractLsb' 0 14 &&& 0x3F3F#14 }
    | 0x012 => s.setDom dn { d with foff := v.toNat % 2 ^ 17 / 8 * 8 }
    | 0x020 => s.setDom dn { d with kvfree := v.toNat % 2 ^ 52 / 8 * 8 }
    | 0x021 => s.setDom dn { d with asidtab := v.toNat % 2 ^ 52 / 2 ^ 19 * 2 ^ 19 }
    | _ => s

/-- SYS_RD (12 R311). A number that is not in the table traps when the word executes, after its mode and its guard (log 55). -/
def execSysRd (r : Xk) (s : State) : Out :=
  .next (s.xPriv r.g r.gn [64 + r.d.toNat] fun s => match s.sysGet (r.imm.toNat % 65536) with
    | none => .trap causeIll 0
    | some v => .done (s.setX r.d.toNat (BitVec.ofNat 64 v)))

/-- SYS_WR (12 R311). -/
def execSysWr (r : Xk) (s : State) : Out :=
  .next (s.xPriv r.g r.gn [r.d.toNat] fun s => match s.sysGet (r.imm.toNat % 65536) with
    | none => .trap causeIll 0
    | some _ => .done (s.sysSet (r.imm.toNat % 65536) (s.getX 0 r.d.toNat)))

/-- FDATA_READ (12 R313). -/
def execFdataRead (r : Xk) (s : State) : Out :=
  .next (s.xPriv r.g r.gn [64 + r.d.toNat] fun s => match s.myDom with
    | none => .trap causeIll 0
    | some (dn, d) =>
      let go (st : Nat) (v : Word) : WordEnd := .done ((s.setDom dn { d with fstat := st, foff := nextFoff d.foff }).setX r.d.toNat v)
      match s.frameTarget dn d with
      | .error e => go e 0
      | .ok (_, _, l, _, k) => go 0 (frameGet k l.record.live s.tick d.foff))

/-- FDATA_WRITE (12 R313): a write takes effect at the next restore. -/
def execFdataWrite (r : Xk) (s : State) : Out :=
  .next (s.xPriv r.g r.gn [r.d.toNat] fun s => match s.myDom with
    | none => .trap causeIll 0
    | some (dn, d) =>
      let go (st : Nat) (s : State) : WordEnd := .done (s.setDom dn { d with fstat := st, foff := nextFoff d.foff })
      match s.frameTarget dn d with
      | .error e => go e s
      | .ok (y, c, l, pos, k) =>
        let k := frameSet k l.record.live s.tick d.foff (s.getX 0 r.d.toNat)
        go 0 (s.setCtx y { c with launch := some { l with frames := tset l.frames pos k } }))

/-- EVMSG (12 R312). -/
def execEvmsg (r : Xk) (s : State) : Out :=
  .next (s.xPriv r.g r.gn [r.d.toNat] fun s => s.xOrdered fun s => match s.myDom with
    | none => .trap causeIll 0
    | some (dn, d) =>
      match s.slotOf d.tgt.toNat with
      | none => .done (s.setDom dn { d with fstat := 1 })
      | some y =>
        if (tget s.ctxs y).any (fun c => decide (c.tdom = dn)) then .done ((s.setDom dn { d with fstat := 0 }).setEvent y 228)
        else .done (s.setDom dn { d with fstat := 3 }))

/-! ### Creating and destroying contexts (12 R314, 01 R27) -/

/-- The free slot with the lowest index. -/
def State.freeSlot (s : State) : Option Nat := (from' 1 16383).find? (fun i => (tget s.ctxs i).isNone)

/-- The next generation count of a slot. -/
def nextInstar (n : Nat) : Nat := if n = 262143 then 1 else n + 1

/-- A context at creation. -/
def Ctx.new (asid tdom : Nat) (super span : Bool) (cb : Nat) (now order : Nat) : Ctx where
  state := .parked
  asid := asid
  span := span
  tdom := tdom
  super := super
  cb := cb
  events := 0
  evWait := none
  timer := none
  launch := none
  nodes := []
  barAt := []
  bars := []
  asks := []
  leave := none
  parkCause := 0
  parkPassed := false
  parkedAt := now
  woken := now
  readied := now
  order := order
  pbudget := 0
  pagesOf := none

/-- Create a context with its control block at a physical address: fields that the device maintains take their reset values,
those that the supervisor has prepared stay (10 Table 10-3). -/
def State.ctxNew (s : State) (tdom : Nat) (super : Bool) (pa : Nat) : State × Nat :=
  match s.freeSlot with
  | none => (s, 0)
  | some i =>
    let n := nextInstar ((tget s.instars i).getD 0)
    let h := n * 2 ^ 14 + i
    let w (o : Nat) : Nat := ((s.mem.word (pa + o)).use.getD (Config.freeBits 64 s.tick (2 ^ 33 + o))).toNat
    let word0 := bits (w 0) 50 50 * 2 ^ 50 + (if super then 2 ^ 51 else 0) + tdom * 2 ^ 48 + bits (w 0) 47 32 * 2 ^ 32 + h
    let kept := [word0, bits (w 8) 11 0, bits (w 0x10) 31 0, bits (w 0x18) 4 0]
    let s := s.physPut pa (((kept ++ List.replicate 28 0).map (fun v => CWord.good (BitVec.ofNat 64 v))))
    ({ s with
       instars := tset s.instars i n
       ctxs := tset s.ctxs i (Ctx.new (bits word0 47 32) tdom super (w 0 |>.testBit 50) pa s.ptp s.orders) }, h)

/-- CTX_NEW (12 R314). -/
def execCtxNew (r : Xr) (s : State) : Out :=
  .next (s.xPriv r.g r.gn [r.a.toNat, 64 + r.d.toNat] fun s => match s.myDom with
    | none => .trap causeIll 0
    | some (dn, _) =>
      let va := s.getX 0 r.a.toNat
      if va.toNat % 256 ≠ 0 then .trap causeIll 0
      else match s.translate s.who needRW va.toNat with
        | (_, .fault) => .trap causePages va
        | (_, .viol x) => .trap causeViol (BitVec.ofNat 64 x)
        | (_, .data x) => .trap causeData (BitVec.ofNat 64 x)
        | (t, .ok pa _) =>
          if t.inDomHbm dn pa then
            let (t, h) := t.ctxNew dn false pa
            .done (t.setX r.d.toNat (BitVec.ofNat 64 h))
          else .trap causeViol va)

/-- Store-tier pages of a context's banks go to free frames, or keep undefined contents when there is none. -/
def State.evacuate (s : State) (slot : Nat) : State :=
  let mine := (s.homes.filter (fun h => decide (h.2.slot = slot))).map (fun h => h.1)
  mine.foldl (fun s k =>
    let e := s.dirEntry k
    let s := if eTier e = 0 then
        match (s.pageDom e).bind (fun d => least (s.freeFrames d frameHbm)) with
        | none => s
        | some f => (s.kvCopy k 0 (eLoc e) 1 f).setDir k (placedIn e 1 f)
      else s
    { s.dropHome k with moves := s.moves.filter (fun m => decide (m.kvpn ≠ k)), moveQueue := s.moveQueue.filter (fun m => decide (m.kvpn ≠ k)) }) s

/-- Destroy a context that is off its cores. -/
def State.ctxDel (s : State) (y : Nat) : State :=
  let s := s.evacuate y
  { s with
    ctxs := tdel s.ctxs y
    stores := s.stores.filter (fun t => decide (t.1 / 4096 ≠ y))
    bound := s.bound.filter (fun t => decide (t.1 / 4096 ≠ y))
    groups := s.groups.filter (fun g => decide (g.slot ≠ y))
    ramos := s.ramos.filter (fun g => decide (g.slot ≠ y)) }

/-- A word that names a context of the supervisor's domain by its handle: `f` answers for one that is there. -/
def State.named (s : State) (a d : Nat) (f : State → Nat → Ctx → State × Nat) : WordEnd :=
  let answer (s : State) (n : Nat) : WordEnd := .done (s.setX d (BitVec.ofNat 64 n))
  let h := (s.getX 0 a).toNat
  match (if h < 2 ^ 32 then s.slotOf h else none) with
  | none => answer s 1
  | some y => match tget s.ctxs y with
    | none => answer s 1
    | some c => if s.myDom.any (fun d => decide (d.1 = c.tdom)) then let (t, n) := f s y c; answer t n else answer s 3

/-- CTX_DEL (12 R314). -/
def execCtxDel (r : Xr) (s : State) : Out :=
  .next (s.xPriv r.g r.gn [r.a.toNat, 64 + r.d.toNat] fun s => s.named r.a.toNat r.d.toNat fun s y c =>
    if c.state = .running then (s, 2)
    else if s.cmds.any (fun k => decide (k.slot = y)) then (s, 4)
    else (s.ctxDel y, 0))

/-! ### Settling a parked context (12 R315) -/

/-- Change every frame of a context's launch. -/
def State.mapFrames (s : State) (y : Nat) (f : Nat → Core → Core) : State :=
  match tget s.ctxs y with
  | none => s
  | some c => s.setCtx y { c with launch := c.launch.map (fun (l : Launch) => { l with frames := l.frames.map (fun k => (k.1, f k.1 k.2)) }) }

/-- A frozen asynchronous command completes with ERR. -/
def EngCmd.fail (c : EngCmd) : EngCmd := { c with err := true, frozen := none, segs := [], fixups := [] }

/-- The frozen asynchronous commands of a context: they go on, or complete with ERR. -/
def State.settleCmds (s : State) (y : Nat) (fail : Bool) : State :=
  { s with cmds := s.cmds.map (fun (c : EngCmd) =>
    if c.slot = y ∧ c.frozen.isSome then (if fail then c.fail else { c with frozen := none }) else c) }

/-- The recorded word counts as executed with no effect: a word on which the stream stopped is passed by; one that it has passed already
is removed from its engine when it is frozen there, and PC is unchanged (12 R315). -/
def State.skipWord (s : State) (y : Nat) (c : Ctx) : State :=
  let rec_ := (s.cbWord c 0x20).toNat
  let word := s.cbWord c 0x28
  let addr := s.cbWord c 0x30
  let pos := bits rec_ 23 18 * 64 + bits rec_ 17 12
  s.mapFrames y (fun p k =>
    if p ≠ pos then k
    else if !c.parkPassed then (if rec_.testBit 11 then { k with apc := k.apc + 4 } else { k with xpc := k.xpc + 8 })
    else if k.vq.head?.any (fun v => v.frozen && decide (v.word = word) && decide (v.addr = addr)) then { k with vq := k.vq.drop 1, strike := [], vdog := false }
    else if k.mq.head?.any (fun v => v.frozen && decide (v.word = word) && decide (v.addr = addr)) then { k with mq := k.mq.drop 1, mstrike := [], mdog := false }
    else k)

/-- The context goes on: CAUSE is 0, and it is ready when it has something to run. -/
def State.resume (s : State) (y : Nat) : State :=
  match tget s.ctxs y with
  | none => s
  | some c =>
    let s := (s.setCbBits c 0x20 3 0 0).setCtx y { c with parkCause := 0, pagesOf := none }
    if c.nextLaunch.isSome then s.makeReady y else s

/-- Settle a context under an action: 0 retry, 1 skip, 2 end. -/
def State.settle (s : State) (y : Nat) (c : Ctx) (act : Nat) : State :=
  match act with
  | 0 => ((s.mapFrames y (fun _ k => k.thaw)).settleCmds y false).resume y
  | 1 => (((s.skipWord y c).mapFrames y (fun _ k => k.thaw)).settleCmds y true).resume y
  | _ =>
    let s := s.setCbBits c 0x20 3 0 0
    if c.launch.isSome then (s.settleCmds y true).endLaunch y false else (s.settleCmds y true).resume y

/-- CTX_SEV (12 R314, R315). -/
def execCtxSev (r : Xr) (s : State) : Out :=
  .next (s.xPriv r.g r.gn [r.a.toNat, r.b.toNat, 64 + r.d.toNat] fun s =>
    let act := (s.getX 1 r.b.toNat).toNat
    if 2 < act then .trap causeIll 0
    else s.named r.a.toNat r.d.toNat fun s y c =>
      if c.state ≠ .running ∧ 1 ≤ c.parkCause ∧ c.parkCause ≤ 10 then (s.settle y c act, 0) else (s, 2))

/-! ### Translation caches (12 R302, R303) -/

/-- Drop the translations of the domain that meet a condition. -/
def State.tlbDrop (s : State) (f : Tlb → Bool) : State :=
  { s with tlb := s.tlb.map (fun k => (k.1, k.2.filter (fun t => !(decide (t.dom = s.who.dom) && f t)))) }

/-- The address of an access that a stream waits for. -/
def Hold.va (h : Hold) : Option Nat :=
  match h with
  | .access g => some g.va.toNat
  | _ => Option.none

/-- The accesses of a domain that were translated and are not yet performed, by address space: those that streams wait for, remote
atomics, and rows of near-bank commands, which are listed without an address. -/
def State.translated (s : State) (d : Nat) : List (Nat × Option Nat) :=
  let asidOf (slot : Nat) : Option Nat := (tget s.ctxs slot).bind (fun c => if c.tdom = d then some c.asid else none)
  let ofCore (c : Core) : List (Nat × Option Nat) := match c.ctx.bind asidOf with
    | none => []
    | some a => ([c.xhold.va, c.ahold.va].filterMap id).map (fun v => (a, some v))
  ofCore s.core ++ s.cores.flatMap (fun c => ofCore c.2) ++
    s.ramos.filterMap (fun r => (asidOf r.slot).map (fun a => (a, some r.va.toNat))) ++
    s.cmds.filterMap (fun c => if c.items = 0 then none else (asidOf c.slot).map (fun a => (a, none)))

/-- Whether an access under way was translated with an entry that is to be removed. -/
def State.tlbInUse (s : State) (f : Tlb → Bool) : Bool :=
  let d := s.who.dom
  let gone := (s.tlb.flatMap (fun k => k.2)).filter (fun t => decide (t.dom = d) && f t)
  (s.translated d).any (fun x => gone.any (fun t => match x.2 with
    | some v => t.covers d x.1 v
    | none => decide (t.asid = x.1)))

/-- Remove translations once the stream's earlier accesses are performed and no access under way uses them (12 R303). -/
def State.tlbRemove (s : State) (f : Tlb → Bool) : WordEnd :=
  s.xOrdered fun s => if s.tlbInUse f then .wait s else .done (s.tlbDrop f)

/-- TLB_INV (12 R303). -/
def execTlbInv (r : Xr) (s : State) : Out :=
  .next (s.xPriv r.g r.gn [r.a.toNat, r.b.toNat] fun s =>
    let va := (s.getX 0 r.a.toNat).toNat
    let asid := (s.getX 1 r.b.toNat).toNat
    if 65536 ≤ asid then .trap causeIll 0
    else s.tlbRemove (fun t => t.covers t.dom asid va))

/-- TLB_ASID (12 R303). -/
def execTlbAsid (r : Xr) (s : State) : Out :=
  .next (s.xPriv r.g r.gn [r.b.toNat] fun s =>
    let asid := (s.getX 1 r.b.toNat).toNat
    if 65536 ≤ asid then .trap causeIll 0 else s.tlbRemove (fun t => decide (t.asid = asid)))

/-- TLB_ALL (12 R303). -/
def execTlbAll (r : Xr) (s : State) : Out := .next (s.xPriv r.g r.gn [] fun s => s.tlbRemove (fun _ => true))

/-! ### Withdrawn cores (12 R316) -/

/-- A word that names a physical core by x[A]. -/
def xCore (r : Xr) (f : State → Nat → State) (s : State) : State :=
  s.xPriv r.g r.gn [r.a.toNat, 64 + r.d.toNat] fun s =>
    let v := s.getX 0 r.a.toNat
    if v &&& ~~~0x3F3F#64 ≠ 0 then .trap causeIll 0
    else
      let i := bits v.toNat 13 8 * 64 + bits v.toNat 5 0
      if s.domHasDie s.who.dom (dieOf i) then .done ((f s i).setX r.d.toNat 0) else .done (s.setX r.d.toNat 1)

/-- CORE_OUT (12 R316): a context that runs on the core is asked to leave. -/
def execCoreOut (r : Xr) (s : State) : Out :=
  .next (xCore r (fun s i =>
    let s := { s with withdrawn := if s.withdrawn.contains i then s.withdrawn else i :: s.withdrawn }
    match (s.coreAt i).ctx with
    | some k => s.askPreempt k false
    | none => s) s)

/-- CORE_IN (12 R316). -/
def execCoreIn (r : Xr) (s : State) : Out := .next (xCore r (fun s i => { s with withdrawn := s.withdrawn.filter (fun j => decide (j ≠ i)) }) s)

end Sys2Proof.Machine
end

