-- ==== Sys2Proof/Machine/AArith.lean ====
section
/-! DEFINITION. The A stream: arithmetic, branches, the nest sequencer, tag words, fences, pauses and prefetch (08
R183-R191, R211, R223, R224; 07 R179). -/

namespace Sys2Proof.Machine

/-! ### Arithmetic (08 R185, R186) -/

/-- A word that sets a[D] from a[A] and a[B]. -/
def aAlu (f : Word → Word → Word) (r : Ar) (s : State) : State :=
  s.aWord r.l r.f [r.a.toNat, r.b.toNat, r.d.toNat] false fun s =>
    .done (s.setA r.d.toNat (f (s.getA 0 r.a.toNat) (s.getA 1 r.b.toNat)))

/-- The shift amount b[5:0]. -/
def low6 (b : Word) : Nat := b.toNat % 64

/-- A_ADD (08 R185). -/
def execAAdd (r : Ar) (s : State) : Out := .next (aAlu (fun a b => a + b) r s)

/-- A_SUB (08 R185). -/
def execASub (r : Ar) (s : State) : Out := .next (aAlu (fun a b => a - b) r s)

/-- A_AND (08 R185). -/
def execAAnd (r : Ar) (s : State) : Out := .next (aAlu (fun a b => a &&& b) r s)

/-- A_OR (08 R185). -/
def execAOr (r : Ar) (s : State) : Out := .next (aAlu (fun a b => a ||| b) r s)

/-- A_XOR (08 R185). -/
def execAXor (r : Ar) (s : State) : Out := .next (aAlu (fun a b => a ^^^ b) r s)

/-- A_SLL (08 R185). -/
def execASll (r : Ar) (s : State) : Out := .next (aAlu (fun a b => a <<< low6 b) r s)

/-- A_SRL (08 R185). -/
def execASrl (r : Ar) (s : State) : Out := .next (aAlu (fun a b => a >>> low6 b) r s)

/-- A_SRA (08 R185). -/
def execASra (r : Ar) (s : State) : Out := .next (aAlu (fun a b => a.sshiftRight (low6 b)) r s)

/-- A_MUL (08 R185): the low 64 bits of the product. -/
def execAMul (r : Ar) (s : State) : Out := .next (aAlu (fun a b => a * b) r s)

/-- A_MIN (08 R185). -/
def execAMin (r : Ar) (s : State) : Out := .next (aAlu (fun a b => if a.toInt ≤ b.toInt then a else b) r s)

/-- A_MAX (08 R185). -/
def execAMax (r : Ar) (s : State) : Out := .next (aAlu (fun a b => if a.toInt ≤ b.toInt then b else a) r s)

/-- A_MINU (08 R185). -/
def execAMinu (r : Ar) (s : State) : Out := .next (aAlu (fun a b => if a.toNat ≤ b.toNat then a else b) r s)

/-- A_MAXU (08 R185). -/
def execAMaxu (r : Ar) (s : State) : Out := .next (aAlu (fun a b => if a.toNat ≤ b.toNat then b else a) r s)

/-- A word that sets a[D] from a[A] and its immediate. -/
def aImm (f : Word → BitVec 14 → Word) (r : Ai) (s : State) : State :=
  s.aWord r.l r.f [r.a.toNat, r.d.toNat] false fun s => .done (s.setA r.d.toNat (f (s.getA 0 r.a.toNat) r.imm))

/-- A_ADDI (08 R186). -/
def execAAddi (r : Ai) (s : State) : Out := .next (aImm (fun a i => a + i.signExtend 64) r s)

/-- A_ADDHI (08 R186). -/
def execAAddhi (r : Ai) (s : State) : Out := .next (aImm (fun a i => a + i.signExtend 64 <<< 14) r s)

/-- A_SLLI (08 R186): IMM[5:0] is the amount. -/
def execASlli (r : Ai) (s : State) : Out := .next (aImm (fun a i => a <<< (i.toNat % 64)) r s)

/-- A_ANDI (08 R186). -/
def execAAndi (r : Ai) (s : State) : Out := .next (aImm (fun a i => a &&& i.signExtend 64) r s)

/-! ### Branches and exit (08 R187, 10 R256) -/

/-- The target PC + 4 × OFF. -/
def State.aTarget (s : State) (r : Ab) : Word := s.core.apc + r.off.signExtend 64 <<< 2

/-- A branch on a[A]. -/
def aBranch (taken : Word → Bool) (r : Ab) (s : State) : State :=
  s.aWord false false [r.a.toNat] false fun s =>
    if taken (s.getA 0 r.a.toNat) then .jump s (s.aTarget r) else .done s

/-- B (08 R187). -/
def execB (r : Ab) (s : State) : Out := .next (aBranch (fun _ => true) r s)

/-- BZ (08 R187). -/
def execBz (r : Ab) (s : State) : Out := .next (aBranch (fun a => decide (a = 0)) r s)

/-- BNZ (08 R187). -/
def execBnz (r : Ab) (s : State) : Out := .next (aBranch (fun a => decide (a ≠ 0)) r s)

/-- The identity of the launch under way for the commands it pushes: the time of its start. -/
def State.launchId (s : State) : Nat :=
  match s.here? with
  | some (_, c) => (c.launch.map (fun l => l.started)).getD 0
  | none => 0

/-- Whether a command or remote atomic of this stream has not completed. -/
def State.aBusy (s : State) : Bool :=
  s.core.amos ≠ [] ||
    s.cmds.any (fun c => decide (some c.slot = s.core.ctx) && decide (c.pos = s.core.pos) && decide (c.launch = s.launchId)) ||
    s.ramos.any (fun m => decide (some m.slot = s.core.ctx) && decide (m.pos = s.core.pos))

/-- A_EXIT (08 R187, 10 R256): the last exit of the partition ends the launch. -/
def execAExit (_r : Ab) (s : State) : Out :=
  .next (
    let slot := s.core.ctx.getD 0
    let t := s.aWord false false [] true fun s =>
      if s.aBusy then .wait s else .done { s with core := { s.core with aexited := true } }
    if t.core.aexited then t.checkEnd slot else t)

/-! ### The nest sequencer (08 R188-R191) -/

/-- Whether `nest` of level `l` with a body that ends at `stop` is illegal where the stream stands. -/
def Core.nestBad (c : Core) (l : Nat) (stop : Word) : Bool :=
  (tget c.levels l).isSome ||
    c.levels.any (fun v => decide (v.2.start.toNat ≤ c.apc.toNat) && decide (c.apc.toNat ≤ v.2.stop.toNat) &&
      (decide (v.1 ≤ l) || decide (v.2.stop.toNat < stop.toNat)))

/-- NEST (08 R188). A count of zero passes the body by, as if its last word had completed; that word's binds wait for their registers
(08 R183). -/
def execNest (r : An) (s : State) : Out :=
  .next (s.aWord false false [r.a.toNat] false fun s =>
    let l := r.d.toNat
    let stop := s.core.apc + BitVec.ofNat 64 (4 * r.k.toNat)
    let n := (s.getA 0 r.a.toNat).toNat % 2 ^ 32
    if s.core.nestBad l stop then .trap causeIll 0
    else if n = 0 then
      (if (s.core.endBindsAt stop).any s.pendingA then .wait s else .done { s with core := { s.core with apc := stop, adoubt := false } })
    else .done { s with core := { s.core with levels := tset s.core.levels l { start := s.core.apc + 4, stop := stop, idx := 0, count := n } } })

/-- BIND (08 R189): at most four pairs stand at a level. -/
def execBind (v : BitVec 3) (r : Ar) (s : State) : Out :=
  .next (s.aWord false false [r.a.toNat] false fun s =>
    let l := v.toNat
    let d := r.d.toNat
    let mine := s.core.binds.filter (fun b => decide (b.level = l) && decide (b.d ≠ d))
    let others := s.core.binds.filter (fun b => !(decide (b.level = l) && decide (b.d = d)))
    if d = 0 then .trap causeIll 0
    else if r.a = 0 then .done { s with core := { s.core with binds := others } }
    else if 4 ≤ mine.length then .trap causeIll 0
    else .done { s with core := { s.core with binds := others ++ [{ level := l, d := d, inc := s.getA 0 r.a.toNat }] } })

/-! ### Tag words (08 R211, 12 R305) -/

/-- A_TW (08 R211). -/
def execATw (r : An) (s : State) : Out :=
  .next (s.aWord r.l r.f [] false fun s => s.tagWait [r.k.toNat % 64] fun s => .done s)

/-- A_TWA (08 R211). -/
def execATwa (r : An) (s : State) : Out :=
  .next (s.aWord r.l r.f [r.a.toNat, r.d.toNat] false fun s =>
    let m := s.getA 0 r.a.toNat
    s.tagWait (maskTags m) fun s => .done (s.setA r.d.toNat (s.tagErrs &&& m)))

/-- A_TCLR (08 R211). -/
def execATclr (r : An) (s : State) : Out :=
  .next (s.aWord r.l r.f [] true fun s =>
    let t := r.k.toNat % 64
    if (s.own.tag t).pend ≠ 0 then .wait s
    else .done (s.setOwn (s.own.setTag t { pend := 0, done := true, err := false })))

/-! ### Fence, prefetch, pause, illegal words -/

/-- A_FENCE (07 R179): every earlier access of the stream is performed by then, remote atomics among them. -/
def execAFence (r : An) (s : State) : Out :=
  .next (s.aWord r.l r.f [] true fun s =>
    if s.ramos.any (fun m => decide (some m.slot = s.core.ctx) && decide (m.pos = s.core.pos)) then .wait s else .done s)

/-- PF (08 R223): it has no architectural effect and holds no issue. -/
def execPf (r : Am) (s : State) : Out := .next (s.aWord r.l r.f [] false fun s => .done s)

/-- A_PAUSE (08 R224, 07 R170). -/
def execAPause (r : Ai) (s : State) : Out :=
  .next (s.aWord r.l r.f [] false fun s =>
    let n := r.imm.toNat
    .done { s with core := { s.core with aclk := s.core.aclk.map (fun c => c + n), ahold := .paused (s.cycle + n) } })

/-- A_UDF (02 R44, R46). -/
def execAUdf (_u : BitVec 26) (s : State) : Out := .next s.aIllegal

/-- A_UDF_3F (02 R44, R46). -/
def execAUdf3f (_u : BitVec 26) (s : State) : Out := .next s.aIllegal

end Sys2Proof.Machine
end

