-- ==== Sys2Proof/Machine/AMem.lean ====
section
/-! DEFINITION. Memory words and atomics of the A stream, and what completes them (08 R192-R198, R218-R220; 14 R356, R357). -/

namespace Sys2Proof.Machine

/-! ### Endings of an access -/

/-- What an A-stream access comes to: `ok` with what it read; a device register under `dev`, for a supervisor's own domain;
an access that leaves the package, or waits for a pool link, holds issue until its answer. -/
def State.aGot {α : Type} (r : State × Got α) (va size : Nat) (kind : State → GlobalKind) (dev : State → Nat → WordEnd)
    (ok : State → α → WordEnd) : WordEnd :=
  match r with
  | (t, .ok v) => ok t v
  | (_, .pages v) => .trap causePages (BitVec.ofNat 64 v)
  | (_, .viol v) => .trap causeViol (BitVec.ofNat 64 v)
  | (_, .data v) => .trap causeData (BitVec.ofNat 64 v)
  | (t, .dev pa) => if t.devOk pa then dev t (devOffset pa) else .trap causeViol (BitVec.ofNat 64 va)
  | (t, .far pa) =>
    .wait { t with core := { t.core with ahold := .access { kind := kind t, va := BitVec.ofNat 64 va, pa := pa, size := size } } }

/-- Words with valid codes from bytes, eight to a word; fewer than eight are zero-extended. -/
def packWords (bs : List Byte) : List CWord :=
  (List.range ((bs.length + 7) / 8)).map (fun i => CWord.good (BitVec.ofNat 64 (ofBytes ((bs.drop (8 * i)).take 8))))

/-- The values of check words, byte by byte, as a device register takes them. -/
def wordBytes (ws : List CWord) : List Byte := ws.flatMap (fun w => toBytes 8 w.v.toNat)

/-! ### Loads that commit later (08 R193, R194, R196) -/

/-- Issue an `ldq` or `ldt` whose data has landed in reserved places: the state at issue is what its abandonment restores. -/
def State.pend (s : State) (dest : LoadDest) : State :=
  { s with core := { s.core with loads := s.core.loads ++ [{ dest := dest, pc := s.core.apc, a := s.core.a, nest := s.core.levels, binds := s.core.binds }] } }

/-- Whether a tile is empty and not reserved. -/
def Core.tileFree (c : Core) (t : Nat) : Bool := decide ((tget c.tfull t).getD .empty = .empty)

/-- Issue an `ldt`: the tile is reserved. -/
def State.pendTile (s : State) (t : Nat) (ws : List CWord) : State :=
  let s := s.pend (.tile t ws)
  { s with core := { s.core with tfull := tset s.core.tfull t .reserved } }

/-- The A stream holds on a queue. -/
def State.aQueueWait (s : State) : WordEnd := .wait { s with core := { s.core with ahold := .queue } }

/-- LDQ (08 R193). -/
def execLdq (r : Am) (s : State) : Out :=
  .next (s.aWord r.l r.f (amReads r) false fun s =>
    let q := r.d.toNat
    let a := (s.amAddr r).toNat
    let z := sizeBytes r.sz.toNat
    let n := if r.sz = 4 then 8 else 1
    match s.qHome q with
    | .queue =>
      if s.qRoom q < n then s.aQueueWait
      else if r.sz = 4 then
        State.aGot (s.amReadWords r 8) a z (fun _ => .ldq q 8) (fun t o => .done (t.pend (.queue q (packWords (t.mgmtRead o z)))))
          (fun t ws => .done (t.pend (.queue q ws)))
      else
        State.aGot (s.amRead r z) a z (fun _ => .ldq q 1) (fun t o => .done (t.pend (.queue q (packWords (t.mgmtRead o z)))))
          (fun t bs => .done (t.pend (.queue q (packWords bs))))
    | _ => .trap causeIll 0)

/-- LDT (08 R194). -/
def execLdt (r : Am) (s : State) : Out :=
  .next (s.aWord r.l r.f (amReads r) false fun s =>
    let k := r.d.toNat
    let a := (s.amAddr r).toNat
    if !s.core.tileFree k then .wait s
    else
      State.aGot (s.amReadWords r 512) a 4096 (fun _ => .ldt k) (fun t o => .done (t.pendTile k (packWords (t.mgmtRead o 4096))))
        (fun t ws => .done (t.pendTile k ws)))

/-- Make the oldest landed load visible (08 R196). -/
def State.commitLoad (s : State) : State :=
  match s.core.loads with
  | [] => s
  | l :: r =>
    let s := { s with core := { s.core with loads := r } }
    match l.dest with
    | .queue q ws => s.qPush q ws
    | .tile t ws => { s with core := { s.core with tdata := s.core.tdata.setWords (t * 4096) ws, tfull := tset s.core.tfull t .full } }

/-- LOAD_COMMIT (08 R196). -/
def execLoadCommit (s : State) : Out := .next s.commitLoad

/-! ### Stores (08 R193-R195) -/

/-- STQ (08 R193): the low bytes of a word are consumed and stored byte-wise; a whole word at an aligned address, and a line, keep
their codes (13 R329, R331). -/
def execStq (r : Am) (s : State) : Out :=
  .next (s.aWord r.l r.f (amReads r) true fun s =>
    let q := r.d.toNat
    let a := (s.amAddr r).toNat
    let z := sizeBytes r.sz.toNat
    let n := if r.sz = 4 then 8 else 1
    let ws := (s.qOffer q).take n
    match s.qHome q with
    | .none => .trap causeIll 0
    | _ =>
      if ws.length < n then s.aQueueWait
      else if r.sz = 4 then
        State.aGot (s.amWriteWords r ws) a z (fun _ => .stq q ws) (fun t o => .done ((t.mgmtWrite o (wordBytes ws)).qTake q n))
          (fun t _ => .done (t.qTake q n))
      else if z = 8 ∧ a % 8 = 0 then
        State.aGot (if r.s = 1 then s.sWriteWords s.who a ws else s.gWriteWords s.who a ws) a z (fun _ => .stq q ws)
          (fun t o => .done ((t.mgmtWrite o (wordBytes ws)).qTake q n)) (fun t _ => .done (t.qTake q n))
      else match ws.head?.bind CWord.use with
        | none => .leave (.fault causeData) 0 (((ws.head?.map CWord.syn).getD 0).zeroExtend 32)
        | some v =>
          let bs := toBytes z v.toNat
          let s := s.fixed (if ws.head?.any (fun w => fixable w.syn) then 1 else 0)
          State.aGot (s.amWrite r bs) a z (fun _ => .stq q ws) (fun t o => .done ((t.mgmtWrite o bs).qTake q n)) (fun t _ => .done (t.qTake q n)))

/-- STT (08 R194): the tile is set empty once the stores are performed. -/
def execStt (r : Am) (s : State) : Out :=
  .next (s.aWord r.l r.f (amReads r) true fun s =>
    let k := r.d.toNat
    let a := (s.amAddr r).toNat
    let ws := s.core.tdata.words (k * 4096) 512
    let freed (t : State) : State := { t with core := { t.core with tfull := tdel t.core.tfull k } }
    if tget s.core.tfull k ≠ some .full then .wait s
    else
      State.aGot (s.amWriteWords r ws) a 4096 (fun _ => .stt k ws) (fun t o => .done (freed (t.mgmtWrite o (wordBytes ws))))
        (fun t _ => .done (freed t)))

/-- LDA (08 R195). -/
def execLda (r : Am) (s : State) : Out :=
  .next (s.aWord r.l r.f (r.d.toNat :: amReads r) false fun s =>
    let d := r.d.toNat
    let z := sizeBytes r.sz.toNat
    State.aGot (s.amRead r z) (s.amAddr r).toNat z (fun _ => .lda d) (fun t o => .done (t.setA d (extend false (t.mgmtRead o z))))
      (fun t bs => .done (t.setA d (extend false bs))))

/-- STA (08 R195). -/
def execSta (r : Am) (s : State) : Out :=
  .next (s.aWord r.l r.f (r.d.toNat :: amReads r) true fun s =>
    let z := sizeBytes r.sz.toNat
    let bs := toBytes z (s.getA 2 r.d.toNat).toNat
    State.aGot (s.amWrite r bs) (s.amAddr r).toNat z (fun _ => .store bs) (fun t o => .done (t.mgmtWrite o bs)) (fun t _ => .done t))

/-! ### Atomics (08 R217-R219) -/

/-- The type on which an A-stream atomic acts: X[28] is the width. -/
def aAmoType (op : Nat) (x : BitVec 4) : Nat :=
  let wide := x.getLsbD 0
  if op = 8 ∨ op = 9 then (if wide then 11 else 10)
  else if op = 4 ∨ op = 5 ∨ op = 10 then (if wide then 3 else 2)
  else if wide then 7 else 6

/-- The result is pending for a[D]. -/
def State.pendAmo (s : State) (d : Nat) (v : Word) (status : Option (BitVec 2)) (fl : Flags) : State :=
  { s with core := { s.core with amos := s.core.amos ++ [{ d := d, value := v, status := status, flags := fl }] } }

/-- An atomic of the A stream at a[A]: the effect is performed at issue, and the result written later. A word that cannot be
corrected gives a `ramo` status 2 (13 Table 13-5). -/
def State.aAtomic (s : State) (op : Nat) (r : Ar) (status : Option (BitVec 2)) (remote : State → Nat → WordEnd) : WordEnd :=
  let ty := aAmoType op r.x
  let n := tyWidth ty / 8
  let va := (s.getA 0 r.a.toNat).toNat
  let b := (s.getA 1 r.b.toNat).toNat
  let c := (s.getA 2 r.d.toNat).toNat
  if va % n ≠ 0 then .trap causeIll 0
  else match s.atomic s.who va op ty b c with
    | (t, .ok o) => .done (t.pendAmo r.d.toNat (amoExt ty o.res) status o.flags)
    | (_, .pages v) => .trap causePages (BitVec.ofNat 64 v)
    | (_, .viol v) => .trap causeViol (BitVec.ofNat 64 v)
    | (t, .data v) => match status with
      | none => .trap causeData (BitVec.ofNat 64 v)
      | some _ => if (s.translate s.who needRW va).2 = .data v then .trap causeData (BitVec.ofNat 64 v)
        else .done ((t.wordRecord t.domHere (t.core.ctx.getD 0) t.here v 2 0).pendAmo r.d.toNat 0 (some 2) 0)
    | (t, .dev pa) =>
      if t.devOk pa then
        let o := amoApply op ty (ofBytes (t.mgmtRead (devOffset pa) n)) (b % 2 ^ tyWidth ty) (c % 2 ^ tyWidth ty)
        let t := match o.new with
          | none => t
          | some v => t.mgmtWrite (devOffset pa) (toBytes n v)
        .done (t.pendAmo r.d.toNat (amoExt ty o.res) status o.flags)
      else .trap causeViol (BitVec.ofNat 64 va)
    | (t, .far pa) =>
      match placeOf pa with
      | .pool => .wait { t with core := { t.core with ahold := .access { kind := .amo r.d.toNat op ty 0 0, va := BitVec.ofNat 64 va, pa := pa, size := n } } }
      | _ => remote t pa

/-- An `amo` word of the A stream: a global address in the remote range is a violation. -/
def aAmo (op : Nat) (r : Ar) (s : State) : State :=
  s.aWord r.l r.f [r.a.toNat, r.b.toNat, r.d.toNat] true fun s =>
    s.aAtomic op r none (fun _ _ => .trap causeViol (s.getA 0 r.a.toNat))

/-- A_AMO_ADD (08 R218). -/
def execAAmoAdd (r : Ar) (s : State) : Out := .next (aAmo 0 r s)

/-- A_AMO_AND (08 R218). -/
def execAAmoAnd (r : Ar) (s : State) : Out := .next (aAmo 1 r s)

/-- A_AMO_OR (08 R218). -/
def execAAmoOr (r : Ar) (s : State) : Out := .next (aAmo 2 r s)

/-- A_AMO_XOR (08 R218). -/
def execAAmoXor (r : Ar) (s : State) : Out := .next (aAmo 3 r s)

/-- A_AMO_MIN (08 R218). -/
def execAAmoMin (r : Ar) (s : State) : Out := .next (aAmo 4 r s)

/-- A_AMO_MAX (08 R218). -/
def execAAmoMax (r : Ar) (s : State) : Out := .next (aAmo 5 r s)

/-- A_AMO_SWAP (08 R218). -/
def execAAmoSwap (r : Ar) (s : State) : Out := .next (aAmo 6 r s)

/-- A_AMO_CAS (08 R218). -/
def execAAmoCas (r : Ar) (s : State) : Out := .next (aAmo 7 r s)

/-- A_AMO_FADD (08 R218). -/
def execAAmoFadd (r : Ar) (s : State) : Out := .next (aAmo 8 r s)

/-- A_AMO_FMAX (08 R218). -/
def execAAmoFmax (r : Ar) (s : State) : Out := .next (aAmo 9 r s)

/-- A_AMO_MAXX (08 R218). -/
def execAAmoMaxx (r : Ar) (s : State) : Out := .next (aAmo 10 r s)

/-- A_AMO_COMPLETE (08 R218): the oldest result is written, and its flags reach the A stream's FPFLAGS. -/
def execAAmoComplete (s : State) : Out :=
  .next (match s.core.amos with
    | [] => s
    | m :: r => { s with core := { s.core with amos := r }.landAmo m })

/-! ### Remote atomics (08 R220) -/

/-- Send a remote atomic: its results are pending until the answer. -/
def State.ramoSend (s : State) (op : Nat) (r : Ar) (pa : Nat) : State :=
  let v := s.getA 2 r.d.toNat
  let pkg := match placeOf pa with
    | .remote p => p
    | _ => 0
  let o : RamoOut :=
    { id := s.nextId, slot := s.core.ctx.getD 0, pos := s.core.pos, d := r.d.toNat, req := v.extractLsb' 0 16, retry := v.getLsbD 16,
      pkg := pkg, op := op, wide := r.x.getLsbD 0, addr := pa % 2 ^ 40, b := s.getA 1 r.b.toNat, sends := 1, first := s.ptp, last := s.ptp, busy := false,
      word := s.core.air, at_ := s.core.apc, va := s.getA 0 r.a.toNat }
  { s with ramos := s.ramos ++ [o], nextId := s.nextId + 1 }

/-- A `ramo` word: a local address is performed as `amo`, with status 0. -/
def aRamo (op : Nat) (r : Ar) (s : State) : State :=
  s.aWord r.l r.f [r.a.toNat, r.b.toNat, r.d.toNat, r.d.toNat + 1] true fun s =>
    if (s.getA 2 r.d.toNat).extractLsb' 17 47 ≠ 0 then .trap causeIll 0
    else s.aAtomic op r (some 0) (fun t pa => .done (t.ramoSend op r pa))

/-- RAMO_ADD (08 R220). -/
def execRamoAdd (r : Ar) (s : State) : Out := .next (aRamo 0 r s)

/-- RAMO_AND (08 R220). -/
def execRamoAnd (r : Ar) (s : State) : Out := .next (aRamo 1 r s)

/-- RAMO_OR (08 R220). -/
def execRamoOr (r : Ar) (s : State) : Out := .next (aRamo 2 r s)

/-- RAMO_XOR (08 R220). -/
def execRamoXor (r : Ar) (s : State) : Out := .next (aRamo 3 r s)

/-- RAMO_MIN (08 R220). -/
def execRamoMin (r : Ar) (s : State) : Out := .next (aRamo 4 r s)

/-- RAMO_MAX (08 R220). -/
def execRamoMax (r : Ar) (s : State) : Out := .next (aRamo 5 r s)

/-- RAMO_SWAP (08 R220). -/
def execRamoSwap (r : Ar) (s : State) : Out := .next (aRamo 6 r s)

/-- RAMO_FADD (08 R220). -/
def execRamoFadd (r : Ar) (s : State) : Out := .next (aRamo 8 r s)

/-- RAMO_FMAX (08 R220). -/
def execRamoFmax (r : Ar) (s : State) : Out := .next (aRamo 9 r s)

/-! ### The near-bank program register (09 R234, R235) -/

/-- Whether a halfword is a microinstruction (09 Table 09-2): reserved codes and nonzero reserved bits are not. -/
def microOk (w : BitVec 16) : Bool :=
  let op := (w.extractLsb' 12 4).toNat
  let noD := op = 0 ∨ op = 3 ∨ op = 10 ∨ op = 11
  let noS := op = 0 ∨ op = 1 ∨ op = 2 ∨ op = 7 ∨ op = 8
  decide (op ≤ 11) && decide (w.extractLsb' 0 10 = 0) && (decide ¬noD || !w.getLsbD 11) && (decide ¬noS || !w.getLsbD 10)

/-- NBPROG takes `n` halfwords, or the word is illegal. -/
def State.takeProg (s : State) (n : Nat) (bs : List Byte) : WordEnd :=
  let p := (List.range n).map (fun i => BitVec.ofNat 16 (ofBytes ((bs.drop (2 * i)).take 2)))
  if p.all microOk then .done { s with core := { s.core with nbprog := p } } else .trap causeIll 0

/-! ### Answers (08 R193-R201; 14 R356, R357) -/

/-- The low `n` bytes of a word, zero-extended. -/
def lowBytes (n : Nat) (v : Word) : Word := BitVec.ofNat 64 (v.toNat % 2 ^ (8 * n))

/-- Whether an access brings whole check words, which no lane consumes (08 R193, R194; 13 R329). -/
def GlobalAccess.carries (g : GlobalAccess) : Bool :=
  decide (g.va.toNat % 64 = 0) && (match g.kind with
    | .ldq _ n => decide (n = 8)
    | .ldt _ => true
    | _ => false)

/-- Words that an answer of another package brings: its first word, then words that the model leaves free (log 11). -/
def State.farWords (s : State) (n : Nat) (w : CWord) : List CWord :=
  w :: (List.range (n - 1)).map (fun i => CWord.good (Config.freeBits 64 s.tick (2 ^ 25 + i)))

/-- A word of either stream ends when the words `ws` have come from another package, or poisoned from behind a dead link; none while
the place that they fill is taken. -/
def State.farEnd (s : State) (g : GlobalAccess) (ws : List CWord) : Option WordEnd :=
  let v := lowBytes g.size (ws.headD (CWord.good 0)).v
  match g.kind with
  | .load d => some (.done (s.setX d v))
  | .lda d => some (.done (s.setA d v))
  | .ldq q n => if s.qRoom q < n then none else some (.done (s.pend (.queue q (if n = 1 then [CWord.good v] else ws.take n))))
  | .ldt t => if s.core.tileFree t then some (.done (s.pendTile t ws)) else none
  | .stt t _ => some (.done { s with core := { s.core with tfull := tdel s.core.tfull t } })
  | .store _ => some (.done s)
  | .storeWords _ => some (.done s)
  | .stq q ws => some (.done (s.qTake q ws.length))
  | .prog n => some (s.takeProg n (wordBytes ws))
  | .amo .. => none

/-- A poisoned answer: a carrier takes it, stores have no effect, and a lane contains it (13 R329, R334; 14 R356). -/
def State.poisonEnd (s : State) (g : GlobalAccess) (ws : List CWord) : Option WordEnd :=
  match g.kind with
  | .store _ => some (.done s)
  | .storeWords _ => some (.done s)
  | .stq q ws => some (.done (s.qTake q ws.length))
  | .stt t _ => some (.done { s with core := { s.core with tfull := tdel s.core.tfull t } })
  | _ => if g.carries then s.farEnd g ws else some (.trap causeData (BitVec.ofNat 64 g.pa))

/-- The end of an access that waited: a pool access whose link has come back is issued again; one whose link stays down is
answered with poison after 1 ms; a refusal is a violation. -/
def State.answerEnd (s : State) (g : GlobalAccess) (ans : Answer) : Option WordEnd :=
  if placeOf g.pa = .pool then
    match s.downPort g.pa with
    | none => some (.wait s)
    | some p => if s.linkDead p then s.poisonEnd g (List.replicate 512 CWord.poison) else none
  else match ans with
    | .refused => some (.trap causeViol g.va)
    | .poisoned => s.poisonEnd g (s.farWords 512 CWord.poison)
    | .value v => s.farEnd g (s.farWords 512 (CWord.good v))

/-- The waiting access of the X stream of the core in focus takes its answer. -/
def State.answerX (s : State) (ans : Answer) : State :=
  match s.core.xhold with
  | .access g => match ({ s with core := { s.core with xhold := .none } } : State).answerEnd g ans with
    | none => s
    | some e => ({ s with core := { s.core with xhold := .none } } : State).xEnd 1 e
  | _ => s

/-- That of its A stream. -/
def State.answerA (s : State) (ans : Answer) : State :=
  match s.core.ahold with
  | .access g => match ({ s with core := { s.core with ahold := .none } } : State).answerEnd g ans with
    | none => s
    | some e => ({ s with core := { s.core with ahold := .none } } : State).aEnd e
  | _ => s

/-- The waiting access of the core in focus, the X stream's first, takes its answer. -/
def State.answer (s : State) (ans : Answer) : State :=
  match s.core.xhold with
  | .access g =>
    if (({ s with core := { s.core with xhold := .none } } : State).answerEnd g ans).isSome then s.answerX ans else s.answerA ans
  | _ => s.answerA ans

/-- GLOBAL_ACCESS_COMPLETE (08 R201; 14 R356, R357). -/
def execGlobalAccessComplete (ans : Answer) (s : State) : Out := .next (s.answer ans)

/-- QUEUE_WORD_PROCEED (10 R277): a stream that holds on a queue tries its word again; it holds once more unless the queue
condition holds by then. -/
def execQueueWordProceed (aStream : Bool) (s : State) : Out :=
  .next (
    let up (h : Hold) : Hold := match h with
      | .queue => .none
      | _ => h
    { s with core := if aStream then { s.core with ahold := up s.core.ahold } else { s.core with xhold := up s.core.xhold } })

end Sys2Proof.Machine
end

