-- ==== Sys2Proof/Machine/Engines.lean ====
section
/-! DEFINITION. Asynchronous engine commands: copy tags, segments and fix-ups; cp, mcast, gat and sct (08 R205-R210; 12
R307, R381; 13 R334). -/

namespace Sys2Proof.Machine

/-! ### Places of an operand -/

/-- Where a run of bytes lies: physical memory, a bank of a store with the store-space address, another package, or behind a
pool link that stays down. -/
inductive Loc where
  | phys (pa : Nat)
  | store (key b off addr : Nat)
  | away
  | dead
  deriving DecidableEq, Repr

/-- Cut `n` bytes from address `a` where multiples of `unit` fall. -/
def cuts (unit : Nat) : Nat → Nat → Nat → List (Nat × Nat)
  | 0, _, _ => []
  | fuel + 1, a, n => if n = 0 then [] else
    let k := min n (unit - a % unit)
    (a, k) :: cuts unit fuel (a + k) (n - k)

/-- Bytes within which an operand stays in one bank or one page. -/
def opUnit (op : Word) : Nat := if op.getLsbD 63 then 0x8000 else 0x10000

/-- The place of a piece of `n` bytes of a global operand that lies in one page. Another package may refuse the access: a violation (12
R306; log 11). -/
def State.globalLoc (s : State) (w : Who) (need : Need) (va n : Nat) : State × Got Loc :=
  match s.translate w need va with
  | (s, .fault) => (s, .pages va)
  | (s, .viol a) => (s, .viol a)
  | (s, .data a) => (s, .data a)
  | (s, .ok pa _) =>
    match placeOf pa with
    | .device => (s, .viol va)
    | .remote _ => (s, if s.refusedAway w.slot then .viol va else .ok .away)
    | _ => match s.downPort pa with
      | none => (s.note pa n, .ok (.phys pa))
      | some p => if s.linkDead p then (s, .ok .dead) else (s, .far pa)

/-- The place of a piece of a store-space operand that lies in one bank. -/
def State.storeLoc (s : State) (w : Who) (a n : Nat) : Got Loc :=
  match s.storeTarget w a n with
  | none => .viol a
  | some (key, b, off) => .ok (.store key b off a)

/-- Resolve pieces one after another. -/
def State.locsOf (s : State) (f : State → Nat → Nat → State × Got Loc) : List (Nat × Nat) → State × Got (List (Loc × Nat))
  | [] => (s, .ok [])
  | (a, n) :: r =>
    match f s a n with
    | (s, .ok l) => match s.locsOf f r with
      | (s, .ok ls) => (s, .ok ((l, n) :: ls))
      | o => o
    | (s, .pages x) => (s, .pages x)
    | (s, .viol x) => (s, .viol x)
    | (s, .data x) => (s, .data x)
    | (s, .dev x) => (s, .dev x)
    | (s, .far x) => (s, .far x)

/-- The runs of bytes that `n` bytes at an operand address name (08 R205). -/
def State.runs (s : State) (w : Who) (need : Need) (op : Word) (n : Nat) : State × Got (List (Loc × Nat)) :=
  match engAddr op with
  | .bad => (s, .viol op.toNat)
  | .store a => s.locsOf (fun s a n => (s, s.storeLoc w a n)) (cuts 0x8000 n a n)
  | .global a => s.locsOf (fun s a n => s.globalLoc w need a n) (cuts 0x10000 n a n)

/-! ### Moving check words -/

/-- The check words of a run; those of another package are free (log 11). `slot` tells runs apart. -/
def State.runWords (s : State) (slot : Nat) : Loc × Nat → List CWord
  | (.phys pa, n) => (List.range (n / 8)).map (fun i => s.physWord (pa + 8 * i))
  | (.store key b off _, n) => ((s.storeAt key).bank b).data.words off (n / 8)
  | (.away, n) => (List.range (n / 8)).map (fun i => CWord.good (Config.freeBits 64 s.tick (2 ^ 25 + slot + i)))
  | (.dead, n) => List.replicate (n / 8) CWord.poison

/-- Write check words to a run. -/
def State.setRunWords (s : State) (l : Loc) (ws : List CWord) : State :=
  match l with
  | .phys pa => s.physSetWords pa ws
  | .store key b off _ => s.setBankData key b (((s.storeAt key).bank b).data.setWords off ws)
  | _ => s

/-- Write check words to runs in order. -/
def State.putWords (s : State) : List (Loc × Nat) → List CWord → State
  | [], _ => s
  | (l, n) :: r, ws => (s.setRunWords l (ws.take (n / 8))).putWords r (ws.drop (n / 8))

/-! ### Moving bytes through landing lanes (13 R331, R334) -/

/-- The bytes of a memory as a lane takes them: none where the word cannot be corrected. -/
def Memory.laneBytes (m : Memory) (a n : Nat) : List (Option Byte) :=
  if m.bad = [] then (m.bytes a n).map some
  else (from' a n).map (fun i => (m.word (i / 8 * 8)).use.map (fun v => v.extractLsb' (i % 8 * 8) 8))

/-- The bytes of a run as landing lanes take them. -/
def State.runBytes (s : State) (slot : Nat) : Loc × Nat → List (Option Byte)
  | (.phys pa, n) => (from' pa n).map (fun i => (s.physWord (i / 8 * 8)).use.map (fun v => v.extractLsb' (i % 8 * 8) 8))
  | (.store key b off _, n) => ((s.storeAt key).bank b).data.laneBytes off n
  | (.away, n) => (List.range n).map (fun i => some (Config.freeBits 8 s.tick (2 ^ 25 + slot + i)))
  | (.dead, n) => List.replicate n none

/-- Land bytes in the word `8k`: one that a contained byte reaches is written poisoned; one partly covered is merged, and left
alone when it cannot be corrected. The flag tells of a containment event. -/
def Memory.landWord (m : Memory) (k a : Nat) (bs : List (Option Byte)) : Memory × Bool :=
  let at_ (i : Nat) : Option (Option Byte) := if a ≤ 8 * k + i then bs[8 * k + i - a]? else none
  if (List.range 8).any (fun i => decide (at_ i = some none)) then (m.setWord (8 * k) CWord.poison, true)
  else
    let all := (List.range 8).all (fun i => (at_ i).isSome)
    match (if all then some (0 : Word) else (m.word (8 * k)).use) with
    | none => (m, true)
    | some v =>
      let b (i : Nat) : Byte := match at_ i with
        | some (some x) => x
        | _ => v.extractLsb' (8 * i) 8
      (m.setWord (8 * k) (CWord.good (BitVec.ofNat 64 (ofBytes ((List.range 8).map b)))), false)

/-- Land bytes from address `a` upwards; the flag tells of a containment event. -/
def Memory.land (m : Memory) (a : Nat) (bs : List (Option Byte)) : Memory × Bool :=
  (from' (a / 8) ((a + bs.length + 7) / 8 - a / 8)).foldl (fun r k =>
    let (m, e) := r.1.landWord k a bs
    (m, r.2 || e)) (m, false)

/-- Land bytes in a run, for an agent of domain `d`: words that it merges with are corrected (13 R331). -/
def State.setRunBytes (s : State) (d : Nat) (l : Loc) (bs : List (Option Byte)) : State × Bool :=
  match l with
  | .phys pa =>
    if (s.dirAt pa).isSome then (s, false)
    else
      let t := s.postMerge d s.mem 0 pa bs.length
      let (m, e) := t.mem.land pa bs
      (({ t.clearScrub pa bs.length with mem := m } : State).cbFilters s.mem pa bs.length, e)
  | .store key b off _ =>
    let old := ((s.storeAt key).bank b).data
    let (m, e) := old.land off bs
    ((s.postMerge d old (scrubStore key b) off bs.length).setBankData key b m, e)
  | _ => (s, false)

/-- Land bytes in runs in order. -/
def State.putBytes (s : State) (d : Nat) : List (Loc × Nat) → List (Option Byte) → State × Bool
  | [], _ => (s, false)
  | (l, n) :: r, bs =>
    let (s, e) := s.setRunBytes d l (bs.take n)
    let (s, f) := s.putBytes d r (bs.drop n)
    (s, e || f)

/-- The address by which a containment event names a byte of a run: its word; store space carries the mark 2^56. -/
def Loc.wordAddr (l : Loc) (i : Nat) : Nat :=
  match l with
  | .phys pa => (pa + i) / 8 * 8
  | .store _ _ _ a => (a + i) / 8 * 8 + 2 ^ 56
  | _ => 0

/-- The address of the first contained byte of runs. -/
def firstBad : List (Loc × Nat) → List (Option Byte) → Option Nat
  | [], _ => none
  | (l, n) :: r, bs =>
    match (bs.take n).findIdx? (fun b => b.isNone) with
    | some i => some (l.wordAddr i)
    | none => firstBad r (bs.drop n)

/-- Whether two runs share bytes. -/
def Loc.meets (a : Loc × Nat) (b : Loc × Nat) : Bool :=
  match a, b with
  | (.phys p, n), (.phys q, m) => decide (p < q + m) && decide (q < p + n)
  | (.store k c p _, n), (.store j d q _, m) => decide (k = j) && decide (c = d) && decide (p < q + m) && decide (q < p + n)
  | _, _ => false

/-- Post the words that landing lanes have corrected in runs. -/
def State.postRuns (s : State) (d : Nat) (rs : List (Loc × Nat)) : State :=
  rs.foldl (fun s r => match r.1 with
    | .phys pa => s.postPhys d pa r.2
    | .store key b off _ => s.postBank d key b off r.2
    | _ => s) s

/-! ### Outcomes of a segment -/

/-- What becomes of a segment: performed; a translation fault, with the KV page whose promotion resolves it; it waits; a
violation with PDATA; a landing lane met a contained word; an address lane or the walker did; the command ends in error. -/
inductive EngRes where
  | done
  | fix (promote : Option Nat)
  | wait
  | viol (pdata : Nat)
  | poison (addr : Nat)
  | data (addr : Nat)
  | err
  /-- The segment lies in two pages: it is cut after so many bytes (08 R210). -/
  | split (k : Nat)
  deriving DecidableEq, Repr

/-- The outcome of an access that did not come to its data. -/
def Got.res {α : Type} : Got α → EngRes
  | .ok _ => .done
  | .pages _ => .fix none
  | .viol a => .viol a
  | .data a => .data a
  | .dev a => .viol a
  | .far _ => .wait

/-- Move `n` bytes from runs to runs and add `pad` zero bytes. `whole` moves check words with their codes; with `undef`, or
where source and destination overlap, the destination bytes are undefined (08 R205). -/
def State.moveRuns (s : State) (d : Nat) (rd rs : List (Loc × Nat)) (n pad : Nat) (whole undef : Bool) : State × EngRes :=
  if undef || rs.any (fun a => rd.any (fun b => Loc.meets a b)) then
    ((s.putBytes d rd ((List.range (n + pad)).map (fun i => some (Config.freeBits 8 s.tick (2 ^ 26 + i))))).1, .done)
  else if whole then (s.putWords rd (rs.zipIdx.flatMap (fun r => s.runWords (2 ^ 20 * r.2) r.1)), .done)
  else
    let bs := rs.zipIdx.flatMap (fun r => s.runBytes (2 ^ 20 * r.2) r.1)
    let (t, e) := s.putBytes d rd (bs ++ List.replicate pad (some 0))
    (t, if e then .poison ((firstBad rs bs).getD ((rd.head?.map (fun r => r.1.wordAddr 0)).getD 0)) else .done)

/-- Move bytes between operand addresses. -/
def State.move (s : State) (ws wd : Who) (dst src : Word) (n pad : Nat) (whole undef : Bool) : State × EngRes :=
  match s.runs ws needR src n with
  | (s, .ok rs) =>
    match s.runs wd needW dst (n + pad) with
    | (s, .ok rd) => (if whole || undef then s else s.postRuns ws.dom rs).moveRuns wd.dom rd rs n pad whole undef
    | (s, g) => (s, g.res)
  | (s, g) => (s, g.res)

/-- Read a 64-bit word through an address lane. -/
def State.laneWord (s : State) (w : Who) (op : Word) : State × Except EngRes Word :=
  match s.runs w needR op 8 with
  | (s, .ok rs) =>
    let bs := rs.zipIdx.flatMap (fun r => s.runBytes (2 ^ 20 * r.2) r.1)
    match firstBad rs bs with
    | some a => (s, .error (.data a))
    | none => (s.postRuns w.dom rs, .ok (BitVec.ofNat 64 (ofBytes (bs.map (fun b => b.getD 0)))))
  | (s, g) => (s, .error g.res)

/-! ### Commands -/

/-- The agent of a command. -/
def State.cmdWho (s : State) (c : EngCmd) (pos : Nat) : Who := { s.whoOf c.slot pos with rect := some c.rect }

/-- The command with a number. -/
def State.cmd (s : State) (id : Nat) : Option EngCmd := s.cmds.find? (fun c => decide (c.id = id))

/-- Change the command with a number. -/
def State.updCmd (s : State) (id : Nat) (f : EngCmd → EngCmd) : State :=
  { s with cmds := s.cmds.map (fun c => if c.id = id then f c else c) }

/-- Multiples of 8, all of them: a transfer moves whole check words (08 R205). -/
def allWords (d a : Word) (n : Nat) : Bool := decide (d.toNat % 8 = 0) && decide (a.toNat % 8 = 0) && decide (n % 8 = 0)

/-- Whether the operand ranges of a copy overlap. -/
def opsOverlap (d a : Word) (n : Nat) : Bool := decide (a.toNat < d.toNat + n) && decide (d.toNat < a.toNat + n)

/-- The element size of gat and sct, and its slot. -/
def EngCmd.elem (c : EngCmd) : Nat × Nat :=
  let z := sizeBytes (c.cnt.extractLsb' 32 3).toNat
  (z, if z = 64 then 64 else 8)

/-- Whether an operand's address is in the space of the register that it came from: a global range does not run on into store space. -/
def sameSpace (base op : Word) : Bool := base.getLsbD 63 == op.getLsbD 63

/-- The bytes of a run that can be reached now, piece by piece: where they lie, without the accesses. -/
def State.reach (s : State) (w : Who) (op : Word) (n : Nat) : List (Loc × Nat) :=
  match engAddr op with
  | .bad => []
  | .store a => (cuts 0x8000 n a n).filterMap (fun x => match s.storeLoc w x.1 x.2 with
    | .ok l => some (l, x.2)
    | _ => none)
  | .global a => (cuts 0x10000 n a n).filterMap (fun x => match (s.resolve w x.1).2 with
    | .page b _ e => some (.phys (bits e.toNat 51 8 * 256 + (x.1 - b)), x.2)
    | _ => none)

/-- Whether any bytes of two lists of runs are shared. -/
def runsMeet (a b : List (Loc × Nat)) : Bool := a.any (fun x => b.any (Loc.meets x))

/-- The number of bytes of a copy, or of entries. -/
def EngCmd.length (c : EngCmd) : Nat := c.cnt.toNat % 2 ^ 32

/-- The elements that the entries of gat and sct name, where they can be read. -/
def State.elemReach (s : State) (c : EngCmd) (w : Who) : List (Loc × Nat) :=
  (List.range c.length).flatMap (fun i =>
    match s.reach w (c.src + BitVec.ofNat 64 (8 * i)) 8 with
    | [] => []
    | rs =>
      let bs := rs.flatMap (fun r => s.runBytes 0 r)
      s.reach w (BitVec.ofNat 64 (ofBytes (bs.map (fun b => b.getD 0)))) c.elem.1)

/-- The destination of mcast at the `k`-th core of its rectangle, at position `pos` (08 R208). -/
def mcastDst (d : Word) (k n pos : Nat) : Word :=
  if d.getLsbD 63 then
    BitVec.ofNat 64 (putBits (putBits d.toNat 24 22 (pos % 64 % 8)) 21 19 (pos / 64 % 8))
  else d + BitVec.ofNat 64 (k * ((n + 63) / 64 * 64))

/-- Whether a destination of a copy or of a gathering command overlaps its source, wherever the addresses lie: then all of its destination
bytes are undefined (08 R205). -/
def State.clash (s : State) (c : EngCmd) : Bool :=
  let w := s.cmdWho c c.pos
  let n := c.length
  match c.kind with
  | .cp => opsOverlap c.dst c.src n || runsMeet (s.reach w c.src n) (s.reach w c.dst n)
  | .mcast => (rectCores (bits c.cnt.toNat 49 32)).zipIdx.any (fun p =>
      runsMeet (s.reach w c.src n) (s.reach (s.cmdWho c p.1) (mcastDst c.dst p.2 n p.1) n))
  | .gat => runsMeet (s.reach w c.src (8 * n) ++ s.elemReach c w) (s.reach w c.dst (n * c.elem.2))
  | .sct => runsMeet (s.elemReach c w) (s.reach w c.src (8 * n) ++ s.reach w c.dst (n * c.elem.2))
  | _ => false

/-- Bytes of an element's slot that gat writes, or that sct takes. -/
def EngCmd.elemBytes (c : EngCmd) : Nat := if c.kind = .gat then c.elem.2 else c.elem.1

/-- A part of an element of gat or sct (08 R209): its entry names the element, and it uses slot `idx` at a[D]. An element or slot that
lies in two pages has a segment in each (08 R210). -/
def State.elemSeg (s : State) (c : EngCmd) (g : Seg) : State × EngRes :=
  let w := s.cmdWho c c.pos
  let (z, slot) := c.elem
  let off := g.dst.toNat
  if !sameSpace c.src g.src then (s, .viol g.src.toNat)
  else match s.laneWord w g.src with
  | (s, .error r) => (s, r)
  | (s, .ok e) =>
    let place := c.dst + BitVec.ofNat 64 (g.idx * slot)
    let p := place + BitVec.ofNat 64 off
    let q := e + BitVec.ofNat 64 off
    let room (op : Word) : Nat := opUnit op - op.toNat % opUnit op
    let k := min g.len (min (room p) (if off < z then room q else g.len))
    let n := min k (z - off)
    if k < g.len then (s, .split k)
    else if !sameSpace c.dst p then (s, .viol p.toNat)
    else if off < z ∧ !sameSpace e q then (s, .viol q.toNat)
    else
      let whole := decide (8 ≤ z) && allWords e place z
      if c.kind = .gat then s.move w w p q n (k - n) whole (s.clash c) else s.move w w q p n 0 whole (s.clash c)

/-- A segment of cp or mcast (08 R207, R208). -/
def State.copySeg (s : State) (c : EngCmd) (g : Seg) : State × EngRes :=
  if !sameSpace c.src g.src then (s, .viol g.src.toNat)
  else if !sameSpace c.dst g.dst then (s, .viol g.dst.toNat)
  else s.move (s.cmdWho c c.pos) (s.cmdWho c g.pos) g.dst g.src g.len 0 (allWords c.dst c.src c.length) (s.clash c)

/-! ### Events of a command -/

/-- The leave request that names a command (12 R381). -/
def EngCmd.ask (c : EngCmd) (cause data : Nat) : Ask :=
  { kind := .late cause, pos := c.pos, aStream := true, word := c.word, addr := c.addr, data := BitVec.ofNat 64 data, tcode := 0, passed := true, time := 0 }

/-- A violation freezes the command, and its context is parked (12 R307, R381). -/
def State.cmdViol (s : State) (c : EngCmd) (pdata : Nat) : State :=
  (s.updCmd c.id (fun c => { c with frozen := some (BitVec.ofNat 64 pdata) })).lateFault c.slot (c.ask causeViol pdata) causeViol

/-- The command ends in error: what it has not performed is not performed. -/
def EngCmd.drop (c : EngCmd) : EngCmd := { c with err := true, segs := [], fixups := [], strike := [] }

/-- Records of words of a command's segments whose events turned out transient (13 R334). -/
def State.cmdRecords (s : State) (c : EngCmd) (l : List (Seg × Nat)) : State :=
  l.foldl (fun s x => s.wordRecord (s.whoOf c.slot 0).dom c.slot ((s.placedAt c.slot c.pos).getD 0) x.2 1 0) s

/-- A lasting containment event ends the command in error and parks its context (13 R334). -/
def State.cmdData (s : State) (c : EngCmd) (addr : Nat) : State :=
  (((s.cmdRecords c (c.strike.filter (fun x => decide (x.2 ≠ addr)))).updCmd c.id EngCmd.drop)).lateFault c.slot (c.ask causeData addr) causeData

/-- Settle the outcome of segment number `i` of command `c`. A first containment event leaves the segment to be read once
more. -/
def State.segEnd (s : State) (c : EngCmd) (i : Nat) (g : Seg) : EngRes → State
  | .done =>
    (s.cmdRecords c (c.strike.filter (fun x => decide (x.1 = g)))).updCmd c.id (fun c =>
      { c with segs := c.segs.eraseIdx i, strike := c.strike.filter (fun x => decide (x.1 ≠ g)), fired := false })
  | .fix p =>
    if c.fixups.length < 32 then
      (s.updCmd c.id (fun c => { c with segs := c.segs.eraseIdx i, fixups := c.fixups ++ [{ seg := g, promote := p }] })).sample
        (s.whoOf c.slot 0).dom 8 (c.fixups.length + 1)
    else s
  | .wait => s
  | .viol a => s.cmdViol c a
  | .poison a =>
    if c.strike.any (fun x => decide (x.1 = g)) then s.cmdData c a
    else s.updCmd c.id (fun c => { c with strike := (g, a) :: c.strike })
  | .data a => s.cmdData c a
  | .err => s.updCmd c.id EngCmd.drop
  | .split k => s.updCmd c.id (fun c =>
      { c with segs := c.segs.take i ++ [{ g with len := k }, { g with dst := g.dst + BitVec.ofNat 64 k, len := g.len - k }] ++ c.segs.drop (i + 1) })

/-- FIXUP_FAIL (08 R210): an entry that no promotion resolves fails, and its command ends in error. -/
def execFixupFail (cmd ent : Nat) (s : State) : Out :=
  .next (match s.cmd cmd with
    | none => s
    | some c => match c.fixups[ent]? with
      | none => s
      | some f =>
        if f.promote.isSome ∨ c.frozen.isSome then s
        else s.updCmd cmd (fun c => { c with fixups := c.fixups.eraseIdx ent, err := true }))

/-! ### Pushing (08 R205, R206) -/

/-- Count a push on a tag. -/
def Tag.push (g : Tag) : Tag := { g with pend := g.pend + 1, done := false }

/-- Count a completion on a tag. -/
def Tag.complete (g : Tag) (err : Bool) : Tag :=
  { pend := g.pend - 1, done := g.done || decide (g.pend = 1), err := g.err || err }

/-- A command as the core in focus pushes it. -/
def State.newCmd (s : State) (kind : EngKind) (tag scope op : Nat) (d a b : Word) (segs : List Seg) : EngCmd :=
  { id := s.nextId, kind := kind, slot := s.core.ctx.getD 0, instar := (tget s.instars (s.core.ctx.getD 0)).getD 0, pos := s.core.pos,
    launch := s.launchId, tag := tag, scope := scope, op := op, dst := d, src := a, cnt := b, prog := [],
    word := s.core.air, addr := s.core.apc, segs := segs, fixups := [], items := 0, invalid := false, err := false,
    frozen := none, strike := [], fired := false, base := 0, rect := s.partition, flags := 0, coll := none }

/-- Push a command: hold while its tag counts 255. -/
def State.pushCmd (s : State) (c : EngCmd) : WordEnd :=
  if (s.own.tag c.tag).pend = 255 then .wait s
  else
    let s := s.setOwn (s.own.setTag c.tag (s.own.tag c.tag).push)
    .done { s with cmds := s.cmds ++ [c], nextId := s.nextId + 1 }

/-- Post a completion in the tags of the command's position, and forget the command. -/
def State.finishCmd (s : State) (c : EngCmd) : State :=
  let key := storeKey c.slot c.pos
  let t := s.storeAt key
  let s := s.setStore key (t.setTag c.tag ((t.tag c.tag).complete c.err))
  { s with cmds := s.cmds.filter (fun x => decide (x.id ≠ c.id)) }

/-- An engine-push word: the registers it reads are taken at issue. -/
def aPush (r : An) (f : State → Word → Word → Word → WordEnd) (s : State) : State :=
  s.aWord r.l r.f [r.d.toNat, r.a.toNat, r.b.toNat] true fun s =>
    f s (s.getA 0 r.d.toNat) (s.getA 1 r.a.toNat) (s.getA 2 r.b.toNat)

/-- The tag and the scope of a push word: K[5:0] and K[8:6]. -/
def anTag (r : An) : Nat := r.k.toNat % 64
def anHi (r : An) : Nat := r.k.toNat / 64

/-- Cut a transfer into segments, each in one page or bank of both operands (08 R210). -/
def transferCuts (d a : Word) : Nat → Nat → Nat → List (Nat × Nat)
  | 0, _, _ => []
  | fuel + 1, off, n => if n = 0 then [] else
    let room (op : Word) : Nat := opUnit op - (op.toNat + off) % opUnit op
    let k := min n (min (room d) (room a))
    (off, k) :: transferCuts d a fuel (off + k) (n - k)

/-- The segments of a transfer of `n` bytes to the position `pos`, numbered from `base`. -/
def transferSegs (d a : Word) (n pos base : Nat) : List Seg :=
  (transferCuts d a n 0 n).map (fun c =>
    { idx := base + c.1, src := a + BitVec.ofNat 64 c.1, dst := d + BitVec.ofNat 64 c.1, len := c.2, pos := pos, zero := false })

/-- CP (08 R207): a length of 0 completes at once. -/
def execCp (r : An) (s : State) : Out :=
  .next (aPush r (fun s d a b =>
    let n := b.toNat % 2 ^ 32
    if n = 0 then (if (s.own.tag (anTag r)).pend = 255 then .wait s else .done s)
    else s.pushCmd (s.newCmd .cp (anTag r) (anHi r) 0 d a b (transferSegs d a n s.core.pos 0))) s)

/-- MCAST (08 R208, 01 R25). -/
def execMcast (r : An) (s : State) : Out :=
  .next (aPush r (fun s d a b =>
    let n := b.toNat % 2 ^ 32
    let rect := bits b.toNat 49 32
    if b.extractLsb' 50 14 ≠ 0 ∨ !subRect rect s.partition then .trap causeIll 0
    else s.pushCmd (s.newCmd .mcast (anTag r) (anHi r) 0 d a b
      ((rectCores rect).zipIdx.flatMap (fun p => transferSegs (mcastDst d p.2 n p.1) a n p.1 (p.2 * 2 ^ 32))))) s)

/-- The segments of gat and sct: one for each element, of `z` bytes of its slot. -/
def elemSegs (a : Word) (n z pos : Nat) : List Seg :=
  (List.range n).map (fun i => { idx := i, src := a + BitVec.ofNat 64 (8 * i), dst := 0, len := z, pos := pos, zero := false })

/-- A gat or sct word (08 R209). -/
def aGather (kind : EngKind) (r : An) (s : State) : State :=
  aPush r (fun s d a b =>
    if b.extractLsb' 35 29 ≠ 0 ∨ 5 ≤ (b.extractLsb' 32 3).toNat then .trap causeIll 0
    else
      let c := s.newCmd kind (anTag r) (anHi r) 0 d a b []
      s.pushCmd { c with segs := elemSegs a c.length c.elemBytes s.core.pos }) s

/-- GAT (08 R209). -/
def execGat (r : An) (s : State) : Out := .next (aGather .gat r s)

/-- SCT (08 R209). -/
def execSct (r : An) (s : State) : Out := .next (aGather .sct r s)

end Sys2Proof.Machine
end

