-- ==== Sys2Proof/Machine/Kv.lean ====
section
/-! DEFINITION. KV commands and sequence tables (08 R213-R216; 11 R280-R283; 12 R317), and the segments and completions of
asynchronous commands. -/

namespace Sys2Proof.Machine

/-! ### Steps that may end early -/

/-- Go on unless the command has met an outcome. -/
def eThen {α β : Type} (r : State × Except EngRes α) (f : State → α → State × Except EngRes β) : State × Except EngRes β :=
  match r with
  | (s, .ok v) => f s v
  | (s, .error e) => (s, .error e)

/-- The outcome at the end of a chain of steps. -/
def eEnd {α : Type} (r : State × Except EngRes α) (f : State → α → State × EngRes) : State × EngRes :=
  match r with
  | (s, .ok v) => f s v
  | (s, .error e) => (s, e)

/-! ### Sequence tables (11 R281, R282) -/

/-- The outcome of a table access (08 R213): a translation fault ends the command in error. -/
def tableRes {α : Type} (va : Nat) : Got α → EngRes
  | .pages _ => .err
  | .viol a => .viol a
  | .data a => .data a
  | _ => .viol va

/-- Read bytes of a table. -/
def State.tableRead (s : State) (w : Who) (va n : Nat) : State × Except EngRes Nat :=
  match s.gRead w needR va n with
  | (s, .ok bs) => (s, .ok (ofBytes bs))
  | (s, g) => (s, .error (tableRes va g))

/-- Write bytes of a table. -/
def State.tableWrite (s : State) (w : Who) (va n v : Nat) : State × Except EngRes Unit :=
  match s.gWrite w va (toBytes n v) with
  | (s, .ok ()) => (s, .ok ())
  | (s, g) => (s, .error (tableRes va g))

/-- A sequence table's header (11 Table 11-2). -/
structure SeqTable where
  at_ : Nat
  parent : Nat
  rowlog : Nat
  committed : Nat
  npages : Nat
  lm1 : Nat
  pvis : Nat
  deriving DecidableEq, Repr

/-- Read and check a header: a malformed table stops the command with the table's address. -/
def State.readTable (s : State) (w : Who) (t : Nat) : State × Except EngRes SeqTable :=
  eThen (s.tableRead w t 64) fun s v =>
    let h : SeqTable :=
      { at_ := t, parent := bits v 55 12, rowlog := bits v 4 0, committed := bits v 127 96, npages := bits v 95 76, lm1 := bits v 75 64,
        pvis := bits v 159 128 }
    let clean := decide (bits v 63 56 = 0) && decide (bits v 11 5 = 0) && decide (v / 2 ^ 160 = 0)
    let good := clean && decide (3 ≤ h.rowlog) && decide (h.rowlog ≤ 16) && (decide (h.parent ≠ 0) || decide (h.pvis = 0))
    (s, if good then .ok h else .error (.viol t))

/-- The address of the page map entry (l, i). -/
def SeqTable.entryAt (h : SeqTable) (l i : Nat) : Nat :=
  h.at_ + (0x40 + 64 * ((4 * (h.lm1 + 1) + 63) / 64)) + 4 * (l * h.npages + i)

/-- The address of a layer's cursor. -/
def SeqTable.cursorAt (h : SeqTable) (l : Nat) : Nat := h.at_ + 0x40 + 4 * l

/-- `Lookup` (11 R282) from a table on, `depth` levels at most: none is ABSENT. -/
def State.lookup (s : State) (w : Who) (first : SeqTable) (l i : Nat) : Nat → SeqTable → State × Except EngRes (Option Nat)
  | 0, h => (s, .error (.viol h.at_))
  | depth + 1, h =>
    if h.lm1 ≠ first.lm1 ∨ h.rowlog ≠ first.rowlog ∨ h.lm1 < l ∨ h.npages ≤ i then (s, .error (.viol h.at_))
    else match s.tableRead w (h.entryAt l i) 4 with
      | (s, .error e) => (s, .error e)
      | (s, .ok e) =>
        if bits e 30 24 ≠ 0 then (s, .error (.viol h.at_))
        else if e.testBit 31 then (s, .ok (some (bits e 23 0)))
        else if h.pvis ≤ i ∨ h.parent = 0 then (s, .ok none)
        else match s.readTable w (h.parent * 2 ^ 12) with
          | (s, .error r) => (s, .error r)
          | (s, .ok p) => s.lookup w first l i depth p

/-! ### Allocation (11 R283, 12 R317) -/

/-- The die of the core that holds a command's position: where it is placed, else where its banks are bound. -/
def State.cmdDie (s : State) (c : EngCmd) : Nat :=
  dieOf ((s.placedAt c.slot c.pos).getD ((tget s.bound (storeKey c.slot c.pos)).getD c.pos))

/-- The directory entry of a page that `kva` allocates: HBM4E, PREF HBM. -/
def newEntry (asid frame : Nat) : Word := BitVec.ofNat 64 (1 * 2 ^ 62 + 1 * 2 ^ 58 + asid * 2 ^ 40 + frame)

/-- Allocate a page for an entry at `ea` of the table where the lookup started. An empty list or no free frame ends the command
in error and tells the supervisor. The new page's frame has been cleared (12 R296; log 34). -/
def State.kvAlloc (s : State) (c : EngCmd) (w : Who) (ea : Nat) : State × Except EngRes Nat :=
  match s.dom w.dom with
  | none => (s, .error .err)
  | some d =>
    match s.translate w needW ea with
    | (s, .fault) => (s, .error .err)
    | (s, .viol a) => (s, .error (.viol a))
    | (s, .data a) => (s, .error (.data a))
    | (s, .ok _ _) =>
      let s := s.note d.kvfree 8
      match s.physRead d.kvfree 4 with
      | .error a => (s, .error (.data a))
      | .ok cnt =>
        let n := ofBytes cnt
        match least (s.freeFrames w.dom (frameOnDie (s.cmdDie c))) with
        | none => (s.tellSuper w.dom, .error .err)
        | some f =>
          if n = 0 then (s.tellSuper w.dom, .error .err)
          else match s.physRead (d.kvfree + 8 + 4 * (n - 1)) 4 with
            | .error a => (s, .error (.data a))
            | .ok e =>
              let s := ((s.note (d.kvfree + 8 + 4 * (n - 1)) 4).postPhys w.dom d.kvfree 4).postPhys w.dom (d.kvfree + 8 + 4 * (n - 1)) 4
              let k := ofBytes e % 2 ^ 24
              match s.physStore d.kvfree (toBytes 4 (n - 1)) with
              | .error a => (s, .error (.data a))
              | .ok s =>
                let s := s.physSetWords (f * 2 ^ 16) (List.replicate 8192 (CWord.good 0))
                match (s.setDir k (newEntry w.asid f)).tableWrite w ea 4 (2 ^ 31 + k) with
                | (s, .ok ()) => (s, .ok k)
                | (s, .error r) => (s, .error r)

/-! ### Rows (08 R214, R215) -/

/-- The table address and the layer of a[A] (08 R213). -/
def EngCmd.table (c : EngCmd) : Nat := bits c.src.toNat 55 12 * 2 ^ 12
def EngCmd.layer (c : EngCmd) : Nat := bits c.src.toNat 11 0

/-- The KV page of page index `i`, allocated for `kva` when there is none. -/
def State.kvPage (s : State) (c : EngCmd) (w : Who) (i : Nat) : State × Except EngRes Nat :=
  eThen (s.readTable w c.table) fun s h =>
    eThen (s.lookup w h c.layer i 4 h) fun s k =>
      match k with
      | some k => (s, .ok k)
      | none => if c.kind = .kva then s.kvAlloc c w (h.entryAt c.layer i) else (s, .error (.viol h.at_))

/-- Where `n` bytes at byte `off` of a KV page lie; a page that moves is waited for, and one in the pool is a fix-up (11 R280,
R286). -/
def State.kvLoc (s : State) (c : EngCmd) (w : Who) (k off n : Nat) : State × Except EngRes (List (Loc × Nat)) :=
  let e := s.dirEntry k
  if eTier e = 3 ∨ eAsid e ≠ w.asid then (s, .error (.viol c.table))
  else match s.kvLookup (s.cmdDie c) k with
    | none => (s, .error .wait)
    | some (s, e) =>
      match eTier e with
      | 0 => match s.homeOf k with
        | none => (s, .ok [(.away, n)])
        | some (key, b) => (s, .ok ((cuts 0x8000 n off n).map (fun x => (.store key (b + x.1 / 0x8000) (x.1 % 0x8000) 0, x.2))))
      | 1 => (s.note (eLoc e * 2 ^ 16 + off) n, .ok [(.phys (eLoc e * 2 ^ 16 + off), n)])
      | _ => (s, .error (.fix (some k)))

/-- The bytes of the KV pages that a command's rows take up, where they lie now. -/
def State.rowReach (s : State) (c : EngCmd) (w : Who) : List (Loc × Nat) :=
  match s.readTable w c.table with
  | (_, .ok h) =>
    let (p0, cnt) := if c.kind = .kva then (c.base, bits c.cnt.toNat 15 0) else (bits c.cnt.toNat 31 0, bits c.cnt.toNat 47 32)
    let n := cnt * 2 ^ h.rowlog
    (cuts 65536 n (p0 * 2 ^ h.rowlog) n).flatMap (fun x => match s.lookup w h c.layer (x.1 / 65536) 4 h with
      | (_, .ok (some k)) => (match s.kvLoc c w k (x.1 % 65536) x.2 with
        | (_, .ok l) => l
        | _ => [])
      | _ => [])
  | _ => []

/-- Whether the rows overlap the operand: then all destination bytes are undefined (08 R205). -/
def State.kvClash (s : State) (c : EngCmd) (w : Who) : Bool :=
  let rs := s.rowReach c w
  runsMeet rs (s.reach w c.dst (rs.foldl (fun n r => n + r.2) 0))

/-- A piece of the rows: `idx` is its byte in the layer, `dst` its operand address. -/
def State.kvRow (s : State) (c : EngCmd) (g : Seg) : State × EngRes :=
  let w := s.cmdWho c c.pos
  let whole := decide (c.dst.toNat % 8 = 0)
  if !sameSpace c.dst g.dst then (s, .viol g.dst.toNat)
  else if g.zero then
    match s.runs w needW g.dst g.len with
    | (s, .ok rd) => ((s.putBytes w.dom rd (List.replicate g.len (some 0))).1, .done)
    | (s, x) => (s, x.res)
  else
    eEnd (eThen (s.kvPage c w (g.idx / 65536)) fun s k => s.kvLoc c w k (g.idx % 65536) g.len) fun s rk =>
      match s.runs w (if c.kind = .kva then needR else needW) g.dst g.len with
      | (s, .ok ro) => if c.kind = .kva then s.moveRuns w.dom rk ro g.len 0 whole (s.kvClash c w) else s.moveRuns w.dom ro rk g.len 0 whole (s.kvClash c w)
      | (s, x) => (s, x.res)

/-- Cut rows from byte `b0` of the layer, `n` bytes, into pieces that stay in one KV page, in one page or bank of the operand,
and on one side of byte `com`. -/
def rowCuts (d : Word) (b0 com : Nat) : Nat → Nat → Nat → List (Nat × Nat)
  | 0, _, _ => []
  | fuel + 1, off, n => if n = 0 then [] else
    let room := opUnit d - (d.toNat + off) % opUnit d
    let b := b0 + off
    let side := if b < com then com - b else n
    let k := min (min n room) (min (65536 - b % 65536) side)
    (off, k) :: rowCuts d b0 com fuel (off + k) (n - k)

/-- The segments of `cnt` rows from position `p0`; rows from byte `com` of the layer on are zero. -/
def rowSegs (c : EngCmd) (rowlog p0 cnt : Nat) (com : Option Nat) : List Seg :=
  let b0 := p0 * 2 ^ rowlog
  let n := cnt * 2 ^ rowlog
  let lim := com.getD (b0 + n)
  (rowCuts c.dst b0 lim n 0 n).map (fun x =>
    { idx := b0 + x.1, src := 0, dst := c.dst + BitVec.ofNat 64 x.1, len := x.2, pos := c.pos, zero := decide (lim ≤ b0 + x.1) })

/-- The cursors of layers `l`, `l + 1`, and so on are all at least `n`. -/
def State.cursorsReach (s : State) (w : Who) (h : SeqTable) (n : Nat) : Nat → Nat → State × Except EngRes Bool
  | 0, _ => (s, .ok true)
  | fuel + 1, l =>
    match s.tableRead w (h.cursorAt l) 4 with
    | (s, .error e) => (s, .error e)
    | (s, .ok v) => if v < n then (s, .ok false) else s.cursorsReach w h n fuel (l + 1)

/-- The start of a KV command: `kvg` reads the committed length and `kva` its cursor once, and their rows are laid out; `kvc` is
performed whole (08 R214-R216). -/
def State.kvStart (s : State) (c : EngCmd) : State × EngRes :=
  let w := s.cmdWho c c.pos
  eEnd (s.readTable w c.table) fun s h =>
    if h.lm1 < c.layer then (s, .viol c.table)
    else match c.kind with
      | .kvg =>
        let segs := rowSegs c h.rowlog (bits c.cnt.toNat 31 0) (bits c.cnt.toNat 47 32) (some (h.committed * 2 ^ h.rowlog))
        (s.updCmd c.id (fun c => { c with segs := c.segs ++ segs }), .done)
      | .kva => eEnd (s.tableRead w (h.cursorAt c.layer) 4) fun s cur =>
        let segs := rowSegs c h.rowlog cur (bits c.cnt.toNat 15 0) none
        (s.updCmd c.id (fun c => { c with segs := c.segs ++ segs, base := cur }), .done)
      | _ =>
        let n := bits c.cnt.toNat 31 0
        eEnd (s.cursorsReach w h n (h.lm1 + 1) 0) fun s ok =>
          if ok ∧ h.committed < n then eEnd (s.tableWrite w (h.at_ + 0x0C) 4 n) fun s _ => (s, .done) else (s, .err)

/-! ### Pushing KV commands (08 R213) -/

/-- The one segment with which a KV command starts: it has no bytes. -/
def kvStartSeg (pos : Nat) : Seg := { idx := 2 ^ 64, src := 0, dst := 0, len := 0, pos := pos, zero := false }

/-- A KV word; `bad` says when a[B] is illegal. -/
def aKv (kind : EngKind) (bad : Word → Bool) (r : An) (s : State) : State :=
  aPush r (fun s d a b =>
    if a.extractLsb' 56 8 ≠ 0 ∨ bad b then .trap causeIll 0
    else s.pushCmd (s.newCmd kind (anTag r) 3 0 d a b [kvStartSeg s.core.pos])) s

/-- KVG (08 R214). -/
def execKvg (r : An) (s : State) : Out :=
  .next (aKv .kvg (fun b => decide (b.extractLsb' 48 16 ≠ 0) || decide (b.extractLsb' 32 16 = 0)) r s)

/-- KVA (08 R215). -/
def execKva (r : An) (s : State) : Out :=
  .next (aKv .kva (fun b => decide (b.extractLsb' 16 48 ≠ 0) || decide (b.extractLsb' 0 16 = 0)) r s)

/-- KVC (08 R216). -/
def execKvc (r : An) (s : State) : Out := .next (aKv .kvc (fun b => decide (b.extractLsb' 32 32 ≠ 0)) r s)

/-! ### Segments and completions (08 R206, R210, R215) -/

/-- Whether a command is a near-bank unit's (09). -/
def EngKind.nearBank (k : EngKind) : Bool :=
  match k with
  | .nbCopy | .nbZero | .nbAxpy | .nbRun | .nbAmo => true
  | _ => false

/-- Perform segment number `i` of a command. -/
def State.segment (s : State) (c : EngCmd) (i : Nat) : State :=
  match c.segs[i]? with
  | none => s
  | some g =>
    let (t, r) := match c.kind with
      | .cp | .mcast => s.copySeg c g
      | .gat | .sct => s.elemSeg c g
      | _ => if g.len = 0 then s.kvStart c else s.kvRow c g
    t.segEnd c i g r

/-- ENGINE_SEGMENT (08 R210): the segments of a command are unordered among themselves (07 R171), but `kvg` copies its rows in order (08
R214). The rows of a near-bank command go to the units of their banks (09 R227). -/
def execEngineSegment (cmd seg : Nat) (s : State) : Out :=
  .next (match s.cmd cmd with
    | none => s
    | some c => if c.frozen.isSome ∨ s.quiesced ∨ c.kind.nearBank ∨ (c.kind = .kvg ∧ seg ≠ 0) then s else s.segment c seg)

/-- FIXUP_REPLAY (08 R210, 11 R289): once the promotion has made the page present, its segment is replayed. -/
def execFixupReplay (cmd ent : Nat) (s : State) : Out :=
  .next (match s.cmd cmd with
    | none => s
    | some c => match c.fixups[ent]? with
      | none => s
      | some f => match f.promote with
        | none => s
        | some k =>
          if c.frozen.isNone ∧ !s.quiesced ∧ eTier (s.dirEntry k) ≤ 1 ∧ !eMoving (s.dirEntry k) then
            let c := { c with fixups := c.fixups.eraseIdx ent, segs := f.seg :: c.segs }
            (s.updCmd cmd (fun _ => c)).segment c 0
          else s)

/-- Whether everything that a command waits for is done. -/
def EngCmd.ready (c : EngCmd) : Bool :=
  c.segs.isEmpty && c.fixups.isEmpty && decide (c.items = 0) && !c.invalid && c.frozen.isNone && (c.err || c.coll.all (fun p => p.closed))

/-- The last act of a command: `kva` advances its cursor once its rows are written (08 R215). -/
def State.lastAct (s : State) (c : EngCmd) : State × EngRes :=
  if c.kind = .kva ∧ !c.err then
    let w := s.cmdWho c c.pos
    eEnd (s.tableWrite w (c.table + 0x40 + 4 * c.layer) 4 ((c.base + bits c.cnt.toNat 15 0) % 2 ^ 32)) fun s _ => (s, .done)
  else (s, .done)

/-- The flags of a near-bank command reach the A-stream FPFLAGS of the launch that issued it, or FLAGS of the control block once
that launch has ended (09 R227). -/
def State.postFlags (s : State) (c : EngCmd) : State :=
  match tget s.ctxs c.slot with
  | none => s
  | some x =>
    if x.launch.any (fun l => decide (l.started = c.launch)) then s.updCore c.slot c.pos (fun k => k.orFlags true c.flags)
    else s.setCbBits x 0x18 4 0 (bits (s.cbWord x 0x18).toNat 4 0 ||| c.flags.toNat)

/-- ENGINE_COMMAND_COMPLETE (08 R206, R221): the tag takes the completion; a collective across devices sets event 227. -/
def execEngineCommandComplete (cmd : Nat) (s : State) : Out :=
  .next (match s.cmd cmd with
    | none => s
    | some c =>
      if !c.ready then s
      else match s.lastAct c with
        | (t, .done) =>
          let t := (if c.flags = 0 then t else t.postFlags c).finishCmd c
          if c.coll.any (fun p => p.reach) then t.setEvent c.slot 227 else t
        | (t, r) => t.segEnd c 0 (kvStartSeg c.pos) r)

end Sys2Proof.Machine
end

