-- ==== Sys2Proof/Machine/NearBank.lean ====
section
/-! DEFINITION. Near-bank units (09): commands, items, row steps, microprograms, and the sharing of a bank with ordinary
traffic (11 R291, R293, R294). -/

namespace Sys2Proof.Machine

/-! ### Row arithmetic (09 R233, R235) -/

/-- The types of a near-bank command: f32, bf16, i32, i8. -/
def nbType (k : Nat) : Nat := [10, 9, 2, 0].getD k 10

/-- An integer result: i32 wraps, i8 saturates. -/
def nbInt (ty : Nat) (v : Int) : Nat := if ty = 0 then sat 0 v else wrapT ty v

/-- The parameter: an f32 for floating types, an i32 for integer types. -/
def nbParamF (p : Nat) : FV := decF 10 p
def nbParamI (p : Nat) : Int := decInt 2 p

/-- Element results. `a` is ba[s], or the one operand; `b` is ba[d] or Y. -/
def nbAdd (ty a b : Nat) : Nat × Flags := if tyInt ty then (nbInt ty (decInt ty a + decInt ty b), 0) else fAdd ty 0 a b
def nbMul (ty a b : Nat) : Nat × Flags := if tyInt ty then (nbInt ty (decInt ty a * decInt ty b), 0) else fMul ty 0 a b
def nbMax (ty a b : Nat) : Nat × Flags :=
  if tyInt ty then (if decInt ty a ≤ decInt ty b then b else a, 0) else minMax ty true a b
def nbScl (ty p a : Nat) : Nat × Flags :=
  if tyInt ty then (nbInt ty (nbParamI p * decInt ty a), 0)
  else finish ty 0 false [nbParamF p, decF ty a] false 0 (mulV (nbParamF p) (decF ty a))
def nbFill (ty p : Nat) : Nat × Flags :=
  if tyInt ty then ((if ty = 0 then sat 0 (nbParamI p) else p), 0)
  else if ty = 10 then (p, 0) else finish ty 0 false [nbParamF p] false 0 (some (nbParamF p))
def nbFma (ty p a b : Nat) : Nat × Flags :=
  if tyInt ty then (nbInt ty (nbParamI p * decInt ty a + decInt ty b), 0)
  else fusedV ty 0 false false (nbParamF p) (decF ty a) (decF ty b)

/-- A function of elements over the elements of two words, with their flags. -/
def mapWord (ty : Nat) (f : Nat → Nat → Nat × Flags) (a b : Word) : Word × Flags :=
  let w := tyWidth ty
  let rs := (List.range (64 / w)).map (fun i => f (a.toNat / 2 ^ (w * i) % 2 ^ w) (b.toNat / 2 ^ (w * i) % 2 ^ w))
  (BitVec.ofNat 64 (rs.foldr (fun r v => r.1 + 2 ^ w * v) 0), rs.foldl (fun g r => g ||| r.2) 0)

/-- A function of elements over two rows: a word depends on its two words, and is none when one of them is. -/
def zipRow (ty : Nat) (f : Nat → Nat → Nat × Flags) (a b : List (Option Word)) : List (Option Word) × Flags :=
  (a.zip b).foldr (fun x r => match x with
    | (some u, some v) => let (w, g) := mapWord ty f u v; (some w :: r.1, g ||| r.2)
    | _ => (none :: r.1, r.2)) ([], 0)

/-! ### Units and rows -/

/-- A unit with nothing to do, as it stands after reset: its accumulators hold zero words (log 57). -/
def NbUnit.idle : NbUnit :=
  { queue := [], ba0 := List.replicate 256 (some 0), ba1 := List.replicate 256 (some 0), store := [], upc := 0, suspended := false, since := 0, fired := false }

/-- The unit of a bank. -/
def State.nbUnit (s : State) (bank : Nat) : NbUnit := (tget s.units bank).getD NbUnit.idle

/-- Replace a unit. -/
def State.setUnit (s : State) (bank : Nat) (u : NbUnit) : State := { s with units := tset s.units bank u }

/-- Change the item at the head of a unit's queue. -/
def State.setHead (s : State) (bank : Nat) (it : NbItem) : State :=
  let u := s.nbUnit bank
  s.setUnit bank { u with queue := it :: u.queue.drop 1 }

/-- The words of a row with their codes. -/
def State.rowRaw (s : State) (pa : Nat) : List CWord := (List.range 256).map (fun i => s.physWord (pa + 8 * i))

/-- The words of a row as the unit's lane takes them; words that cannot be corrected are none, and put the item in error (09 R243). -/
def State.laneRow (s : State) (c : EngCmd) (pa : Nat) (ws : List CWord) : State × List (Option Word) :=
  let row := ws.map CWord.use
  match row.findIdx? (fun w => w.isNone) with
  | none => (s, row)
  | some i =>
    let s := s.updCmd c.id (fun c => { c with err := true })
    (s.wordRecord (s.whoOf c.slot 0).dom c.slot ((s.placedAt c.slot c.pos).getD 0) (pa + 8 * i) 2 0, row)

/-- Post the words of a row that a lane has corrected in a buffer. -/
def State.postWords (s : State) (d pa : Nat) (ws : List CWord) : State :=
  ws.zipIdx.foldl (fun s w => if fixable w.1.syn then s.corrected d (pa + 8 * w.2) else s) s

/-- A row read for arithmetic. -/
def State.rowIn (s : State) (c : EngCmd) (pa : Nat) : State × List (Option Word) :=
  (s.postPhys (s.whoOf c.slot 0).dom pa 2048).laneRow c pa (s.rowRaw pa)

/-- Write a row from the unit: words with new codes, poisoned where they depend on a word that cannot be corrected. -/
def State.rowOut (s : State) (pa : Nat) (row : List (Option Word)) : State :=
  s.physSetWords pa (row.map (fun w => match w with
    | some v => CWord.good v
    | none => CWord.poison))

/-- OR flags into a command's. -/
def State.cmdFlags (s : State) (c : EngCmd) (fl : Flags) : State := s.updCmd c.id (fun c => { c with flags := c.flags ||| fl })

/-- The item at the head of a unit ends. -/
def State.nbFinish (s : State) (bank : Nat) (c : EngCmd) (err : Bool) : State :=
  let u := s.nbUnit bank
  let s := s.setUnit bank { u with queue := u.queue.drop 1, upc := 0, since := s.ptp, fired := false }
  s.updCmd c.id (fun c => { c with items := c.items - 1, err := c.err || err })

/-- Whether an ordinary request to the pseudo-channel of a bank has waited longer than `age`. -/
def State.olderThan (s : State) (bank age : Nat) : Bool :=
  s.reqs.any (fun q => decide (q.1 / 16 = bank / 16) && (q.2.take 4).any (fun r => decide (r.since + age < s.ptp)))

/-- Whether the unit of a bank is suspended (09 R241). -/
def State.heldBack (s : State) (bank : Nat) : Bool := (s.nbUnit bank).suspended || s.olderThan bank s.res.agecap

/-- Whether the unit of `bank` may start a step at the bank `place` now (09 R240, R241): one that holds the bank waits for the ordinary
requests there, unless it has been ready for 2 µs; those owed go first in any case. A read of a source row in another bank yields to the traffic of both
pseudo-channels (log 58). -/
def State.mayStep (s : State) (bank place : Nat) (holds : Bool) : Bool :=
  let q := (tget s.reqs place).getD []
  !s.heldBack bank && (!holds || (!s.heldBack place && !q.any BankReq.owed && (q.isEmpty || decide ((s.nbUnit bank).since + 2000 ≤ s.ptp))))

/-- After a step: the ordinary requests now waiting at the bank that it held go before the next one that holds it, and that bank is
closed. -/
def State.stepped (s : State) (bank place : Nat) (holds : Bool) : State :=
  let s := s.setUnit bank { s.nbUnit bank with since := s.ptp, fired := false }
  if holds then
    { s with
      openRow := tdel s.openRow place
      reqs := match tget s.reqs place with
        | some q => tset s.reqs place (q.map (fun r => { r with owed := true }))
        | none => s.reqs }
  else s

/-- The head item of a unit with its command, unless that is frozen. -/
def State.nbHead (s : State) (bank : Nat) : Option (NbItem × EngCmd) :=
  match (s.nbUnit bank).queue with
  | [] => none
  | it :: _ => match s.cmd it.cmd with
    | none => none
    | some c => if c.frozen.isSome then none else some (it, c)

/-! ### Microinstructions (09 R235, R236) -/

/-- An accumulator, and writing one. -/
def NbUnit.ba (u : NbUnit) (i : Bool) : List (Option Word) := if i then u.ba1 else u.ba0
def NbUnit.setBa (u : NbUnit) (i : Bool) (r : List (Option Word)) : NbUnit := if i then { u with ba1 := r } else { u with ba0 := r }

/-- Whether a microinstruction's step holds the bank. -/
def microHolds (op : Nat) : Bool := op == 1 || op == 2 || op == 3 || op == 10 || op == 11

/-- The effect of a microinstruction on an item. -/
def State.microStep (s : State) (bank : Nat) (it : NbItem) (c : EngCmd) (op : Nat) (d b : Bool) : State :=
  let u := s.nbUnit bank
  let ty := nbType (c.op % 8)
  let p := bits c.cnt.toNat 63 32
  let acc (f : Nat → Nat → Nat × Flags) : State :=
    let (r, fl) := zipRow ty f (u.ba b) (u.ba d)
    (s.setUnit bank (u.setBa d r)).cmdFlags c fl
  let own (f : Nat → Nat × Flags) : State :=
    let (r, fl) := zipRow ty (fun _ y => f y) (u.ba d) (u.ba d)
    (s.setUnit bank (u.setBa d r)).cmdFlags c fl
  let rmw (f : Nat → Nat → Nat × Flags) : State :=
    let (s, y) := s.rowIn c it.dst
    let (r, fl) := zipRow ty f (u.ba b) y
    (s.rowOut it.dst r).cmdFlags c fl
  match op with
  | 1 => let (s, x) := s.rowIn c it.src; s.setUnit bank (u.setBa d x)
  | 2 => let (s, y) := s.rowIn c it.dst; s.setUnit bank (u.setBa d y)
  | 3 => s.rowOut it.dst (u.ba b)
  | 4 => acc (nbAdd ty)
  | 5 => acc (nbMul ty)
  | 6 => acc (nbMax ty)
  | 7 => own (nbScl ty p)
  | 8 =>
    let (w, fl) := mapWord ty (fun _ _ => nbFill ty p) 0 0
    (s.setUnit bank (u.setBa d (List.replicate 256 (some w)))).cmdFlags c fl
  | 9 => acc (nbFma ty p)
  | 10 => rmw (nbAdd ty)
  | 11 => rmw (nbFma ty p)
  | _ => s

/-- A microinstruction as the next step of a started item at UPC; the item ends after the last, and at END. -/
def State.micro (s : State) (bank op : Nat) (d b : Bool) : State :=
  match s.nbHead bank with
  | none => s
  | some (it, c) =>
    if c.kind = .nbRun ∧ it.started then
      if op = 0 then s.nbFinish bank c false
      else if s.mayStep bank bank (microHolds op) then
        let s := (s.microStep bank it c op d b).stepped bank bank (microHolds op)
        let u := s.nbUnit bank
        if u.upc + 1 < u.store.length then s.setUnit bank { u with upc := u.upc + 1 } else s.nbFinish bank c false
      else s
    else s

/-- NBU_END (09 R235). -/
def execNbuEnd (s : State) : Out := .next (s.micro s.bankHere 0 false false)

/-- NBU_LDX (09 R235). -/
def execNbuLdx (d : Bool) (s : State) : Out := .next (s.micro s.bankHere 1 d false)

/-- NBU_LDY (09 R235). -/
def execNbuLdy (d : Bool) (s : State) : Out := .next (s.micro s.bankHere 2 d false)

/-- NBU_STY (09 R235). -/
def execNbuSty (b : Bool) (s : State) : Out := .next (s.micro s.bankHere 3 false b)

/-- NBU_ADD (09 R235). -/
def execNbuAdd (d b : Bool) (s : State) : Out := .next (s.micro s.bankHere 4 d b)

/-- NBU_MUL (09 R235). -/
def execNbuMul (d b : Bool) (s : State) : Out := .next (s.micro s.bankHere 5 d b)

/-- NBU_MAX (09 R235). -/
def execNbuMax (d b : Bool) (s : State) : Out := .next (s.micro s.bankHere 6 d b)

/-- NBU_SCL (09 R235). -/
def execNbuScl (d : Bool) (s : State) : Out := .next (s.micro s.bankHere 7 d false)

/-- NBU_FILL (09 R235). -/
def execNbuFill (d : Bool) (s : State) : Out := .next (s.micro s.bankHere 8 d false)

/-- NBU_FMA (09 R235). -/
def execNbuFma (d b : Bool) (s : State) : Out := .next (s.micro s.bankHere 9 d b)

/-- NBU_ACCY (09 R235). -/
def execNbuAccy (b : Bool) (s : State) : Out := .next (s.micro s.bankHere 10 false b)

/-- NBU_AXPY (09 R235). -/
def execNbuAxpy (b : Bool) (s : State) : Out := .next (s.micro s.bankHere 11 false b)

/-! ### Row steps (09 R229-R233, R237) -/

/-- Start a microprogram's item (09 R236): one whose rows lie in different banks ends in error. -/
def State.runStart (s : State) (bank : Nat) (it : NbItem) (c : EngCmd) : State :=
  if bankOf it.src ≠ bank then s.nbFinish bank c true
  else
    let u := s.nbUnit bank
    let zero : List (Option Word) := List.replicate 256 (some 0)
    (s.setUnit bank { u with store := c.prog, ba0 := zero, ba1 := zero, upc := 0, since := s.ptp }).setHead bank { it with started := true }

/-- Row buffers of a stack's base die that items hold: there are sixteen. -/
def State.buffersUsed (s : State) (stack : Nat) : Nat :=
  (s.units.map (fun u => (u.2.queue.filter (fun it => it.buffer.isSome && decide (stackOf it.src = stack))).length)).sum

/-- Towards the source row in a base-die row buffer of its stack (09 R231): take a free one, or read the row into it, a step that holds the
source bank. -/
def State.bufferStep (s : State) (bank : Nat) (it : NbItem) : State :=
  let place := bankOf it.src
  match it.buffer with
  | none =>
    if s.buffersUsed (stackOf it.src) < 16 then
      (s.setUnit bank { s.nbUnit bank with since := s.ptp }).setHead bank { it with buffer := some [] }
    else s
  | some _ =>
    if s.mayStep bank place true then
      (s.setHead bank { it with started := true, buffer := some (s.rowRaw it.src) }).stepped bank place true
    else s

/-- A step at the bank of the unit that holds it and performs the last act of its item. -/
def State.lastStep (s : State) (bank : Nat) (c : EngCmd) (f : State → State) : State :=
  if s.mayStep bank bank true then ((f s).stepped bank bank true).nbFinish bank c false else s

/-- Whether the destination rows of a copy overlap its source rows, wherever the addresses lie (08 R205, 09 R230). -/
def State.rowsClash (s : State) (c : EngCmd) : Bool :=
  let n := c.cnt.toNat % 8192 * 2048
  opsOverlap c.dst c.src n || runsMeet (s.reach (s.cmdWho c c.pos) c.src n) (s.reach (s.cmdWho c c.pos) c.dst n)

/-- A row as a copy writes it: undefined where the rows of the command overlap. -/
def State.copyRow (s : State) (c : EngCmd) (ws : List CWord) : List CWord :=
  if s.rowsClash c then (List.range 256).map (fun i => CWord.good (Config.freeBits 64 s.tick (2 ^ 26 + i))) else ws

/-- A step of a copy (09 R230, R231): within one subarray at once, otherwise through a base-die buffer. -/
def State.copyStep (s : State) (bank : Nat) (it : NbItem) (c : EngCmd) : State :=
  if bankOf it.src = bank ∧ subarrayOf it.src = subarrayOf it.dst then
    s.lastStep bank c (fun s => s.physSetWords it.dst (s.copyRow c (s.rowRaw it.src)))
  else match it.buffer with
    | some (w :: ws) => s.lastStep bank c (fun s => s.physSetWords it.dst (s.copyRow c (w :: ws)))
    | _ => s.bufferStep bank it

/-- A step of scale and add (09 R233): x into ba0, from its row in y's bank or through a base-die buffer, then y. -/
def State.axpyStep (s : State) (bank : Nat) (it : NbItem) (c : EngCmd) : State :=
  let u := s.nbUnit bank
  if u.upc ≠ 0 then s.lastStep bank c (fun s => s.microStep bank it c 11 false false)
  else if bankOf it.src = bank then
    if s.mayStep bank bank true then
      let s := ((s.microStep bank it c 1 false false).setHead bank { it with started := true }).stepped bank bank true
      s.setUnit bank { s.nbUnit bank with upc := 1 }
    else s
  else match it.buffer with
    | some (w :: ws) =>
      if s.mayStep bank bank false then
        let (s, x) := (s.postWords (s.whoOf c.slot 0).dom it.src (w :: ws)).laneRow c it.src (w :: ws)
        let s := (s.setHead bank { it with buffer := none }).stepped bank bank false
        s.setUnit bank { s.nbUnit bank with ba0 := x, upc := 1 }
      else s
    | _ => s.bufferStep bank it

/-- The operation of 08 R217 that an `nb.amo` code names. -/
def nbAmoOp (k : Nat) : Nat := if k = 6 then 8 else if k = 7 then 9 else k

/-- The type of an `nb.amo` command: its width is a[B][16]. -/
def EngCmd.amoType (c : EngCmd) : Nat := aAmoType (nbAmoOp c.op) (BitVec.ofNat 4 (bits c.cnt.toNat 16 16))

/-- An entry of an atomic group (09 R237, R243): an old word that cannot be corrected stays, and the command ends in error. -/
def State.amoEntry (s : State) (c : EngCmd) (e : NbEntry) : State :=
  match s.atomicAt (s.whoOf c.slot 0).dom e.at_ (nbAmoOp c.op) c.amoType e.val.toNat 0 with
  | (t, .ok o) => t.cmdFlags c o.flags
  | (t, .data a) =>
    (t.wordRecord (t.whoOf c.slot 0).dom c.slot ((t.placedAt c.slot c.pos).getD 0) a 2 0).updCmd c.id (fun c => { c with err := true })
  | (t, _) => t

/-- A base-die atomic group: the entries of an item in list order, in one step. -/
def State.amoStep (s : State) (bank : Nat) (it : NbItem) (c : EngCmd) : State :=
  s.lastStep bank c (fun s => it.entries.foldl (fun s e => s.amoEntry c e) s)

/-- NB_ROW_STEP (09 R229): the next step of the item at the head of a bank's queue. -/
def execNbRowStep (bank : Nat) (s : State) : Out :=
  .next (match s.nbHead bank with
    | none => s
    | some (it, c) => if s.quiesced && !it.started then s else match c.kind with
      | .nbZero => s.lastStep bank c (fun s => s.physSetWords it.dst (List.replicate 256 (CWord.good 0)))
      | .nbCopy => s.copyStep bank it c
      | .nbAxpy => s.axpyStep bank it c
      | .nbAmo => s.amoStep bank it c
      | .nbRun =>
        if !it.started then (if s.heldBack bank then s else s.runStart bank it c)
        else match (s.nbUnit bank).store[(s.nbUnit bank).upc]? with
          | none => s.nbFinish bank c false
          | some w => s.micro bank (w.extractLsb' 12 4).toNat (w.getLsbD 11) (w.getLsbD 10)
      | _ => s)

/-! ### Forwarding (09 R227, R228) -/

/-- A row operand on translation: its physical address and memory type. -/
def State.nbRow (s : State) (w : Who) (need : Need) (nbOnly : Bool) (va : Nat) : State × Except EngRes (Nat × Nat) :=
  match s.translate w need va with
  | (s, .fault) => (s, .error (.fix none))
  | (s, .viol a) => (s, .error (.viol a))
  | (s, .data a) => (s, .error (.data a))
  | (s, .ok pa ty) =>
    if placeOf pa ≠ .hbm ∨ (nbOnly ∧ ty ≠ 2) then (s, .error (.viol va)) else (s, .ok (pa, ty))

/-- The most entries of an atomic group (09 Table 09-1). -/
def groupMost : Nat := 64

/-- An entry of `nb.amo`: a target that is not a multiple of its width is skipped in error. -/
def State.amoTarget (s : State) (c : EngCmd) (w : Who) (g : Seg) : State × Except EngRes NbEntry :=
  eThen (s.laneWord w g.src) fun s target =>
    eThen (s.laneWord w (g.src + 8)) fun s operand =>
      if target.getLsbD 63 then (s, .error (.viol target.toNat))
      else if target.toNat % (tyWidth c.amoType / 8) ≠ 0 then (s, .error .err)
      else eThen (s.nbRow w needRW true target.toNat) fun s x => (s, .ok { idx := g.idx, at_ := x.1, val := operand })

/-- The entries that follow entry `e` in the list on the same row of DRAM, `n` at most: those that can be read now. -/
def State.amoMore (s : State) (c : EngCmd) (w : Who) (e : NbEntry) : Nat → List Seg → State × List NbEntry
  | n + 1, g :: r =>
    if g.idx ≠ e.idx + 1 then (s, [])
    else match s.amoTarget c w g with
      | (t, .ok x) =>
        if bankOf x.at_ = bankOf e.at_ ∧ rowOf x.at_ = rowOf e.at_ then
          let (t, l) := t.amoMore c w x n r
          (t, x :: l)
        else (s, [])
      | _ => (s, [])
  | _, _ => (s, [])

/-- The item of a segment and those after it, and whether its destination lines may have copies elsewhere (15 R368). -/
def State.nbItem (s : State) (c : EngCmd) (g : Seg) (more : List Seg) : State × Except EngRes (NbItem × Bool) :=
  let w := s.cmdWho c c.pos
  let pair := decide (c.kind = .nbAxpy) || decide (c.kind = .nbRun)
  let item (x y : Nat) (l : List NbEntry) : NbItem :=
    { cmd := c.id, row := g.idx, src := x, dst := y, suspends := 0, started := false, buffer := none, entries := l }
  if c.kind = .nbAmo then
    eThen (s.amoTarget c w g) fun s e =>
      let (s, l) := s.amoMore c w e (groupMost - 1) more
      (s, .ok (item e.at_ e.at_ (e :: l), false))
  else eThen (s.nbRow w (if pair then needRW else needW) pair g.dst.toNat) fun s y =>
    eThen (if c.kind = .nbZero then (s, .ok y) else s.nbRow w needR pair g.src.toNat) fun s x =>
      (s, .ok (item x.1 y.1 [], decide (y.2 ≠ 2)))

/-- Whether two commands come from one stream. -/
def EngCmd.sameStream (a b : EngCmd) : Bool := decide (a.slot = b.slot) && decide (a.pos = b.pos)

/-- Whether an item of the command's stream waits or runs at a bank. -/
def State.streamAt (s : State) (c : EngCmd) (bank : Nat) : Bool :=
  (s.nbUnit bank).queue.any (fun it => (s.cmd it.cmd).any (fun k => k.sameStream c))

/-- Put an item in its bank's queue. -/
def State.enqueue (s : State) (c : EngCmd) (j : Nat) (it : NbItem) (copies : Bool) : State :=
  let bank := bankOf it.dst
  let u := s.nbUnit bank
  let s := s.setUnit bank { u with queue := u.queue ++ [it], since := if u.queue = [] then s.ptp else u.since }
  let n := max 1 it.entries.length
  s.updCmd c.id (fun c => { c with segs := c.segs.take j ++ c.segs.drop (j + n), items := c.items + 1, invalid := c.invalid || copies })

/-- Put a segment back in order. -/
def insertSeg (g : Seg) : List Seg → List Seg
  | [] => [g]
  | h :: r => if g.idx < h.idx then g :: h :: r else h :: insertSeg g r

/-- The segment of a row or entry number. -/
def EngCmd.rowSeg (c : EngCmd) (i : Nat) : Seg :=
  if c.kind = .nbAmo then { idx := i, src := c.src + BitVec.ofNat 64 (16 * i), dst := 0, len := 16, pos := c.pos, zero := false }
  else { idx := i, src := c.src + BitVec.ofNat 64 (2048 * i), dst := c.dst + BitVec.ofNat 64 (2048 * i), len := 2048, pos := c.pos, zero := false }

/-- Withdraw a command's items from the bank queues: their rows are to do again (09 R228). -/
def State.withdraw (s : State) (c : EngCmd) : State :=
  let own (it : NbItem) : Bool := decide (it.cmd = c.id)
  let rows := s.units.flatMap (fun u => (u.2.queue.filter own).flatMap (fun it =>
    if it.entries = [] then [it.row] else it.entries.map NbEntry.idx))
  let units := s.units.map (fun u =>
    let rest := u.2.queue.filter (fun it => !own it)
    (u.1, if u.2.queue.head?.any own then { u.2 with queue := rest, upc := 0, since := s.ptp } else { u.2 with queue := rest }))
  ({ s with units := units }).updCmd c.id (fun c => { c with items := 0, segs := rows.foldl (fun l i => insertSeg (c.rowSeg i) l) c.segs })

/-- What a segment that gives no item comes to. -/
def State.nbSegEnd (s : State) (c : EngCmd) (j : Nat) (g : Seg) (r : EngRes) : State :=
  match r with
  | .err => s.updCmd c.id (fun c => { c with segs := c.segs.eraseIdx j, err := true })
  | .viol a => (s.withdraw c).cmdViol c a
  | r => s.segEnd c j g r

/-- Forward the next item in push order (09 R227), if it is one of the command `cmd`. An item bound for a full queue (`full` collects those
banks) lets the later ones pass; one whose source row lies in another bank waits until every earlier item bound for that bank
is performed. -/
def State.forwardFrom (s : State) (cmd : Nat) (full : List Nat) : List (EngCmd × Nat) → State
  | [] => s
  | (c, j) :: r =>
    match c.segs.drop j with
    | [] => s
    | g :: more => match s.nbItem c g more with
      | (t, .error e) => if c.id = cmd then t.nbSegEnd c j g e else s
      | (t, .ok (it, copies)) =>
        let bank := bankOf it.dst
        let place := bankOf it.src
        if 8 ≤ (s.nbUnit bank).queue.length then s.forwardFrom cmd (bank :: full) r
        else if c.id ≠ cmd ∨ (place ≠ bank ∧ (full.contains place || s.streamAt c place)) then s
        else t.enqueue c j it copies

/-- NB_ITEM_FORWARD (09 R227). -/
def execNbItemForward (cmd : Nat) (s : State) : Out :=
  .next (match s.cmd cmd with
    | none => s
    | some c =>
      if c.frozen.isSome ∨ s.quiesced ∨ !c.kind.nearBank then s
      else
        let mine := s.cmds.filter (fun k => k.kind.nearBank && k.sameStream c && k.frozen.isNone)
        s.forwardFrom cmd [] (mine.flatMap (fun k => (List.range k.segs.length).map (fun j => (k, j)))))

/-- NB_INVALIDATION_DONE (09 R232, 15 R368): after the last row is written, every die has dropped its copies of the
destination lines. -/
def execNbInvalidationDone (cmd : Nat) (s : State) : Out :=
  .next (match s.cmd cmd with
    | none => s
    | some c => if c.segs.isEmpty && c.fixups.isEmpty && decide (c.items = 0) then s.updCmd cmd (fun c => { c with invalid := false }) else s)

/-! ### Near-bank words (09 R227-R239) -/

/-- Push a near-bank command: hold while 16 of the stream's are not fully forwarded. -/
def State.nbPush (s : State) (c : EngCmd) : WordEnd :=
  if 16 ≤ (s.cmds.filter (fun k => k.kind.nearBank && k.sameStream c && !k.segs.isEmpty)).length then .wait s
  else s.pushCmd c

/-- A near-bank command with its rows or entries as segments. -/
def EngCmd.withRows (c : EngCmd) (n : Nat) : EngCmd := { c with segs := (List.range n).map c.rowSeg }

/-- Whether a register may name rows: a global address, a multiple of 2,048 (09 R228). -/
def rowOperand (w : Word) : Bool := !w.getLsbD 63 && decide (w.toNat % 2048 = 0)

/-- A near-bank row word. `hi` is the least bit of a[B] that must be zero with all above it below bit `top`. -/
def aRows (kind : EngKind) (top : Nat) (op : Nat) (bad : State → Bool) (r : An) (s : State) : State :=
  aPush r (fun s d a b =>
    let n := b.toNat % 8192
    if !rowOperand d ∨ !rowOperand a ∨ n = 0 ∨ 4096 < n ∨ bits b.toNat (top - 1) 13 ≠ 0 ∨ bad s then .trap causeIll 0
    else s.nbPush { (s.newCmd kind (anTag r) 0 op d a b []).withRows n with prog := s.core.nbprog }) s

/-- NB_COPY (09 R230). -/
def execNbCopy (r : An) (s : State) : Out := .next (aRows .nbCopy 64 0 (fun _ => false) r s)

/-- NB_ZERO (09 R230). -/
def execNbZero (r : An) (s : State) : Out := .next (aRows .nbZero 64 0 (fun _ => false) r s)

/-- NB_AXPY (09 R233). -/
def execNbAxpy (r : An) (s : State) : Out := .next (aRows .nbAxpy 32 (anHi r) (fun _ => false) r s)

/-- NB_RUN (09 R236): an empty NBPROG is illegal. -/
def execNbRun (r : An) (s : State) : Out := .next (aRows .nbRun 32 (anHi r) (fun s => s.core.nbprog.isEmpty) r s)

/-- An `nb.amo` word (09 R237). -/
def aNbAmo (op : Nat) (r : An) (s : State) : State :=
  aPush r (fun s d a b =>
    let n := b.toNat % 65536
    if n = 0 ∨ b.extractLsb' 17 47 ≠ 0 then .trap causeIll 0
    else s.nbPush ((s.newCmd .nbAmo (anTag r) 0 op d a b []).withRows n)) s

/-- NB_AMO_ADD (09 R237). -/
def execNbAmoAdd (r : An) (s : State) : Out := .next (aNbAmo 0 r s)

/-- NB_AMO_AND (09 R237). -/
def execNbAmoAnd (r : An) (s : State) : Out := .next (aNbAmo 1 r s)

/-- NB_AMO_OR (09 R237). -/
def execNbAmoOr (r : An) (s : State) : Out := .next (aNbAmo 2 r s)

/-- NB_AMO_XOR (09 R237). -/
def execNbAmoXor (r : An) (s : State) : Out := .next (aNbAmo 3 r s)

/-- NB_AMO_MIN (09 R237). -/
def execNbAmoMin (r : An) (s : State) : Out := .next (aNbAmo 4 r s)

/-- NB_AMO_MAX (09 R237). -/
def execNbAmoMax (r : An) (s : State) : Out := .next (aNbAmo 5 r s)

/-- NB_AMO_FADD (09 R237). -/
def execNbAmoFadd (r : An) (s : State) : Out := .next (aNbAmo 6 r s)

/-- NB_AMO_FMAX (09 R237). -/
def execNbAmoFmax (r : An) (s : State) : Out := .next (aNbAmo 7 r s)

/-- NB_FENCE (09 R238). -/
def execNbFence (r : An) (s : State) : Out :=
  .next (s.aWord r.l r.f [] true fun s =>
    if s.cmds.any (fun c => c.kind.nearBank && decide (some c.slot = s.core.ctx) && decide (c.pos = s.core.pos) && decide (c.launch = s.launchId)) then .wait s
    else .done s)

/-- The value of `nb.stat` for a bank (09 Table 09-3). -/
def State.nbStatus (s : State) (slot bank : Nat) : Word :=
  let u := s.nbUnit bank
  let mine (it : NbItem) : Bool := (s.cmd it.cmd).any (fun c => decide (c.slot = slot))
  let depth := (u.queue.filter mine).length
  match u.queue.findIdx? mine with
  | none => 0
  | some i =>
    let it := u.queue[i]?
    let run := decide (i = 0)
    BitVec.ofNat 64 (depth * 2 ^ 48 + (if run then u.upc else 0) * 2 ^ 44 + (if run && u.suspended then 2 else 1) * 2 ^ 42 +
      (it.map (fun x => x.suspends)).getD 0)

/-- NB_STAT (09 R239). -/
def execNbStat (r : An) (s : State) : Out :=
  .next (s.aWord r.l r.f [r.a.toNat, r.d.toNat] false fun s =>
    let va := s.getA 0 r.a.toNat
    match s.translate s.who needR va.toNat with
    | (_, .fault) => .trap causePages va
    | (_, .viol a) => .trap causeViol (BitVec.ofNat 64 a)
    | (_, .data a) => .trap causeData (BitVec.ofNat 64 a)
    | (t, .ok pa _) => .done (t.setA r.d.toNat (if placeOf pa = .hbm then t.nbStatus (t.core.ctx.getD 0) (bankOf pa) else 0)))

/-- NB_PROG (09 R234): an address that is not a multiple of 2 is illegal (log 16). -/
def execNbProg (r : An) (s : State) : Out :=
  .next (s.aWord r.l r.f [r.a.toNat] false fun s =>
    let op := s.getA 0 r.a.toNat
    let n := r.k.toNat % 16 + 1
    if op.getLsbD 0 then .trap causeIll 0
    else
      let g : State × Got (List Byte) := match engAddr op with
        | .bad => (s, .viol op.toNat)
        | .store a => (s, s.sRead s.who a (2 * n))
        | .global a => s.gRead s.who needR a (2 * n)
      State.aGot g op.toNat (2 * n) (fun _ => .prog n) (fun t o => t.takeProg n (t.mgmtRead o (2 * n))) (fun t bs => t.takeProg n bs))

/-! ### Sharing the bank (09 R240, R241; 11 R291, R293, R294) -/

/-- Suspend the unit of a bank when it is due (09 R241): the suspension counts for the item at the head of its queue. -/
def State.suspend (s : State) (bank : Nat) : State :=
  let u := s.nbUnit bank
  if !u.suspended && s.olderThan bank s.res.agecap then
    s.setUnit bank { u with
      suspended := true
      queue := match u.queue with
        | [] => []
        | it :: r => { it with suspends := it.suspends + 1 } :: r }
  else s

/-- NB_SUSPEND (09 R241). -/
def execNbSuspend (bank : Nat) (s : State) : Out := .next (s.suspend bank)

/-- NB_RESUME (09 R241). -/
def execNbResume (bank : Nat) (s : State) : Out :=
  .next (if (s.nbUnit bank).suspended && !s.olderThan bank (s.res.agecap / 2) then
      s.setUnit bank { s.nbUnit bank with suspended := false, since := s.ptp }
    else s)

/-- The place of the request that the controller takes next among the first four of a queue (11 R294). -/
def nextReq (q : List BankReq) (open_ : Option Nat) (now cap : Nat) : Nat :=
  let q := q.take 4
  match q.findIdx? (fun r => decide (r.since + cap < now)) with
  | some i => i
  | none => (q.findIdx? (fun r => decide (some r.row = open_))).getD 0

/-- Rotate left within 12 bits. -/
def sketchHash (pn j : Nat) : Nat := bits pn 11 0 ^^^ rotW 12 (bits pn 22 12) (3 * j)

/-- The estimate of a page (11 R291). -/
def Stack.est (t : Stack) (pn : Nat) : Nat :=
  (least ((List.range 4).map (fun j => (tget t.sketch (j * 4096 + sketchHash pn j)).getD 0))).getD 0

/-- The entry that a page would replace: that of the least estimate, and among equal ones that of the greater page number. -/
def weakest (l : List (Nat × Nat)) : Option (Nat × Nat) :=
  l.foldl (fun m e => match m with
    | none => some e
    | some w => if e.2 < w.2 ∨ (e.2 = w.2 ∧ w.1 < e.1) then some e else some w) none

/-- Count an access to a page, and update the working list of 64 (11 R291). -/
def Stack.count (t : Stack) (pn : Nat) : Stack :=
  let sk := (List.range 4).foldl (fun m j =>
    let k := j * 4096 + sketchHash pn j
    tset m k (min 65535 ((tget m k).getD 0 + 1))) t.sketch
  let t := { t with sketch := sk }
  let e := t.est pn
  let w := t.working
  if w.any (fun x => decide (x.1 = pn)) then { t with working := w.map (fun x => if x.1 = pn then (pn, e) else x) }
  else if w.length < 64 then { t with working := w ++ [(pn, e)] }
  else match weakest w with
    | some m => if m.2 < e then { t with working := w.map (fun x => if x = m then (pn, e) else x) } else t
    | none => t

/-- Count a sample in the monitor of the domain that a die belongs to. -/
def State.dieSample (s : State) (die i v : Nat) : State :=
  match s.doms.find? (fun d => d.2.dies.getLsbD die) with
  | none => s
  | some d => s.sample d.1 i v

/-- BANK_REQUEST_ISSUE (11 R294, R291): the request leaves the queue and opens its row; the next one waiting enters. The units of its
pseudo-channel that its wait has suspended are so before it goes (09 R241). Monitor 4 takes the wait of one request in 1,024,
which ones being open (13 Table 13-11). -/
def execBankRequestIssue (bank : Nat) (s : State) : Out :=
  .next (
    let s := (from' (bank / 16 * 16) 16).foldl State.suspend s
    let q := (tget s.reqs bank).getD []
    let i := nextReq q (tget s.openRow bank) s.ptp s.res.agecap
    match q[i]? with
    | none => s
    | some r =>
      let rest := q.eraseIdx i
      let rest := rest.take 3 ++ (rest.drop 3).mapIdx (fun k (x : BankReq) => if k = 0 then { x with since := s.ptp } else x)
      let s := if Config.freeBits 10 s.tick (2 ^ 36) = 0 then s.dieSample (bank / 2048) 4 (s.ptp - r.since) else s
      { s with
        reqs := if rest = [] then tdel s.reqs bank else tset s.reqs bank rest
        openRow := tset s.openRow bank r.row
        hbm := tset s.hbm (bank / 1024) ((s.stack (bank / 1024)).count r.pn) })

/-- REFRESH (09 R240, 11 R295): a refresh closes the bank; the unit does not hold it meanwhile. -/
def execRefresh (bank : Nat) (s : State) : Out := .next { s with openRow := tdel s.openRow bank }

/-- The entries of a list in decreasing estimate, the lower page first among equals. -/
def insertTop (e : Nat × Nat) : List (Nat × Nat) → List (Nat × Nat)
  | [] => [e]
  | x :: r => if x.2 < e.2 ∨ (x.2 = e.2 ∧ e.1 < x.1) then e :: x :: r else x :: insertTop e r

/-- SKINT_EXPIRY (11 R291): the working list is published, and counting starts again. -/
def execSkintExpiry (stack : Nat) (s : State) : Out :=
  .next (
    let t := s.stack stack
    if t.since + s.res.skint ≤ s.ptp then
      { s with hbm := tset s.hbm stack { t with top := t.working.foldl (fun l e => insertTop e l) [], working := [], sketch := [], since := s.ptp } }
    else s)

/-- MSC_FILTER_CLEAR (11 R293): after MSCWIN misses the filter is cleared. -/
def execMscFilterClear (slice : Nat) (s : State) : Out :=
  .next (
    let t := s.stack slice
    if s.res.mscwin ≤ t.misses then { s with hbm := tset s.hbm slice { t with filter := [], misses := 0 } } else s)

end Sys2Proof.Machine
end

