-- ==== Sys2Proof/Machine/Coll.lean ====
section
/-! DEFINITION. Collectives (08 R221, R222; 13 R345, R346). -/

namespace Sys2Proof.Machine

/-! ### Groups and attempts -/

/-- The name of a group: its rectangle at reach 0, its device group id at reach 1 (08 R221). -/
def groupKey (reach : Bool) (v : Nat) : Nat := if reach then 2 ^ 32 + bits v 95 64 else bits v 81 64

/-- The highest attempt that a group has completed or aborted; 0 before any. -/
def State.highest (s : State) (slot group : Nat) : Nat :=
  ((s.groups.find? (fun g => decide (g.slot = slot) && decide (g.group = group))).map (fun g => g.highest)).getD 0

/-- Record an attempt as completed or aborted. -/
def State.settleAttempt (s : State) (slot group attempt : Nat) : State :=
  let h := max attempt (s.highest slot group)
  { s with groups := s.groups.filter (fun g => !(decide (g.slot = slot) && decide (g.group = group))) ++ [{ slot := slot, group := group, highest := h }] }

/-- Whether a command is a member's of an attempt. -/
def EngCmd.inAttempt (c : EngCmd) (slot group attempt : Nat) : Bool :=
  decide (c.slot = slot) && c.coll.any (fun p => decide (p.group = group) && decide (p.attempt = attempt))

/-- Bytes that a member contributes, and bytes of its destination. -/
def CollPart.bytes (p : CollPart) : Nat := p.count * tyWidth p.ty / 8
def CollPart.outBytes (p : CollPart) : Nat :=
  match p.op with
  | 3 => p.count / p.size * tyWidth p.ty / 8
  | 4 => p.bytes * p.size
  | _ => p.bytes

/-! ### Results -/

/-- Combine neighbours: one level of the pairwise tree (03 R74). -/
def pairLevel {α : Type} (f : α → α → α) : List α → List α
  | a :: b :: r => f a b :: pairLevel f r
  | l => l

/-- The pairwise tree over the members in rank order; `fuel` bounds its levels. -/
def pairTree {α : Type} (f : α → α → α) : Nat → List α → Option α
  | 0, l => l.head?
  | fuel + 1, l => match l with
    | [] => none
    | [a] => some a
    | l => pairTree f fuel (pairLevel f l)

/-- The least of two elements. -/
def collMin (ty a b : Nat) : Nat × Flags :=
  if tyInt ty then (if decInt ty a ≤ decInt ty b then a else b, 0) else minMax ty false a b

/-- The element operation of a reduction. -/
def collOp (op ty a b : Nat) : Nat × Flags :=
  match op with
  | 1 => nbMax ty a b
  | 2 => collMin ty a b
  | _ => nbAdd ty a b

/-- The reduction of contributions in rank order, with its flags; a word is none where one that it depends on is contained. -/
def collReduce (op ty : Nat) (rows : List (List CWord)) : List (Option Word) × Flags :=
  (pairTree (fun (a b : List (Option Word) × Flags) =>
    let (r, fl) := zipRow ty (collOp op ty) a.1 b.1
    (r, a.2 ||| b.2 ||| fl)) rows.length (rows.map (fun r => (r.map CWord.use, (0 : Flags))))).getD ([], 0)

/-- The bytes of consumed words. -/
def rowBytes (row : List (Option Word)) : List (Option Byte) :=
  row.flatMap (fun w => (List.range 8).map (fun i => w.map (fun v => v.extractLsb' (8 * i) 8)))

/-- What a member received, by rank. -/
def CollPart.rows (p : CollPart) : List (List CWord) := (List.range p.size).map (fun i => (tget p.got i).getD [])

/-- The words that the destination takes whole, for operations that only move them. -/
def CollPart.moved (p : CollPart) : List CWord := if p.op = 4 then p.rows.flatMap id else (tget p.got p.root).getD []

/-- The bytes of the destination, with flags. -/
def CollPart.result (p : CollPart) : List (Option Byte) × Flags :=
  if 4 ≤ p.op then
    if p.op = 4 then (p.rows.flatMap (fun r => (rowBytes (r.map CWord.use)).take p.bytes), 0)
    else ((rowBytes (((tget p.got p.root).getD []).map CWord.use)).take p.bytes, 0)
  else
    let (row, fl) := collReduce p.op p.ty p.rows
    let bs := rowBytes row
    (if p.op = 3 then (bs.drop (p.rank * p.outBytes)).take p.outBytes else bs.take p.bytes, fl)

/-- Whether a member has every contribution that it needs. -/
def CollPart.complete (p : CollPart) : Bool :=
  if p.op = 5 then (tget p.got p.root).isSome else (List.range p.size).all (fun i => (tget p.got i).isSome)

/-! ### Aborting (08 R222; 13 R345) -/

/-- The destination of an aborted command is undefined (00 R7), as is one that overlaps its source (08 R205). -/
def State.scribble (s : State) (c : EngCmd) (n : Nat) : State :=
  match s.runs (s.cmdWho c c.pos) needW c.dst n with
  | (s, .ok rd) => (s.putBytes (s.cmdWho c c.pos).dom rd ((List.range n).map (fun i => some (Config.freeBits 8 s.tick (2 ^ 28 + 2 ^ 40 * c.id + i))))).1
  | (s, _) => s

/-- An abort token: discarded once the attempt is settled or its close is sent; otherwise every member's command ends in
error. -/
def State.collAbort (s : State) (slot group attempt : Nat) : State :=
  let mine := s.cmds.filter (fun c => c.inAttempt slot group attempt && !c.err)
  if attempt ≤ s.highest slot group ∨ mine.any (fun c => c.coll.any (fun p => p.sent || p.closed)) then s
  else
    let s := mine.foldl (fun s c => s.scribble c ((c.coll.map (fun p => p.outBytes)).getD 0)) s
    let s := mine.foldl (fun s c => s.updCmd c.id (fun c => { c.drop with coll := c.coll.map (fun p => { p with aborted := true }) })) s
    s.settleAttempt slot group attempt

/-- ABORT_TOKEN (13 R345). The group is named by its context's slot in [63:33] and its `groupKey` in [32:0]. -/
def execAbortToken (group attempt : Nat) (s : State) : Out := .next (s.collAbort (group / 2 ^ 33) (group % 2 ^ 33) attempt)

/-- COLLTO_EXPIRY (13 R346): a member that has heard nothing for 10 ms aborts its attempt. -/
def execColltoExpiry (cmd : Nat) (s : State) : Out :=
  .next (match s.cmd cmd with
    | none => s
    | some c => match c.coll with
      | none => s
      | some p => if !c.err && !p.closed && decide (p.since + 10000000 ≤ s.ptp) then s.collAbort c.slot p.group p.attempt else s)

/-! ### Contributions and the close (08 R221; 13 R345) -/

/-- Check words from bytes that landing lanes took: a word that a contained byte reaches is poisoned. -/
def laneWords (bs : List (Option Byte)) : List CWord :=
  (List.range ((bs.length + 7) / 8)).map (fun i =>
    let b := (bs.drop (8 * i)).take 8
    if b.any (fun x => x.isNone) then CWord.poison else CWord.good (BitVec.ofNat 64 (ofBytes (b.map (fun x => x.getD 0)))))

/-- A member's source: whole check words where the transfer is of whole words (08 R205), else bytes through landing lanes, with the first
word that these contained. -/
def State.collSource (s : State) (c : EngCmd) (p : CollPart) : State × Except EngRes (List CWord × Option Nat) :=
  let w := s.cmdWho c c.pos
  match s.runs w needR c.src p.bytes with
  | (s, .ok rs) =>
    if allWords c.src 0 p.bytes then (s, .ok (rs.zipIdx.flatMap (fun r => s.runWords (2 ^ 20 * r.2) r.1), none))
    else
      let bs := rs.zipIdx.flatMap (fun r => s.runBytes (2 ^ 20 * r.2) r.1)
      (s.postRuns w.dom rs, .ok (laneWords bs, firstBad rs bs))
  | (s, g) => (s, .error g.res)

/-- Where a member's destination lies. -/
def State.collDest (s : State) (c : EngCmd) : State × Got (List (Loc × Nat)) :=
  s.runs (s.cmdWho c c.pos) needW c.dst ((c.coll.map (fun p => p.outBytes)).getD 0)

/-- The mark of a member's read of rank `r`'s contribution, or with none of its own reduction, among the strikes of its command (13 R334). -/
def collMark (rank : Option Nat) : Seg :=
  { idx := (rank.map (· + 1)).getD 0, src := 0, dst := 0, len := 0, pos := 0, zero := false }

/-- What a source or destination that cannot be reached comes to: a page that is not there ends the command in error. -/
def State.collEnd (s : State) (c : EngCmd) (r : EngRes) : State :=
  match r with
  | .viol a => s.cmdViol c a
  | .data a => s.cmdData c a
  | .wait => s
  | _ => s.updCmd c.id EngCmd.drop

/-- A member takes a contribution. A read of it that failed before was transient. -/
def State.collTake (s : State) (c : EngCmd) (rank : Nat) (ws : List CWord) : State :=
  let own (x : Seg × Nat) : Bool := decide (x.1 = collMark (some rank))
  (s.cmdRecords c (c.strike.filter own)).updCmd c.id (fun c =>
    { c with strike := c.strike.filter (fun x => !own x), coll := c.coll.map (fun p => { p with got := tset p.got rank ws, since := s.ptp }) })

/-- A lane of a member contained a word: what it read is read once more, and a second failure ends the command in error and parks
its context (13 R334). -/
def State.collStrike (s : State) (c : EngCmd) (mark : Seg) (addr : Nat) : State :=
  if c.strike.any (fun x => decide (x.1 = mark)) then s.cmdData c addr
  else s.updCmd c.id (fun c => { c with strike := (mark, addr) :: c.strike })

/-- Whether two members' commands agree. -/
def CollPart.agrees (p q : CollPart) : Bool :=
  decide (p.op = q.op) && decide (p.ty = q.ty) && decide (p.count = q.count) && decide (p.reach = q.reach)

/-- CONTRIBUTION_TOKEN (08 R221, 13 R345): within the partition the contribution is what the sender's source holds; across devices
it is `data`, but for the member's own. A token of a settled attempt is discarded. A destination that no address reaches is a
violation (08 R205). -/
def execContributionToken (cmd rank attempt : Nat) (data : List CodedWord) (s : State) : Out :=
  .next (match s.cmd cmd with
    | none => s
    | some c => match c.coll with
      | none => s
      | some p =>
        if c.err ∨ c.frozen.isSome ∨ p.closed ∨ p.attempt ≠ attempt ∨ attempt ≤ s.highest c.slot p.group ∨ p.size ≤ rank then s
        else if p.reach ∧ rank ≠ p.rank then
          if data.length = (p.bytes + 7) / 8 then s.collTake c rank (data.map CWord.coded) else s
        else if engAddr c.dst = .bad then s.cmdViol c c.dst.toNat
        else match s.cmds.find? (fun k => k.inAttempt c.slot p.group attempt && !k.err && k.frozen.isNone && k.coll.any (fun q => decide (q.rank = rank))) with
          | none => s
          | some k =>
            if k.coll.any (fun q => p.agrees q) then
              match s.collSource k p with
              | (s, .ok (ws, none)) => s.collTake c rank ws
              | (s, .ok (_, some a)) => s.collStrike c (collMark (some rank)) a
              | (s, .error r) => s.collEnd k r
            else
              { s with cmds := s.cmds.map (fun x => if x.inAttempt c.slot p.group attempt then x.drop else x) })

/-- The members on whose word rank 0 waits: those of the partition, or the one command here. -/
def State.collMembers (s : State) (c : EngCmd) (p : CollPart) : List EngCmd :=
  if p.reach then [c] else s.cmds.filter (fun k => k.inAttempt c.slot p.group p.attempt)

/-- The first of some members whose destination cannot be written, with the reason. -/
def State.collBlocked (s : State) (l : List EngCmd) : Option (EngCmd × EngRes) :=
  l.findSome? (fun k => match (s.collDest k).2 with
    | .ok _ => none
    | g => some (k, g.res))

/-- Whether every member has all that it needs. -/
def State.collAgreed (s : State) (c : EngCmd) (p : CollPart) : Bool :=
  let members := s.collMembers c p
  (p.reach || decide (members.length = p.size)) && members.all (fun k => !k.err && k.frozen.isNone && k.coll.any (fun q => q.complete))

/-- Correctable words among the contributions to a reduction: its lanes correct them (13 R331). -/
def CollPart.mended (p : CollPart) : Nat := (p.rows.map (fun r => (r.filter (fun w => fixable w.syn)).length)).sum

/-- A member's command is done: its destination is written. -/
def EngCmd.close (c : EngCmd) : EngCmd := { c with coll := c.coll.map (fun p => { p with sent := true, closed := true }) }

/-- Write a member's destination. A word that its lanes contained is written poisoned, and the contributions are taken once more; when
they fail again the command ends in error. -/
def State.collWrite (s : State) (c : EngCmd) (p : CollPart) : State :=
  let w := s.cmdWho c c.pos
  match s.collDest c with
  | (s, .ok rd) =>
    if (c.src.toNat < c.dst.toNat + p.outBytes ∧ c.dst.toNat < c.src.toNat + p.bytes) ∨ runsMeet rd (s.reach w c.src p.bytes) then (s.scribble c p.outBytes).updCmd c.id EngCmd.close
    else if 4 ≤ p.op ∧ allWords c.dst c.src p.bytes then (s.putWords rd p.moved).updCmd c.id EngCmd.close
    else
      let (bs, fl) := p.result
      let (t, e) := (s.count w.dom 9 p.mended).putBytes w.dom rd bs
      if e then t.collStrike c (collMark none) ((firstBad rd bs).getD 0)
      else (t.cmdRecords c c.strike).updCmd c.id (fun c => { c.close with flags := c.flags ||| fl, strike := [] })
  | (s, g) => s.collEnd c g.res

/-- CLOSE_TOKEN (13 R345): rank 0 sends it once every member has reported; each member then writes its destination. -/
def execCloseToken (cmd attempt : Nat) (s : State) : Out :=
  .next (match s.cmd cmd with
    | none => s
    | some c => match c.coll with
      | none => s
      | some p =>
        if c.err ∨ c.frozen.isSome ∨ p.closed ∨ p.attempt ≠ attempt then s
        else if p.sent then s.collWrite c p
        else if !s.collAgreed c p then s
        else match s.collBlocked (s.collMembers c p) with
        | some (k, r) => s.collEnd k r
        | none =>
          let s := { s with cmds := s.cmds.map (fun (x : EngCmd) =>
            if x.inAttempt c.slot p.group attempt then { x with coll := x.coll.map (fun (q : CollPart) => { q with sent := true }) } else x) }
          (s.settleAttempt c.slot p.group attempt).collWrite c p)

/-! ### The words (08 R221, R222) -/

/-- Read a descriptor of 64 bytes as a load of the A stream. -/
def State.readDesc (s : State) (op : Word) (f : State → Nat → WordEnd) : WordEnd :=
  match s.runs s.who needR op 64 with
  | (t, .ok rs) =>
    let bs := rs.zipIdx.flatMap (fun r => t.runBytes (2 ^ 20 * r.2) r.1)
    match firstBad rs bs with
    | some a => .trap causeData (BitVec.ofNat 64 a)
    | none => f (t.postRuns s.who.dom rs) (ofBytes (bs.map (fun b => b.getD 0)))
  | (_, .pages a) => .trap causePages (BitVec.ofNat 64 a)
  | (_, .viol a) => .trap causeViol (BitVec.ofNat 64 a)
  | (_, .data a) => .trap causeData (BitVec.ofNat 64 a)
  | (_, .dev a) => .trap causeViol (BitVec.ofNat 64 a)
  | (_, .far _) => .wait s

/-- A `coll` word: an illegal descriptor or group traps (01 R25); an attempt already settled ends in error at once. -/
def aColl (op : Nat) (r : An) (s : State) : State :=
  aPush r (fun s d a b => s.readDesc b fun s v =>
    let reach := r.k.getLsbD 8
    let rect := bits v 81 64
    let slot := s.core.ctx.getD 0
    let attempt := bits v 223 192
    if v / 2 ^ 224 ≠ 0 ∨ (!reach ∧ (!subRect rect s.partition ∨ !inRect rect s.core.pos)) then .trap causeIll 0
    else
      let size := if reach then Config.groupSize (bits v 95 64) else rectSize rect
      let rank := if reach then Config.groupRank (bits v 95 64) else ((rectCores rect).findIdx? (fun p => decide (p = s.core.pos))).getD 0
      let group := groupKey reach v
      let p : CollPart :=
        { op := op, ty := (r.k.extractLsb' 4 4).toNat, reach := reach, count := bits v 63 0, group := group, root := bits v 143 136,
          attempt := attempt, size := size, rank := rank, got := [], since := s.ptp, sent := false, closed := false, aborted := false }
      let c := s.newCmd .coll (bits v 133 128) (if reach then 4 else 3) op d a b []
      s.pushCmd { c with coll := some p, err := decide (attempt ≤ s.highest slot group) }) s

/-- COLL_ALL_REDUCE_SUM (08 R221). -/
def execCollAllReduceSum (r : An) (s : State) : Out := .next (aColl 0 r s)

/-- COLL_ALL_REDUCE_MAX (08 R221). -/
def execCollAllReduceMax (r : An) (s : State) : Out := .next (aColl 1 r s)

/-- COLL_ALL_REDUCE_MIN (08 R221). -/
def execCollAllReduceMin (r : An) (s : State) : Out := .next (aColl 2 r s)

/-- COLL_REDUCE_SCATTER_SUM (08 R221). -/
def execCollReduceScatterSum (r : An) (s : State) : Out := .next (aColl 3 r s)

/-- COLL_ALL_GATHER (08 R221). -/
def execCollAllGather (r : An) (s : State) : Out := .next (aColl 4 r s)

/-- COLL_BROADCAST (08 R221). -/
def execCollBroadcast (r : An) (s : State) : Out := .next (aColl 5 r s)

/-- COLL_ABORT (08 R222): the abort token reaches the members at once. The word has no reach: its descriptor names the group of either reach
with that GROUP (log 59). -/
def execCollAbort (r : An) (s : State) : Out :=
  .next (s.aWord r.l r.f [r.a.toNat] true fun s => s.readDesc (s.getA 0 r.a.toNat) fun s v =>
    let slot := s.core.ctx.getD 0
    .done ((s.collAbort slot (groupKey false v) (bits v 223 192)).collAbort slot (groupKey true v) (bits v 223 192)))

/-- COLL_ATT (08 R222), with the same naming. -/
def execCollAtt (r : An) (s : State) : Out :=
  .next (s.aWord r.l r.f [r.a.toNat, r.d.toNat] false fun s => s.readDesc (s.getA 0 r.a.toNat) fun s v =>
    let slot := s.core.ctx.getD 0
    .done (s.setA r.d.toNat (BitVec.ofNat 64 (max (s.highest slot (groupKey false v)) (s.highest slot (groupKey true v))))))

end Sys2Proof.Machine
end

