-- ==== Sys2Proof/Machine/Fetch.lean ====
section
/-! DEFINITION. Fetching the words of the two streams (02 R32, R39, R46; 12 R301, R304, R307; log 16). -/

namespace Sys2Proof.Machine

/-- What a fetch brings: bytes, a cause with PDATA, or nothing yet. -/
inductive Fetched where
  | word (bs : List Byte)
  | stop (cause : Nat) (data : Word)
  | wait
  deriving DecidableEq, Repr

/-- Fetch `n` bytes at a virtual address with permission X. Bytes of another package are free, or it refuses the
fetch (log 11). -/
def State.fetch (s : State) (va : Word) (n : Nat) : State × Fetched :=
  match s.gRead s.who needX va.toNat n with
  | (s, .ok bs) => (s, .word bs)
  | (s, .pages a) => (s, .stop causePages (BitVec.ofNat 64 a))
  | (s, .viol a) => (s, .stop causeViol (BitVec.ofNat 64 a))
  | (s, .data a) => (s, .stop causeData (BitVec.ofNat 64 a))
  | (s, .dev pa) => (s, if s.devOk pa then .word (s.mgmtRead (devOffset pa) n) else .stop causeViol va)
  | (s, .far pa) => (s, match s.downPort pa with
    | none =>
      if s.refusedAway s.who.slot then .stop causeViol va else .word ((List.range n).map (fun i => Config.freeBits 8 s.tick (2 ^ 28 + i)))
    | some p => if s.linkDead p then .stop causeData (BitVec.ofNat 64 pa) else .wait)

/-- The word that a park record shows for a word that could not be fetched: open (log 16). -/
def State.noWord (s : State) : Word := Config.freeBits 64 s.tick (2 ^ 29)

/-- The X stream stops on a word that it could not fetch. -/
def State.xNoFetch (s : State) (cause : Nat) (data : Word) : State :=
  ({ s with core := { s.core with xir := s.noWord } } : State).landDue.raiseLeave false (.fault cause) data 0

/-- Whether a word is a chain header whose own fields are in order (02 R37, 05 R123). -/
def chainHead (w : Word) : Bool :=
  decide (w.extractLsb' 0 7 = 0x50#7) && decide (w.extractLsb' 15 9 = 0) && decide (w.extractLsb' 54 6 = 0) && wfHead (decXc w [])

/-- Fetch `n` link words from an address on, one after another, as far as they are link words. -/
def State.fetchLinks (s : State) (va : Word) : Nat → State × Fetched
  | 0 => (s, .word [])
  | n + 1 => match s.fetch va 8 with
    | (s, .word bs) =>
      if (BitVec.ofNat 64 (ofBytes bs)).extractLsb' 0 7 = 0x51#7 then
        match s.fetchLinks (va + 8) n with
        | (s, .word more) => (s, .word (bs ++ more))
        | r => r
      else (s, .word bs)
    | r => r

/-- The first X word of a deadline launch: monitor 3 takes the time since the launch was ready (13 Table 13-11). -/
def State.firstWord (s : State) : State :=
  match s.here? with
  | none => s
  | some (k, c) => match c.launch with
    | none => s
    | some l => match l.fresh with
      | none => s
      | some t => (s.setCtx k { c with launch := some { l with fresh := none } }).sample c.tdom 3 (s.ptp - t)

/-- Fetch the word at PC of the X stream, and after a chain header its links: the bytes, when the stream goes on. A cycle that waits counts
(04 R79). -/
def State.fetchX (s : State) : State × Option (List Byte) :=
  if s.core.xpc.toNat % 8 ≠ 0 then (s.xNoFetch causeIll 0, none)
  else match s.fetch s.core.xpc 8 with
    | (s, .stop c d) => (s.xNoFetch c d, none)
    | (s, .wait) => (s.xWait, none)
    | (s, .word bs) =>
      let w : Word := BitVec.ofNat 64 (ofBytes bs)
      let s := { s.firstWord with core := { s.core with xir := w } }
      if chainHead w then
        match s.fetchLinks (s.core.xpc + 8) (linkCount w) with
        | (s, .stop c d) => (s.landDue.raiseLeave false (.fault c) d 0, none)
        | (s, .wait) => (s.xWait, none)
        | (s, .word more) => (s, some (bs ++ more))
      else (s, some bs)

/-- Fetch the word at PC of the A stream. -/
def State.fetchA (s : State) : State × Option (List Byte) :=
  let stop (s : State) (cause : Nat) (data : Word) : State :=
    ({ s with core := { s.core with air := s.noWord } } : State).raiseLeave true (.fault cause) data 0
  if s.core.apc.toNat % 4 ≠ 0 then (stop s causeIll 0, none)
  else match s.fetch s.core.apc 4 with
    | (s, .stop c d) => (stop s c d, none)
    | (s, .wait) => (s, none)
    | (s, .word bs) => ({ s with core := { s.core with air := BitVec.ofNat 64 (ofBytes bs) } }, some bs)

end Sys2Proof.Machine
end

