-- ==== Sys2Proof/Machine/Recovery.lean ====
section
/-! DEFINITION. Scrubbing, the checker, watchdogs, completion records, monitors and checkpoints (13 R338-R350). -/

namespace Sys2Proof.Machine

/-! ### The scrubber (13 R342-R344) -/

/-- The bank that a scrubber's address names, and the byte in it. -/
def scrubBank (a : Nat) : Option (Nat × Nat × Nat) :=
  if 2 ^ 57 ≤ a then
    let k := (a - 2 ^ 57) / 2 ^ 15
    some (k / 16, k % 16, a % 2 ^ 15)
  else none

/-- The check word at an address as the scrubber names it. -/
def State.scrubWord (s : State) (a : Nat) : CWord :=
  match scrubBank a with
  | some (key, b, off) => ((s.storeAt key).bank b).data.word off
  | none => s.physWord a

/-- Write a check word there. -/
def State.scrubSet (s : State) (a : Nat) (w : CWord) : State :=
  match scrubBank a with
  | some (key, b, off) => s.setBankData key b (((s.storeAt key).bank b).data.setWord off w)
  | none => s.physSetWords a [w]

/-- Whether a word lies in a tier that is scrubbed: HBM4E with the MSC share, and core stores. -/
def scrubs (a : Nat) : Bool := decide (2 ^ 57 ≤ a) || decide (placeOf a = .hbm) || decide (placeOf a = .share)

/-- The scrubber reads a word and checks it: one that it can correct is tagged, one that it cannot gives a record; a poisoned
word is skipped. -/
def State.scrubRead (s : State) (a : Nat) (directed : Bool) : State :=
  let c := s.scrubWord a
  if !scrubs a || decide (c.syn = 0) || decide (c.syn = 0xFF) then s
  else match syndromeFix c.syn with
    | some _ => { s with scrubTags := tset s.scrubTags (a / 8) (c, directed) }
    | none => s.pkgRecord (if 2 ^ 57 ≤ a then 0 else a) c.syn.toNat (if 2 ^ 57 ≤ a then 1 else 4) 8

/-- PATROL_SCRUB (13 R342, R344). -/
def execPatrolScrub (word : Nat) (s : State) : Out := .next ({ s with patrol := word + 1 }.scrubRead (8 * word) false)

/-- DIRECTED_SCRUB (13 R331, R342): the oldest address posted. -/
def execDirectedScrub (s : State) : Out :=
  .next (match s.directed with
    | [] => s
    | a :: r => { s with directed := r }.scrubRead a true)

/-- SCRUB_WRITE_BACK (13 R343): the corrected word is written if no write has reached it since the scrubber read it. A directed
scrub that corrects a word writes a record of KIND 0 (13 R331). -/
def execScrubWriteBack (word : Nat) (s : State) : Out :=
  .next (match tget s.scrubTags word with
    | none => s
    | some (c, directed) =>
      let a := 8 * word
      let s := { s with scrubTags := tdel s.scrubTags word }
      match c.use with
      | none => s
      | some v =>
        if s.scrubWord a = c then
          let s := s.scrubSet a (CWord.good v)
          if directed then s.pkgRecord (if 2 ^ 57 ≤ a then 0 else a) c.syn.toNat (if 2 ^ 57 ≤ a then 1 else 4) 0 else s
        else s)

/-! ### The checker front end (13 R338-R340) -/

/-- Withdraw a core from placement. -/
def State.withdrawCore (s : State) (i : Nat) : State :=
  { s with withdrawn := if s.withdrawn.contains i then s.withdrawn else i :: s.withdrawn }

/-- A record about the core in focus, with no word. -/
def State.coreRecord (s : State) (kind : Nat) : State :=
  match s.here? with
  | none => s
  | some (k, c) => s.domRecord c.tdom 0 (s.handleOf k) s.here 0 8 kind

/-- Whether a stream of the core in focus may go on to a word now. -/
def Core.issuing (c : Core) (aStream : Bool) : Bool :=
  c.ctx.isSome && (if aStream then !c.aexited && decide (c.ahold = .none) else !c.xexited && decide (c.xhold = .none))

/-- Whether an X-stream word is an item that the checker compares (13 R338). -/
def xCompared (w : Word) : Bool :=
  let op := (w.extractLsb' 0 7).toNat
  let fn := (w.extractLsb' 18 6).toNat
  [0x39, 0x3B, 0x3C, 0x3D, 0x3F, 0x40, 0x41, 0x42, 0x43, 0x44, 0x45, 0x46, 0x50, 0x54, 0x58, 0x60, 0x61, 0x62, 0x63, 0x64, 0x6B, 0x70, 0x71,
    0x72, 0x73].contains op || (decide (op = 0x68) && decide (fn ≠ 2)) || (decide (op = 0x69) && decide (fn ≤ 1))

/-- Whether an A-stream word is one. -/
def aCompared (w : Word) : Bool :=
  [0x0B, 0x10, 0x11, 0x12, 0x13, 0x15, 0x18, 0x19, 0x1A, 0x1B, 0x1C, 0x1D, 0x1E, 0x22, 0x24, 0x25, 0x28, 0x29, 0x2A, 0x2B, 0x2C, 0x2F, 0x30,
    0x31].contains (w.extractLsb' 0 6).toNat

/-- The state with the item at PC of a stream fetched: a word that the checker compares, whose guard or issue bits let it be sent. -/
def State.item (s : State) (aStream : Bool) : Option State :=
  match if aStream then s.fetchA else s.fetchX with
  | (_, none) => none
  | (t, some _) =>
    let sent := if aStream then aCompared t.core.air && t.core.issues (t.core.air.getLsbD 7) (t.core.air.getLsbD 6)
      else xCompared t.core.xir && t.landDue.guard (t.core.xir.extractLsb' 7 7) (t.core.xir.getLsbD 14)
    if sent then some t else none

/-- Whether the item at PC of a stream has mismatched once. -/
def Core.doubts (c : Core) (aStream : Bool) : Bool := if aStream then c.adoubt else c.xdoubt

/-- The item at PC of a stream has mismatched. -/
def Core.doubt (c : Core) (aStream : Bool) : Core := if aStream then { c with adoubt := true } else { c with xdoubt := true }

/-- CHECKER_MISMATCH at the item at PC, a legal word (`State.admits`). After a first one the item is held back and both front ends run
again from the last matching item: the event is counted, and the registers are those of the run again when it loads what was
loaded before (13 R339, log 26). A mismatch of the same item in that run parks the context with CHECK and withdraws the core (13 R340).
`second` is which of the two the checker reports: a report that is not of the item's own is no step. -/
def execCheckerMismatch (aStream second : Bool) (s : State) : Out :=
  .next (if !s.core.issuing aStream || second != s.core.doubts aStream then s
    else match s.item aStream with
      | none => s
      | some t =>
        if second then ((t.coreRecord 4).raiseLeave aStream (.fault causeCheck) 0 0).withdrawCore s.here
        else { s.coreRecord 4 with core := s.core.doubt aStream })

/-! ### Watchdogs (13 R341, Table 13-6) -/

/-- The lane-driven engine's head command: its word and address, if it has started and is not frozen. -/
def Core.atWork (c : Core) (e : LaneEngine) : Option (Word × Word) :=
  match e with
  | .matrix => match c.mq with
    | m :: _ => if m.started && !m.frozen then some (m.word, m.addr) else none
    | [] => none
  | _ => match c.vq with
    | v :: _ => if v.started && !v.frozen && decide ((e = .row) ↔ (v.op = 0x58)) then some (v.word, v.addr) else none
    | [] => none

/-- The engine goes back to its window's marker: span and row windows hold nothing performed, a matrix granule its checkpoint. -/
def State.toMarker (s : State) (e : LaneEngine) : State :=
  match e, s.core.mq with
  | .matrix, m :: _ =>
    let (c, m) := s.core.granuleDrop m
    ({ s with core := c } : State).setMHead m
  | _, _ => s

/-- Freeze the engine's head command. -/
def State.freezeHead (s : State) (e : LaneEngine) : State :=
  match e with
  | .matrix => match s.core.mq with
    | m :: _ => s.setMHead { m with frozen := true }
    | [] => s
  | _ => match s.core.vq with
    | v :: _ => s.setVHead { v with frozen := true }
    | [] => s

/-- A watchdog of an engine command: the second firing without a segment performed between ends it in error. -/
def State.cmdWdog (s : State) (c : EngCmd) : State :=
  let s := s.domRecord (s.whoOf c.slot 0).dom 0 (s.handleOf c.slot) ((s.placedAt c.slot c.pos).getD 0) 0 8 7
  if c.fired then (s.updCmd c.id EngCmd.drop).lateFault c.slot (c.ask causeWdog 0) causeWdog
  else s.updCmd c.id (fun c => { c with fired := true })

/-- Whether the watchdog of a lane-driven engine has fired in the current window, and noting that it has. -/
def Core.dog (c : Core) (e : LaneEngine) : Bool := match e with | .matrix => c.mdog | _ => c.vdog
def Core.setDog (c : Core) (e : LaneEngine) (b : Bool) : Core := match e with | .matrix => { c with mdog := b } | _ => { c with vdog := b }

/-- Whether a watchdog has fired already in the window, segment or step at which its engine stands. -/
def State.dogFired (s : State) (what : Watchdog) : Bool :=
  match what with
  | .lane e => s.core.dog e
  | .engine cmd => (s.cmd cmd).any (fun c => c.fired)
  | .nearBank bank => (s.nbUnit bank).fired
  | .collective _ => false

/-- WATCHDOG_FIRING: first, the window replays from its marker, outstanding requests are sent again, or the item resumes at its
UPC; the second time in one window the command fails and its context is parked with WDOG. `second` is which of the two the watchdog
reports: a report that is not of its window's own is no step. -/
def execWatchdogFiring (what : Watchdog) (second : Bool) (s : State) : Out :=
  .next (if second != s.dogFired what then s else match what with
    | .lane e => match s.core.atWork e with
      | none => s
      | some (w, a) =>
        let t := (s.toMarker e).coreRecord 7
        let t := { t with core := t.core.setDog e (!second) }
        if second then ((t.freezeHead e).engineAsk w a causeWdog 0 0).withdrawCore s.here else t
    | .engine cmd => match s.cmd cmd with
      | none => s
      | some c => if c.kind.nearBank || decide (c.kind = .coll) || c.frozen.isSome || c.err then s else s.cmdWdog c
    | .nearBank bank => match s.nbHead bank with
      | none => s
      | some (_, c) =>
        let t := s.domRecord (s.whoOf c.slot 0).dom 0 (s.handleOf c.slot) 0 0 8 7
        if second then (t.nbFinish bank c true).lateFault c.slot (c.ask causeWdog 0) causeWdog
        else t.setUnit bank { t.nbUnit bank with fired := true }
    | .collective cmd => match s.cmd cmd with
      | none => s
      | some c => match c.coll with
        | none => s
        | some p => if c.err || p.closed then s else s.collAbort c.slot p.group p.attempt)

/-! ### Completion records (13 R347) -/

/-- DEDUP_RECORD_EXPIRY: a record ends 64 µs after its request was performed. -/
def execDedupRecordExpiry (ent : Nat) (s : State) : Out :=
  .next (match s.dedup[ent]? with
    | none => s
    | some d => if d.ends ≤ s.ptp then { s with dedup := s.dedup.eraseIdx ent } else s)

/-! ### Monitors (13 R350) -/

/-- MONITOR_CLEAR: a write of 1 to CLEAR. -/
def execMonitorClear (dom index : Nat) (s : State) : Out :=
  .next (match s.dom dom with
    | none => s
    | some x => s.setDom dom { x with monitors := tdel x.monitors index })

/-- MONITOR_INTERVAL: a sample is counted. Monitors 9 and 10 count what the interval has seen, monitor 7 the chrysalis store of
the domain's dies in MiB; `sample` is the delay that monitor 5 measures (log 9). The others take their samples where the events
happen. -/
def execMonitorInterval (dom index sample : Nat) (s : State) : Out :=
  .next (match s.dom dom with
    | none => s
    | some x =>
      if index = 7 then
        s.sample dom 7 ((((List.range 4).filter (fun d => x.dies.getLsbD d)).map s.chrysalisUsed).sum / 2 ^ 20)
      else if index = 9 ∨ index = 10 then (s.setDom dom { x with tally := tdel x.tally index }).sample dom index ((tget x.tally index).getD 0)
      else if index = 5 then s.sample dom 5 sample else s)

/-! ### Checkpoints (13 R348) -/

/-- Whether everything that a checkpoint waits for has stopped: no context on cores, no near-bank item under way. -/
def State.quiet (s : State) : Bool :=
  s.ctxs.all (fun c => decide (c.2.state ≠ .running)) && s.units.all (fun u => u.2.queue.all (fun it => !it.started))

/-- Quiesce: arming and placement stop, running contexts are pre-empted, collectives aborted. -/
def State.quiesce (s : State) : State :=
  let s := { s with quiesced := true }
  let s := s.cmds.foldl (fun s c => match c.coll with
    | some p => if c.err || p.closed then s else s.collAbort c.slot p.group p.attempt
    | none => s) s
  s.ctxs.foldl (fun s c => s.askPreempt c.1 false) s

/-- The tenancy layout: the dies of each domain. -/
def State.layout (s : State) : Table (BitVec 4) := s.doms.map (fun d => (d.1, d.2.dies))

/-- HBM4E alone, or what is not HBM4E. -/
def Memory.part (m : Memory) (hbm : Bool) : Memory :=
  { m with cells := m.cells.filter (fun c => decide (c.1 < 2 ^ 39) == hbm), bad := m.bad.filter (fun c => decide (8 * c.1 < 2 ^ 39) == hbm) }

/-- The image of what stands now. -/
def State.image (s : State) : Image where
  layout := s.layout
  mem := s.mem.part true
  dir := s.dir
  moves := s.moves
  moveQueue := s.moveQueue
  fences := s.fences
  homes := s.homes
  stores := s.stores
  bound := s.bound
  ctxs := s.ctxs
  links := s.links
  instars := s.instars
  cmds := s.cmds

/-- Near-bank items that have not started go back to their commands, whose cursors the image keeps. -/
def State.recall (s : State) : State := s.cmds.foldl (fun s c => if c.kind.nearBank then s.withdraw ((s.cmd c.id).getD c) else s) s

/-- CHECKPOINT_REQUEST: the package quiesces; once it is quiet the image is written and sealed, and placement resumes. -/
def execCheckpointRequest (base : Nat) (s : State) : Out :=
  .next (if (s.poolSeg base).isNone then s
    else if s.quiet then
      let s := ({ s with quiesced := true } : State).recall
      { s with images := tset s.images base s.image, quiesced := false }
    else s.quiesce)

/-- CHECKPOINT_RESTORE: the phases in reverse, from a sealed image of the same tenancy layout. -/
def execCheckpointRestore (base : Nat) (s : State) : Out :=
  .next (match tget s.images base with
    | none => s
    | some i =>
      if i.layout ≠ s.layout then s
      else if s.quiet then
        let other := s.mem.part false
        { s with
          core := Core.reset, cores := [], units := [], reqs := [], tlb := [], leases := [], scrubTags := [], groups := [], ramos := []
          mem := { cells := i.mem.cells ++ other.cells, fill := s.mem.fill, bad := i.mem.bad ++ other.bad }
          dir := i.dir, moves := i.moves, moveQueue := i.moveQueue, fences := i.fences, homes := i.homes, stores := i.stores, bound := i.bound
          ctxs := i.ctxs, links := i.links, instars := i.instars, cmds := i.cmds, quiesced := false }
      else s.quiesce)

end Sys2Proof.Machine
end

