-- ==== Sys2Proof/Machine/Outside.lean ====
section
/-! DEFINITION. The outside world: Ethernet frames, time, the host, other packages, links, power (08 R220; 13
R333, R347; 14). -/

namespace Sys2Proof.Machine

/-! ### Ingress (14 R359-R362) -/

/-- Whether a flow entry matches a frame. -/
def flowMatches (e : BitVec 256) (f : Frame) : Bool :=
  fwV e && (!e.getLsbD 129 || decide (f.etype = e.extractLsb' 112 16)) && (!e.getLsbD 130 || decide (f.vid = some (e.extractLsb' 100 12))) &&
    (!e.getLsbD 131 || decide (f.udpPort = some (e.extractLsb' 80 16)))

/-- Count a frame that its port drops. -/
def State.dropFrame (s : State) (port : Nat) : State := { s with portDrops := tset s.portDrops port ((tget s.portDrops port).getD 0 + 1) }

/-- STATUS of an arrival record; of a frame that is both truncated and fails a checksum it is one of the two (log 16). -/
def State.frameStatus (s : State) (trunc bad : Bool) : Nat :=
  if trunc && bad then 1 + (Config.freeBits 1 s.tick (2 ^ 30)).toNat else if bad then 2 else if trunc then 1 else 0

/-- An arrival record (14 Table 14-6). -/
def arrival (f : Frame) (flow port status seq : Nat) : Nat :=
  f.sec.toNat * 2 ^ 208 + f.nsec.toNat * 2 ^ 176 + f.bytes.length % 2 ^ 16 * 2 ^ 160 + flow * 2 ^ 154 + port % 4 * 2 ^ 152 + status * 2 ^ 148 +
    seq % 2 ^ 32 * 2 ^ 96

/-- The check words of a record and the bytes that land, the last word padded with zeros. -/
def frameWords (record : Nat) (bs : List Byte) : List CWord :=
  (List.range 4).map (fun i => CWord.good (wordOf record i)) ++
    (List.range ((bs.length + 7) / 8)).map (fun i => CWord.good (BitVec.ofNat 64 (ofBytes ((bs.drop (8 * i)).take 8))))

/-- A frame has landed in a flow: SEQ counts it and event 226 is set. -/
def State.landed (s : State) (key slot : Nat) : State :=
  { s with flowSeq := tset s.flowSeq key ((tget s.flowSeq key).getD 0 + 1) }.setEvent slot 226

/-- A frame comes to a window of kind 1 (14 R361): a bank of 4,096 words in FIFO use 2, bound in place. -/
def State.frameBank (s : State) (port key slot : Nat) (e : BitVec 256) (ws : List CWord) : State :=
  let k := storeKey slot (fwPos e)
  let t := s.storeAt k
  let b := t.bank (fwBank e)
  let old := (tget t.windows (fwBank e)).getD []
  if (tget s.bound k).isSome ∧ b.mode = .fifo ∧ b.use = 2 ∧ old.length + ws.length ≤ 4096 then
    (s.setStore k { t with windows := tset t.windows (fwBank e) (old ++ ws) }).landed key slot
  else s.dropFrame port

/-- A word of a window's header as the ingress engine takes it. -/
def State.ringWord (s : State) (a : Nat) : Option Nat := ((s.physWord a).use).map (fun v => v.toNat)

/-- The ingress engine contained a word of a window's header: an event of the package, and the frame is dropped (log 61). -/
def State.ringEvent (s : State) (port a : Nat) : State :=
  let z := (s.physWord a).syn
  (s.pkgRecord a z.toNat (tierOf a) (if z = 0xFF then 3 else 2)).dropFrame port

/-- The lines of a frame from offset `start` of the data area on. -/
def State.frameLines (s : State) (base start : Nat) (ws : List CWord) : State :=
  let lines := (ws.length + 7) / 8
  s.physSetWords (base + 64 + start) (ws ++ List.replicate (8 * lines - ws.length) (CWord.good 0))

/-- A frame comes to a window of kind 0 (14 R360). PROD and CONS that are no multiples of 64 in the data area count as the
next lower such place, modulo its size (log 16). -/
def State.frameRing (s : State) (port key slot flow : Nat) (e : BitVec 256) (ws : List CWord) : State :=
  let base := fwAddr e
  let area := 2 ^ fwLog e - 64
  let place (v : Nat) : Nat := v / 64 * 64 % area
  match s.ringWord base, s.ringWord (base + 8) with
  | none, _ => s.ringEvent port base
  | _, none => s.ringEvent port (base + 8)
  | some p, some c =>
    let s := s.postPhys 4 base 16
    let prod := place p
    let free := (place c + area - prod - 64) % area
    let lines := (ws.length + 7) / 8
    let wrap := decide (area < prod + 64 * lines)
    if free < 64 * lines + (if wrap then area - prod else 0) then
      match s.ringWord (base + 16) with
      | none => s.ringEvent port (base + 16)
      | some n => (s.postPhys 4 (base + 16) 8).physSetWords (base + 16) [CWord.good (BitVec.ofNat 64 (n + 1))]
    else
      let keep : BitVec 256 := BitVec.ofNat 256 ((2 ^ 256 - 2 ^ 176) + (2 ^ 154 - 2 ^ 148) + (2 ^ 128 - 2 ^ 96))
      let skip := (Config.freeBits 256 s.tick (2 ^ 30 + 1) &&& keep).toNat + flow * 2 ^ 154
      let s := if wrap then s.physSetWords (base + 64 + prod) (frameWords skip []) else s
      let start := if wrap then 0 else prod
      let s := s.frameLines base start ws
      (s.physSetWords base [CWord.good (BitVec.ofNat 64 ((start + 64 * lines) % area))]).landed key slot

/-- FRAME_ARRIVAL (14 R359-R362): a frame that passes its FCS goes to the first matching entry of its port, to the house
transport (log 11), or is dropped and counted. -/
def execFrameArrival (port : Nat) (frame : Frame) (s : State) : Out :=
  .next (if !frame.fcsOk ∨ !s.ready then s
    else match (List.range 64).find? (fun i => (tget s.flows (port * 64 + i)).any (fun e => flowMatches e frame)) with
      | none => if frame.udpPort = some s.ports.transport then s else s.dropFrame port
      | some i =>
        let key := port * 64 + i
        let e := (tget s.flows key).getD 0
        match s.slotOf (fwCtx e) with
        | none => s.dropFrame port
        | some slot =>
          if s.quiesced then s.dropFrame port
          else
            let bs := frame.bytes.take (fwMax e)
            let status := s.frameStatus (decide (fwMax e < frame.bytes.length)) frame.badChecksum
            let ws := frameWords (arrival frame i port status ((tget s.flowSeq key).getD 0 + 1)) bs
            if fwKind e then s.frameBank port key slot e ws else s.frameRing port key slot i e ws)

/-- FLOW_ENTRY_WRITE (14 R359, R361). -/
def execFlowEntryWrite (port index : Nat) (entry : BitVec 256) (s : State) : Out := .next (if s.ready then s.flowWrite port index entry else s)

/-! ### Time (14 R358) -/

/-- PTP_LOCK: the time base steps at the first lock alone; later locks slew, which steps of time show. -/
def execPtpLock (now : Nat) (s : State) : Out :=
  .next (if s.locked then { s with synced := true } else { s with synced := true, locked := true, ptp := now })

/-- PTP_LOCK_LOSS: the time base goes on by its own oscillator. -/
def execPtpLockLoss (s : State) : Out := .next { s with synced := false }

/-! ### The host (14 R352-R355; 13 R333) -/

/-- What a host address names: an offset of BAR0, or physical memory through BAR2, which the model places above BAR0. -/
inductive HostPlace where
  | mgmt (off : Nat)
  | memory (pa : Nat)
  | nothing
  deriving DecidableEq, Repr

/-- Decode a host address. In the recovery state only the identity block responds to plain accesses (14 R363). -/
def State.hostPlace (s : State) (addr : Nat) : HostPlace :=
  if addr < 2 ^ 39 then (if s.ready ∨ (s.recovery ∧ addr < 0x1000) then .mgmt addr else .nothing)
  else if addr < 2 ^ 39 + 2 ^ 36 ∧ s.ready then
    let pa := s.apbase * 2 ^ 36 + (addr - 2 ^ 39)
    match placeOf pa with
    | .hbm => .memory pa
    | .pool => if (s.poolSeg pa).isSome then .memory pa else .nothing
    | _ => .nothing
  else .nothing

/-- An event of the host port at a word: a package record. -/
def State.hostEvent (s : State) (a : Nat) : State :=
  let z := (s.physWord a).syn
  s.pkgRecord a z.toNat (tierOf a) (if z = 0xFF then 3 else 2)

/-- Write bytes to the management window word by word. -/
def State.mgmtBytes (s : State) (off : Nat) (bs : List Byte) : State :=
  ((List.range ((off + bs.length + 7) / 8 - off / 8)).foldl (fun (x : State × Nat × List Byte) _ =>
    let n := min x.2.2.length (8 - x.2.1 % 8)
    (x.1.mgmtWrite x.2.1 (x.2.2.take n), x.2.1 + n, x.2.2.drop n)) (s, off, bs)).1

/-- HOST_WRITE (14 R354; 13 R333): the write is performed with codes produced at the host port. An access behind a pool link that
is down and may come back is taken again. -/
def execHostWrite (addr : Nat) (bytes : List Byte) (s : State) : Out :=
  .next (match s.hostPlace addr with
    | .nothing => s
    | .mgmt off => s.mgmtBytes off bytes
    | .memory pa => match s.downPort pa with
      | some p => if s.linkDead p then s else { s with again := true }
      | none => match s.physStore pa bytes with
        | .ok t => t.note pa bytes.length
        | .error a => s.hostEvent a)

/-- HOST_READ (13 R333): a word that cannot be corrected gives a completion with EP set. Where the aperture names no memory the
completion's bytes are open (log 16); what does not respond (14 R363) gives none. -/
def execHostRead (addr n : Nat) (s : State) : Out :=
  .next (match s.hostPlace addr with
    | .nothing => { s with reply := if s.ready then some (.data false ((List.range n).map (fun i => Config.freeBits 8 s.tick (2 ^ 28 + i)))) else none }
    | .mgmt off => { s with reply := some (.data false (s.mgmtRead off n)) }
    | .memory pa => match s.downPort pa with
      | some p => if s.linkDead p then { s with reply := some (.data true []) } else { s with again := true }
      | none => match s.physRead pa n with
        | .ok bs => { (s.note pa n).postPhys 4 pa n with reply := some (.data false bs) }
        | .error a => { s.hostEvent a with reply := some (.data true []) })

/-- RADDR (14 R353, R354). -/
def execRaddr (dom : Nat) (value : BitVec 64) (s : State) : Out := .next (s.raddrWrite dom value)

/-- A rejection at the launch port. -/
def State.portReject (s : State) (d addr status : Nat) : State :=
  match s.dom d with
  | none => s
  | some x => s.setDom d { x with reject := min (x.reject + 1) 65535, lastStatus := status, lastAddr := addr }

/-- HOST_LAUNCH_ARM (14 R353): the record at the head of the FIFO is armed or rejected; one whose image descriptor lies behind a pool link that is down
stays at the head until the link answers. -/
def execHostLaunchArm (dom : Nat) (s : State) : Out :=
  .next (match s.dom dom with
    | none => s
    | some x => match x.fifo with
      | [] => s
      | a :: r =>
        if s.quiesced then s
        else
          let t := s.setDom dom { x with fifo := r }
          if !s.inDomHbm dom a then t.portReject dom a 2
          else match t.armRecord (.host dom) (.phys dom) a with
            | (t, .ok 0) => t
            | (t, .ok n) => t.portReject dom a n
            | (_, .far _) => s
            | (t, _) => t.portReject dom a 2)

/-- SET_PIN (14 R355). -/
def execSetPin (dom kvpn : Nat) (s : State) : Out := .next (s.resPin dom kvpn true)

/-- CLEAR_PIN (14 R355). -/
def execClearPin (dom kvpn : Nat) (s : State) : Out := .next (s.resPin dom kvpn false)

/-- SET_PREF (14 R355). -/
def execSetPref (dom kvpn : Nat) (pref : BitVec 2) (s : State) : Out := .next (s.resPref dom kvpn pref.toNat)

/-- FREE_PAGE (14 R355). -/
def execFreePage (dom kvpn : Nat) (s : State) : Out := .next (s.resFree dom kvpn)

/-- MOVE_TO_STORE_TIER (14 R355). -/
def execMoveToStoreTier (dom kvpn : Nat) (loc : BitVec 36) (s : State) : Out := .next (s.resToStore dom kvpn loc.toNat)

/-- REGISTER_WRITE (14 R352). -/
def execRegisterWrite (offset : Nat) (value : BitVec 64) (s : State) : Out :=
  .next (match s.hostPlace offset with
    | .mgmt off => s.mgmtSet (off / 8 * 8) value
    | _ => s)

/-! ### Power and heat (14 R364, R365) -/

/-- PSTATE (14 R364). -/
def execPstate (target : BitVec 2) (s : State) : Out := .next (if s.ready then s.askPower target else s)

/-- THERMAL_THROTTLE (14 R365): the power state drops by one. -/
def execThermalThrottle (s : State) : Out := .next { s with hot := true, pNow := if s.pNow = 3 then 3 else s.pNow + 1 }

/-- THERMAL_RECOVER (14 R365): it rises again by one, up to the state asked for. -/
def execThermalRecover (s : State) : Out :=
  .next (if s.hot then
      let p := if s.pAsked < s.pNow then s.pNow - 1 else s.pNow
      { s with pNow := p, hot := decide (s.pAsked < p) }
    else s)

/-- THERMAL_SHUTDOWN (14 R365): the module shuts down, with a record of KIND 7 in the persistent log. -/
def execThermalShutdown (s : State) : Out :=
  .next { s with shut := true, plog := s.plog ++ [faultRecord s.ptp 0 0 0 0 8 7] }

/-! ### Links (14 R356) -/

/-- LINK_DOWN. -/
def execLinkDown (port : Nat) (s : State) : Out :=
  .next (if (tget s.down port).isSome then s else { s with down := tset s.down port s.ptp })

/-- Whether a hold is an access behind a pool port. -/
def Hold.behind (h : Hold) (port : Nat) : Bool :=
  match h with
  | .access g => decide (placeOf g.pa = .pool) && decide (poolPort g.pa = port)
  | _ => false

/-- The core in focus takes the answers to its accesses behind a pool port. -/
def State.answerPort (s : State) (port : Nat) : State :=
  let s := if s.core.xhold.behind port then s.answerX .poisoned else s
  if s.core.ahold.behind port then s.answerA .poisoned else s

/-- So does every other core that has one, and the records that wait to be armed are read again. -/
def State.answerPorts (s : State) (port : Nat) : State :=
  let waits (c : Core) : Bool := c.xhold.behind port || c.ahold.behind port
  let others := (s.cores.filter (fun c => waits c.2)).map (fun c => c.1)
  ((others.foldl (fun (s : State) i => (s.focus i).answerPort port) (s.answerPort port)).focus s.here).armWaiting

/-- LINK_RETRAIN: what waits for the link is issued again. -/
def execLinkRetrain (port : Nat) (s : State) : Out := .next (({ s with down := tdel s.down port } : State).answerPorts port)

/-- POOL_LINK_TIMEOUT (14 R356): after 1 ms a request behind a down link is answered with a poisoned word, which the waiting
lane contains. -/
def execPoolLinkTimeout (port : Nat) (s : State) : Out := .next (if s.linkDead port then s.answerPorts port else s)

/-! ### Requests of other packages (14 R357; 08 R220; 13 R347) -/

/-- Whether a physical address may be reached from another package: HBM4E outside the share, and pool segments (01 R19, R20). -/
def State.openAway (s : State) (a : Nat) : Bool :=
  match placeOf a with
  | .hbm => true
  | .pool => (s.poolSeg a).isSome
  | _ => false

/-- Whether some export window covers `n` bytes for a source package. -/
def State.exported (s : State) (src addr n : Nat) (r w : Bool) : Bool :=
  s.openAway addr && s.openAway (addr + n - 1) &&
    s.ports.wins.any (fun x => decide (x.base ≤ addr) && decide (addr + n ≤ x.base + x.size) && (!r || x.r) && (!w || x.w) &&
      decide (x.srcLo ≤ src) && decide (src ≤ x.srcHi))

/-- An answer to the host or to another package. -/
def State.replying (s : State) (r : Reply) : State := { s with reply := some r }

/-- REMOTE_REQUEST (14 R357): performed at the target, refused outside every window, or answered busy while the package
quiesces (13 R348). Whole words come and go with their codes (13 R329); a store of fewer bytes is merged here. -/
def execRemoteRequest (src : Nat) (req : RemoteReq) (s : State) : Out :=
  .next (if !s.ready then s
    else if s.quiesced then s.replying .busy
    else match req with
      | .read a n =>
        if s.exported src a n true false then
          (s.note a n).replying (.words (s.mem.words (a / 8 * 8) ((a + n + 7) / 8 - a / 8)))
        else s.replying .refused
      | .write a bs =>
        if s.exported src a bs.length false true then
          match (s.postMerge 4 s.mem 0 a bs.length).physStore a bs with
          | .ok t => (t.note a bs.length).replying .done
          | .error x => (s.hostEvent x).replying .done
        else s.replying .refused
      | .writeWords a ws =>
        if a % 8 = 0 ∧ s.exported src a (8 * ws.length) false true then
          ((s.physSetWords a (ws.map CWord.coded)).note a (8 * ws.length)).replying .done
        else s.replying .refused)

/-- RAMO_REQUEST (08 R220, 13 R347): a request whose record is live is answered from it; one that retries without a record is
INDET; otherwise it is performed once and recorded. -/
def execRamoRequest (src : Nat) (req : RamoReq) (s : State) : Out :=
  .next (
    let ty := aAmoType req.op (if req.wide then 1 else 0)
    let answer (s : State) (a : RamoAnswer) : State := { s with reply := some (.ramo a) }
    match s.dedup.find? (fun d => decide (d.src = src) && decide (d.id = req.id) && decide (s.ptp < d.ends)) with
    | some d => answer s (.earlier d.old)
    | none =>
      if !s.ready then s
      else if req.retry then answer s .indet
      else if s.quiesced ∨ 65536 ≤ s.dedup.length then answer s .busy
      else if !s.exported src req.addr (tyWidth ty / 8) true true then answer s .refused
      else match s.atomicAt 4 req.addr req.op ty req.b.toNat 0 with
        | (t, .ok o) =>
          let old := amoExt ty o.res
          answer { t with dedup := t.dedup ++ [{ src := src, id := req.id, wide := req.wide, old := old, ends := t.ptp + 64000 }] } (.performed old)
        | (t, .data a) => answer (t.hostEvent a) .indet
        | (t, _) => answer t .refused)

/-! ### Remote atomics of this package (08 R220, 13 R347) -/

/-- The remote atomic with a number. -/
def State.ramo (s : State) (id : Nat) : Option RamoOut := s.ramos.find? (fun o => decide (o.id = id))

/-- A remote atomic ends: a[D] and a[D+1] are written in its context, wherever its core's registers lie, a floating one raises the flags of its
operation in the stream (03 R71), and the round trip is counted. -/
def State.ramoEnd (s : State) (o : RamoOut) (old : Word) (status : Nat) : State :=
  let s := { s with ramos := s.ramos.filter (fun x => decide (x.id ≠ o.id)) }
  let ty := aAmoType o.op (if o.wide then 1 else 0)
  let fl := if status = 2 then 0 else (amoApply o.op ty (old.toNat % 2 ^ tyWidth ty) (o.b.toNat % 2 ^ tyWidth ty) 0).flags
  let s := s.updCore o.slot o.pos (fun c =>
    ((if o.d = 0 then c else c.lateA o.d old).lateA (o.d + 1) (BitVec.ofNat 64 status)).orFlags true fl)
  s.sample (s.whoOf o.slot 0).dom 6 (s.ptp - o.first)

/-- Change a remote atomic. -/
def State.updRamo (s : State) (id : Nat) (f : RamoOut → RamoOut) : State :=
  { s with ramos := s.ramos.map (fun o => if o.id = id then f o else o) }

/-- RAMO_RESPONSE (08 R220). A refusal is a violation (14 R357): the context is parked, and the request ends as INDET. -/
def execRamoResponse (req : Nat) (answer : RamoAnswer) (s : State) : Out :=
  .next (match s.ramo req with
    | none => s
    | some o => match answer with
      | .performed v => s.ramoEnd o v 0
      | .earlier v => s.ramoEnd o v 1
      | .indet => s.ramoEnd o 0 2
      | .busy => s.updRamo req (fun o => { o with busy := true, last := s.ptp })
      | .refused =>
        (s.ramoEnd o 0 2).lateFault o.slot
          { kind := .late causeViol, pos := o.pos, aStream := true, word := o.word, addr := o.at_, data := o.va, tcode := 0, passed := true, time := s.ptp } causeViol)

/-- RAMO_RETRY_TIMEOUT (08 R220): 8 µs after a send without an answer the port sends again with RETRY set, up to seven times;
then it returns INDET. -/
def execRamoRetryTimeout (req : Nat) (s : State) : Out :=
  .next (match s.ramo req with
    | none => s
    | some o =>
      if o.busy ∨ s.ptp < o.last + 8000 then s
      else if o.sends < 8 then s.updRamo req (fun o => { o with sends := o.sends + 1, retry := true, last := s.ptp })
      else s.ramoEnd o 0 2)

/-- BUSY_RETRY_TIMER (13 R347): 2 µs after a busy answer the request is sent again with RETRY clear; one still refused 64 µs
after its first send returns status 2. -/
def execBusyRetryTimer (req : Nat) (s : State) : Out :=
  .next (match s.ramo req with
    | none => s
    | some o =>
      if !o.busy ∨ s.ptp < o.last + 2000 then s
      else if o.first + 64000 ≤ s.ptp then s.ramoEnd o 0 2
      else s.updRamo req (fun o => { o with busy := false, retry := false, last := s.ptp }))

end Sys2Proof.Machine
end

