-- ==== Sys2Proof/Machine/Boot.lean ====
section
/-! DEFINITION. Signed configuration records, bring-up and attestation (12 R320-R323; 14 R363). -/

namespace Sys2Proof

/-! ### Fields of a record (12 Table 12-6) -/

/-- The number in `n` bytes of a record from byte `off` on. -/
def FlashRecord.field (r : FlashRecord) (off n : Nat) : Nat := leNat ((r.bytes.drop off).take n)

def FlashRecord.type (r : FlashRecord) : Nat := r.field 0x00 2
def FlashRecord.format (r : FlashRecord) : Nat := r.field 0x02 2
def FlashRecord.version (r : FlashRecord) : Nat := r.field 0x04 4
def FlashRecord.length (r : FlashRecord) : Nat := r.field 0x08 4
def FlashRecord.signer (r : FlashRecord) : Nat := r.field 0x0C 1
def FlashRecord.module (r : FlashRecord) : Nat := r.field 0x10 16

/-- Bytes of an Ed25519 and of an ML-DSA-65 public key (12 Table 12-7). -/
def edKeyBytes : Nat := 32
def mlKeyBytes : Nat := 1952

/-- The owner's public keys, in the body of a record of type 1. -/
def FlashRecord.edKey (r : FlashRecord) : List Byte := (r.bytes.drop 0x20).take edKeyBytes
def FlashRecord.mlKey (r : FlashRecord) : List Byte := (r.bytes.drop (0x20 + edKeyBytes)).take mlKeyBytes

/-- A record's layout: its format, the bits that must be zero, its length, and a body padded with zeros. -/
def FlashRecord.laidOut (r : FlashRecord) : Bool :=
  decide (r.format = 1) && decide (r.field 0x0D 3 = 0) && decide (r.bytes.length = 0x20 + (r.length + 7) / 8 * 8) &&
    (r.bytes.drop (0x20 + r.length)).all (fun b => decide (b = 0)) && (decide (r.type ≠ 1) || decide (r.length = edKeyBytes + mlKeyBytes))

end Sys2Proof

namespace Sys2Proof.Machine

/-! ### What a body may say -/

/-- Ranges of scheduler parameters (10 Table 10-6). -/
def schedOk (p : SchedCfg) : Bool :=
  decide (5000 ≤ p.horizon) && decide (p.horizon ≤ 1000000) && decide (50000 ≤ p.quantum) && decide (p.quantum ≤ 20000000) &&
    decide (540 ≤ p.pbudget) && decide (p.pbudget ≤ 3000) && decide (p.dlreserve ≤ 48 * 2 ^ 20)

/-- Ranges of residency and memory parameters (11 Table 11-4). -/
def resOk (p : ResCfg) : Bool :=
  decide (p.dirbase.length = 4) &&
    (List.range 4).all (fun d =>
      let b := p.dirbase.getD d 0
      decide (b % 2 ^ 16 = 0) && decide (placeOf b = .hbm) && decide (placeOf (b + 2 ^ 25 - 1) = .hbm) && decide (dieOfPa b = d) &&
        decide (dieOfPa (b + 2 ^ 25 - 1) = d)) &&
    decide (1000 ≤ p.dlease) && decide (p.dlease ≤ 64000) && decide (100000 ≤ p.dstore) && decide (p.dstore ≤ 100000000) &&
    decide (1000000 ≤ p.dpool) && decide (p.dpool ≤ 1000000000) && decide (p.dpace ≤ 16000000) && decide (p.plead ≤ 100000000) &&
    decide (64000 ≤ p.skint) && decide (p.skint ≤ 16000000) && decide (4096 ≤ p.mscwin) && decide (p.mscwin ≤ 1048576) &&
    decide (250 ≤ p.agecap) && decide (p.agecap ≤ 4000) && decide (p.hreserve ≤ 32 * 2 ^ 30)

/-- An identity record: whole dies, each in one domain (12 R308). -/
def identityOk (pkg : Nat) (ds : List DomainCfg) : Bool :=
  decide (pkg < 1024) && decide (1 ≤ ds.length) && decide (ds.length ≤ 4) && ds.all (fun d => decide (d.dies ≠ 0)) &&
    (List.range 4).all (fun i => decide ((ds.filter (fun d => d.dies.getLsbD i)).length = 1)) &&
    ds.all (fun d => decide (d.kvfree % 8 = 0) && decide (d.kvfree < 2 ^ 52) && decide (d.asidtab % 2 ^ 19 = 0) && decide (d.asidtab < 2 ^ 52))

/-- Port settings (14 R356, R357). -/
def portsOk (p : PortCfg) : Bool :=
  p.segs.all (fun g => decide (placeOf g.base = .pool) && decide (0 < g.size) && decide (placeOf (g.base + g.size - 1) = .pool)) &&
    p.wins.all (fun w => decide (w.base % 2 ^ 16 = 0) && decide (w.size % 2 ^ 16 = 0)) &&
    (List.range 4).all (fun d => decide ((p.wins.filter (fun w => decide (w.dom = d))).length ≤ 16))

/-- A record's body fits its type and its ranges. -/
def bodyOk (type : Nat) (b : RecordBody) : Bool :=
  match type, b with
  | 1, .ownerKeys => true
  | 2, .identity p ds => identityOk p ds
  | 3, .memory l => decide (16 ≤ l) && decide (l ≤ 1024)
  | 4, .sched ps => ps.all schedOk
  | 5, .residency p => resOk p
  | 6, .ports p => portsOk p
  | _, _ => false

/-- Whether both signatures of a record verify (12 R321): under the vendor's keys for type 1, under the owner's public keys, which the record
`keys` of type 1 holds, for the others. -/
def signedBy (keys : Option FlashRecord) (r : FlashRecord) : Bool :=
  if r.type = 1 then decide (r.signer = 0) && decide (r.edBy = some .vendor) && decide (r.mlBy = some .vendor)
  else match keys with
    | none => false
    | some k => decide (r.signer = 1) && decide (r.edBy = some (.owner k.edKey)) && decide (r.mlBy = some (.owner k.mlKey))

/-- A valid record (12 R321, R322): its signatures, layout, module and body. -/
def recordValid (keys : Option FlashRecord) (r : FlashRecord) : Bool :=
  signedBy keys r && r.laidOut && (decide (r.module = 0) || decide (r.module = Config.moduleSerial.toNat)) && bodyOk r.type r.body

/-- The record of a type that bring-up takes: the valid one with the highest version at or above the counter; two that differ
with one version are both rejected. -/
def pickRecord (keys : Option FlashRecord) (flash : List FlashRecord) (type counter : Nat) : Option FlashRecord :=
  let ok := flash.filter (fun r => decide (r.type = type) && recordValid keys r && decide (counter ≤ r.version))
  (ok.filter (fun r => !ok.any (fun q => decide (q.version = r.version) && decide (q ≠ r)))).foldl (fun b r => match b with
    | none => some r
    | some q => some (if q.version < r.version then r else q)) none

/-- The records that bring-up takes, in order of type: that of type 1 first, whose keys the others need. -/
def State.taken (s : State) : List FlashRecord :=
  let pick (keys : Option FlashRecord) (type : Nat) : Option FlashRecord := pickRecord keys s.flash type ((tget s.counters type).getD 0)
  let keys := pick none 1
  keys.toList ++ [2, 3, 4, 5, 6].filterMap (pick keys)

/-- A tenancy domain as the records give it. -/
def Dom.make (d : DomainCfg) (p : SchedCfg) (frames : List Nat) : Dom where
  dies := d.dies
  super := none
  tgt := 0
  tgtcore := 0
  foff := 0
  fstat := 0
  kvfree := d.kvfree
  asidtab := d.asidtab
  sched := p
  bulkFirst := none
  fifo := []
  reject := 0
  ovf := 0
  lastStatus := 0
  lastAddr := 0
  unresolved := []
  resReq := []
  resStatus := 0
  kvFrames := frames
  monitors := []
  tally := []
  ring := Ring.reset

/-- Apply the records in use; types that are missing take their defaults. -/
def State.applyRecords (s : State) (rs : List FlashRecord) (frames : List Nat) : State :=
  let sched := (rs.findSome? (fun r => match r.body with | .sched p => some p | _ => none)).getD []
  let ports := rs.findSome? (fun r => match r.body with | .ports p => some p | _ => none)
  let res := rs.findSome? (fun r => match r.body with | .residency p => some p | _ => none)
  let lease := rs.findSome? (fun r => match r.body with | .memory l => some l | _ => none)
  let s := { s with ports := ports.getD s.ports, res := res.getD s.res, lease := lease.getD s.lease }
  match rs.findSome? (fun r => match r.body with | .identity p ds => some (p, ds) | _ => none) with
  | none => s
  | some (p, ds) =>
    let mine (i : Nat) (d : DomainCfg) (f : Nat) : Bool :=
      if frameHbm f then d.dies.getLsbD (dieOfPa (f * 2 ^ 16)) else (s.poolSeg (f * 2 ^ 16)).any (fun g => decide (g.dom = i))
    { s with
      pkg := p
      doms := ds.zipIdx.map (fun d => (d.2, Dom.make d.1 (sched.getD d.2 SchedCfg.default) (frames.filter (mine d.2 d.1)))) }

/-- The host creates the supervisor of a domain, whose control block it has prepared (12 R310). -/
def State.makeSuper (s : State) (d : Nat) (cb : Nat × List (BitVec 64)) : State :=
  match s.dom d with
  | none => s
  | some x =>
    let s := s.physPut cb.1 ((cb.2.take 4).map CWord.good)
    let k := s.freeSlot
    let (s, _) := s.ctxNew d true cb.1
    s.setDom d { x with super := k }

/-- What outlives a power-on reset: flash, counters, the persistent log, pool memory; and the model's own fields. -/
def State.kept (s : State) : State :=
  { State.reset with
    mem := s.mem.part false, images := s.images, flash := s.flash, flashFw := s.flashFw, counters := s.counters, plog := s.plog
    tick := s.tick, agenda := s.agenda }

/-- Bring-up, step by step; a step that fails enters the recovery state with the last completed step in STATUS. -/
def State.powerOn (s : State) (b : Boot) : State :=
  let t := s.kept
  let fail (n : Nat) : State := { t with recovery := true, step := n }
  let rs := t.taken
  let has (i : Nat) : Bool := rs.any (fun r => decide (r.type = i))
  if !b.fwOk || decide (b.fwVersion < t.flashFw) then fail 0
  else if !b.pcieOk then fail 1
  else if !(has 1 && has 2 && has 5) then fail 2
  else if !b.dieOk then fail 3
  else if !b.linksOk then fail 5
  else
    let t := { t.applyRecords rs b.kvFrames with inUse := rs, step := 7, ready := true, flashFw := b.fwVersion, fwDigest := b.fwDigest }
    let t := { t with counters := rs.foldl (fun c r => tset c r.type r.version) t.counters }
    (b.supers.zipIdx).foldl (fun s x => s.makeSuper x.2 x.1) t

/-- POWER_ON_RESET (14 R363). -/
def execPowerOnReset (boot : Boot) (s : State) : Out := .next (s.powerOn boot)

/-- FLASH_RECOVERY_WRITE (12 R322; 14 R352): the record is kept in flash and verified at the next bring-up. -/
def execFlashRecoveryWrite (record : FlashRecord) (s : State) : Out := .next { s with flash := s.flash ++ [record] }

/-- ATTESTATION_REQUEST (12 R323): a report over what stands now. The digests are those of SHA-384, and the signatures values of the secure
element (log 60). In the recovery state its block does not respond (14 R363). -/
def execAttestationRequest (nonce : BitVec 256) (s : State) : Out :=
  .next (if !s.ready then s else let a : Attest :=
      { nonce := nonce, serial := Config.moduleSerial, pkg := s.pkg, digest := s.fwDigest
        records := s.inUse.map (fun r => (r.type, r.version, Config.sha384 r.bytes)), counters := s.counters, fw := s.flashFw, layout := s.layout
        edSig := Config.freeBits 512 s.tick (2 ^ 35), mlSig := Config.freeBits 26472 s.tick (2 ^ 35 + 1) }
    { s with attests := s.attests ++ [a] })

end Sys2Proof.Machine
end

