-- ==== Sys2Proof/Machine/Device.lean ====
section
/-! DEFINITION. The steps of the scheduler and of the residency engine (10 R245-R273; 11 R284-R289; 17 R374-R377). -/

namespace Sys2Proof.Machine

/-- LEAVE_ACCEPT (10 R245-R247). -/
def execLeaveAccept (slot : Nat) (s : State) : Out := .next (s.leaveAccept slot)

/-- PREEMPTION (10 R263, R264, R271). -/
def execPreemption (slot : Nat) (s : State) : Out := .next (s.preempt slot)

/-- FRAME_SAVE (10 R270-R273; 01 R21, R22). -/
def execFrameSave (slot : Nat) (s : State) : Out := .next (s.frameSaveXfer slot)

/-- PLACEMENT (10 R254, R262; 01 R26). -/
def execPlacement (slot origin : Nat) (s : State) : Out := .next (s.place slot origin)

/-- SWAP_OUT (01 R29; 10 R273). -/
def execSwapOut (slot : Nat) (s : State) : Out := .next (s.swapOut slot)

/-- SWAP_IN (01 R29; 10 R273). -/
def execSwapIn (slot : Nat) (s : State) : Out := .next (s.swapIn slot)

/-- BANK_RECLAIM (01 R22; 11 R287; 17 R375). -/
def execBankReclaim (slot pos : Nat) (s : State) : Out := .next (s.bankReclaim slot pos)

/-- QUANTUM_EXPIRY (10 R264). -/
def execQuantumExpiry (slot : Nat) (s : State) : Out := .next (s.quantumExpiry slot)

/-- CONTEXT_READY (10 R245, R252; 11 R287). -/
def execContextReady (slot : Nat) (s : State) : Out := .next (s.contextReady slot)

/-- WAKE_TIMER_EXPIRY (10 R261). -/
def execWakeTimerExpiry (slot : Nat) (s : State) : Out := .next (s.timerExpiry slot)

/-- CONTROL_NODE_EVAL (10 R253). -/
def execControlNodeEval (node : Nat) (s : State) : Out := .next (s.evalNode node)

/-- DEMOTION_START (11 R288). -/
def execDemotionStart (kvpn : Nat) (s : State) : Out := .next (s.demotionStart kvpn)

/-- PROMOTION_START (11 R289; 17 R375, R377). -/
def execPromotionStart (kvpn : Nat) (s : State) : Out := .next (s.promotionStart kvpn)

/-- MOVE_INSTALL (11 R286, R289). -/
def execMoveInstall (kvpn : Nat) (s : State) : Out := .next (s.moveInstall kvpn)

/-- OLD_LOCATION_RELEASE (11 R286). -/
def execOldLocationRelease (fence : Nat) (s : State) : Out := .next (s.releaseOld fence)

/-- DIRECTORY_LEASE_EXPIRY (11 R285). -/
def execDirectoryLeaseExpiry (die kvpn : Nat) (s : State) : Out := .next (s.leaseExpiry die kvpn)

end Sys2Proof.Machine
end

