-- ==== Sys2Proof/Machine/Choice.lean ====
section
/-! DEFINITION. Who moves next when the agenda is empty: a round of the turns that the state offers (log 7). A turn whose event
is not due changes nothing but time. -/

namespace Sys2Proof.Machine

/-- Steps that belong to the clocked units of a core: they stand still in P3 (14 Table 14-9). -/
noncomputable def coreSteps : List Instr :=
  [.pauseExpiry false, .resultLand 0, .loadCommit, .aAmoComplete, .queueWordProceed false, .vectorCommandStart, .vectorCommandComplete,
    .matrixCommandStart, .matrixGranuleEnd .agree, .matrixCommandComplete, .windowReplay .span, .checkerMismatch false false]

/-- Whether a step is one of these, whatever its parameters. -/
noncomputable def coreStep (i : Instr) : Bool := coreSteps.any (fun e => decide (e.ctorIdx = i.ctorIdx))

/-- Whether a step of the device can come now to the core in focus: clocked units stand still in P3, and the checker compares legal words alone (13
R338). -/
noncomputable def State.admits (s : State) (i : Instr) : Bool :=
  !(decide (s.pNow = 3) && coreStep i) &&
    (match i with
      | .checkerMismatch a _ => match if a then s.fetchA else s.fetchX with
        | (_, some bs) => if a then (decodeABytes bs).isOk else (decodeXBytes bs).isOk
        | (_, none) => false
      | _ => true)

/-- Whether the X stream of the core in focus takes up a word: its context runs and has not accepted a leave. -/
def State.streamOn (s : State) (aStream : Bool) : Bool :=
  s.core.issuing aStream && s.here?.any (fun kc => decide (kc.2.state = .running) && kc.2.leave.isNone) && decide (s.pNow ≠ 3)

/-- Whether the X stream of the core in focus holds its issue through this cycle, in which latency windows go on (04 R79); the cycles of a
pause have been counted with it. -/
def State.xStalls (s : State) : Bool :=
  s.here?.any (fun kc => decide (kc.2.state = .running)) && decide (s.pNow ≠ 3) && !s.core.xexited &&
    (match s.core.xhold with
      | .queue | .asking | .access _ => true
      | .none | .paused _ => false)

/-- A step of the device, for the core that has the focus at index 0. -/
noncomputable def device (i : Instr) : Turn := Turn.at 0 i

/-- Turns of one core's streams and engines. -/
noncomputable def coreTurns (i : Nat) : List Turn :=
  Turn.x i :: Turn.a i :: List.map (Turn.at i)
    [Instr.vectorCommandStart, Instr.matrixCommandStart, Instr.matrixGranuleEnd Twin.agree, Instr.windowReplay LaneEngine.span,
      Instr.windowReplay LaneEngine.row, Instr.windowReplay LaneEngine.matrix, Instr.vectorCommandComplete,
      Instr.matrixCommandComplete, Instr.loadCommit, Instr.aAmoComplete, Instr.resultLand 0, Instr.queueWordProceed false,
      Instr.queueWordProceed true, Instr.pauseExpiry false, Instr.pauseExpiry true]

/-- Turns of one context. -/
noncomputable def State.ctxTurns (s : State) (k : Nat) (c : Ctx) : List Turn :=
  let origin : Nat := match c.nextLaunch with
    | some (_, r) => ((origins r.rect.toNat).find? (fun o => s.freeAt c.tdom r.rect.toNat o)).getD 0
    | none => 0
  List.append
    (List.map device
      [Instr.leaveAccept k, Instr.frameSave k, Instr.contextReady k, Instr.swapIn k, Instr.placement k origin, Instr.preemption k,
        Instr.quantumExpiry k, Instr.wakeTimerExpiry k])
    (c.nodes.map (fun (n : Node) => device (Instr.controlNodeEval n.pa)))

/-- Turns of one engine command. -/
noncomputable def cmdTurns (c : EngCmd) : List Turn :=
  List.append
    (List.map device
      [Instr.engineSegment c.id 0, Instr.fixupReplay c.id 0, Instr.nbItemForward c.id, Instr.nbInvalidationDone c.id,
        Instr.engineCommandComplete c.id])
    (match c.coll with
      | some p => List.append ((List.range p.size).map (fun (r : Nat) => device (Instr.contributionToken c.id r p.attempt [])))
        [device (Instr.closeToken c.id p.attempt), device (Instr.colltoExpiry c.id)]
      | none => [])

/-- Turns of units, banks and controllers. -/
noncomputable def State.memoryTurns (s : State) : List Turn :=
  List.append (s.units.flatMap (fun (u : Nat × NbUnit) => [Turn.nbu u.1, device (Instr.nbRowStep u.1), device (Instr.nbResume u.1)]))
    (List.append (s.reqs.map (fun (q : Nat × List BankReq) => device (Instr.bankRequestIssue q.1)))
      (s.hbm.flatMap (fun (h : Nat × Stack) => [device (Instr.skintExpiry h.1), device (Instr.mscFilterClear h.1)])))

/-- Turns of the residency engine. -/
noncomputable def State.pageTurns (s : State) : List Turn :=
  List.flatten
    [s.moves.map (fun (m : Move) => device (Instr.moveInstall m.kvpn)),
      (List.range s.fences.length).map (fun (i : Nat) => device (Instr.oldLocationRelease i)),
      s.leases.map (fun (l : DirLease) => device (Instr.directoryLeaseExpiry l.die l.kvpn)),
      s.dir.flatMap (fun (e : Nat × Word) => [device (Instr.promotionStart e.1), device (Instr.demotionStart e.1)])]

/-- Turns of ports, scrubber and timers. -/
noncomputable def State.portTurns (s : State) : List Turn :=
  List.flatten
    [s.doms.map (fun (d : Nat × Dom) => device (Instr.hostLaunchArm d.1)),
      s.scrubTags.map (fun (t : Nat × (CWord × Bool)) => device (Instr.scrubWriteBack t.1)), [device Instr.directedScrub],
      s.ramos.flatMap (fun (o : RamoOut) => [device (Instr.ramoRetryTimeout o.id), device (Instr.busyRetryTimer o.id)]),
      (List.range s.dedup.length).map (fun (i : Nat) => device (Instr.dedupRecordExpiry i)),
      s.down.map (fun (p : Nat × Nat) => device (Instr.poolLinkTimeout p.1))]

/-- All turns that the state offers. -/
noncomputable def State.turns (s : State) : List Turn :=
  List.flatten
    [if s.core.ctx.isSome then coreTurns s.here else [],
      (s.cores.filter (fun (c : Nat × Core) => c.2.ctx.isSome)).flatMap (fun (c : Nat × Core) => coreTurns c.1),
      s.ctxs.flatMap (fun (c : Nat × Ctx) => s.ctxTurns c.1 c.2), s.cmds.flatMap cmdTurns, s.memoryTurns, s.pageTurns, s.portTurns]

/-- The turn that the model takes when nothing stands in the agenda. -/
noncomputable def State.defaultTurn (s : State) : Option Turn :=
  if s.ready then s.turns[s.tick % s.turns.length]? else none

end Sys2Proof.Machine
end

