-- ==== Sys2Proof/Machine/Control.lean ====
section
/-! DEFINITION. Control flow and the return stack of the X stream (04 R93-R103, R382). -/

namespace Sys2Proof.Machine

/-- Whether `n` more entries fit (04 R102): no spill is needed, or the spill area has a line left in a SCRATCH bank. -/
def State.canPush (s : State) (n : Nat) : Bool :=
  decide (s.core.rstack.length + n ≤ 32) ||
    (decide (s.core.spLines ≠ 0) && decide (s.core.spilled < s.core.spSize) &&
      decide ((s.own.bank s.core.spBank).mode = .scratch))

/-- Write the eight oldest on-core entries as one line of the spill area (04 R101). -/
def State.spill (s : State) : State :=
  let b := s.own.bank s.core.spBank
  let m := b.data.setWords ((s.core.spLine + s.core.spilled) * 64) (s.core.rstack.drop 24).reverse
  let s := s.setOwn (s.own.setBank s.core.spBank { b with data := m })
  { s with core :=
    { s.core with rstack := s.core.rstack.take 24, spilled := s.core.spilled + 1, xcycle := s.core.xcycle + 8 } }

/-- Push one entry, spilling first when 32 lie on the core (04 R101). -/
def State.pushEntry (s : State) (w : Word) : State :=
  let s := if s.core.rstack.length = 32 then s.spill else s
  { s with core := { s.core with rstack := CWord.good w :: s.core.rstack } }

/-- A code address as an entry holds it: bits [55:0] (04 Table 04-9). -/
def codeAddr (w : Word) : Word := w &&& 0x00FFFFFFFFFFFFFF#64

/-- A loop start and a loop count entry (04 Table 04-9). -/
def loopStartEntry (start : Word) : Word := 0b1000#4 ++ 0#4 ++ start.extractLsb' 0 56
def loopCountEntry (len n : Nat) : Word := 0b1100#4 ++ 0#12 ++ BitVec.ofNat 16 len ++ BitVec.ofNat 32 n

/-- A transfer to `pc` that takes entries off the stack: a contained entry parks with DATA (04 R101). -/
def State.jumpWith (s : State) (r : Stacked) (pc : Word) : WordEnd :=
  match r with
  | .error z => .leave (.fault causeData) 0 (z.zeroExtend 32)
  | .ok (c, k) => .jump (({ s with core := c } : State).fixed k) pc

/-- A taken `br` or `jr`: loop frames that the target leaves are popped (04 R97). -/
def State.branchTo (s : State) (pc : Word) : WordEnd := s.jumpWith (Core.leaveLoops s.spillMem pc s.core.depth s.core) pc

/-- A taken `call` or `callr` (04 R93, R94, R102). -/
def State.callTo (s : State) (pc : Word) : WordEnd :=
  if s.canPush 1 then .jump (s.pushEntry (codeAddr (s.core.xpc + 8))) pc else .trap causeStack 0

/-- The target of a PC-relative transfer (04 R93). -/
def State.xRelative (s : State) (off : BitVec 40) : Word := s.core.xpc + 8 * off.signExtend 64

/-- Discard loop frames down to the topmost return entry (04 R94). -/
def Core.dropLoops (m : Memory) : Nat → Core → Stacked
  | 0, c => .ok (c, 0)
  | fuel + 1, c =>
    if (c.topLoop m).isSome then
      match c.checkTop m 2 with
      | .error z => .error z
      | .ok k => Stacked.more k (Core.dropLoops m fuel ((c.pop m).pop m))
    else .ok (c, 0)

/-- `ret`'s way down the stack (04 R94): the address in the topmost return entry, none when the whole stack holds no such entry,
and the core less the frames above it and the entry itself. -/
def State.takeReturn (s : State) : Except (BitVec 8) (Option (Word × Core × Nat)) :=
  match Core.dropLoops s.spillMem s.core.depth s.core with
  | .error z => .error z
  | .ok (c, k) => match c.entryAt s.spillMem 0, c.checkTop s.spillMem 1 with
    | none, _ => .ok none
    | _, .error z => .error z
    | some e, .ok j => .ok (some (codeAddr e.value, c.pop s.spillMem, k + j))

/-- BR (04 R93). -/
def execBr (r : Xb) (s : State) : Out := .next (s.xWord r.g r.gn [] fun s => s.branchTo (s.xRelative r.off))

/-- CALL (04 R93). -/
def execCall (r : Xb) (s : State) : Out := .next (s.xWord r.g r.gn [] fun s => s.callTo (s.xRelative r.off))

/-- JR (04 R94): a target with bits [2:0] nonzero traps at this word. -/
def execJr (r : Xr) (s : State) : Out :=
  .next (s.xWord r.g r.gn [r.a.toNat] fun s =>
    let t := s.getX 0 r.a.toNat
    if t.extractLsb' 0 3 = 0 then s.branchTo t else .trap causeIll 0)

/-- CALLR (04 R94). A misaligned target comes before a full stack (log 45). -/
def execCallr (r : Xr) (s : State) : Out :=
  .next (s.xWord r.g r.gn [r.a.toNat] fun s =>
    let t := s.getX 0 r.a.toNat
    if t.extractLsb' 0 3 = 0 then s.callTo t else .trap causeIll 0)

/-- RET (04 R94, R102): the topmost return entry is popped; with none in the whole stack the word traps with STACK, with one
that it consumes and cannot correct with DATA (04 R101), with a misaligned address in it with ILL. -/
def execRet (r : Xr) (s : State) : Out :=
  .next (s.xWord r.g r.gn [] fun s =>
    match s.takeReturn with
    | .error z => .leave (.fault causeData) 0 (z.zeroExtend 32)
    | .ok none => .trap causeStack 0
    | .ok (some (pc, c, k)) => if pc.extractLsb' 0 3 = 0 then s.jumpWith (.ok (c, k)) pc else .trap causeIll 0)

/-- Whether the last word of a body from PC on breaks the nesting of loops (04 R95). -/
def State.loopBreaks (s : State) (last : Word) : Bool :=
  match s.core.topLoop s.spillMem with
  | none => false
  | some (_, en, _) => decide (s.core.xpc = en) || decide (en.toNat < last.toNat)

/-- LOOP (04 R95, R96, R382). It compares with the frame on top of the stack, whose entries it so consumes (13 R331; log 44). -/
def execLoop (r : Xi) (s : State) : Out :=
  .next (s.xWord r.g r.gn [r.a.toNat] fun s =>
    let n := ((s.getX 0 r.a.toNat).extractLsb' 0 32).toNat
    let last := s.core.xpc + 8 * r.imm.zeroExtend 64
    match (if (s.core.topLoop s.spillMem).isSome then s.core.checkTop s.spillMem 2 else .ok 0) with
    | .error z => .leave (.fault causeData) 0 (z.zeroExtend 32)
    | .ok k =>
      let s := s.fixed k
      if s.loopBreaks last then .trap causeIll 0
      else if n = 0 then
        match Core.loopStep s.spillMem last s.core.depth { s.core with xpc := last + 8, xdoubt := false } with
        | .error z => .leave (.fault causeData) 0 (z.zeroExtend 32)
        | .ok (c, j) => .jump (({ s with core := c } : State).fixed j) c.xpc
      else if s.canPush 2 then
        .done ((s.pushEntry (loopStartEntry (s.core.xpc + 8))).pushEntry (loopCountEntry r.imm.toNat n))
      else .trap causeStack 0)

end Sys2Proof.Machine
end

