-- ==== Sys2Proof/Machine/Dispatch.lean ====
section
/-! DEFINITION. What each instruction does: one arm per constructor, one direct call of its meaning. -/

namespace Sys2Proof.Machine

/-- The meaning of an instruction or of a step of the device. -/
def exec (i : Instr) (s : State) : Host.Outcome State Fault Refusal :=
  match i with
  | .udf w => Sys2Proof.Machine.execUdf w s
  | .add r => Sys2Proof.Machine.execAdd r s
  | .sub r => Sys2Proof.Machine.execSub r s
  | .and r => Sys2Proof.Machine.execAnd r s
  | .or r => Sys2Proof.Machine.execOr r s
  | .xor r => Sys2Proof.Machine.execXor r s
  | .andn r => Sys2Proof.Machine.execAndn r s
  | .sll r => Sys2Proof.Machine.execSll r s
  | .srl r => Sys2Proof.Machine.execSrl r s
  | .sra r => Sys2Proof.Machine.execSra r s
  | .rol r => Sys2Proof.Machine.execRol r s
  | .min r => Sys2Proof.Machine.execMin r s
  | .max r => Sys2Proof.Machine.execMax r s
  | .minu r => Sys2Proof.Machine.execMinu r s
  | .maxu r => Sys2Proof.Machine.execMaxu r s
  | .clz r => Sys2Proof.Machine.execClz r s
  | .ctz r => Sys2Proof.Machine.execCtz r s
  | .popc r => Sys2Proof.Machine.execPopc r s
  | .sext r => Sys2Proof.Machine.execSext r s
  | .zext r => Sys2Proof.Machine.execZext r s
  | .mov r => Sys2Proof.Machine.execMov r s
  | .mul r => Sys2Proof.Machine.execMul r s
  | .mulh r => Sys2Proof.Machine.execMulh r s
  | .mulhu r => Sys2Proof.Machine.execMulhu r s
  | .mulhsu r => Sys2Proof.Machine.execMulhsu r s
  | .mad r => Sys2Proof.Machine.execMad r s
  | .div r => Sys2Proof.Machine.execDiv r s
  | .divu r => Sys2Proof.Machine.execDivu r s
  | .rem r => Sys2Proof.Machine.execRem r s
  | .remu r => Sys2Proof.Machine.execRemu r s
  | .ceq r => Sys2Proof.Machine.execCeq r s
  | .cne r => Sys2Proof.Machine.execCne r s
  | .clt r => Sys2Proof.Machine.execClt r s
  | .cle r => Sys2Proof.Machine.execCle r s
  | .cltu r => Sys2Proof.Machine.execCltu r s
  | .cleu r => Sys2Proof.Machine.execCleu r s
  | .pand r => Sys2Proof.Machine.execPand r s
  | .por r => Sys2Proof.Machine.execPor r s
  | .pxor r => Sys2Proof.Machine.execPxor r s
  | .pandn r => Sys2Proof.Machine.execPandn r s
  | .pnand r => Sys2Proof.Machine.execPnand r s
  | .pnor r => Sys2Proof.Machine.execPnor r s
  | .pget r => Sys2Proof.Machine.execPget r s
  | .pput r => Sys2Proof.Machine.execPput r s
  | .sel r => Sys2Proof.Machine.execSel r s
  | .addi r => Sys2Proof.Machine.execAddi r s
  | .andi r => Sys2Proof.Machine.execAndi r s
  | .ori r => Sys2Proof.Machine.execOri r s
  | .xori r => Sys2Proof.Machine.execXori r s
  | .slli r => Sys2Proof.Machine.execSlli r s
  | .srli r => Sys2Proof.Machine.execSrli r s
  | .srai r => Sys2Proof.Machine.execSrai r s
  | .roli r => Sys2Proof.Machine.execRoli r s
  | .mini r => Sys2Proof.Machine.execMini r s
  | .maxi r => Sys2Proof.Machine.execMaxi r s
  | .muli r => Sys2Proof.Machine.execMuli r s
  | .ceqi r => Sys2Proof.Machine.execCeqi r s
  | .cnei r => Sys2Proof.Machine.execCnei r s
  | .clti r => Sys2Proof.Machine.execClti r s
  | .clei r => Sys2Proof.Machine.execClei r s
  | .cltui r => Sys2Proof.Machine.execCltui r s
  | .cleui r => Sys2Proof.Machine.execCleui r s
  | .movi r => Sys2Proof.Machine.execMovi r s
  | .movu r => Sys2Proof.Machine.execMovu r s
  | .movh r => Sys2Proof.Machine.execMovh r s
  | .fadd r => Sys2Proof.Machine.execFadd r s
  | .fsub r => Sys2Proof.Machine.execFsub r s
  | .fmul r => Sys2Proof.Machine.execFmul r s
  | .fdiv r => Sys2Proof.Machine.execFdiv r s
  | .fsqrt r => Sys2Proof.Machine.execFsqrt r s
  | .fmin r => Sys2Proof.Machine.execFmin r s
  | .fmax r => Sys2Proof.Machine.execFmax r s
  | .fma r => Sys2Proof.Machine.execFma r s
  | .fms r => Sys2Proof.Machine.execFms r s
  | .fnma r => Sys2Proof.Machine.execFnma r s
  | .fabs r => Sys2Proof.Machine.execFabs r s
  | .fneg r => Sys2Proof.Machine.execFneg r s
  | .fsgnj r => Sys2Proof.Machine.execFsgnj r s
  | .feq r => Sys2Proof.Machine.execFeq r s
  | .flt r => Sys2Proof.Machine.execFlt r s
  | .fle r => Sys2Proof.Machine.execFle r s
  | .fun r => Sys2Proof.Machine.execFun r s
  | .fclass r => Sys2Proof.Machine.execFclass r s
  | .fcvt r => Sys2Proof.Machine.execFcvt r s
  | .fcvti r => Sys2Proof.Machine.execFcvti r s
  | .icvtf r => Sys2Proof.Machine.execIcvtf r s
  | .br r => Sys2Proof.Machine.execBr r s
  | .call r => Sys2Proof.Machine.execCall r s
  | .jr r => Sys2Proof.Machine.execJr r s
  | .callr r => Sys2Proof.Machine.execCallr r s
  | .ret r => Sys2Proof.Machine.execRet r s
  | .loop r => Sys2Proof.Machine.execLoop r s
  | .lds fn r => Sys2Proof.Machine.execLds fn r s
  | .ldsx fn r => Sys2Proof.Machine.execLdsx fn r s
  | .sts fn r => Sys2Proof.Machine.execSts fn r s
  | .ldg fn r => Sys2Proof.Machine.execLdg fn r s
  | .stg fn r => Sys2Proof.Machine.execStg fn r s
  | .amoAdd r => Sys2Proof.Machine.execAmoAdd r s
  | .amoAnd r => Sys2Proof.Machine.execAmoAnd r s
  | .amoOr r => Sys2Proof.Machine.execAmoOr r s
  | .amoXor r => Sys2Proof.Machine.execAmoXor r s
  | .amoMin r => Sys2Proof.Machine.execAmoMin r s
  | .amoMax r => Sys2Proof.Machine.execAmoMax r s
  | .amoSwap r => Sys2Proof.Machine.execAmoSwap r s
  | .amoCas r => Sys2Proof.Machine.execAmoCas r s
  | .amoFadd r => Sys2Proof.Machine.execAmoFadd r s
  | .amoFmax r => Sys2Proof.Machine.execAmoFmax r s
  | .amoMaxx r => Sys2Proof.Machine.execAmoMaxx r s
  | .pop r => Sys2Proof.Machine.execPop r s
  | .push r => Sys2Proof.Machine.execPush r s
  | .fence r => Sys2Proof.Machine.execFence r s
  | .bankMode r => Sys2Proof.Machine.execBankMode r s
  | .vadd r => Sys2Proof.Machine.execVadd r s
  | .vsub r => Sys2Proof.Machine.execVsub r s
  | .vmul r => Sys2Proof.Machine.execVmul r s
  | .vdiv r => Sys2Proof.Machine.execVdiv r s
  | .vmin r => Sys2Proof.Machine.execVmin r s
  | .vmax r => Sys2Proof.Machine.execVmax r s
  | .vfma r => Sys2Proof.Machine.execVfma r s
  | .vfms r => Sys2Proof.Machine.execVfms r s
  | .vfnma r => Sys2Proof.Machine.execVfnma r s
  | .vand r => Sys2Proof.Machine.execVand r s
  | .vor r => Sys2Proof.Machine.execVor r s
  | .vxor r => Sys2Proof.Machine.execVxor r s
  | .vsll r => Sys2Proof.Machine.execVsll r s
  | .vsrl r => Sys2Proof.Machine.execVsrl r s
  | .vsra r => Sys2Proof.Machine.execVsra r s
  | .vabd r => Sys2Proof.Machine.execVabd r s
  | .vmov r => Sys2Proof.Machine.execVmov r s
  | .vneg r => Sys2Proof.Machine.execVneg r s
  | .vabs r => Sys2Proof.Machine.execVabs r s
  | .vrcp r => Sys2Proof.Machine.execVrcp r s
  | .vsqrt r => Sys2Proof.Machine.execVsqrt r s
  | .vrsqrt r => Sys2Proof.Machine.execVrsqrt r s
  | .vexp r => Sys2Proof.Machine.execVexp r s
  | .vexp2 r => Sys2Proof.Machine.execVexp2 r s
  | .vlog2 r => Sys2Proof.Machine.execVlog2 r s
  | .vtanh r => Sys2Proof.Machine.execVtanh r s
  | .vsigm r => Sys2Proof.Machine.execVsigm r s
  | .vadds r => Sys2Proof.Machine.execVadds r s
  | .vsubs r => Sys2Proof.Machine.execVsubs r s
  | .vmuls r => Sys2Proof.Machine.execVmuls r s
  | .vmins r => Sys2Proof.Machine.execVmins r s
  | .vmaxs r => Sys2Proof.Machine.execVmaxs r s
  | .vfmas r => Sys2Proof.Machine.execVfmas r s
  | .vfill r => Sys2Proof.Machine.execVfill r s
  | .vceq r => Sys2Proof.Machine.execVceq r s
  | .vcne r => Sys2Proof.Machine.execVcne r s
  | .vclt r => Sys2Proof.Machine.execVclt r s
  | .vcle r => Sys2Proof.Machine.execVcle r s
  | .vsel r => Sys2Proof.Machine.execVsel r s
  | .vcvt r => Sys2Proof.Machine.execVcvt r s
  | .vqJ4 r => Sys2Proof.Machine.execVqJ4 r s
  | .vdqJ4 r => Sys2Proof.Machine.execVdqJ4 r s
  | .vsum r => Sys2Proof.Machine.execVsum r s
  | .vmaxr r => Sys2Proof.Machine.execVmaxr r s
  | .vminr r => Sys2Proof.Machine.execVminr r s
  | .vamax r => Sys2Proof.Machine.execVamax r s
  | .vdot r => Sys2Proof.Machine.execVdot r s
  | .vrev r => Sys2Proof.Machine.execVrev r s
  | .vbcast r => Sys2Proof.Machine.execVbcast r s
  | .vscan r => Sys2Proof.Machine.execVscan r s
  | .vidx r => Sys2Proof.Machine.execVidx r s
  | .vperm r => Sys2Proof.Machine.execVperm r s
  | .vtrans r => Sys2Proof.Machine.execVtrans r s
  | .vsetb r => Sys2Proof.Machine.execVsetb r s
  | .vsets r => Sys2Proof.Machine.execVsets r s
  | .vsetn r => Sys2Proof.Machine.execVsetn r s
  | .vsett r => Sys2Proof.Machine.execVsett r s
  | .vgetb r => Sys2Proof.Machine.execVgetb r s
  | .vgetn r => Sys2Proof.Machine.execVgetn r s
  | .vchain r => Sys2Proof.Machine.execVchain r s
  | .vdefer r => Sys2Proof.Machine.execVdefer r s
  | .vdrain r => Sys2Proof.Machine.execVdrain r s
  | .rowSm r => Sys2Proof.Machine.execRowSm r s
  | .rowNorm r => Sys2Proof.Machine.execRowNorm r s
  | .rowLse r => Sys2Proof.Machine.execRowLse r s
  | .mmNest r => Sys2Proof.Machine.execMmNest r s
  | .mmGo r => Sys2Proof.Machine.execMmGo r s
  | .mmSwap r => Sys2Proof.Machine.execMmSwap r s
  | .mmZero r => Sys2Proof.Machine.execMmZero r s
  | .mmDrain r => Sys2Proof.Machine.execMmDrain r s
  | .mmCfg r => Sys2Proof.Machine.execMmCfg r s
  | .tset r => Sys2Proof.Machine.execTset r s
  | .tclr r => Sys2Proof.Machine.execTclr r s
  | .barInit r => Sys2Proof.Machine.execBarInit r s
  | .barArr r => Sys2Proof.Machine.execBarArr r s
  | .barWait r => Sys2Proof.Machine.execBarWait r s
  | .barSync r => Sys2Proof.Machine.execBarSync r s
  | .evSet r => Sys2Proof.Machine.execEvSet r s
  | .evClr r => Sys2Proof.Machine.execEvClr r s
  | .evWait r => Sys2Proof.Machine.execEvWait r s
  | .ctxYield r => Sys2Proof.Machine.execCtxYield r s
  | .ctxXfer r => Sys2Proof.Machine.execCtxXfer r s
  | .launch r => Sys2Proof.Machine.execLaunch r s
  | .exit r => Sys2Proof.Machine.execExit r s
  | .trap r => Sys2Proof.Machine.execTrap r s
  | .id r => Sys2Proof.Machine.execId r s
  | .time r => Sys2Proof.Machine.execTime r s
  | .pause r => Sys2Proof.Machine.execPause r s
  | .pauseExpiry aStream => Sys2Proof.Machine.execPauseExpiry aStream s
  | .tw r => Sys2Proof.Machine.execTw r s
  | .twa r => Sys2Proof.Machine.execTwa r s
  | .sysRd r => Sys2Proof.Machine.execSysRd r s
  | .sysWr r => Sys2Proof.Machine.execSysWr r s
  | .fdataRead r => Sys2Proof.Machine.execFdataRead r s
  | .fdataWrite r => Sys2Proof.Machine.execFdataWrite r s
  | .evmsg r => Sys2Proof.Machine.execEvmsg r s
  | .ctxNew r => Sys2Proof.Machine.execCtxNew r s
  | .ctxDel r => Sys2Proof.Machine.execCtxDel r s
  | .ctxSev r => Sys2Proof.Machine.execCtxSev r s
  | .tlbInv r => Sys2Proof.Machine.execTlbInv r s
  | .tlbAsid r => Sys2Proof.Machine.execTlbAsid r s
  | .tlbAll r => Sys2Proof.Machine.execTlbAll r s
  | .coreOut r => Sys2Proof.Machine.execCoreOut r s
  | .coreIn r => Sys2Proof.Machine.execCoreIn r s
  | .aUdf u => Sys2Proof.Machine.execAUdf u s
  | .aUdf3f u => Sys2Proof.Machine.execAUdf3f u s
  | .aAdd r => Sys2Proof.Machine.execAAdd r s
  | .aSub r => Sys2Proof.Machine.execASub r s
  | .aAnd r => Sys2Proof.Machine.execAAnd r s
  | .aOr r => Sys2Proof.Machine.execAOr r s
  | .aXor r => Sys2Proof.Machine.execAXor r s
  | .aSll r => Sys2Proof.Machine.execASll r s
  | .aSrl r => Sys2Proof.Machine.execASrl r s
  | .aSra r => Sys2Proof.Machine.execASra r s
  | .aMul r => Sys2Proof.Machine.execAMul r s
  | .aMin r => Sys2Proof.Machine.execAMin r s
  | .aMax r => Sys2Proof.Machine.execAMax r s
  | .aMinu r => Sys2Proof.Machine.execAMinu r s
  | .aMaxu r => Sys2Proof.Machine.execAMaxu r s
  | .aAddi r => Sys2Proof.Machine.execAAddi r s
  | .aAddhi r => Sys2Proof.Machine.execAAddhi r s
  | .aSlli r => Sys2Proof.Machine.execASlli r s
  | .aAndi r => Sys2Proof.Machine.execAAndi r s
  | .b r => Sys2Proof.Machine.execB r s
  | .bz r => Sys2Proof.Machine.execBz r s
  | .bnz r => Sys2Proof.Machine.execBnz r s
  | .aExit r => Sys2Proof.Machine.execAExit r s
  | .nest r => Sys2Proof.Machine.execNest r s
  | .bind v r => Sys2Proof.Machine.execBind v r s
  | .ldq r => Sys2Proof.Machine.execLdq r s
  | .stq r => Sys2Proof.Machine.execStq r s
  | .ldt r => Sys2Proof.Machine.execLdt r s
  | .stt r => Sys2Proof.Machine.execStt r s
  | .lda r => Sys2Proof.Machine.execLda r s
  | .sta r => Sys2Proof.Machine.execSta r s
  | .cp r => Sys2Proof.Machine.execCp r s
  | .mcast r => Sys2Proof.Machine.execMcast r s
  | .gat r => Sys2Proof.Machine.execGat r s
  | .sct r => Sys2Proof.Machine.execSct r s
  | .kvg r => Sys2Proof.Machine.execKvg r s
  | .kva r => Sys2Proof.Machine.execKva r s
  | .kvc r => Sys2Proof.Machine.execKvc r s
  | .aTw r => Sys2Proof.Machine.execATw r s
  | .aTwa r => Sys2Proof.Machine.execATwa r s
  | .aTclr r => Sys2Proof.Machine.execATclr r s
  | .aAmoAdd r => Sys2Proof.Machine.execAAmoAdd r s
  | .aAmoAnd r => Sys2Proof.Machine.execAAmoAnd r s
  | .aAmoOr r => Sys2Proof.Machine.execAAmoOr r s
  | .aAmoXor r => Sys2Proof.Machine.execAAmoXor r s
  | .aAmoMin r => Sys2Proof.Machine.execAAmoMin r s
  | .aAmoMax r => Sys2Proof.Machine.execAAmoMax r s
  | .aAmoSwap r => Sys2Proof.Machine.execAAmoSwap r s
  | .aAmoCas r => Sys2Proof.Machine.execAAmoCas r s
  | .aAmoFadd r => Sys2Proof.Machine.execAAmoFadd r s
  | .aAmoFmax r => Sys2Proof.Machine.execAAmoFmax r s
  | .aAmoMaxx r => Sys2Proof.Machine.execAAmoMaxx r s
  | .ramoAdd r => Sys2Proof.Machine.execRamoAdd r s
  | .ramoAnd r => Sys2Proof.Machine.execRamoAnd r s
  | .ramoOr r => Sys2Proof.Machine.execRamoOr r s
  | .ramoXor r => Sys2Proof.Machine.execRamoXor r s
  | .ramoMin r => Sys2Proof.Machine.execRamoMin r s
  | .ramoMax r => Sys2Proof.Machine.execRamoMax r s
  | .ramoSwap r => Sys2Proof.Machine.execRamoSwap r s
  | .ramoFadd r => Sys2Proof.Machine.execRamoFadd r s
  | .ramoFmax r => Sys2Proof.Machine.execRamoFmax r s
  | .aFence r => Sys2Proof.Machine.execAFence r s
  | .nbCopy r => Sys2Proof.Machine.execNbCopy r s
  | .nbZero r => Sys2Proof.Machine.execNbZero r s
  | .nbAxpy r => Sys2Proof.Machine.execNbAxpy r s
  | .nbRun r => Sys2Proof.Machine.execNbRun r s
  | .nbAmoAdd r => Sys2Proof.Machine.execNbAmoAdd r s
  | .nbAmoAnd r => Sys2Proof.Machine.execNbAmoAnd r s
  | .nbAmoOr r => Sys2Proof.Machine.execNbAmoOr r s
  | .nbAmoXor r => Sys2Proof.Machine.execNbAmoXor r s
  | .nbAmoMin r => Sys2Proof.Machine.execNbAmoMin r s
  | .nbAmoMax r => Sys2Proof.Machine.execNbAmoMax r s
  | .nbAmoFadd r => Sys2Proof.Machine.execNbAmoFadd r s
  | .nbAmoFmax r => Sys2Proof.Machine.execNbAmoFmax r s
  | .nbFence r => Sys2Proof.Machine.execNbFence r s
  | .nbStat r => Sys2Proof.Machine.execNbStat r s
  | .nbProg r => Sys2Proof.Machine.execNbProg r s
  | .collAllReduceSum r => Sys2Proof.Machine.execCollAllReduceSum r s
  | .collAllReduceMax r => Sys2Proof.Machine.execCollAllReduceMax r s
  | .collAllReduceMin r => Sys2Proof.Machine.execCollAllReduceMin r s
  | .collReduceScatterSum r => Sys2Proof.Machine.execCollReduceScatterSum r s
  | .collAllGather r => Sys2Proof.Machine.execCollAllGather r s
  | .collBroadcast r => Sys2Proof.Machine.execCollBroadcast r s
  | .collAbort r => Sys2Proof.Machine.execCollAbort r s
  | .collAtt r => Sys2Proof.Machine.execCollAtt r s
  | .pf r => Sys2Proof.Machine.execPf r s
  | .aPause r => Sys2Proof.Machine.execAPause r s
  | .nbuEnd => Sys2Proof.Machine.execNbuEnd s
  | .nbuLdx d => Sys2Proof.Machine.execNbuLdx d s
  | .nbuLdy d => Sys2Proof.Machine.execNbuLdy d s
  | .nbuSty b => Sys2Proof.Machine.execNbuSty b s
  | .nbuAdd d b => Sys2Proof.Machine.execNbuAdd d b s
  | .nbuMul d b => Sys2Proof.Machine.execNbuMul d b s
  | .nbuMax d b => Sys2Proof.Machine.execNbuMax d b s
  | .nbuScl d => Sys2Proof.Machine.execNbuScl d s
  | .nbuFill d => Sys2Proof.Machine.execNbuFill d s
  | .nbuFma d b => Sys2Proof.Machine.execNbuFma d b s
  | .nbuAccy b => Sys2Proof.Machine.execNbuAccy b s
  | .nbuAxpy b => Sys2Proof.Machine.execNbuAxpy b s
  | .resultLand slot => Sys2Proof.Machine.execResultLand slot s
  | .loadCommit => Sys2Proof.Machine.execLoadCommit s
  | .globalAccessComplete answer => Sys2Proof.Machine.execGlobalAccessComplete answer s
  | .aAmoComplete => Sys2Proof.Machine.execAAmoComplete s
  | .queueWordProceed aStream => Sys2Proof.Machine.execQueueWordProceed aStream s
  | .vectorCommandStart => Sys2Proof.Machine.execVectorCommandStart s
  | .vectorCommandComplete => Sys2Proof.Machine.execVectorCommandComplete s
  | .matrixCommandStart => Sys2Proof.Machine.execMatrixCommandStart s
  | .matrixGranuleEnd twin => Sys2Proof.Machine.execMatrixGranuleEnd twin s
  | .matrixCommandComplete => Sys2Proof.Machine.execMatrixCommandComplete s
  | .engineSegment cmd seg => Sys2Proof.Machine.execEngineSegment cmd seg s
  | .fixupReplay cmd ent => Sys2Proof.Machine.execFixupReplay cmd ent s
  | .fixupFail cmd ent => Sys2Proof.Machine.execFixupFail cmd ent s
  | .engineCommandComplete cmd => Sys2Proof.Machine.execEngineCommandComplete cmd s
  | .nbItemForward cmd => Sys2Proof.Machine.execNbItemForward cmd s
  | .nbRowStep bank => Sys2Proof.Machine.execNbRowStep bank s
  | .nbSuspend bank => Sys2Proof.Machine.execNbSuspend bank s
  | .nbResume bank => Sys2Proof.Machine.execNbResume bank s
  | .nbInvalidationDone cmd => Sys2Proof.Machine.execNbInvalidationDone cmd s
  | .bankRequestIssue bank => Sys2Proof.Machine.execBankRequestIssue bank s
  | .skintExpiry stack => Sys2Proof.Machine.execSkintExpiry stack s
  | .mscFilterClear slice => Sys2Proof.Machine.execMscFilterClear slice s
  | .leaveAccept slot => Sys2Proof.Machine.execLeaveAccept slot s
  | .preemption slot => Sys2Proof.Machine.execPreemption slot s
  | .frameSave slot => Sys2Proof.Machine.execFrameSave slot s
  | .placement slot origin => Sys2Proof.Machine.execPlacement slot origin s
  | .swapOut slot => Sys2Proof.Machine.execSwapOut slot s
  | .swapIn slot => Sys2Proof.Machine.execSwapIn slot s
  | .bankReclaim slot pos => Sys2Proof.Machine.execBankReclaim slot pos s
  | .quantumExpiry slot => Sys2Proof.Machine.execQuantumExpiry slot s
  | .contextReady slot => Sys2Proof.Machine.execContextReady slot s
  | .wakeTimerExpiry slot => Sys2Proof.Machine.execWakeTimerExpiry slot s
  | .controlNodeEval node => Sys2Proof.Machine.execControlNodeEval node s
  | .demotionStart kvpn => Sys2Proof.Machine.execDemotionStart kvpn s
  | .promotionStart kvpn => Sys2Proof.Machine.execPromotionStart kvpn s
  | .moveInstall kvpn => Sys2Proof.Machine.execMoveInstall kvpn s
  | .oldLocationRelease fence => Sys2Proof.Machine.execOldLocationRelease fence s
  | .directoryLeaseExpiry die kvpn => Sys2Proof.Machine.execDirectoryLeaseExpiry die kvpn s
  | .frameArrival port frame => Sys2Proof.Machine.execFrameArrival port frame s
  | .ptpLock now => Sys2Proof.Machine.execPtpLock now s
  | .ptpLockLoss => Sys2Proof.Machine.execPtpLockLoss s
  | .hostWrite addr bytes => Sys2Proof.Machine.execHostWrite addr bytes s
  | .hostRead addr n => Sys2Proof.Machine.execHostRead addr n s
  | .raddr dom value => Sys2Proof.Machine.execRaddr dom value s
  | .hostLaunchArm dom => Sys2Proof.Machine.execHostLaunchArm dom s
  | .setPin dom kvpn => Sys2Proof.Machine.execSetPin dom kvpn s
  | .clearPin dom kvpn => Sys2Proof.Machine.execClearPin dom kvpn s
  | .setPref dom kvpn pref => Sys2Proof.Machine.execSetPref dom kvpn pref s
  | .freePage dom kvpn => Sys2Proof.Machine.execFreePage dom kvpn s
  | .moveToStoreTier dom kvpn loc => Sys2Proof.Machine.execMoveToStoreTier dom kvpn loc s
  | .pstate target => Sys2Proof.Machine.execPstate target s
  | .monitorClear dom index => Sys2Proof.Machine.execMonitorClear dom index s
  | .monitorInterval dom index sample => Sys2Proof.Machine.execMonitorInterval dom index sample s
  | .flowEntryWrite port index entry => Sys2Proof.Machine.execFlowEntryWrite port index entry s
  | .flashRecoveryWrite record => Sys2Proof.Machine.execFlashRecoveryWrite record s
  | .registerWrite offset value => Sys2Proof.Machine.execRegisterWrite offset value s
  | .attestationRequest nonce => Sys2Proof.Machine.execAttestationRequest nonce s
  | .checkpointRequest base => Sys2Proof.Machine.execCheckpointRequest base s
  | .checkpointRestore base => Sys2Proof.Machine.execCheckpointRestore base s
  | .remoteRequest src req => Sys2Proof.Machine.execRemoteRequest src req s
  | .ramoRequest src req => Sys2Proof.Machine.execRamoRequest src req s
  | .ramoResponse req answer => Sys2Proof.Machine.execRamoResponse req answer s
  | .ramoRetryTimeout req => Sys2Proof.Machine.execRamoRetryTimeout req s
  | .busyRetryTimer req => Sys2Proof.Machine.execBusyRetryTimer req s
  | .dedupRecordExpiry ent => Sys2Proof.Machine.execDedupRecordExpiry ent s
  | .poolLinkTimeout port => Sys2Proof.Machine.execPoolLinkTimeout port s
  | .contributionToken cmd rank attempt data => Sys2Proof.Machine.execContributionToken cmd rank attempt data s
  | .closeToken cmd attempt => Sys2Proof.Machine.execCloseToken cmd attempt s
  | .abortToken group attempt => Sys2Proof.Machine.execAbortToken group attempt s
  | .colltoExpiry cmd => Sys2Proof.Machine.execColltoExpiry cmd s
  | .patrolScrub word => Sys2Proof.Machine.execPatrolScrub word s
  | .directedScrub => Sys2Proof.Machine.execDirectedScrub s
  | .scrubWriteBack word => Sys2Proof.Machine.execScrubWriteBack word s
  | .windowReplay engine => Sys2Proof.Machine.execWindowReplay engine s
  | .checkerMismatch aStream second => Sys2Proof.Machine.execCheckerMismatch aStream second s
  | .watchdogFiring what second => Sys2Proof.Machine.execWatchdogFiring what second s
  | .thermalThrottle => Sys2Proof.Machine.execThermalThrottle s
  | .thermalRecover => Sys2Proof.Machine.execThermalRecover s
  | .thermalShutdown => Sys2Proof.Machine.execThermalShutdown s
  | .powerOnReset boot => Sys2Proof.Machine.execPowerOnReset boot s
  | .linkDown port => Sys2Proof.Machine.execLinkDown port s
  | .linkRetrain port => Sys2Proof.Machine.execLinkRetrain port s
  | .refresh bank => Sys2Proof.Machine.execRefresh bank s

end Sys2Proof.Machine
end

