-- ==== Sys2Proof/Machine/Step.lean ====
section
/-! DEFINITION. One step: the next turn of the agenda, or of the model's own round, and the time that it takes. -/

namespace Sys2Proof.Machine

/-- The X stream of the core in focus: fetch, decode, execute. -/
noncomputable def State.stepX (s : State) : Out :=
  if s.streamOn false then
    match s.fetchX with
    | (s, none) => .next s
    | (s, some bs) => match decodeXBytes bs with
      | .ok i => exec i s
      | .error _ => .next s.xIllegal
  else .next (if s.xStalls then s.xWait else s)

/-- The A stream of the core in focus: fetch, decode, execute. -/
noncomputable def State.stepA (s : State) : Out :=
  if s.streamOn true then
    match s.fetchA with
    | (s, none) => .next s
    | (s, some bs) => match decodeABytes bs with
      | .ok i => exec i s
      | .error _ => .next s.aIllegal
  else .next s

/-- The near-bank unit of a bank: the microinstruction at UPC of its store (09 R235, R236). -/
noncomputable def State.stepNbu (s : State) (bank : Nat) : Out :=
  match (s.nbUnit bank).store[(s.nbUnit bank).upc]? with
  | none => .next s
  | some w => match decodeMicro w with
    | .ok i => exec i { s with bankHere := bank }
    | .error _ => .next s

/-- One turn. A row that is an instruction word is no step of the device. -/
noncomputable def State.turn (s : State) (t : Turn) : Out :=
  match t with
  | .x i => (s.focus i).stepX
  | .a i => (s.focus i).stepA
  | .nbu b => s.stepNbu b
  | .at i e => if encode e = .step ∧ (s.focus i).admits e then exec e (s.focus i) else .next s

/-- A step's end: the turn stands in the agenda again if it asked for that, the schedulers look at their queues (10 R262), and time goes
on (log 9). -/
def State.finish (s : State) (t : Turn) : State :=
  { s.watchBulk with
    agenda := if s.again then t :: s.agenda else s.agenda
    again := false
    tick := s.tick + 1
    cycle := s.cycle + Config.stepCycles s.tick
    ptp := s.ptp + Config.stepTime s.tick }

/-- A turn to its end. -/
noncomputable def State.take (s : State) (t : Turn) : Out :=
  match s.turn t with
  | .next s => .next (s.finish t)
  | .fault f => .fault f
  | .refused r => .refused r

/-- Whether a turn is a power-on reset: all that a module which has shut down does (14 R365). -/
def Turn.powersOn (t : Turn) : Bool :=
  match t with
  | .at _ (.powerOnReset _) => true
  | _ => false

/-- One step of the machine. -/
noncomputable def step (s : State) : Host.Outcome State Fault Refusal :=
  match s.agenda with
  | t :: r => if s.shut && !t.powersOn then .fault .shutDown else { s with agenda := r }.take t
  | [] =>
    if s.shut then .fault .shutDown
    else match s.defaultTurn with
      | some t => s.take t
      | none => .next (s.finish (.nbu 0))

/-! ### Placing one instruction (log 15) -/

/-- The launch record of the one-core launch that the placed word belongs to. -/
def placedRecord : LaunchRec where
  ncase := 0
  node := 0
  weight := 0
  level := 0
  cls := 3
  handle := 0x4001
  rect := 0
  xentry := 0x10000
  aentry := 0x20000
  args := 0
  deadline := 0
  wait := 0
  set := 0
  cond := 0
  succ0 := 0
  succ1 := 0
  live := 0
  spans := []

/-- The supervisor context that runs it. -/
def placedCtx (origin : Nat) : Ctx :=
  { Ctx.new 0 0 true false 0x300000 0 0 with
    state := .running
    launch := some { nodePa := 0, record := placedRecord, frames := [], inHbm := false, origin := origin, started := 0, since := 0, fresh := Option.none } }

/-- Memory with the address space of the placed context: ASID table, root, and a leaf of 1 GiB with every permission. -/
def placedMem (m : Memory) : Memory :=
  ((m.setWord 0x80000 (CWord.good 0x100001)).setWord 0x100000 (CWord.good 0x200001)).setWord 0x200000 (CWord.good 0x3B)

/-- The package with that context running on the core in focus. -/
def State.placed (s : State) : State :=
  { s with
    doms := tset s.doms 0 (Dom.make { dies := 15, kvfree := 0x400000, asidtab := 0x80000 } SchedCfg.default [])
    ctxs := tset s.ctxs 1 (placedCtx s.here)
    instars := tset s.instars 1 1
    tlb := []
    mem := placedMem s.mem
    core := { Core.reset with ctx := some 1, pos := 0, xpc := 0x10000, apc := 0x20000 }
    ready := true
    shut := false
    quiesced := false
    again := false
    pNow := 0
    step := 7 }

/-- A near-bank unit of bank 0 with a started item and one microinstruction. -/
def State.placedMicro (s : State) (w : BitVec 16) : State :=
  let c : EngCmd :=
    { id := s.nextId, kind := .nbRun, slot := 1, instar := 1, pos := 0, launch := 0, tag := 0, scope := 3, op := 0, dst := 0x800000,
      src := 0x801000, cnt := 1, prog := [w], word := 0, addr := 0, segs := [], fixups := [], items := 1, invalid := true, err := false,
      frozen := none, strike := [], fired := false, base := 0, rect := 0, flags := 0, coll := none }
  let it : NbItem := { cmd := s.nextId, row := 0, src := 0x801000, dst := 0x800000, suspends := 0, started := true, buffer := none, entries := [] }
  let zero : List (Option Word) := List.replicate 256 (some 0)
  let u : NbUnit := { queue := [it], ba0 := zero, ba1 := zero, store := [w], upc := 0, suspended := false, since := s.ptp, fired := false }
  { s with cmds := s.cmds ++ [c], nextId := s.nextId + 1, units := tset s.units 0 u, reqs := tdel s.reqs 0, agenda := [.nbu 0] }

/-- The state with an instruction placed where the next step fetches it (log 15): a microinstruction in a bank's unit, a word of
the A stream or of the X stream at the PC of a core in a running context. -/
def State.withFetchWord (s : State) (nbits w : Nat) : State :=
  let s := s.placed
  let v := w % 2 ^ nbits
  if nbits ≤ 16 then s.placedMicro (BitVec.ofNat 16 v)
  else if nbits ≤ 32 then { s with mem := s.mem.setBytes 0x20000 (leBytes 4 v), agenda := [.a s.here] }
  else { s with mem := s.mem.setBytes 0x10000 (leBytes 72 v), agenda := [.x s.here] }

end Sys2Proof.Machine
end

