-- ==== Sys2Proof/Laws/Encoding.lean ====
section
/-! SUPPORT. Every field of a format reads back from the words that the encoder makes (02 R32, R35, R37, R39, R41). -/

namespace Sys2Proof.Laws

theorem sub_above {w l : Nat} (v s : Nat) (x : BitVec w) (y : BitVec v) :
    (x ++ y).extractLsb' (v + s) l = x.extractLsb' s l := by
  apply BitVec.eq_of_getLsbD_eq
  intro i hi
  simp only [BitVec.getLsbD_extractLsb', BitVec.getLsbD_append, hi, decide_true, Bool.true_and]
  rw [if_neg (by omega), show v + s + i - v = s + i by omega]

theorem sub_below {w v : Nat} (x : BitVec w) (y : BitVec v) : (x ++ y).extractLsb' 0 v = y := by
  apply BitVec.eq_of_getLsbD_eq
  intro i hi
  simp [BitVec.getLsbD_append, hi]

theorem sub_within {w v : Nat} (s l : Nat) (h : s + l ≤ v) (x : BitVec w) (y : BitVec v) :
    (x ++ y).extractLsb' s l = y.extractLsb' s l := by
  apply BitVec.eq_of_getLsbD_eq
  intro i hi
  simp only [BitVec.getLsbD_extractLsb', BitVec.getLsbD_append, hi, decide_true, Bool.true_and]
  rw [if_pos (by omega)]

theorem bit_above {w : Nat} (v s : Nat) (x : BitVec w) (y : BitVec v) : (x ++ y).getLsbD (v + s) = x.getLsbD s := by
  rw [BitVec.getLsbD_append, if_neg (by omega), show v + s - v = s by omega]

theorem bit1_below {w : Nat} (x : BitVec w) (b : Bool) : (x ++ bit1 b).getLsbD 0 = b := by
  rw [BitVec.getLsbD_append, if_pos Nat.one_pos]
  cases b <;> rfl

theorem encXr_op (op fn : Nat) (r : Xr) : (encXr op fn r).extractLsb' 0 7 = BitVec.ofNat 7 op :=
  sub_below _ _

theorem encXr_fn (op fn : Nat) (r : Xr) : (encXr op fn r).extractLsb' 18 6 = BitVec.ofNat 6 fn :=
  (sub_above 7 11 _ _).trans <| (sub_above 7 4 _ _).trans <| (sub_above 1 3 _ _).trans <| (sub_above 3 0 _ _).trans <| sub_below _ _

theorem decXr_enc (op fn : Nat) (r : Xr) : decXr (encXr op fn r) = r := by
  obtain ⟨g, gn, lb, pd, m, t, c, b, a, d⟩ := r
  rw [decXr, Xr.mk.injEq]
  exact ⟨(sub_above 7 0 _ _).trans <| sub_below _ _,
    (bit_above 7 7 _ _).trans <| (bit_above 7 0 _ _).trans <| bit1_below _ _,
    (sub_above 7 8 _ _).trans <| (sub_above 7 1 _ _).trans <| (sub_above 1 0 _ _).trans <| sub_below _ _,
    (sub_above 7 49 _ _).trans <| (sub_above 7 42 _ _).trans <| (sub_above 1 41 _ _).trans <| (sub_above 3 38 _ _).trans <| (sub_above 6 32 _ _).trans <| (sub_above 6 26 _ _).trans <| (sub_above 6 20 _ _).trans <| (sub_above 6 14 _ _).trans <| (sub_above 6 8 _ _).trans <| (sub_above 4 4 _ _).trans <| (sub_above 4 0 _ _).trans <| sub_below _ _,
    (sub_above 7 45 _ _).trans <| (sub_above 7 38 _ _).trans <| (sub_above 1 37 _ _).trans <| (sub_above 3 34 _ _).trans <| (sub_above 6 28 _ _).trans <| (sub_above 6 22 _ _).trans <| (sub_above 6 16 _ _).trans <| (sub_above 6 10 _ _).trans <| (sub_above 6 4 _ _).trans <| (sub_above 4 0 _ _).trans <| sub_below _ _,
    (sub_above 7 41 _ _).trans <| (sub_above 7 34 _ _).trans <| (sub_above 1 33 _ _).trans <| (sub_above 3 30 _ _).trans <| (sub_above 6 24 _ _).trans <| (sub_above 6 18 _ _).trans <| (sub_above 6 12 _ _).trans <| (sub_above 6 6 _ _).trans <| (sub_above 6 0 _ _).trans <| sub_below _ _,
    (sub_above 7 35 _ _).trans <| (sub_above 7 28 _ _).trans <| (sub_above 1 27 _ _).trans <| (sub_above 3 24 _ _).trans <| (sub_above 6 18 _ _).trans <| (sub_above 6 12 _ _).trans <| (sub_above 6 6 _ _).trans <| (sub_above 6 0 _ _).trans <| sub_below _ _,
    (sub_above 7 29 _ _).trans <| (sub_above 7 22 _ _).trans <| (sub_above 1 21 _ _).trans <| (sub_above 3 18 _ _).trans <| (sub_above 6 12 _ _).trans <| (sub_above 6 6 _ _).trans <| (sub_above 6 0 _ _).trans <| sub_below _ _,
    (sub_above 7 23 _ _).trans <| (sub_above 7 16 _ _).trans <| (sub_above 1 15 _ _).trans <| (sub_above 3 12 _ _).trans <| (sub_above 6 6 _ _).trans <| (sub_above 6 0 _ _).trans <| sub_below _ _,
    (sub_above 7 17 _ _).trans <| (sub_above 7 10 _ _).trans <| (sub_above 1 9 _ _).trans <| (sub_above 3 6 _ _).trans <| (sub_above 6 0 _ _).trans <| sub_below _ _⟩

theorem encXi_op (op fn : Nat) (r : Xi) : (encXi op fn r).extractLsb' 0 7 = BitVec.ofNat 7 op :=
  sub_below _ _

theorem encXi_fn (op fn : Nat) (r : Xi) : (encXi op fn r).extractLsb' 18 6 = BitVec.ofNat 6 fn :=
  (sub_above 7 11 _ _).trans <| (sub_above 7 4 _ _).trans <| (sub_above 1 3 _ _).trans <| (sub_above 3 0 _ _).trans <| sub_below _ _

theorem decXi_enc (op fn : Nat) (r : Xi) : decXi (encXi op fn r) = r := by
  obtain ⟨g, gn, lb, imm, a, d⟩ := r
  rw [decXi, Xi.mk.injEq]
  exact ⟨(sub_above 7 0 _ _).trans <| sub_below _ _,
    (bit_above 7 7 _ _).trans <| (bit_above 7 0 _ _).trans <| bit1_below _ _,
    (sub_above 7 8 _ _).trans <| (sub_above 7 1 _ _).trans <| (sub_above 1 0 _ _).trans <| sub_below _ _,
    (sub_above 7 29 _ _).trans <| (sub_above 7 22 _ _).trans <| (sub_above 1 21 _ _).trans <| (sub_above 3 18 _ _).trans <| (sub_above 6 12 _ _).trans <| (sub_above 6 6 _ _).trans <| (sub_above 6 0 _ _).trans <| BitVec.extractLsb'_eq_self,
    (sub_above 7 23 _ _).trans <| (sub_above 7 16 _ _).trans <| (sub_above 1 15 _ _).trans <| (sub_above 3 12 _ _).trans <| (sub_above 6 6 _ _).trans <| (sub_above 6 0 _ _).trans <| sub_below _ _,
    (sub_above 7 17 _ _).trans <| (sub_above 7 10 _ _).trans <| (sub_above 1 9 _ _).trans <| (sub_above 3 6 _ _).trans <| (sub_above 6 0 _ _).trans <| sub_below _ _⟩

theorem encXk_op (op fn : Nat) (r : Xk) : (encXk op fn r).extractLsb' 0 7 = BitVec.ofNat 7 op :=
  sub_below _ _

theorem encXk_fn (op fn : Nat) (r : Xk) : (encXk op fn r).extractLsb' 18 6 = BitVec.ofNat 6 fn :=
  (sub_above 7 11 _ _).trans <| (sub_above 7 4 _ _).trans <| (sub_above 1 3 _ _).trans <| (sub_above 3 0 _ _).trans <| sub_below _ _

theorem decXk_enc (op fn : Nat) (r : Xk) : decXk (encXk op fn r) = r := by
  obtain ⟨g, gn, lb, imm, d⟩ := r
  rw [decXk, Xk.mk.injEq]
  exact ⟨(sub_above 7 0 _ _).trans <| sub_below _ _,
    (bit_above 7 7 _ _).trans <| (bit_above 7 0 _ _).trans <| bit1_below _ _,
    (sub_above 7 8 _ _).trans <| (sub_above 7 1 _ _).trans <| (sub_above 1 0 _ _).trans <| sub_below _ _,
    (sub_above 7 25 _ _).trans <| (sub_above 7 18 _ _).trans <| (sub_above 1 17 _ _).trans <| (sub_above 3 14 _ _).trans <| (sub_above 6 8 _ _).trans <| (sub_above 6 2 _ _).trans <| (sub_above 2 0 _ _).trans <| BitVec.extractLsb'_eq_self,
    (sub_above 7 17 _ _).trans <| (sub_above 7 10 _ _).trans <| (sub_above 1 9 _ _).trans <| (sub_above 3 6 _ _).trans <| (sub_above 6 0 _ _).trans <| sub_below _ _⟩

theorem encXb_op (op fn : Nat) (r : Xb) : (encXb op fn r).extractLsb' 0 7 = BitVec.ofNat 7 op :=
  sub_below _ _

theorem encXb_fn (op fn : Nat) (r : Xb) : (encXb op fn r).extractLsb' 18 6 = BitVec.ofNat 6 fn :=
  (sub_above 7 11 _ _).trans <| (sub_above 7 4 _ _).trans <| (sub_above 1 3 _ _).trans <| (sub_above 3 0 _ _).trans <| sub_below _ _

theorem decXb_enc (op fn : Nat) (r : Xb) : decXb (encXb op fn r) = r := by
  obtain ⟨g, gn, off⟩ := r
  rw [decXb, Xb.mk.injEq]
  exact ⟨(sub_above 7 0 _ _).trans <| sub_below _ _,
    (bit_above 7 7 _ _).trans <| (bit_above 7 0 _ _).trans <| bit1_below _ _,
    (sub_above 7 17 _ _).trans <| (sub_above 7 10 _ _).trans <| (sub_above 1 9 _ _).trans <| (sub_above 3 6 _ _).trans <| (sub_above 6 0 _ _).trans <| BitVec.extractLsb'_eq_self⟩

theorem encXs_op (op fn : Nat) (r : Xs) : (encXs op fn r).extractLsb' 0 7 = BitVec.ofNat 7 op :=
  sub_below _ _

theorem encXs_fn (op fn : Nat) (r : Xs) : (encXs op fn r).extractLsb' 18 6 = BitVec.ofNat 6 fn :=
  (sub_above 7 11 _ _).trans <| (sub_above 7 4 _ _).trans <| (sub_above 1 3 _ _).trans <| (sub_above 3 0 _ _).trans <| sub_below _ _

theorem decXs_enc (op fn : Nat) (r : Xs) : decXs (encXs op fn r) = r := by
  obtain ⟨g, gn, rm, t, sx, sb, sa, sd⟩ := r
  rw [decXs, Xs.mk.injEq]
  exact ⟨(sub_above 7 0 _ _).trans <| sub_below _ _,
    (bit_above 7 7 _ _).trans <| (bit_above 7 0 _ _).trans <| bit1_below _ _,
    (sub_above 7 8 _ _).trans <| (sub_above 7 1 _ _).trans <| (sub_above 1 0 _ _).trans <| sub_below _ _,
    (sub_above 7 53 _ _).trans <| (sub_above 7 46 _ _).trans <| (sub_above 1 45 _ _).trans <| (sub_above 3 42 _ _).trans <| (sub_above 6 36 _ _).trans <| (sub_above 9 27 _ _).trans <| (sub_above 9 18 _ _).trans <| (sub_above 9 9 _ _).trans <| (sub_above 9 0 _ _).trans <| BitVec.extractLsb'_eq_self,
    (sub_above 7 44 _ _).trans <| (sub_above 7 37 _ _).trans <| (sub_above 1 36 _ _).trans <| (sub_above 3 33 _ _).trans <| (sub_above 6 27 _ _).trans <| (sub_above 9 18 _ _).trans <| (sub_above 9 9 _ _).trans <| (sub_above 9 0 _ _).trans <| sub_below _ _,
    (sub_above 7 35 _ _).trans <| (sub_above 7 28 _ _).trans <| (sub_above 1 27 _ _).trans <| (sub_above 3 24 _ _).trans <| (sub_above 6 18 _ _).trans <| (sub_above 9 9 _ _).trans <| (sub_above 9 0 _ _).trans <| sub_below _ _,
    (sub_above 7 26 _ _).trans <| (sub_above 7 19 _ _).trans <| (sub_above 1 18 _ _).trans <| (sub_above 3 15 _ _).trans <| (sub_above 6 9 _ _).trans <| (sub_above 9 0 _ _).trans <| sub_below _ _,
    (sub_above 7 17 _ _).trans <| (sub_above 7 10 _ _).trans <| (sub_above 1 9 _ _).trans <| (sub_above 3 6 _ _).trans <| (sub_above 6 0 _ _).trans <| sub_below _ _⟩

theorem encXm_op (op fn : Nat) (r : Xm) : (encXm op fn r).extractLsb' 0 7 = BitVec.ofNat 7 op :=
  sub_below _ _

theorem encXm_fn (op fn : Nat) (r : Xm) : (encXm op fn r).extractLsb' 18 6 = BitVec.ofNat 6 fn :=
  (sub_above 7 11 _ _).trans <| (sub_above 7 4 _ _).trans <| (sub_above 1 3 _ _).trans <| (sub_above 3 0 _ _).trans <| sub_below _ _

theorem decXm_enc (op fn : Nat) (r : Xm) : decXm (encXm op fn r) = r := by
  obtain ⟨g, gn, v, fld, l⟩ := r
  rw [decXm, Xm.mk.injEq]
  exact ⟨(sub_above 7 0 _ _).trans <| sub_below _ _,
    (bit_above 7 7 _ _).trans <| (bit_above 7 0 _ _).trans <| bit1_below _ _,
    (sub_above 7 25 _ _).trans <| (sub_above 7 18 _ _).trans <| (sub_above 1 17 _ _).trans <| (sub_above 3 14 _ _).trans <| (sub_above 6 8 _ _).trans <| (sub_above 3 5 _ _).trans <| (sub_above 4 1 _ _).trans <| (sub_above 1 0 _ _).trans <| BitVec.extractLsb'_eq_self,
    (sub_above 7 20 _ _).trans <| (sub_above 7 13 _ _).trans <| (sub_above 1 12 _ _).trans <| (sub_above 3 9 _ _).trans <| (sub_above 6 3 _ _).trans <| (sub_above 3 0 _ _).trans <| sub_below _ _,
    (sub_above 7 17 _ _).trans <| (sub_above 7 10 _ _).trans <| (sub_above 1 9 _ _).trans <| (sub_above 3 6 _ _).trans <| (sub_above 6 0 _ _).trans <| sub_below _ _⟩

theorem encAr_op (op fn : Nat) (r : Ar) : (encAr op fn r).extractLsb' 0 6 = BitVec.ofNat 6 op :=
  sub_below _ _

theorem encAr_fn (op fn : Nat) (r : Ar) : (encAr op fn r).extractLsb' 23 5 = BitVec.ofNat 5 fn :=
  (sub_above 6 17 _ _).trans <| (sub_above 1 16 _ _).trans <| (sub_above 1 15 _ _).trans <| (sub_above 5 10 _ _).trans <| (sub_above 5 5 _ _).trans <| (sub_above 5 0 _ _).trans <| sub_below _ _

theorem decAr_enc (op fn : Nat) (r : Ar) : decAr (encAr op fn r) = r := by
  obtain ⟨l, f, x, b, a, d⟩ := r
  rw [decAr, Ar.mk.injEq]
  exact ⟨(bit_above 6 1 _ _).trans <| (bit_above 1 0 _ _).trans <| bit1_below _ _,
    (bit_above 6 0 _ _).trans <| bit1_below _ _,
    (sub_above 6 22 _ _).trans <| (sub_above 1 21 _ _).trans <| (sub_above 1 20 _ _).trans <| (sub_above 5 15 _ _).trans <| (sub_above 5 10 _ _).trans <| (sub_above 5 5 _ _).trans <| (sub_above 5 0 _ _).trans <| BitVec.extractLsb'_eq_self,
    (sub_above 6 12 _ _).trans <| (sub_above 1 11 _ _).trans <| (sub_above 1 10 _ _).trans <| (sub_above 5 5 _ _).trans <| (sub_above 5 0 _ _).trans <| sub_below _ _,
    (sub_above 6 7 _ _).trans <| (sub_above 1 6 _ _).trans <| (sub_above 1 5 _ _).trans <| (sub_above 5 0 _ _).trans <| sub_below _ _,
    (sub_above 6 2 _ _).trans <| (sub_above 1 1 _ _).trans <| (sub_above 1 0 _ _).trans <| sub_below _ _⟩

theorem encAi_op (op : Nat) (r : Ai) : (encAi op r).extractLsb' 0 6 = BitVec.ofNat 6 op :=
  sub_below _ _

theorem decAi_enc (op : Nat) (r : Ai) : decAi (encAi op r) = r := by
  obtain ⟨l, f, imm, a, d⟩ := r
  rw [decAi, Ai.mk.injEq]
  exact ⟨(bit_above 6 1 _ _).trans <| (bit_above 1 0 _ _).trans <| bit1_below _ _,
    (bit_above 6 0 _ _).trans <| bit1_below _ _,
    (sub_above 6 12 _ _).trans <| (sub_above 1 11 _ _).trans <| (sub_above 1 10 _ _).trans <| (sub_above 5 5 _ _).trans <| (sub_above 5 0 _ _).trans <| BitVec.extractLsb'_eq_self,
    (sub_above 6 7 _ _).trans <| (sub_above 1 6 _ _).trans <| (sub_above 1 5 _ _).trans <| (sub_above 5 0 _ _).trans <| sub_below _ _,
    (sub_above 6 2 _ _).trans <| (sub_above 1 1 _ _).trans <| (sub_above 1 0 _ _).trans <| sub_below _ _⟩

theorem encAm_op (op : Nat) (r : Am) : (encAm op r).extractLsb' 0 6 = BitVec.ofNat 6 op :=
  sub_below _ _

theorem decAm_enc (op : Nat) (r : Am) : decAm (encAm op r) = r := by
  obtain ⟨l, f, s, sc, sz, bo, ix, a, d⟩ := r
  rw [decAm, Am.mk.injEq]
  exact ⟨(bit_above 6 1 _ _).trans <| (bit_above 1 0 _ _).trans <| bit1_below _ _,
    (bit_above 6 0 _ _).trans <| bit1_below _ _,
    (sub_above 6 24 _ _).trans <| (sub_above 1 23 _ _).trans <| (sub_above 1 22 _ _).trans <| (sub_above 5 17 _ _).trans <| (sub_above 5 12 _ _).trans <| (sub_above 1 11 _ _).trans <| (sub_above 5 6 _ _).trans <| (sub_above 3 3 _ _).trans <| (sub_above 3 0 _ _).trans <| BitVec.extractLsb'_eq_self,
    (sub_above 6 21 _ _).trans <| (sub_above 1 20 _ _).trans <| (sub_above 1 19 _ _).trans <| (sub_above 5 14 _ _).trans <| (sub_above 5 9 _ _).trans <| (sub_above 1 8 _ _).trans <| (sub_above 5 3 _ _).trans <| (sub_above 3 0 _ _).trans <| sub_below _ _,
    (sub_above 6 18 _ _).trans <| (sub_above 1 17 _ _).trans <| (sub_above 1 16 _ _).trans <| (sub_above 5 11 _ _).trans <| (sub_above 5 6 _ _).trans <| (sub_above 1 5 _ _).trans <| (sub_above 5 0 _ _).trans <| sub_below _ _,
    (sub_above 6 13 _ _).trans <| (sub_above 1 12 _ _).trans <| (sub_above 1 11 _ _).trans <| (sub_above 5 6 _ _).trans <| (sub_above 5 1 _ _).trans <| (sub_above 1 0 _ _).trans <| sub_below _ _,
    (bit_above 6 12 _ _).trans <| (bit_above 1 11 _ _).trans <| (bit_above 1 10 _ _).trans <| (bit_above 5 5 _ _).trans <| (bit_above 5 0 _ _).trans <| bit1_below _ _,
    (sub_above 6 7 _ _).trans <| (sub_above 1 6 _ _).trans <| (sub_above 1 5 _ _).trans <| (sub_above 5 0 _ _).trans <| sub_below _ _,
    (sub_above 6 2 _ _).trans <| (sub_above 1 1 _ _).trans <| (sub_above 1 0 _ _).trans <| sub_below _ _⟩

theorem encAb_op (op : Nat) (r : Ab) : (encAb op r).extractLsb' 0 6 = BitVec.ofNat 6 op :=
  sub_below _ _

theorem decAb_enc (op : Nat) (r : Ab) : decAb (encAb op r) = r := by
  obtain ⟨off, a⟩ := r
  rw [decAb, Ab.mk.injEq]
  exact ⟨(sub_above 6 7 _ _).trans <| (sub_above 1 6 _ _).trans <| (sub_above 1 5 _ _).trans <| (sub_above 5 0 _ _).trans <| BitVec.extractLsb'_eq_self,
    (sub_above 6 2 _ _).trans <| (sub_above 1 1 _ _).trans <| (sub_above 1 0 _ _).trans <| sub_below _ _⟩

theorem encAn_op (op : Nat) (r : An) : (encAn op r).extractLsb' 0 6 = BitVec.ofNat 6 op :=
  sub_below _ _

theorem decAn_enc (op : Nat) (r : An) : decAn (encAn op r) = r := by
  obtain ⟨l, f, k, b, a, d⟩ := r
  rw [decAn, An.mk.injEq]
  exact ⟨(bit_above 6 1 _ _).trans <| (bit_above 1 0 _ _).trans <| bit1_below _ _,
    (bit_above 6 0 _ _).trans <| bit1_below _ _,
    (sub_above 6 17 _ _).trans <| (sub_above 1 16 _ _).trans <| (sub_above 1 15 _ _).trans <| (sub_above 5 10 _ _).trans <| (sub_above 5 5 _ _).trans <| (sub_above 5 0 _ _).trans <| BitVec.extractLsb'_eq_self,
    (sub_above 6 12 _ _).trans <| (sub_above 1 11 _ _).trans <| (sub_above 1 10 _ _).trans <| (sub_above 5 5 _ _).trans <| (sub_above 5 0 _ _).trans <| sub_below _ _,
    (sub_above 6 7 _ _).trans <| (sub_above 1 6 _ _).trans <| (sub_above 1 5 _ _).trans <| (sub_above 5 0 _ _).trans <| sub_below _ _,
    (sub_above 6 2 _ _).trans <| (sub_above 1 1 _ _).trans <| (sub_above 1 0 _ _).trans <| sub_below _ _⟩

end Sys2Proof.Laws
end

