-- ==== Sys2Proof/Safety.lean ====
section
/-! DEFINITION. What a safe run is, and the conditions under which a word takes its own effect: the terms that the
statements use. -/

namespace Sys2Proof.Machine

/-! ### Words that take their effect -/

/-- The X word at PC takes its own effect in `s`, acting on `u`: the windows that have closed have landed and what its lanes correct
is counted (13 R331); its guard holds (02 R33), no register of `uses` is pending (05 R111), and none that its lanes consume is
contained (13 R331, R334). -/
structure State.XTakes (s : State) (g : BitVec 7) (gn : Bool) (uses : List Nat) (u : State) : Prop where
  acts : u = s.landDue.takeX uses
  guard : s.landDue.guard g gn = true
  settled : uses.any (fun i => s.landDue.core.pendingX (i % 64)) = false
  sound : s.landDue.core.badX uses = none

/-- The same of a word of `len` words that completes: no loop frame that it steps holds an entry which cannot be corrected (04 R101). -/
structure State.XReady (s : State) (len : Nat) (g : BitVec 7) (gn : Bool) (uses : List Nat) (u : State) : Prop
    extends s.XTakes g gn uses u where
  frame : u.stepPoisoned len = none

/-- The A word at PC takes its own effect in `s`: the issue bits let it issue (02 R40), no register that it or a bind at its
end reads is still to be written (08 R183), and for a committing word no `ldq` or `ldt` is uncommitted (08 R184). -/
structure State.AReady (s : State) (l f : Bool) (reads : List Nat) (commits : Bool) : Prop where
  issues : s.core.issues l f = true
  settled : (reads ++ s.core.endBinds).any s.pendingA = false
  order : commits = true → s.core.loads = []

/-- A global word of the X stream goes past every check of `XReady`, and its context is a supervisor (02 R47). -/
structure State.PrivReady (s : State) (g : BitVec 7) (gn : Bool) (uses : List Nat) (u : State) : Prop where
  super : s.isSuper = true
  ready : s.XReady 1 g gn uses u

/-! ### Canonical form -/

/-- The register files and tile bytes of a core are in canonical form. -/
def Core.canonical (c : Core) : Bool :=
  c.x.wf && c.p.wf && c.sp.wf && c.a.wf && c.tdata.wf && c.adata.wf

/-- The memory, the core in focus, the cores beside it and every bank of every store are in canonical form: equal contents
are equal data. -/
def State.canonical (s : State) : Bool :=
  s.mem.wf && s.core.canonical && tableFrom 0 s.cores && s.cores.all (fun c => c.2.canonical) &&
    tableFrom 0 s.stores && s.stores.all (fun t => t.2.banks.all (fun b => b.data.wf)) && tableFrom 0 s.ctxs

/-- A state from which the machine runs on: it has not shut down (14 R365) and its data is in canonical form. -/
def State.safe (s : State) : Bool := !s.shut && s.canonical

/-! ### Settings of the signed records -/

/-- What a power-on reset settles from the signed records (12 R308, R320-R323; 10 R265; 11 R290; 07 R170): the records in use,
the anti-rollback counters, the firmware's version and digest, whether bring-up is complete, the package number, the parameters of the
records, and the dies and scheduler parameters of every domain. -/
structure Settings where
  inUse : List FlashRecord
  counters : Table Nat
  firmware : Nat
  digest : BitVec 384
  ready : Bool
  pkg : Nat
  lease : Nat
  res : ResCfg
  ports : PortCfg
  domains : Table (BitVec 4 × SchedCfg)

/-- The settings that a state runs under. -/
def State.settings (s : State) : Settings :=
  { inUse := s.inUse, counters := s.counters, firmware := s.flashFw, digest := s.fwDigest, ready := s.ready, pkg := s.pkg, lease := s.lease,
    res := s.res, ports := s.ports, domains := s.doms.map (fun d => (d.1, (d.2.dies, d.2.sched))) }

/-- The settings are those of the records in use: every one of them is valid, under the owner's keys
that one of them holds, and has the version of its counter (12 R321);
once bring-up is complete, the package number and the dies of each domain are those of an identity record, every die lies in
exactly one of one to four domains (12 R308), the residency parameters are those of a record, and the lease is a record's or
its default of 64 ticks (07 R170). -/
structure Settings.Signed (c : Settings) : Prop where
  valid : ∀ r ∈ c.inUse, recordValid (c.inUse.find? (fun k => decide (k.type = 1))) r = true
  versions : ∀ r ∈ c.inUse, tget c.counters r.type = some r.version
  identity : c.ready = true →
    ∃ r ∈ c.inUse, ∃ ds, r.body = .identity c.pkg ds ∧ c.domains.map (fun d => (d.1, d.2.1)) = ds.zipIdx.map (fun d => (d.2, d.1.dies))
  number : c.ready = true → 1 ≤ c.domains.length ∧ c.domains.length ≤ 4
  divided : c.ready = true → ∀ i < 4, (c.domains.filter (fun d => d.2.1.getLsbD i)).length = 1
  residency : c.ready = true → ∃ r ∈ c.inUse, r.body = .residency c.res
  lease : c.ready = true → c.lease = 64 ∨ ∃ r ∈ c.inUse, r.body = .memory c.lease

end Sys2Proof.Machine
end

