-- ==== Sys2Proof/Certificates/Slice0/Obligations.lean ====
section
/-! DEFINITION. The statements about the model. A completion statement gives the state after: the word acts on `b`, the
state in which the latency windows that have closed have landed; `xDone`, `xJump` and `aDone` move the streams on. -/

namespace Sys2Proof.Claims

open Sys2Proof.Machine

/-! ### Scalar words: the forms of each shape, with their results -/

/-- Words that set x[D] from x[A] and x[B] (04 R83, R84). -/
def binaryForms : List ((Xr → Instr) × (Word → Word → Word)) :=
  [(Instr.add, fun a b => a + b), (Instr.sub, fun a b => a - b), (Instr.and, fun a b => a &&& b), (Instr.or, fun a b => a ||| b),
    (Instr.xor, fun a b => a ^^^ b), (Instr.andn, fun a b => a &&& ~~~b), (Instr.sll, fun a b => a <<< (b.toNat % 64)),
    (Instr.srl, fun a b => a >>> (b.toNat % 64)), (Instr.sra, fun a b => a.sshiftRight (b.toNat % 64)),
    (Instr.rol, fun a b => a.rotateLeft (b.toNat % 64)), (Instr.min, fun a b => if a.toInt ≤ b.toInt then a else b),
    (Instr.max, fun a b => if b.toInt ≤ a.toInt then a else b), (Instr.minu, fun a b => if a.toNat ≤ b.toNat then a else b),
    (Instr.maxu, fun a b => if b.toNat ≤ a.toNat then a else b), (Instr.mul, fun a b => a * b),
    (Instr.mulh, fun a b => BitVec.ofInt 64 (a.toInt * b.toInt / 2 ^ 64)),
    (Instr.mulhu, fun a b => BitVec.ofNat 64 (a.toNat * b.toNat / 2 ^ 64)),
    (Instr.mulhsu, fun a b => BitVec.ofInt 64 (a.toInt * (b.toNat : Int) / 2 ^ 64)),
    (Instr.div, fun a b => if b = 0 then BitVec.allOnes 64 else BitVec.ofInt 64 (a.toInt.tdiv b.toInt)),
    (Instr.divu, fun a b => if b = 0 then BitVec.allOnes 64 else BitVec.ofNat 64 (a.toNat / b.toNat)),
    (Instr.rem, fun a b => if b = 0 then a else BitVec.ofInt 64 (a.toInt.tmod b.toInt)),
    (Instr.remu, fun a b => if b = 0 then a else BitVec.ofNat 64 (a.toNat % b.toNat))]

/-- Words that set x[D] from x[A] (04 R83); the type code tells the width of an extension. -/
def unaryForms : List ((Xr → Instr) × (BitVec 4 → Word → Word)) :=
  [(Instr.clz, fun _ a => clz64 a), (Instr.ctz, fun _ a => ctz64 a), (Instr.popc, fun _ a => popc64 a), (Instr.mov, fun _ a => a),
    (Instr.sext, fun t a => BitVec.ofInt 64 (signed (tyWidth t.toNat) a.toNat)),
    (Instr.zext, fun t a => BitVec.ofNat 64 (a.toNat % 2 ^ tyWidth t.toNat))]

/-- Words that set x[D] from x[A] and the sign-extended immediate (04 R85). -/
def immediateForms : List ((Xi → Instr) × (Word → Word → Word)) :=
  [(Instr.addi, fun a i => a + i), (Instr.andi, fun a i => a &&& i), (Instr.ori, fun a i => a ||| i), (Instr.xori, fun a i => a ^^^ i),
    (Instr.slli, fun a i => a <<< (i.toNat % 64)), (Instr.srli, fun a i => a >>> (i.toNat % 64)),
    (Instr.srai, fun a i => a.sshiftRight (i.toNat % 64)), (Instr.roli, fun a i => a.rotateLeft (i.toNat % 64)),
    (Instr.mini, fun a i => if a.toInt ≤ i.toInt then a else i), (Instr.maxi, fun a i => if i.toInt ≤ a.toInt then a else i),
    (Instr.muli, fun a i => a * i)]

/-- Compares (04 R87). -/
def compareForms : List ((Xr → Instr) × (Word → Word → Bool)) :=
  [(Instr.ceq, fun a b => a == b), (Instr.cne, fun a b => a != b), (Instr.clt, fun a b => decide (a.toInt < b.toInt)),
    (Instr.cle, fun a b => decide (a.toInt ≤ b.toInt)), (Instr.cltu, fun a b => decide (a.toNat < b.toNat)),
    (Instr.cleu, fun a b => decide (a.toNat ≤ b.toNat))]

/-- Compares with an immediate (04 R87). -/
def compareImmForms : List ((Xi → Instr) × (Word → Word → Bool)) :=
  [(Instr.ceqi, fun a b => a == b), (Instr.cnei, fun a b => a != b), (Instr.clti, fun a b => decide (a.toInt < b.toInt)),
    (Instr.clei, fun a b => decide (a.toInt ≤ b.toInt)), (Instr.cltui, fun a b => decide (a.toNat < b.toNat)),
    (Instr.cleui, fun a b => decide (a.toNat ≤ b.toNat))]

/-- Predicate logic (04 R88). -/
def predicateForms : List ((Xr → Instr) × (Bool → Bool → Bool)) :=
  [(Instr.pand, fun a b => a && b), (Instr.por, fun a b => a || b), (Instr.pxor, fun a b => a != b),
    (Instr.pandn, fun a b => a && !b), (Instr.pnand, fun a b => !(a && b)), (Instr.pnor, fun a b => !(a || b))]

/-- Floating-point words of one result in x[D], on the patterns of x[A], x[B], x[C] (04 R90, R91, 03). -/
def floatForms : List ((Xr → Instr) × (Nat → Nat → Nat → Nat → Nat → Nat × Flags)) :=
  [(Instr.fadd, fun t rm a b _ => fAdd t rm a b), (Instr.fsub, fun t rm a b _ => fSub t rm a b),
    (Instr.fmul, fun t rm a b _ => fMul t rm a b), (Instr.fdiv, fun t rm a b _ => fDiv t rm a b),
    (Instr.fsqrt, fun t rm a _ _ => fSqrt t rm a), (Instr.fmin, fun t _ a b _ => minMax t false a b),
    (Instr.fmax, fun t _ a b _ => minMax t true a b),
    (Instr.fma, fun t rm a b c => fusedV t rm false false (decF t a) (decF t b) (decF t c)),
    (Instr.fms, fun t rm a b c => fusedV t rm false true (decF t a) (decF t b) (decF t c)),
    (Instr.fnma, fun t rm a b c => fusedV t rm true false (decF t a) (decF t b) (decF t c)),
    (Instr.fabs, fun t _ a _ _ => (a % signBit t, 0)),
    (Instr.fneg, fun t _ a _ _ => (if a < signBit t then a + signBit t else a - signBit t, 0)),
    (Instr.fsgnj, fun t _ a b _ => (a % signBit t + b / signBit t * signBit t, 0)), (Instr.fclass, fun t _ a _ _ => (fClass t a, 0))]

/-- Floating-point compares (04 R91). -/
def floatCompareForms : List ((Xr → Instr) × (FV → FV → Bool × Flags)) :=
  [(Instr.feq, cmpFeq), (Instr.flt, cmpFlt), (Instr.fle, cmpFle), (Instr.fun, cmpFun)]

/-- Conversions (04 R92), from the source type's pattern; an integer result is extended to 64 bits by its type. -/
def convertForms : List ((Xr → Instr) × (Nat → Nat → Nat → Nat → Word × Flags)) :=
  [(Instr.fcvt, fun t src rm p => let v := cvtF t src rm false p; (BitVec.ofNat 64 v.1, v.2)),
    (Instr.fcvti, fun t src rm p => let v := toInt t rm (decF src p); (BitVec.ofInt 64 (decInt t v.1), v.2)),
    (Instr.icvtf, fun t src rm p => let v := roundV t rm false (FV.ofInt (decInt src p)); (BitVec.ofNat 64 v.1, v.2))]

end Sys2Proof.Claims

open Sys2Proof Sys2Proof.Machine Sys2Proof.Claims

/-- 04 R83-R85: an integer, immediate or move word that is ready writes x[D] with its result, reading its
sources as the windows that have closed left them, and the stream goes on. -/
def Obligations.IntegerWordsWriteTheirResult : Prop :=
  (∀ p ∈ binaryForms, ∀ (r : Xr) (s b : State), s.XReady 1 r.g r.gn [r.a.toNat, r.b.toNat, 64 + r.d.toNat] b →
    exec (p.1 r) s = .next ((b.putX r.d.toNat
      (p.2 (b.getX 0 r.a.toNat) (b.getX 1 r.b.toNat)) r.lb 0).xDone 1)) ∧
  (∀ p ∈ unaryForms, ∀ (r : Xr) (s b : State), s.XReady 1 r.g r.gn [r.a.toNat, 64 + r.d.toNat] b →
    exec (p.1 r) s = .next ((b.putX r.d.toNat (p.2 r.t (b.getX 0 r.a.toNat)) r.lb 0).xDone 1)) ∧
  (∀ p ∈ immediateForms, ∀ (r : Xi) (s b : State), s.XReady 1 r.g r.gn [r.a.toNat, 64 + r.d.toNat] b →
    exec (p.1 r) s = .next ((b.putX r.d.toNat
      (p.2 (b.getX 0 r.a.toNat) (r.imm.signExtend 64)) r.lb 0).xDone 1)) ∧
  (∀ (r : Xr) (s b : State), s.XReady 1 r.g r.gn [r.a.toNat, r.b.toNat, r.c.toNat, 64 + r.d.toNat] b →
    exec (.mad r) s = .next ((b.putX r.d.toNat
      (b.getX 0 r.a.toNat * b.getX 1 r.b.toNat + b.getX 2 r.c.toNat) r.lb 0).xDone 1))

/-- 04 R87, R88: a compare or predicate word that is ready writes p[PD] (p[D] with an immediate) with its result; `pget` writes
x[D] with 0 or 1. -/
def Obligations.PredicateWordsWriteTheirResult : Prop :=
  (∀ p ∈ compareForms, ∀ (r : Xr) (s b : State), s.XReady 1 r.g r.gn [r.a.toNat, r.b.toNat] b →
    exec (p.1 r) s = .next ((b.putP r.pd.toNat
      (p.2 (b.getX 0 r.a.toNat) (b.getX 1 r.b.toNat)) r.lb 0).xDone 1)) ∧
  (∀ p ∈ compareImmForms, ∀ (r : Xi) (s b : State), s.XReady 1 r.g r.gn [r.a.toNat] b →
    exec (p.1 r) s = .next ((b.putP r.d.toNat
      (p.2 (b.getX 0 r.a.toNat) (r.imm.signExtend 64)) r.lb 0).xDone 1)) ∧
  (∀ p ∈ predicateForms, ∀ (r : Xr) (s b : State), s.XReady 1 r.g r.gn [] b →
    exec (p.1 r) s = .next ((b.putP r.pd.toNat
      (p.2 (b.getP 0 r.pa.toNat) (b.getP 1 r.pb.toNat)) r.lb 0).xDone 1)) ∧
  (∀ (r : Xr) (s b : State), s.XReady 1 r.g r.gn [64 + r.d.toNat] b →
    exec (.pget r) s = .next ((b.putX r.d.toNat (if b.getP 0 r.pa.toNat then 1 else 0) r.lb 0).xDone 1)) ∧
  (∀ (r : Xr) (s b : State), s.XReady 1 r.g r.gn [r.a.toNat] b →
    exec (.pput r) s = .next ((b.putP r.pd.toNat (b.getX 0 r.a.toNat != 0) r.lb 0).xDone 1))

/-- 04 R78, R90-R92, 03 R71: a floating-point word that is ready writes its result with zeros above its width (an integer
result extended), and its flags land with the result. -/
def Obligations.FloatWordsWriteTheirResult : Prop :=
  (∀ p ∈ floatForms, ∀ (r : Xr) (s b : State), s.XReady 1 r.g r.gn [r.a.toNat, r.b.toNat, r.c.toNat, 64 + r.d.toNat] b →
    exec (p.1 r) s =
      let v := p.2 r.t.toNat (r.m.toNat % 8) (xPat r.t.toNat (b.getX 0 r.a.toNat)) (xPat r.t.toNat (b.getX 1 r.b.toNat))
        (xPat r.t.toNat (b.getX 2 r.c.toNat))
      .next ((b.putX r.d.toNat (BitVec.ofNat 64 v.1) r.lb v.2).xDone 1)) ∧
  (∀ p ∈ floatCompareForms, ∀ (r : Xr) (s b : State), s.XReady 1 r.g r.gn [r.a.toNat, r.b.toNat] b →
    exec (p.1 r) s =
      let v := p.2 (decF r.t.toNat (xPat r.t.toNat (b.getX 0 r.a.toNat))) (decF r.t.toNat (xPat r.t.toNat (b.getX 1 r.b.toNat)))
      .next ((b.putP r.pd.toNat v.1 r.lb v.2).xDone 1)) ∧
  (∀ p ∈ convertForms, ∀ (r : Xr) (s b : State), s.XReady 1 r.g r.gn [r.a.toNat, 64 + r.d.toNat] b →
    exec (p.1 r) s =
      let v := p.2 r.t.toNat (r.b.toNat % 16) (r.m.toNat % 8) (xPat (r.b.toNat % 16) (b.getX 0 r.a.toNat))
      .next ((b.putX r.d.toNat v.1 r.lb v.2).xDone 1))

namespace Sys2Proof.Claims

/-! ### Words by format, for statements about guards and privilege -/

/-- The unprivileged words of format XR whose map entry allows any guard. -/
def guardedXr : List (Xr → Instr) :=
  List.append (binaryForms.map (fun p => p.1)) <| List.append (unaryForms.map (fun p => p.1)) <|
    List.append (compareForms.map (fun p => p.1)) <| List.append (predicateForms.map (fun p => p.1)) <|
    List.append (floatForms.map (fun p => p.1)) <| List.append (floatCompareForms.map (fun p => p.1)) <|
    List.append (convertForms.map (fun p => p.1))
      [Instr.mad, Instr.sel, Instr.pget, Instr.pput, Instr.jr, Instr.callr, Instr.ret, Instr.amoAdd, Instr.amoAnd, Instr.amoOr,
        Instr.amoXor, Instr.amoMin, Instr.amoMax, Instr.amoSwap, Instr.amoCas, Instr.amoFadd, Instr.amoFmax, Instr.amoMaxx,
        Instr.pop, Instr.push, Instr.fence, Instr.mmGo, Instr.mmSwap, Instr.mmZero, Instr.mmDrain, Instr.tset, Instr.tclr,
        Instr.ctxXfer, Instr.launch, Instr.id, Instr.time]

/-- The words of format XI. -/
def guardedXi : List (Xi → Instr) :=
  List.append (immediateForms.map (fun p => p.1)) <| List.append (compareImmForms.map (fun p => p.1))
    [Instr.loop, Instr.bankMode, Instr.mmCfg, Instr.evSet, Instr.evClr, Instr.evWait]

/-- The unprivileged words of format XK. -/
def guardedXk : List (Xk → Instr) :=
  [Instr.movi, Instr.movu, Instr.movh, Instr.barInit, Instr.barArr, Instr.barWait, Instr.barSync, Instr.trap, Instr.pause, Instr.tw,
    Instr.twa]

/-- The element-wise, scalar-operand and compare words of the span engine, with their opcode and function (02 Table 02-6). -/
def spanForms : List ((Xs → Instr) × (Nat × Nat)) :=
  [(Instr.vadd, 0x40, 0), (Instr.vsub, 0x40, 1), (Instr.vmul, 0x40, 2), (Instr.vdiv, 0x40, 3), (Instr.vmin, 0x40, 4),
    (Instr.vmax, 0x40, 5), (Instr.vfma, 0x40, 6), (Instr.vfms, 0x40, 7), (Instr.vfnma, 0x40, 8), (Instr.vand, 0x40, 9),
    (Instr.vor, 0x40, 10), (Instr.vxor, 0x40, 11), (Instr.vsll, 0x40, 12), (Instr.vsrl, 0x40, 13), (Instr.vsra, 0x40, 14),
    (Instr.vabd, 0x40, 15), (Instr.vmov, 0x41, 0), (Instr.vneg, 0x41, 1), (Instr.vabs, 0x41, 2), (Instr.vrcp, 0x41, 3),
    (Instr.vsqrt, 0x41, 4), (Instr.vrsqrt, 0x41, 5), (Instr.vexp, 0x41, 6), (Instr.vexp2, 0x41, 7), (Instr.vlog2, 0x41, 8),
    (Instr.vtanh, 0x41, 9), (Instr.vsigm, 0x41, 10), (Instr.vadds, 0x42, 0), (Instr.vsubs, 0x42, 1), (Instr.vmuls, 0x42, 2),
    (Instr.vmins, 0x42, 3), (Instr.vmaxs, 0x42, 4), (Instr.vfmas, 0x42, 5), (Instr.vfill, 0x42, 6), (Instr.vceq, 0x43, 0),
    (Instr.vcne, 0x43, 1), (Instr.vclt, 0x43, 2), (Instr.vcle, 0x43, 3), (Instr.vsel, 0x43, 8), (Instr.vcvt, 0x44, 0),
    (Instr.vqJ4, 0x44, 1), (Instr.vdqJ4, 0x44, 2), (Instr.vsum, 0x45, 0), (Instr.vmaxr, 0x45, 1), (Instr.vminr, 0x45, 2),
    (Instr.vamax, 0x45, 3), (Instr.vdot, 0x45, 4), (Instr.vrev, 0x46, 0), (Instr.vbcast, 0x46, 1), (Instr.vscan, 0x46, 2),
    (Instr.vidx, 0x46, 3), (Instr.vperm, 0x46, 4), (Instr.vtrans, 0x46, 5), (Instr.vdefer, 0x54, 0), (Instr.vdrain, 0x54, 1)]

/-- The words of format XS. -/
def guardedXs : List (Xs → Instr) :=
  List.append (spanForms.map (fun p => p.1))
    [Instr.vsetb, Instr.vsets, Instr.vsetn, Instr.vsett, Instr.vgetb, Instr.vgetn, Instr.rowSm, Instr.rowNorm, Instr.rowLse]

/-- The memory words whose function code carries size and scope. -/
def guardedSized : List (BitVec 6 → Xi → Instr) := [Instr.lds, Instr.ldsx, Instr.sts]

def guardedGlobal : List (BitVec 6 → Xr → Instr) := [Instr.ldg, Instr.stg]

/-- The privileged words: every allocated word of OP 0x70 to 0x77 (02 R47). -/
def privilegedXk : List (Xk → Instr) := [Instr.sysRd, Instr.sysWr, Instr.fdataRead, Instr.fdataWrite, Instr.evmsg]

def privilegedXr : List (Xr → Instr) :=
  [Instr.ctxNew, Instr.ctxDel, Instr.ctxSev, Instr.tlbInv, Instr.tlbAsid, Instr.tlbAll, Instr.coreOut, Instr.coreIn]

end Sys2Proof.Claims

/-- 02 R33: the guard condition is p[G], inverted when GN is 1; G = 0 holds with GN = 0 and never with GN = 1; a word whose guard
does not hold changes nothing but the stream's place, a chain header passing its whole chain. -/
def Obligations.FalseGuardSkipsTheWord : Prop :=
  (∀ (s : State) (g : BitVec 7), s.guard g false = s.getP 7 g.toNat ∧ s.guard g true = !s.getP 7 g.toNat) ∧
  (∀ s : State, s.guard 0 false = true ∧ s.guard 0 true = false) ∧
  (∀ c ∈ guardedXr, ∀ (r : Xr) (s : State), s.landDue.stepPoisoned 1 = none → s.landDue.guard r.g r.gn = false →
    exec (c r) s = .next (s.landDue.xDone 1)) ∧
  (∀ c ∈ guardedXi, ∀ (r : Xi) (s : State), s.landDue.stepPoisoned 1 = none → s.landDue.guard r.g r.gn = false →
    exec (c r) s = .next (s.landDue.xDone 1)) ∧
  (∀ c ∈ guardedXk, ∀ (r : Xk) (s : State), s.landDue.stepPoisoned 1 = none → s.landDue.guard r.g r.gn = false →
    exec (c r) s = .next (s.landDue.xDone 1)) ∧
  (∀ c ∈ guardedXs, ∀ (r : Xs) (s : State), s.landDue.stepPoisoned 1 = none → s.landDue.guard r.g r.gn = false →
    exec (c r) s = .next (s.landDue.xDone 1)) ∧
  (∀ c ∈ guardedSized, ∀ (fn : BitVec 6) (r : Xi) (s : State), s.landDue.stepPoisoned 1 = none →
    s.landDue.guard r.g r.gn = false → exec (c fn r) s = .next (s.landDue.xDone 1)) ∧
  (∀ c ∈ guardedGlobal, ∀ (fn : BitVec 6) (r : Xr) (s : State), s.landDue.stepPoisoned 1 = none →
    s.landDue.guard r.g r.gn = false → exec (c fn r) s = .next (s.landDue.xDone 1)) ∧
  (∀ (r : Xb) (s : State), s.landDue.stepPoisoned 1 = none → s.landDue.guard r.g r.gn = false →
    exec (.br r) s = .next (s.landDue.xDone 1) ∧ exec (.call r) s = .next (s.landDue.xDone 1)) ∧
  (∀ (r : Xm) (s : State), s.landDue.stepPoisoned 1 = none → s.landDue.guard r.g r.gn = false →
    exec (.mmNest r) s = .next (s.landDue.xDone 1)) ∧
  (∀ (r : Xc) (s : State), s.landDue.stepPoisoned (1 + r.links.length) = none → s.landDue.guard r.g r.gn = false →
    exec (.vchain r) s = .next (s.landDue.xDone (1 + r.links.length))) ∧
  (∀ c ∈ privilegedXk, ∀ (r : Xk) (s : State), s.isSuper = true → s.landDue.stepPoisoned 1 = none →
    s.landDue.guard r.g r.gn = false → exec (c r) s = .next (s.landDue.xDone 1)) ∧
  (∀ c ∈ privilegedXr, ∀ (r : Xr) (s : State), s.isSuper = true → s.landDue.stepPoisoned 1 = none →
    s.landDue.guard r.g r.gn = false → exec (c r) s = .next (s.landDue.xDone 1))

/-- 02 R47: in a user context every allocated word of OP 0x70 to 0x77 raises VIOL whatever its guard; the words of that range
that no row allocates decode to nothing, in every context, and raise ILL. -/
def Obligations.PrivilegedWordsTrapInUserContexts : Prop :=
  (∀ c ∈ privilegedXk, ∀ (r : Xk) (s : State), s.isSuper = false →
    exec (c r) s = .next (s.landDue.raiseLeave false (.fault causeViol) 0 0)) ∧
  (∀ c ∈ privilegedXr, ∀ (r : Xr) (s : State), s.isSuper = false →
    exec (c r) s = .next (s.landDue.raiseLeave false (.fault causeViol) 0 0)) ∧
  (∀ (w : BitVec 64) (ws : List (BitVec 64)) (i : Instr), 0x70 ≤ (w.extractLsb' 0 7).toNat → (w.extractLsb' 0 7).toNat ≤ 0x77 →
    decodeX w ws = .ok i → (∃ c ∈ privilegedXk, ∃ r, i = c r) ∨ (∃ c ∈ privilegedXr, ∃ r, i = c r)) ∧
  (∀ (s t : State) (bs : List Byte) (e : DecodeError), s.streamOn false = true → s.fetchX = (t, some bs) →
    decodeXBytes bs = .error e → s.stepX = .next (t.landDue.raiseLeave false (.fault causeIll) 0 0))

/-- 04 R86: `movi`, `movu` and `movh` that are ready write x[D] with the sign-extended or zero-extended immediate, or its upper half
alone; bits [31:30] of such a word are zero, its FN is 0 to 2, and a bound of one cycle is enough. -/
def Obligations.ConstantWordsWriteTheirResult : Prop :=
  (∀ (r : Xk) (s b : State), s.XReady 1 r.g r.gn [64 + r.d.toNat] b →
    exec (.movi r) s = .next ((b.putX r.d.toNat (r.imm.signExtend 64) r.lb 0).xDone 1) ∧
    exec (.movu r) s = .next ((b.putX r.d.toNat (r.imm.zeroExtend 64) r.lb 0).xDone 1)) ∧
  (∀ (r : Xk) (s b : State), s.XReady 1 r.g r.gn [r.d.toNat] b →
    exec (.movh r) s = .next ((b.putX r.d.toNat
      (r.imm ++ (b.getX 0 r.d.toNat).extractLsb' 0 32) r.lb 0).xDone 1)) ∧
  (∀ (w : BitVec 64) (ws : List (BitVec 64)) (i : Instr), w.extractLsb' 0 7 = 0x12 → decodeX w ws = .ok i →
    w.extractLsb' 30 2 = 0 ∧ (w.extractLsb' 18 6).toNat ≤ 2) ∧
  (∀ r : Xk, wellFormed (.movi r) = guardOk r.g ∧ wellFormed (.movu r) = guardOk r.g ∧ wellFormed (.movh r) = guardOk r.g)

/-- 04 R89: `sel` that is ready writes x[D] with x[A] where p[PD] holds and with x[B] where it does not; C, T and M of the word are zero
and FN is 0, and a bound of one cycle is enough. -/
def Obligations.SelPicksByItsPredicate : Prop :=
  (∀ (r : Xr) (s b : State), s.XReady 1 r.g r.gn [r.a.toNat, r.b.toNat, 64 + r.d.toNat] b →
    exec (.sel r) s = .next ((b.putX r.d.toNat
      (if b.getP 2 r.pd.toNat then b.getX 0 r.a.toNat else b.getX 1 r.b.toNat) r.lb 0).xDone 1)) ∧
  (∀ (w : BitVec 64) (ws : List (BitVec 64)) (i : Instr), w.extractLsb' 0 7 = 0x05 → decodeX w ws = .ok i →
    (w.extractLsb' 18 6).toNat = 0 ∧ ∃ r : Xr, i = .sel r ∧ r.c = 0 ∧ r.t = 0 ∧ r.m = 0) ∧
  (∀ r : Xr, r.c = 0 → r.t = 0 → r.m = 0 → wellFormed (.sel r) = (guardOk r.g && predOk r.pd))

namespace Sys2Proof.Claims

/-- The state in which a word's stream has stopped with DATA on an entry of the return stack, by its syndrome. -/
def stackLost (b : State) (z : BitVec 8) : State := b.raiseLeave false (.fault causeData) 0 (z.zeroExtend 32)

/-- The state after what a word takes off the return stack, with the entries that its lanes corrected. -/
def took (b : State) (c : Core) (k : Nat) : State := ({ b with core := c } : State).fixed k

end Sys2Proof.Claims

/-- 04 R93-R97, R101, R102, R382: what a transfer that is ready does: branches leave the loop frames that their target leaves, calls push
their return entry or trap with STACK, register transfers trap on a misaligned target, `ret` pops the topmost return entry, `loop`
enters its body, skips it on a count of zero, or traps; each parks with DATA on an entry that it takes and cannot correct. That `callr` looks at
its target before the stack, and `loop` at the frame on top, is the model's choice (logs 45, 44). -/
def Obligations.ControlWordsTransfer : Prop :=
  (∀ (r : Xb) (s b : State), s.XTakes r.g r.gn [] b →
    let target := b.core.xpc + 8 * r.off.signExtend 64
    (∀ c k, Core.leaveLoops b.spillMem target b.core.depth b.core = .ok (c, k) → exec (.br r) s = .next ((took b c k).xJump target)) ∧
    (∀ z, Core.leaveLoops b.spillMem target b.core.depth b.core = .error z → exec (.br r) s = .next (stackLost b z)) ∧
    (b.canPush 1 = true → exec (.call r) s = .next ((b.pushEntry (codeAddr (b.core.xpc + 8))).xJump target)) ∧
    (b.canPush 1 = false → exec (.call r) s = .next (b.raiseLeave false (.fault causeStack) 0 0))) ∧
  (∀ (r : Xr) (s b : State), s.XTakes r.g r.gn [r.a.toNat] b →
    let target := b.getX 0 r.a.toNat
    (target.extractLsb' 0 3 ≠ 0 → exec (.jr r) s = .next (b.raiseLeave false (.fault causeIll) 0 0) ∧
      exec (.callr r) s = .next (b.raiseLeave false (.fault causeIll) 0 0)) ∧
    (target.extractLsb' 0 3 = 0 →
      (∀ c k, Core.leaveLoops b.spillMem target b.core.depth b.core = .ok (c, k) → exec (.jr r) s = .next ((took b c k).xJump target)) ∧
      (∀ z, Core.leaveLoops b.spillMem target b.core.depth b.core = .error z → exec (.jr r) s = .next (stackLost b z)) ∧
      (b.canPush 1 = true → exec (.callr r) s = .next ((b.pushEntry (codeAddr (b.core.xpc + 8))).xJump target)) ∧
      (b.canPush 1 = false → exec (.callr r) s = .next (b.raiseLeave false (.fault causeStack) 0 0)))) ∧
  (∀ (r : Xr) (s b : State), s.XTakes r.g r.gn [] b →
    let o := Core.dropLoops b.spillMem b.core.depth b.core
    (∀ z, o = .error z → exec (.ret r) s = .next (stackLost b z)) ∧
    (∀ c k, o = .ok (c, k) → c.entryAt b.spillMem 0 = none → exec (.ret r) s = .next (b.raiseLeave false (.fault causeStack) 0 0)) ∧
    (∀ c k e, o = .ok (c, k) → c.entryAt b.spillMem 0 = some e →
      (e.use = none → exec (.ret r) s = .next (stackLost b e.syn)) ∧
      (∀ v, e.use = some v → (codeAddr v).extractLsb' 0 3 ≠ 0 → exec (.ret r) s = .next (b.raiseLeave false (.fault causeIll) 0 0)) ∧
      (∀ v, e.use = some v → (codeAddr v).extractLsb' 0 3 = 0 →
        exec (.ret r) s = .next ((took b (c.pop b.spillMem) (k + if fixable e.syn then 1 else 0)).xJump (codeAddr v))))) ∧
  (∀ (r : Xi) (s b : State), s.XTakes r.g r.gn [r.a.toNat] b →
    let n := ((b.getX 0 r.a.toNat).extractLsb' 0 32).toNat
    let last := b.core.xpc + 8 * r.imm.zeroExtend 64
    let checked := if (b.core.topLoop b.spillMem).isSome then b.core.checkTop b.spillMem 2 else .ok 0
    let nested := ∀ f ∈ b.core.topLoop b.spillMem, b.core.xpc ≠ f.2.1 ∧ last.toNat ≤ f.2.1.toNat
    let skip := Core.loopStep b.spillMem last b.core.depth { b.core with xpc := last + 8, xdoubt := false }
    (∀ z, checked = .error z → exec (.loop r) s = .next (stackLost b z)) ∧
    (∀ k, checked = .ok k → ¬ nested → exec (.loop r) s = .next (b.raiseLeave false (.fault causeIll) 0 0)) ∧
    (∀ k c j, checked = .ok k → nested → n = 0 → skip = .ok (c, j) → exec (.loop r) s = .next ((took (b.fixed k) c j).xJump c.xpc)) ∧
    (∀ k z, checked = .ok k → nested → n = 0 → skip = .error z → exec (.loop r) s = .next (stackLost b z)) ∧
    (∀ k, checked = .ok k → nested → n ≠ 0 → b.canPush 2 = true → b.stepPoisoned 1 = none →
      exec (.loop r) s = .next
        ((((b.fixed k).pushEntry (loopStartEntry (b.core.xpc + 8))).pushEntry (loopCountEntry r.imm.toNat n)).xDone 1)) ∧
    (∀ k, checked = .ok k → nested → n ≠ 0 → b.canPush 2 = false → exec (.loop r) s = .next (b.raiseLeave false (.fault causeStack) 0 0)))

/-- 04 R93, R94: with room on the core, a `ret` at the end of a called function goes to the word after the call and leaves the return
stack as the call found it. -/
def Obligations.RetUndoesCall : Prop :=
  ∀ (rc : Xb) (rr : Xr) (s b t : State), s.XTakes rc.g rc.gn [] b → s.core.rstack.length < 32 → s.core.xpc.extractLsb' 0 3 = 0 →
    rr.g = 0 → rr.gn = false →
    exec (.call rc) s = .next t →
    ∃ u, exec (.ret rr) t = .next u ∧ u.core.xpc = codeAddr (s.core.xpc + 8) ∧ u.core.rstack = s.core.rstack ∧
      u.core.spilled = s.core.spilled

namespace Sys2Proof.Claims

/-- The domains of two states differ in nothing but the counts of the interval under way (13 R350). -/
def SameButCounts (s t : State) : Prop := ∀ d, (t.dom d).map (fun x => { x with tally := [] }) = (s.dom d).map (fun x => { x with tally := [] })

/-- What a scalar word may change: the core in focus, its context's leave requests and the count of corrected words; on the core,
registers x[D] and p[PD], the windows, the stream's place, its return stack, and that it waits for the scheduler. -/
structure ScalarFrame (s t : State) (d pd : Option Nat) : Prop where
  rest : t = { s with core := t.core, ctxs := t.ctxs, doms := t.doms }
  counts : SameButCounts s t
  core : t.core =
    { s.core with
      x := t.core.x, p := t.core.p, xbad := t.core.xbad, xflags := s.landDue.core.xflags, wins := t.core.wins, xpc := t.core.xpc, xdoubt := t.core.xdoubt,
      xcycle := t.core.xcycle, rstack := t.core.rstack, spilled := t.core.spilled, xhold := t.core.xhold }
  others : ∀ i, some i ≠ d → tget t.core.x.cells i = tget s.core.x.cells i ∧ tget t.core.xbad i = tget s.core.xbad i
  undef : t.core.x.undef = s.core.x.undef ∧ t.core.p.undef = s.core.p.undef
  preds : ∀ i, some i ≠ pd → tget t.core.p.cells i = tget s.core.p.cells i
  asks : (t.ctxs = s.ctxs ∧ t.core.xhold = s.core.xhold) ∨
    ∃ k c a, s.core.ctx = some k ∧ tget s.ctxs k = some c ∧ t.ctxs = tset s.ctxs k { c with asks := c.asks ++ [a] } ∧
      t.core.xhold = .asking
  memory : ∀ a, t.mem.byte a = s.mem.byte a

end Sys2Proof.Claims

/-- What a scalar word of any shape leaves alone whenever it gives a next state, also when its guard fails, it waits or it traps:
memory, stores, every other core and context, every register but its destination, and FPFLAGS but for the windows that have closed
(04 R77, R79, R83-R92; 03 R71). -/
def Obligations.ScalarWordsLeaveTheRestAlone : Prop :=
  (∀ c ∈ List.append (binaryForms.map (fun p => p.1)) (List.append (unaryForms.map (fun p => p.1))
      (List.append (floatForms.map (fun p => p.1)) (List.append (convertForms.map (fun p => p.1)) [Instr.mad, Instr.sel, Instr.pget]))),
    ∀ (r : Xr) (s t : State), s.core.x.wf = true → s.core.p.wf = true → tableFrom 0 s.core.xbad = true → exec (c r) s = .next t →
      ScalarFrame s t (some r.d.toNat) none) ∧
  (∀ c ∈ immediateForms.map (fun p => p.1), ∀ (r : Xi) (s t : State), s.core.x.wf = true → s.core.p.wf = true →
    tableFrom 0 s.core.xbad = true → exec (c r) s = .next t → ScalarFrame s t (some r.d.toNat) none) ∧
  (∀ c ∈ [Instr.movi, Instr.movu, Instr.movh], ∀ (r : Xk) (s t : State), s.core.x.wf = true → s.core.p.wf = true →
    tableFrom 0 s.core.xbad = true → exec (c r) s = .next t → ScalarFrame s t (some r.d.toNat) none) ∧
  (∀ c ∈ List.append (compareForms.map (fun p => p.1)) (List.append (predicateForms.map (fun p => p.1))
      (List.append (floatCompareForms.map (fun p => p.1)) [Instr.pput])),
    ∀ (r : Xr) (s t : State), s.core.x.wf = true → s.core.p.wf = true → tableFrom 0 s.core.xbad = true → exec (c r) s = .next t →
      ScalarFrame s t none (some r.pd.toNat)) ∧
  (∀ c ∈ compareImmForms.map (fun p => p.1), ∀ (r : Xi) (s t : State), s.core.x.wf = true → s.core.p.wf = true →
    tableFrom 0 s.core.xbad = true → exec (c r) s = .next t → ScalarFrame s t none (some r.d.toNat))

/-- 04 R77, R79, R80: once every window of x[d] has closed, a read of it gives the value written last; a read of another
register gives what it gave before; x0 reads zero whatever is written to it, and while a window of x[d] is open a read
gives the free value of its step and place (log 1). -/
def Obligations.WrittenRegistersReadBackAfterTheirBound : Prop :=
  ∀ (s : State) (d : Nat) (v : Word) (lb : BitVec 3) (fl : BitVec 5) (port n : Nat), s.core.x.wf = true →
    tableFrom 0 s.core.xbad = true →
    let t := s.putX d v lb fl
    let u := { t with core := { t.core with xcycle := n } }
    (d ≠ 0 → (∀ w ∈ t.core.wins, w.reg = .x d → w.close ≤ n) → u.getX port d = v) ∧
    (d ≠ 0 → n < s.core.xcycle + lbCycles lb → u.getX port d = Config.freeBits 64 s.tick (1024 * port + d)) ∧
    (∀ i, i ≠ d → t.getX port i = s.getX port i) ∧ t.getX port 0 = 0


/-- 02 R32, R39, R46; 09 R235: a step at a turn of a stream or of a near-bank unit runs exactly the instruction that the words at its
program counter decode to, and then time goes on; a turn of the device runs the step that it names at its core. -/
def Obligations.StepRunsTheDecodedInstruction : Prop :=
  (∀ (s u : State) (n : Nat) (rest : List Turn) (bs : List Byte) (i : Instr), s.shut = false → s.agenda = .x n :: rest →
    (({ s with agenda := rest } : State).focus n).streamOn false = true →
    (({ s with agenda := rest } : State).focus n).fetchX = (u, some bs) → decodeXBytes bs = .ok i →
    (∀ t, exec i u = .next t → step s = .next (t.finish (.x n)))) ∧
  (∀ (s u : State) (n : Nat) (rest : List Turn) (bs : List Byte) (i : Instr), s.shut = false → s.agenda = .a n :: rest →
    (({ s with agenda := rest } : State).focus n).streamOn true = true →
    (({ s with agenda := rest } : State).focus n).fetchA = (u, some bs) → decodeABytes bs = .ok i →
    (∀ t, exec i u = .next t → step s = .next (t.finish (.a n)))) ∧
  (∀ (s : State) (b : Nat) (rest : List Turn) (w : BitVec 16) (i : Instr), s.shut = false → s.agenda = .nbu b :: rest →
    (s.nbUnit b).store[(s.nbUnit b).upc]? = some w → decodeMicro w = .ok i →
    (∀ t, exec i { s with agenda := rest, bankHere := b } = .next t → step s = .next (t.finish (.nbu b)))) ∧
  (∀ (s : State) (n : Nat) (rest : List Turn) (e : Instr), s.shut = false → s.agenda = .at n e :: rest → encode e = .step →
    (({ s with agenda := rest } : State).focus n).admits e = true →
    (∀ t, exec e (({ s with agenda := rest } : State).focus n) = .next t → step s = .next (t.finish (.at n e)))) ∧
  (∀ (s t : State) (pa ty : Nat), s.core.xpc.toNat % 8 = 0 → s.translate s.who needX s.core.xpc.toNat = (t, .ok pa ty) →
    placeOf pa = .hbm → t.dirAt pa = none → t.mem.bad = [] → chainHead (t.mem.word pa).v = false →
    s.fetchX = (let u := t.note pa 8
      { u.firstWord with core := { u.core with xir := (t.mem.word pa).v } }, some (t.mem.bytes pa 8))) ∧
  (∀ (s t : State) (pa ty : Nat), s.core.apc.toNat % 4 = 0 → s.translate s.who needX s.core.apc.toNat = (t, .ok pa ty) →
    placeOf pa = .hbm → t.dirAt pa = none → t.mem.bad = [] →
    s.fetchA = (let u := t.note pa 4
      { u with core := { u.core with air := BitVec.ofNat 64 (ofBytes (t.mem.bytes pa 4)) } }, some (t.mem.bytes pa 4)))

/-- 14 R365: a module that has shut down does nothing until a power-on reset. -/
def Obligations.ShutDownStops : Prop :=
  ∀ s : State, s.shut = true → (∀ n d rest, s.agenda ≠ .at n (.powerOnReset d) :: rest) → step s = .fault .shutDown

/-- 02 R46, R44: a word that decodes to nothing has no effect: its stream raises a leave request with cause ILL, that records the
word, its address and the stream, and stops; so does a word at an address that is not aligned to its size, and so do `udf` words. -/
def Obligations.IllegalWordsTrap : Prop :=
  (∀ (s t : State) (bs : List Byte) (e : DecodeError), s.streamOn false = true → s.fetchX = (t, some bs) →
    decodeXBytes bs = .error e → s.stepX = .next (t.landDue.raiseLeave false (.fault causeIll) 0 0)) ∧
  (∀ (s t : State) (bs : List Byte) (e : DecodeError), s.streamOn true = true → s.fetchA = (t, some bs) →
    decodeABytes bs = .error e → s.stepA = .next (t.raiseLeave true (.fault causeIll) 0 0)) ∧
  (∀ (w : BitVec 64) (s : State), exec (.udf w) s = .next (s.landDue.raiseLeave false (.fault causeIll) 0 0)) ∧
  (∀ (w : BitVec 26) (s : State), exec (.aUdf w) s = .next (s.raiseLeave true (.fault causeIll) 0 0) ∧
    exec (.aUdf3f w) s = .next (s.raiseLeave true (.fault causeIll) 0 0)) ∧
  (∀ s : State, s.streamOn false = true → s.core.xpc.toNat % 8 ≠ 0 →
    s.stepX = .next (({ s with core := { s.core with xir := s.noWord } } : State).landDue.raiseLeave false (.fault causeIll) 0 0)) ∧
  (∀ s : State, s.streamOn true = true → s.core.apc.toNat % 4 ≠ 0 →
    s.stepA = .next (({ s with core := { s.core with air := s.noWord } } : State).raiseLeave true (.fault causeIll) 0 0))

/-- 10 R245; 12 R304: what raising a leave request does: the scheduler receives it behind those raised before, with the logical
position, the stream, the word and its address, the cause, PDATA, the trap code and the time; that stream then issues no word until it is
answered; nothing else changes. With no context on the core nothing happens. -/
def Obligations.LeaveRequestsHoldWhatTheParkRecordNeeds : Prop :=
  (∀ (s : State) (k : Nat) (c : Ctx) (kind : AskKind) (data : Word) (code : BitVec 32), s.core.ctx = some k → tget s.ctxs k = some c →
    let x : Ask :=
      { kind := kind, pos := s.core.pos, aStream := false, word := s.core.xir, addr := s.core.xpc, data := data, tcode := code, passed := false, time := s.ptp }
    let y : Ask :=
      { kind := kind, pos := s.core.pos, aStream := true, word := s.core.air, addr := s.core.apc, data := data, tcode := code, passed := false, time := s.ptp }
    s.raiseLeave false kind data code =
      { s with ctxs := tset s.ctxs k { c with asks := c.asks ++ [x] }, core := { s.core with xhold := .asking } } ∧
    s.raiseLeave true kind data code =
      { s with ctxs := tset s.ctxs k { c with asks := c.asks ++ [y] }, core := { s.core with ahold := .asking } } ∧
    (s.raiseLeave false kind data code).streamOn false = false ∧ (s.raiseLeave true kind data code).streamOn true = false) ∧
  (∀ (s : State) (a : Bool) (kind : AskKind) (data : Word) (code : BitVec 32), s.core.ctx = none → s.raiseLeave a kind data code = s)

/-- 02 R32-R38, R44: every well-formed instruction of the X stream, laid out in memory in its own encoding, decodes to itself
whatever follows it, with every operand at every value that its fields admit. -/
def Obligations.EncodedXWordsDecodeBack : Prop :=
  ∀ (i : Instr) (ws : List (BitVec 64)) (rest : List Byte), wellFormed i = true → encode i = .xWords ws →
    decodeXBytes (ws.flatMap (fun w => leBytes 8 w.toNat) ++ rest) = .ok i

/-- 02 R39-R42, R45; 09 R235: the same of the A stream, and of the near-bank unit's microinstructions. -/
def Obligations.EncodedAAndMicroWordsDecodeBack : Prop :=
  (∀ (i : Instr) (w : BitVec 32) (rest : List Byte), wellFormed i = true → encode i = .aWord w →
    decodeABytes (leBytes 4 w.toNat ++ rest) = .ok i) ∧
  (∀ (i : Instr) (w : BitVec 16) (rest : List Byte), encode i = .micro w → decodeMicroBytes (leBytes 2 w.toNat ++ rest) = .ok i)

/-- 02 R48, R46: a word is never decoded as another instruction because bits in it are reserved: what a decoder accepts has exactly
that word as its encoding, and is well-formed; so two different words never decode to the same instruction. -/
def Obligations.NoWordDecodesAsAnother : Prop :=
  (∀ (w : BitVec 64) (ws : List (BitVec 64)) (i : Instr), decodeX w ws = .ok i →
    wellFormed i = true ∧ ∃ links, encode i = .xWords (w :: links) ∧ links.length ≤ 8 ∧ links = ws.take links.length) ∧
  (∀ (w : BitVec 32) (i : Instr), decodeA w = .ok i → wellFormed i = true ∧ encode i = .aWord w) ∧
  (∀ (w : BitVec 16) (i : Instr), decodeMicro w = .ok i → encode i = .micro w) ∧
  (∀ (w v : BitVec 64) (ws vs : List (BitVec 64)) (i : Instr), decodeX w ws = .ok i → decodeX v vs = .ok i → w = v) ∧
  (∀ (w v : BitVec 32) (i : Instr), decodeA w = .ok i → decodeA v = .ok i → w = v)

/-- The words that the chapters write out (02 R43, 04 R87, R90, 08 R201, R220, 09 R235, 10 R270), read by their fields. -/
def Obligations.WordsOfTheChaptersDecode : Prop :=
  decodeX 0xA000080204000040#64 [] = .ok (.vadd { t := 10, sx := 0, sb := 2, sa := 1, sd := 4, rm := 0, gn := false, g := 0 }) ∧
  decodeX 0xFFFFFFF0C7080011#64 [] = .ok (.clti { imm := 0xFFFFFFF, a := 3, d := 7, lb := 0, gn := false, g := 0 }) ∧
  decodeX 0x003A0C20441D8020#64 [] =
    .ok (.fma { m := 3, t := 10, c := 3, b := 2, a := 1, d := 4, lb := 3, gn := false, g := 0, pd := 0 }) ∧
  decodeX 0x00000100840A0038#64 [] = .ok (.lds 2 { imm := 16, a := 2, d := 4, lb := 4, gn := false, g := 0 }) ∧
  decodeX 0x000000010504006A#64 [] =
    .ok (.ctxXfer { m := 0, t := 0, c := 0, b := 0, a := 4, d := 5, lb := 0, gn := false, g := 0, pd := 0 }) ∧
  decodeA 0x9018A425#32 = .ok (.ramoAdd { x := 9, b := 6, a := 5, d := 4, l := false, f := false }) ∧
  decodeMicro 0x9C00#16 = .ok (.nbuFma true true)

namespace Sys2Proof.Claims

/-- What a memory word of the X stream may change on its core: the destination register x[D], the windows with FPFLAGS, the
stream's place and its return stack, and why the stream waits. -/
structure RegsKept (s t : State) (d : Option Nat) : Prop where
  core : t.core =
    { s.core with
      x := t.core.x, xbad := t.core.xbad, xflags := t.core.xflags, wins := t.core.wins, xpc := t.core.xpc, xdoubt := t.core.xdoubt,
      xcycle := t.core.xcycle, rstack := t.core.rstack, spilled := t.core.spilled, xhold := t.core.xhold }
  others : ∀ i, some i ≠ d → tget t.core.x.cells i = tget s.core.x.cells i ∧ tget t.core.xbad i = tget s.core.xbad i
  undef : t.core.x.undef = s.core.x.undef

/-- The atomics of 08 R217, each on the pattern in memory and the operand patterns: what it writes, if it writes, its result and
its flags. -/
def amoForms : List ((Xr → Instr) × (Nat → Nat → Nat → Nat → Option Nat × Nat × Flags)) :=
  [(Instr.amoAdd, fun ty old b _ => (some (wrapT ty (decInt ty old + decInt ty b)), old, 0)),
    (Instr.amoAnd, fun _ old b _ => (some (old &&& b), old, 0)), (Instr.amoOr, fun _ old b _ => (some (old ||| b), old, 0)),
    (Instr.amoXor, fun _ old b _ => (some (old ^^^ b), old, 0)),
    (Instr.amoMin, fun ty old b _ => (some (if decInt ty old ≤ decInt ty b then old else b), old, 0)),
    (Instr.amoMax, fun ty old b _ => (some (if decInt ty old ≤ decInt ty b then b else old), old, 0)),
    (Instr.amoSwap, fun _ old b _ => (some b, old, 0)), (Instr.amoCas, fun _ old b c => (if old = c then some b else none, old, 0)),
    (Instr.amoFadd, fun ty old b _ => (some (fAdd ty 0 old b).1, old, (fAdd ty 0 old b).2)),
    (Instr.amoFmax, fun ty old b _ => (some (minMax ty true old b).1, old, (minMax ty true old b).2)),
    (Instr.amoMaxx, fun ty old b c => (some c, if decInt ty old ≤ decInt ty b then b else old, 0))]

end Sys2Proof.Claims

/-- 01 R16: which core position, bank and offset a store-space address names; an address with bits [31:25] set names none; an access
is allowed only within the partition, within one bank, in a SCRATCH or SKEW bank that holds no KV page, outside the spill area (12
R306). -/
def Obligations.StoreAddressesNameBankAndOffset : Prop :=
  (∀ pos row col bank off : Nat, row < 8 → col < 8 → bank < 16 → off < 2 ^ 15 →
    storeDecode pos (col * 2 ^ 22 + row * 2 ^ 19 + bank * 2 ^ 15 + off) =
      some ((pos / 64 / 8 * 8 + row) * 64 + (pos % 64 / 8 * 8 + col), bank, off)) ∧
  (∀ pos a : Nat, 2 ^ 25 ≤ a → storeDecode pos a = none) ∧
  (∀ (s : State) (w : Who) (a n key k off : Nat), s.storeTarget w a n = some (key, k, off) ↔
    ∃ pos, storeDecode w.pos a = some (pos, k, off) ∧ key = storeKey w.slot pos ∧
      (w.rect.or (s.rectOfCtx w.slot)).any (fun r => inRect r pos) = true ∧ off + n ≤ 0x8000 ∧
      (((s.storeAt key).bank k).mode = .scratch ∨ ((s.storeAt key).bank k).mode = .skew) ∧ ((s.storeAt key).bank k).page = none ∧
      inSpill (s.spillbaseOf w.slot pos) k off n = false)

/-- 08 R199, R200, 07 R169: store-space words that are ready, when the engines' earlier commands have completed: a load writes x[D] with
the bytes at x[A] + SExt(IMM), extended; a store writes the low bytes of x[D] there, a whole aligned word together with its code; an
address outside 32 bits or one that the rules of store space forbid traps with VIOL; a word that cannot be corrected traps with DATA. -/
def Obligations.StoreSpaceWordsAccessTheStore : Prop :=
  (∀ (fn : BitVec 6) (r : Xi) (s b : State), s.XReady 1 r.g r.gn [r.a.toNat, 64 + r.d.toNat] b → s.core.memReady = true →
    let n := sizeBytes (fn.toNat % 8)
    let sum := (b.getX 0 r.a.toNat).toInt + r.imm.toInt
    (¬ (0 ≤ sum ∧ sum < 2 ^ 32) →
      exec (.lds fn r) s = .next (b.raiseLeave false (.fault causeViol) (BitVec.ofInt 64 sum) 0) ∧
      exec (.ldsx fn r) s = .next (b.raiseLeave false (.fault causeViol) (BitVec.ofInt 64 sum) 0)) ∧
    (∀ a : Nat, sum = a → a < 2 ^ 32 →
      (b.storeTarget b.who a n = none →
        exec (.lds fn r) s = .next (b.raiseLeave false (.fault causeViol) (BitVec.ofNat 64 a) 0) ∧
        exec (.ldsx fn r) s = .next (b.raiseLeave false (.fault causeViol) (BitVec.ofNat 64 a) 0)) ∧
      (∀ key k off, b.storeTarget b.who a n = some (key, k, off) →
        let m := ((b.storeAt key).bank k).data
        (∀ bs, m.lane off n = .ok bs →
          exec (.lds fn r) s = .next (((b.postBank b.who.dom key k off n).putX r.d.toNat (BitVec.ofNat 64 (ofBytes bs)) r.lb 0).xDone 1) ∧
          exec (.ldsx fn r) s = .next (((b.postBank b.who.dom key k off n).putX r.d.toNat
            (BitVec.ofInt 64 (signed (8 * bs.length) (ofBytes bs))) r.lb 0).xDone 1)) ∧
        (m.bad = [] → m.lane off n = .ok (m.bytes off n) ∧ b.postBank b.who.dom key k off n = b) ∧
        (∀ e, m.lane off n = .error e →
          exec (.lds fn r) s = .next (b.raiseLeave false (.fault causeData) (BitVec.ofNat 64 (a - off + e + 2 ^ 56)) 0) ∧
          exec (.ldsx fn r) s = .next (b.raiseLeave false (.fault causeData) (BitVec.ofNat 64 (a - off + e + 2 ^ 56)) 0))))) ∧
  (∀ (fn : BitVec 6) (r : Xi) (s b : State), s.XReady 1 r.g r.gn [r.a.toNat, (if fn.toNat % 8 = 3 then 64 else 0) + r.d.toNat] b →
    s.core.memReady = true →
    let n := sizeBytes (fn.toNat % 8)
    let sum := (b.getX 0 r.a.toNat).toInt + r.imm.toInt
    (¬ (0 ≤ sum ∧ sum < 2 ^ 32) → exec (.sts fn r) s = .next (b.raiseLeave false (.fault causeViol) (BitVec.ofInt 64 sum) 0)) ∧
    (∀ a : Nat, sum = a → a < 2 ^ 32 →
      (b.storeTarget b.who a n = none → exec (.sts fn r) s = .next (b.raiseLeave false (.fault causeViol) (BitVec.ofNat 64 a) 0)) ∧
      (∀ key k off, b.storeTarget b.who a n = some (key, k, off) →
        let m := ((b.storeAt key).bank k).data
        (n = 8 → a % 8 = 0 →
          exec (.sts fn r) s = .next ((b.setBankData key k (m.setWord off (b.rawX 1 r.d.toNat))).xDone 1)) ∧
        (¬ (n = 8 ∧ a % 8 = 0) →
          let bs := toBytes n (b.getX 1 r.d.toNat).toNat
          let p := b.postMerge b.who.dom m (scrubStore key k) off n
          (∀ q, m.store off bs = .ok q → exec (.sts fn r) s = .next ((p.setBankData key k q).xDone 1)) ∧
          (m.bad = [] → m.store off bs = .ok (m.setBytes off bs) ∧ p = b) ∧
          (∀ e, m.store off bs = .error e →
            exec (.sts fn r) s = .next (b.raiseLeave false (.fault causeData) (BitVec.ofNat 64 (a - off + e + 2 ^ 56)) 0))))))

/-- 08 R199, R200: what the store-space words leave alone whenever they give a next state: all of memory; of the stores, every byte but
those that `sts` stores at its address (where the bank holds words in error, but those of the check words it meets); every register
but the load's destination; of the package, what is not the issuing core, its context's requests, its store, or the record of a corrected
word. -/
def Obligations.StoreSpaceWordsLeaveTheRestAlone : Prop :=
  (∀ (fn : BitVec 6) (r : Xi) (s t : State), s.core.x.wf = true → tableFrom 0 s.core.xbad = true →
    (exec (.lds fn r) s = .next t ∨ exec (.ldsx fn r) s = .next t) →
      RegsKept s t (some r.d.toNat) ∧ t.stores = s.stores ∧ (∀ a, t.mem.byte a = s.mem.byte a) ∧
      t = { s with core := t.core, ctxs := t.ctxs, doms := t.doms, directed := t.directed } ∧ SameButCounts s t) ∧
  (∀ (fn : BitVec 6) (r : Xi) (s t : State), (∀ key k, ((s.storeAt key).bank k).data.wf = true) →
    exec (.sts fn r) s = .next t →
      let b := s.landDue
      let n := sizeBytes (fn.toNat % 8)
      RegsKept s t none ∧ (∀ a, t.mem.byte a = s.mem.byte a) ∧
      t = { s with core := t.core, ctxs := t.ctxs, stores := t.stores, doms := t.doms, directed := t.directed } ∧ SameButCounts s t ∧
      (∀ a key k off, b.xStoreAddr r = some a → b.storeTarget b.who a n = some (key, k, off) →
        (∀ key' k' o, (key', k') ≠ (key, k) → ((t.storeAt key').bank k').data.byte o = ((s.storeAt key').bank k').data.byte o) ∧
        (((s.storeAt key).bank k).data.bad = [] → ∀ o, o < off ∨ off + n ≤ o →
          ((t.storeAt key).bank k).data.byte o = ((s.storeAt key).bank k).data.byte o) ∧
        (∀ o, o / 8 < off / 8 ∨ (off + n + 7) / 8 ≤ o / 8 →
          ((t.storeAt key).bank k).data.byte o = ((s.storeAt key).bank k).data.byte o)) ∧
      ((∀ a, b.xStoreAddr r = some a → b.storeTarget b.who a n = none) → t.stores = s.stores))

/-- 07 R169, 08 R199, R200, 10 R247, 00 R5, R6: a store that a lane has made is what a read of the same bytes then gives, and a word written
whole reads back with its code; in a control block a word takes the bits that may be written and keeps the others. -/
def Obligations.StoredBytesReadBack : Prop :=
  (∀ (s t : State) (w : Who) (a : Nat) (bs : List Byte), (∀ key k, ((s.storeAt key).bank k).data.wf = true) →
    (∀ key k, ((s.storeAt key).bank k).data.bad = []) → (∀ key, (s.storeAt key).banks.length = 16) →
    s.sWrite w a bs = (t, .ok ()) → t.sRead w a bs.length = .ok bs) ∧
  (∀ (s t : State) (w : Who) (a : Nat) (c : CWord), (∀ key k, ((s.storeAt key).bank k).data.wf = true) →
    (∀ key, (s.storeAt key).banks.length = 16) → a % 8 = 0 →
    s.sWriteWords w a [c] = (t, .ok ()) → t.sReadWords w a 1 = .ok [c]) ∧
  (∀ (s t : State) (pa : Nat) (bs : List Byte), s.mem.wf = true → s.mem.bad = [] → s.dirAt pa = none →
    s.meetsBlock pa bs.length = false → s.physStore pa bs = .ok t →
    t.physRead pa bs.length = .ok bs ∧ ∀ a, a < pa ∨ pa + bs.length ≤ a → t.mem.byte a = s.mem.byte a) ∧
  (∀ (s : State) (pa : Nat) (c : CWord), s.mem.wf = true → s.dirAt pa = none → s.meetsBlock pa 8 = false →
    (s.physSetWords pa [c]).physWord pa = c ∧
      ∀ a, a < pa ∨ pa + 8 ≤ a → (s.physSetWords pa [c]).mem.byte a = s.mem.byte a) ∧
  (∀ (s : State) (pa k : Nat) (c : Ctx) (w : CWord) (v : Word), s.mem.wf = true → s.dirAt pa = none → s.cbSlot pa = some (k, c) → pa % 8 = 0 →
    (s.mem.word pa).use = some v →
    let m := cbMask (pa - c.cb)
    let t := s.physSetWords pa [w]
    (t.mem.word pa).v = (v &&& ~~~m) ||| (w.v &&& m) ∧ (pa ≠ c.cb → t.ctxs = s.ctxs) ∧
      ∀ a, a < pa ∨ pa + 8 ≤ a → t.mem.byte a = s.mem.byte a)

/-- 08 R201, 12 R300, R301, R304: a blocking global word that is ready, when the engines' earlier commands have completed, makes its access
at x[A] + x[B] wrapped to 64 bits: what each outcome of the access does. -/
def Obligations.GlobalWordsMakeOneAccess : Prop :=
  (∀ (fn : BitVec 6) (r : Xr) (s b u : State), s.XReady 1 r.g r.gn [r.a.toNat, r.b.toNat, 64 + r.d.toNat] b → s.core.memReady = true →
    let n := sizeBytes (fn.toNat % 8)
    let a := (b.getX 0 r.a.toNat + b.getX 1 r.b.toNat).toNat
    (∀ bs, b.gRead b.who needR a n = (u, .ok bs) →
      exec (.ldg fn r) s = .next ((u.setX r.d.toNat (BitVec.ofNat 64 (ofBytes bs))).xDone 1)) ∧
    (∀ v, b.gRead b.who needR a n = (u, .pages v) → exec (.ldg fn r) s = .next (b.raiseLeave false (.fault causePages) (BitVec.ofNat 64 v) 0)) ∧
    (∀ v, b.gRead b.who needR a n = (u, .viol v) → exec (.ldg fn r) s = .next (b.raiseLeave false (.fault causeViol) (BitVec.ofNat 64 v) 0)) ∧
    (∀ v, b.gRead b.who needR a n = (u, .data v) → exec (.ldg fn r) s = .next (b.raiseLeave false (.fault causeData) (BitVec.ofNat 64 v) 0)) ∧
    (∀ v, b.gRead b.who needR a n = (u, .dev v) → b.devOk v = true →
      exec (.ldg fn r) s = .next ((u.setX r.d.toNat (BitVec.ofNat 64 (ofBytes (u.mgmtRead (devOffset v) n)))).xDone 1)) ∧
    (∀ v, b.gRead b.who needR a n = (u, .dev v) → b.devOk v = false →
      exec (.ldg fn r) s = .next (b.raiseLeave false (.fault causeViol) (BitVec.ofNat 64 a) 0)) ∧
    (∀ v, b.gRead b.who needR a n = (u, .far v) → exec (.ldg fn r) s = .next (({ u with core := { u.core with
      xhold := .access { kind := .load r.d.toNat, va := BitVec.ofNat 64 a, pa := v, size := n } } } : State).xWait))) ∧
  (∀ (fn : BitVec 6) (r : Xr) (s b u : State), s.XReady 1 r.g r.gn [r.a.toNat, r.b.toNat, (if fn.toNat % 8 = 3 then 64 else 0) + r.d.toNat] b →
    s.core.memReady = true →
    let n := sizeBytes (fn.toNat % 8)
    let a := (b.getX 0 r.a.toNat + b.getX 1 r.b.toNat).toNat
    let bs := toBytes n (b.getX 2 r.d.toNat).toNat
    let o := if n = 8 ∧ a % 8 = 0 then b.gWriteWords b.who a [b.rawX 2 r.d.toNat] else b.gWrite b.who a bs
    (o = (u, .ok ()) → exec (.stg fn r) s = .next (u.xDone 1)) ∧
    (∀ v, o = (u, .pages v) → exec (.stg fn r) s = .next (b.raiseLeave false (.fault causePages) (BitVec.ofNat 64 v) 0)) ∧
    (∀ v, o = (u, .viol v) → exec (.stg fn r) s = .next (b.raiseLeave false (.fault causeViol) (BitVec.ofNat 64 v) 0)) ∧
    (∀ v, o = (u, .data v) → exec (.stg fn r) s = .next (b.raiseLeave false (.fault causeData) (BitVec.ofNat 64 v) 0)) ∧
    (∀ v, o = (u, .dev v) → b.devOk v = true → exec (.stg fn r) s = .next ((u.mgmtWrite (devOffset v) bs).xDone 1)) ∧
    (∀ v, o = (u, .dev v) → b.devOk v = false →
      exec (.stg fn r) s = .next (b.raiseLeave false (.fault causeViol) (BitVec.ofNat 64 a) 0)) ∧
    (∀ v, o = (u, .far v) → exec (.stg fn r) s = .next (({ u with core := { u.core with
      xhold := .access { kind := if n = 8 ∧ a % 8 = 0 then .storeWords [u.rawX 2 r.d.toNat] else .store bs, va := BitVec.ofNat 64 a, pa := v, size := n } } } : State).xWait)))

/-- 08 R201, R217-R219, 07 R163: an aligned blocking access or atomic to HBM4E reads or writes exactly the bytes at the translated address, an
atomic both at one instant, and leaves every other byte alone; a misaligned atomic traps with ILL. -/
def Obligations.AlignedGlobalWordsReachMemory : Prop :=
  (∀ (fn : BitVec 6) (r : Xr) (s b u : State) (pa ty : Nat), s.XReady 1 r.g r.gn [r.a.toNat, r.b.toNat, 64 + r.d.toNat] b →
    s.core.memReady = true →
    let n := sizeBytes (fn.toNat % 8)
    let a := (b.getX 0 r.a.toNat + b.getX 1 r.b.toNat).toNat
    a % n = 0 → b.translate b.who needR a = (u, .ok pa ty) → placeOf pa = .hbm → u.dirAt pa = none → u.mem.bad = [] →
    exec (.ldg fn r) s = .next (((u.note pa n).setX r.d.toNat (BitVec.ofNat 64 (ofBytes (s.mem.bytes pa n)))).xDone 1)) ∧
  (∀ (fn : BitVec 6) (r : Xr) (s b u : State) (pa ty : Nat),
    s.XReady 1 r.g r.gn [r.a.toNat, r.b.toNat, (if fn.toNat % 8 = 3 then 64 else 0) + r.d.toNat] b →
    s.core.memReady = true → s.mem.wf = true →
    let n := sizeBytes (fn.toNat % 8)
    let a := (b.getX 0 r.a.toNat + b.getX 1 r.b.toNat).toNat
    a % n = 0 → b.translate b.who needW a = (u, .ok pa ty) → placeOf pa = .hbm → u.dirAt pa = none → u.mem.bad = [] →
    u.meetsBlock pa n = false →
    let bs := toBytes n (b.getX 2 r.d.toNat).toNat
    let m := if n = 8 then s.mem.setWord pa (b.rawX 2 r.d.toNat) else s.mem.setBytes pa bs
    let v := ({ u.clearScrub pa n with mem := m } : State).note pa n
    exec (.stg fn r) s = .next (v.xDone 1) ∧ (n ≠ 8 → v.mem.bytes pa n = bs) ∧ (n = 8 → v.mem.word pa = b.rawX 2 r.d.toNat) ∧
      ∀ o, o < pa ∨ pa + n ≤ o → v.mem.byte o = s.mem.byte o) ∧
  (∀ p ∈ amoForms, ∀ (r : Xr) (s b : State), s.XReady 1 r.g r.gn [r.a.toNat, r.b.toNat, r.c.toNat, 64 + r.d.toNat] b → s.core.memReady = true →
    let w := tyWidth r.t.toNat
    let a := (b.getX 0 r.a.toNat).toNat
    (a % (w / 8) ≠ 0 → exec (p.1 r) s = .next (b.raiseLeave false (.fault causeIll) 0 0)) ∧
    (∀ (u : State) (pa ty : Nat), a % (w / 8) = 0 → b.translate b.who needRW a = (u, .ok pa ty) → placeOf pa = .hbm →
      u.dirAt pa = none → u.mem.bad = [] → u.meetsBlock pa (w / 8) = false → s.mem.wf = true →
      let o := p.2 r.t.toNat (ofBytes (s.mem.bytes pa (w / 8))) ((b.getX 1 r.b.toNat).toNat % 2 ^ w) ((b.getX 2 r.c.toNat).toNat % 2 ^ w)
      let m := match o.1 with
        | none => s.mem
        | some x => s.mem.setBytes pa (toBytes (w / 8) x)
      let v := ({ (if o.1.isSome then u.clearScrub pa (w / 8) else u) with mem := m } : State).note pa (w / 8)
      exec (p.1 r) s = .next (((v.setX r.d.toNat (amoExt r.t.toNat o.2.1)).orFlags false o.2.2).xDone 1) ∧
        ∀ c, c < pa ∨ pa + w / 8 ≤ c → v.mem.byte c = s.mem.byte c) ∧
    (∀ u : State, a % (w / 8) = 0 → b.translate b.who needRW a = (u, .fault) →
      exec (p.1 r) s = .next (b.raiseLeave false (.fault causePages) (BitVec.ofNat 64 a) 0)) ∧
    (∀ (u : State) (v : Nat), a % (w / 8) = 0 → b.translate b.who needRW a = (u, .viol v) →
      exec (p.1 r) s = .next (b.raiseLeave false (.fault causeViol) (BitVec.ofNat 64 v) 0)))

/-- 08 R202, 07 R167: `pop` takes the oldest word of its queue into x[D] with its code, `push` appends x[B]; each holds issue while the queue
is empty or full, and traps with ILL where the core has no such queue. -/
def Obligations.QueueWordsTakeAndAppend : Prop :=
  (∀ (r : Xr) (s b : State), s.XReady 1 r.g r.gn [64 + r.d.toNat] b →
    let q := r.a.toNat % 16
    (b.qHome q = .none → exec (.pop r) s = .next (b.raiseLeave false (.fault causeIll) 0 0)) ∧
    (b.qHome q ≠ .none → b.qOffer q = [] →
      exec (.pop r) s = .next (({ b with core := { b.core with xhold := .queue } } : State).xWait)) ∧
    (∀ w rest, b.qHome q ≠ .none → b.qOffer q = w :: rest →
      exec (.pop r) s = .next (((b.setOwn (b.own.setQ (b.qHome q) q rest)).setRawX r.d.toNat w).xDone 1))) ∧
  (∀ (r : Xr) (s b : State), s.XReady 1 r.g r.gn [64 + r.b.toNat] b →
    let q := r.a.toNat % 16
    let held := b.own.qWords .queue q
    (b.qHome q ≠ .queue → exec (.push r) s = .next (b.raiseLeave false (.fault causeIll) 0 0)) ∧
    (b.qHome q = .queue → 256 ≤ held.length + b.core.reserved q →
      exec (.push r) s = .next (({ b with core := { b.core with xhold := .queue } } : State).xWait)) ∧
    (b.qHome q = .queue → held.length + b.core.reserved q < 256 →
      exec (.push r) s = .next ((b.setOwn (b.own.setQ .queue q (held ++ [b.rawX 0 r.b.toNat]))).xDone 1)))

/-- 05 R108, 06 R151, 07 R167, R179: a memory word, an atomic, a fence and a `bank.mode` hold issue until the core's earlier engine commands have
completed; a fence then only goes on; a `bank.mode` traps as 07 Table 07-5 lists or switches the bank, which keeps its bytes between SCRATCH
and SKEW and otherwise holds undefined contents (log 2). -/
def Obligations.FencesAndModesWaitThenAct : Prop :=
  (∀ (fn : BitVec 6) (r : Xi) (s b : State), s.XReady 1 r.g r.gn [r.a.toNat, 64 + r.d.toNat] b → s.core.memReady = false →
    exec (.lds fn r) s = .next b.xWait ∧ exec (.ldsx fn r) s = .next b.xWait) ∧
  (∀ (fn : BitVec 6) (r : Xi) (s b : State), s.XReady 1 r.g r.gn [r.a.toNat, (if fn.toNat % 8 = 3 then 64 else 0) + r.d.toNat] b →
    s.core.memReady = false → exec (.sts fn r) s = .next b.xWait) ∧
  (∀ (fn : BitVec 6) (r : Xr) (s b : State), s.XReady 1 r.g r.gn [r.a.toNat, r.b.toNat, 64 + r.d.toNat] b → s.core.memReady = false →
    exec (.ldg fn r) s = .next b.xWait) ∧
  (∀ (fn : BitVec 6) (r : Xr) (s b : State), s.XReady 1 r.g r.gn [r.a.toNat, r.b.toNat, (if fn.toNat % 8 = 3 then 64 else 0) + r.d.toNat] b →
    s.core.memReady = false → exec (.stg fn r) s = .next b.xWait) ∧
  (∀ p ∈ amoForms, ∀ (r : Xr) (s b : State), s.XReady 1 r.g r.gn [r.a.toNat, r.b.toNat, r.c.toNat, 64 + r.d.toNat] b → s.core.memReady = false →
    exec (p.1 r) s = .next b.xWait) ∧
  (∀ (r : Xr) (s b : State), s.XReady 1 r.g r.gn [] b →
    exec (.fence r) s = .next (if s.core.memReady then b.xDone 1 else b.xWait)) ∧
  (∀ (r : Xi) (s b : State), s.XReady 1 r.g r.gn [] b →
    let k := (r.imm.extractLsb' 0 4).toNat
    let mode := Machine.bankModeOf (r.imm.extractLsb' 4 2).toNat
    let use := (r.imm.extractLsb' 6 3).toNat
    let shape := (r.imm.extractLsb' 9 8).toNat
    ((s.core.vq ≠ [] ∨ s.core.mq ≠ []) → exec (.bankMode r) s = .next b.xWait) ∧
    (s.core.vq = [] → s.core.mq = [] →
      (∀ c, b.bankTrap k mode use = some c → exec (.bankMode r) s = .next (b.raiseLeave false (.fault c) 0 0)) ∧
      (b.bankTrap k mode use = none → exec (.bankMode r) s = .next ((b.bankSwitch k mode use shape).xDone 1)))) ∧
  (∀ (s : State) (k : Nat) (mode : BankMode) (use shape : Nat), (s.own.banks.length = 16) → k < 16 →
    let o := s.own.bank k
    let t := (s.bankSwitch k mode use shape).own.bank k
    t.mode = mode ∧ t.use = use ∧ t.shape = shape ∧ t.page = o.page ∧
    (o.mode.plain = true → mode.plain = true → t.data = o.data) ∧
    (¬ (o.mode.plain = true ∧ mode.plain = true) → ¬ (o.mode = mode ∧ o.use = use ∧ o.shape = shape) →
      t.data.cells = [] ∧ t.data.fill = some (s.epoch s.ownKey k)) ∧
    ∀ j, j ≠ k → (s.bankSwitch k mode use shape).own.bank j = s.own.bank j)

namespace Sys2Proof.Claims

/-- Scalar registers that a span word needs settled, by opcode and function: the scalar that it reads, or the register that its result
will go to, as 64 + its number (05 R111, R116, R121, R122, R126). -/
def spanUses (op fn sx : Nat) : List Nat :=
  if op = 0x42 ∨ (op = 0x46 ∧ fn = 5) then [sx] else if op = 0x45 ∨ (op = 0x54 ∧ fn = 1) then [64 + sx] else []

/-- The row words, with their function (05 R128). -/
def rowForms : List ((Xs → Instr) × Nat) := [(Instr.rowSm, 0), (Instr.rowNorm, 1), (Instr.rowLse, 2)]

/-- The words that only write tiles' state or the redundant mode, or drain, with the command that they queue (06 R153, R154, R158). -/
def tileForms : List ((Xr → Instr) × MKind) := [(Instr.tset, .tset), (Instr.tclr, .tclr)]

/-- The element-wise span forms on three patterns, by opcode and function, for the integer types (05 R114-R117). -/
def integerElements : List (Nat × Nat × (Nat → Nat → Nat → Nat → Nat)) :=
  [(0x40, 0, fun t a b _ => wrapT t (decInt t a + decInt t b)), (0x40, 1, fun t a b _ => wrapT t (decInt t a - decInt t b)),
    (0x40, 2, fun t a b _ => wrapT t (decInt t a * decInt t b)), (0x40, 4, fun t a b _ => if decInt t a ≤ decInt t b then a else b),
    (0x40, 5, fun t a b _ => if decInt t a ≤ decInt t b then b else a),
    (0x40, 6, fun t a b c => wrapT t (decInt t a * decInt t b + decInt t c)),
    (0x40, 7, fun t a b c => wrapT t (decInt t a * decInt t b - decInt t c)),
    (0x40, 8, fun t a b c => wrapT t (-(decInt t a * decInt t b) + decInt t c)), (0x40, 9, fun _ a b _ => a &&& b),
    (0x40, 10, fun _ a b _ => a ||| b), (0x40, 11, fun _ a b _ => a ^^^ b),
    (0x40, 12, fun t a b _ => a * 2 ^ (b % tyWidth t) % 2 ^ tyWidth t), (0x40, 13, fun t a b _ => a / 2 ^ (b % tyWidth t)),
    (0x40, 15, fun t a b _ => wrapT t (if decInt t a ≤ decInt t b then decInt t b - decInt t a else decInt t a - decInt t b)),
    (0x41, 0, fun _ a _ _ => a), (0x41, 1, fun t a _ _ => wrapT t (-decInt t a)), (0x41, 2, fun t a _ _ => wrapT t ((decInt t a).natAbs : Int)),
    (0x43, 0, fun t a b _ => if decInt t a = decInt t b then 1 else 0), (0x43, 1, fun t a b _ => if decInt t a ≠ decInt t b then 1 else 0),
    (0x43, 2, fun t a b _ => if decInt t a < decInt t b then 1 else 0), (0x43, 3, fun t a b _ => if decInt t a ≤ decInt t b then 1 else 0),
    (0x43, 8, fun _ a b c => if c ≠ 0 then a else b)]

/-- The same for the floating-point types, with their flags (05 R114-R117). -/
def floatElements : List (Nat × Nat × (Nat → Nat → Nat → Nat → Nat → Nat × Flags)) :=
  [(0x40, 0, fun t rm a b _ => fAdd t rm a b), (0x40, 1, fun t rm a b _ => fSub t rm a b), (0x40, 2, fun t rm a b _ => fMul t rm a b),
    (0x40, 3, fun t rm a b _ => fDiv t rm a b), (0x40, 4, fun t _ a b _ => minMax t false a b), (0x40, 5, fun t _ a b _ => minMax t true a b),
    (0x40, 6, fun t rm a b c => fusedV t rm false false (decF t a) (decF t b) (decF t c)),
    (0x40, 7, fun t rm a b c => fusedV t rm false true (decF t a) (decF t b) (decF t c)),
    (0x40, 8, fun t rm a b c => fusedV t rm true false (decF t a) (decF t b) (decF t c)), (0x41, 1, fun t _ a _ _ => (fNeg t a, 0)),
    (0x41, 2, fun t _ a _ _ => (fAbs t a, 0)), (0x43, 2, fun t _ a b _ => (if (cmpFlt (decF t a) (decF t b)).1 then 1 else 0, (cmpFlt (decF t a) (decF t b)).2)),
    (0x43, 3, fun t _ a b _ => (if (cmpFle (decF t a) (decF t b)).1 then 1 else 0, (cmpFle (decF t a) (decF t b)).2))]

end Sys2Proof.Claims

/-- 05 R104, R105: the words that set a field of s[SD] or read one of s[SA], and what a set field then holds: the other fields stay. -/
def Obligations.SpanRegisterWordsSetOneField : Prop :=
  (∀ (r : Xs) (s b : State), s.XReady 1 r.g r.gn [r.sx.toNat] b →
    let v := (b.getX 0 r.sx.toNat).toNat
    exec (.vsetb r) s = .next ((b.putS r.sd.toNat 127 96 v).xDone 1) ∧ exec (.vsets r) s = .next ((b.putS r.sd.toNat 95 64 v).xDone 1) ∧
    exec (.vsetn r) s = .next ((b.putS r.sd.toNat 63 48 (min v 65535)).xDone 1)) ∧
  (∀ (r : Xs) (s b : State), s.XReady 1 r.g r.gn [64] b →
    exec (.vsett r) s = .next ((b.putS r.sd.toNat 47 39 (r.t.toNat * 32 + r.sx.toNat)).xDone 1)) ∧
  (∀ (r : Xs) (s b : State), s.XReady 1 r.g r.gn [64 + r.sx.toNat] b →
    exec (.vgetb r) s = .next ((b.putX r.sx.toNat (BitVec.ofNat 64 (dBase (b.getS 0 r.sa.toNat))) 0 0).xDone 1) ∧
    exec (.vgetn r) s = .next ((b.putX r.sx.toNat (BitVec.ofNat 64 (dCount (b.getS 0 r.sa.toNat))) 0 0).xDone 1)) ∧
  (∀ (s : State) (d v p : Nat), s.core.sp.wf = true →
    let o := s.getS 0 d
    (let n := (s.putS d 127 96 v).getS p d
     dBase n = v % 2 ^ 32 ∧ dStride n = dStride o ∧ dCount n = dCount o ∧ dType n = dType o ∧ dQueue n = dQueue o) ∧
    (let n := (s.putS d 95 64 v).getS p d
     dStride n = (BitVec.ofNat 32 v).toInt ∧ dBase n = dBase o ∧ dCount n = dCount o ∧ dType n = dType o ∧ dQueue n = dQueue o) ∧
    (let n := (s.putS d 63 48 v).getS p d
     dCount n = v % 2 ^ 16 ∧ dBase n = dBase o ∧ dStride n = dStride o ∧ dType n = dType o ∧ dQueue n = dQueue o) ∧
    (let n := (s.putS d 47 39 v).getS p d
     dType n = v / 32 % 16 ∧ dQueue n = v % 32 ∧ dBase n = dBase o ∧ dStride n = dStride o ∧ dCount n = dCount o) ∧
    ∀ i hi lo, i ≠ d → (s.putS d hi lo v).getS p i = s.getS p i)

/-- 05 R108, R109, R123, R128; 10 R267: an engine word that is ready traps with ILL where its checks at issue fail, with BUDGET where a row's
work exceeds the pre-emption budget, holds issue while four commands wait in the queue (R130: one that has started is none of them), and otherwise places its command,
with the snapshots of its operands, behind the others. That `vsum` and `vdot` on I types admit no rounding field is the model's choice (log 51). -/
def Obligations.VectorWordsQueueTheirCommand : Prop :=
  (∀ p ∈ spanForms, ∀ (r : Xs) (s b : State), s.XReady 1 r.g r.gn (spanUses p.2.1 p.2.2 r.sx.toNat) b →
    let v := b.vSnap p.2.1 p.2.2 r
    (b.vectorOk v = false → exec (p.1 r) s = .next (b.raiseLeave false (.fault causeIll) 0 0)) ∧
    (b.vectorOk v = true → 4 ≤ (s.core.vq.filter (fun c => !c.started)).length → exec (p.1 r) s = .next b.xWait) ∧
    (b.vectorOk v = true → (s.core.vq.filter (fun c => !c.started)).length < 4 →
      exec (p.1 r) s = .next (({ b with core := { b.core with vq := s.core.vq ++ [v] } } : State).xDone 1))) ∧
  (∀ p ∈ rowForms, ∀ (r : Xs) (s b : State), s.XReady 1 r.g r.gn [r.sx.toNat] b →
    let v := b.vSnap 0x58 p.2 r
    (b.rowOk v = false → exec (p.1 r) s = .next (b.raiseLeave false (.fault causeIll) 0 0)) ∧
    (b.rowOk v = true → b.overBudget (rowWork v) = true → exec (p.1 r) s = .next (b.raiseLeave false (.fault causeBudget) 0 0)) ∧
    (b.rowOk v = true → b.overBudget (rowWork v) = false → 4 ≤ (s.core.vq.filter (fun c => !c.started)).length → exec (p.1 r) s = .next b.xWait) ∧
    (b.rowOk v = true → b.overBudget (rowWork v) = false → (s.core.vq.filter (fun c => !c.started)).length < 4 →
      exec (p.1 r) s = .next (({ b with core := { b.core with vq := s.core.vq ++ [v] } } : State).xDone 1))) ∧
  (∀ (r : Xc) (s b : State),
    s.XReady (1 + r.links.length) r.g r.gn ((r.links.filter (fun k => linkClass k == 2)).map (fun k => k.sx.toNat)) b →
    let h : VCmd := b.vSnap 0x50 0 { g := r.g, gn := r.gn, rm := 0, t := r.t, sx := 0, sb := r.sb, sa := r.sa, sd := r.sd }
    let spans := r.links.zipIdx.map (fun k => b.getS (4 + k.2) k.1.so.toNat)
    let v : VCmd := { h with links := r.links, linkSpans := spans, linkScalars := r.links.zipIdx.map (fun k => b.getX (4 + k.2) k.1.sx.toNat) }
    (b.vectorOk v = false → exec (.vchain r) s = .next (b.raiseLeave false (.fault causeIll) 0 0)) ∧
    (b.vectorOk v = true → 4 ≤ (s.core.vq.filter (fun c => !c.started)).length → exec (.vchain r) s = .next b.xWait) ∧
    (b.vectorOk v = true → (s.core.vq.filter (fun c => !c.started)).length < 4 →
      exec (.vchain r) s = .next (({ b with core := { b.core with vq := s.core.vq ++ [v] } } : State).xDone (1 + r.links.length))))

/-- 05 R114-R117: the element that an element-wise command computes from its sources' elements, for the integer and the floating-point
types, and the flags that it raises. -/
def Obligations.ElementsAreComputedByTheirForm : Prop :=
  (∀ p ∈ integerElements, ∀ (v : VCmd) (a b c : Nat), v.op = p.1 → v.fn = p.2.1 → tyFloat v.r.t.toNat = false →
    v.element [a, b, c] = (p.2.2 v.r.t.toNat a b c, 0)) ∧
  (∀ p ∈ floatElements, ∀ (v : VCmd) (a b c : Nat), v.op = p.1 → v.fn = p.2.1 → tyFloat v.r.t.toNat = true →
    v.element [a, b, c] = p.2.2 v.r.t.toNat v.r.rm.toNat a b c) ∧
  (∀ (v : VCmd) (a b : Nat), v.op = 0x42 → tyFloat v.r.t.toNat = false →
    let t := v.r.t.toNat
    let c := v.scalar.toNat % 2 ^ tyWidth t
    (v.fn = 0 → v.element [a, b] = (wrapT t (decInt t a + decInt t c), 0)) ∧ (v.fn = 1 → v.element [a, b] = (wrapT t (decInt t a - decInt t c), 0)) ∧
    (v.fn = 2 → v.element [a, b] = (wrapT t (decInt t a * decInt t c), 0)) ∧
    (v.fn = 5 → v.element [a, b] = (wrapT t (decInt t a * decInt t c + decInt t b), 0)) ∧ (v.fn = 6 → v.element [a, b] = (c, 0)))

namespace Sys2Proof.Claims

/-- Whether a command's attempts take no elements of a window: a row, or a drain of the deferral queue. -/
def byItself (v : VCmd) : Prop := v.op = 0x58 ∨ (v.op = 0x54 ∧ v.fn = 1)

/-- The engine with the queue words of a command's window popped: the state, the command, and how many elements an attempt takes. -/
def Gathered (s : State) (v : VCmd) (t : State) (w : VCmd) (m : Nat) : Prop :=
  (byItself v → w = v ∧ m = 0 ∧ t = s.setVHead { v with started := true }) ∧
  (¬ byItself v → w = (s.gather { v with started := true }).2 ∧ m = w.ready ∧
    t = (s.gather { v with started := true }).1.setVHead { w with started := true })

/-- The window is whole, or a leave ends it with the elements that it has (05 R131). -/
def WindowRuns (s : State) (w : VCmd) (m : Nat) : Prop := byItself w ∨ m = w.want ∨ (s.leaving = true ∧ m ≠ 0)

/-- The command at the head frozen, its leave request raised, and the events of other words recorded as transient. -/
def frozenWith (s : State) (w : VCmd) (l : List (Nat × BitVec 8)) (cause x : Nat) (z : BitVec 8) : State :=
  let t := ((s.setVHead { w with started := true, frozen := true }).transients l).engineAsk w.word w.addr cause x z
  { t with core := { t.core with strike := [], vdog := false } }

/-- What an attempt of a window of `m` elements comes to; `l` are the words that have failed in this window. -/
def WindowEnds (s : State) (v : VCmd) (m : Nat) (l : List (Nat × BitVec 8)) (run : Out) : Prop :=
  (∀ t w, s.vectorAttempt v m = .ok (t, w) →
    let u := (t.setVHead { w with started := true }).transients l
    run = .next { u with core := { u.core with strike := [], vdog := false } }) ∧
  (∀ x t y, s.vectorAttempt v m = .viol x → s.granuleRemains v m (.viol x) = (t, .viol y) →
    run = .next (frozenWith t v (l.filter (fun e => decide (e.1 ≠ y))) causeViol y 0)) ∧
  (∀ x z, s.vectorAttempt v m = .data x z → (∀ y ∈ l, y.1 ≠ x) → l.length < 3 →
    let u := s.setVHead { v with started := true }
    run = .next { u with core := { u.core with strike := (x, z) :: l } }) ∧
  (∀ x z, s.vectorAttempt v m = .data x z → (∃ y ∈ l, y.1 = x) ∨ 3 ≤ l.length →
    run = .next (frozenWith s v (l.filter (fun y => decide (y.1 ≠ x))) causeData x z))

end Sys2Proof.Claims

/-- 05 R108, R111, R112, R131; 03 R71; 13 R335-R337: the vector engine's steps. It takes up the command at the head when it may: it pushes what it
holds for a full queue, pops the queue words of the window, and attempts the window once it is whole, or as far as it goes when a leave
ends it. A violation freezes the command, with what it leaves of its granule, and is asked of the scheduler; a containment event waits
for the replay, and lasts when its word failed before or three others have; a command that has done all its work leaves the queue, its
flags reach FPFLAGS and its scalar result its register. Which elements before a faulting one are written is free (log 52). -/
def Obligations.VectorEngineRunsTheHead : Prop :=
  (∀ s : State, s.core.vq = [] → exec .vectorCommandStart s = .next s ∧ exec .vectorCommandComplete s = .next s) ∧
  (∀ (s : State) (v : VCmd) (rest : List VCmd), s.core.vq = v :: rest → s.core.vectorMay v = true → s.core.strike = [] →
    s.leaving = false ∨ s.core.windowEnds = true →
    (v.finished = true → exec .vectorCommandStart s = .next (s.setVHead { v with started := true })) ∧
    (v.finished = false → v.held ≠ [] →
      exec .vectorCommandStart s = .next ((s.pushHeld v).1.setVHead { (s.pushHeld v).2 with started := true })) ∧
    (∀ t w m, v.finished = false → v.held = [] → Gathered s v t w m →
      (¬ WindowRuns t w m → exec .vectorCommandStart s = .next t) ∧
      (WindowRuns t w m → WindowEnds t w m [] (exec .vectorCommandStart s)))) ∧
  (∀ (s : State) (v : VCmd) (rest : List VCmd), s.core.vq = v :: rest →
    s.core.vectorMay v = false ∨ (s.leaving = true ∧ s.core.windowEnds = false) → exec .vectorCommandStart s = .next s) ∧
  (∀ (s : State) (v : VCmd) (rest : List VCmd) (e : LaneEngine), s.core.vq = v :: rest → e ≠ .matrix →
    (s.core.vectorMay v = false ∨ s.core.strike = [] ∨ s.leaving = true ∨ ¬ (e = .row ↔ v.op = 0x58) → exec (.windowReplay e) s = .next s) ∧
    (∀ t w m, s.core.vectorMay v = true → s.core.strike ≠ [] → s.leaving = false → (e = .row ↔ v.op = 0x58) → v.finished = false → v.held = [] →
      Gathered s v t w m → WindowRuns t w m → WindowEnds t w m s.core.strike (exec (.windowReplay e) s))) ∧
  (∀ (s : State) (v : VCmd) (rest : List VCmd), s.core.vq = v :: rest → v.started = true → v.frozen = false → v.finished = true →
    let t : State := { s with core := { s.core with vq := rest, xflags := s.core.xflags ||| v.flags } }
    (v.pends = none → exec .vectorCommandComplete s = .next t) ∧
    (∀ d x, v.pends = some d → v.result = some x → exec .vectorCommandComplete s = .next (t.setX d x))) ∧
  (∀ (s : State) (v : VCmd) (rest : List VCmd), s.core.vq = v :: rest → (v.started = false ∨ v.frozen = true ∨ v.finished = false) →
    exec .vectorCommandComplete s = .next s)

/-- 06 R142, R143, R149-R154, R156, R158: the matrix words that are ready. `mm.nest` writes one field of a level of the shadow table, `mm.swap`
exchanges the tables; a command that breaks the checks traps with ILL or BUDGET, waits while four are queued, and otherwise takes its
place in the queue with its snapshots. What a memory-reading command keeps of memory is the model's own (log 54). -/
def Obligations.MatrixWordsSetTheNestOrQueue : Prop :=
  (∀ (r : Xm) (s b : State), s.XReady 1 r.g r.gn [] b →
    let l := (s.core.shadow.getD r.l.toNat NestLevel.reset).put r.fld.toNat r.v
    exec (.mmNest r) s = .next (({ b with core := { b.core with shadow := setAt s.core.shadow r.l.toNat l } } : State).xDone 1)) ∧
  (∀ (r : Xr) (s b : State), s.XReady 1 r.g r.gn [] b →
    exec (.mmSwap r) s = .next (({ b with core := { b.core with shadow := s.core.active, active := s.core.shadow } } : State).xDone 1)) ∧
  (∀ p ∈ [(Instr.mmGo, MKind.go), (Instr.mmZero, MKind.zero)], ∀ (r : Xr) (s b : State), s.XReady 1 r.g r.gn s.mUses b →
    let m := b.mSnap p.2 r 0
    let red := s.core.redundantAt
    let kept := if m.readsMem then some (b.mem, b.stores) else none
    (m.ok red = false → exec (p.1 r) s = .next (b.raiseLeave false (.fault causeIll) 0 0)) ∧
    (m.ok red = true → b.overBudget (m.work red) = true → exec (p.1 r) s = .next (b.raiseLeave false (.fault causeBudget) 0 0)) ∧
    (m.ok red = true → b.overBudget (m.work red) = false → 4 ≤ s.core.mq.length → exec (p.1 r) s = .next b.xWait) ∧
    (m.ok red = true → b.overBudget (m.work red) = false → s.core.mq.length < 4 →
      exec (p.1 r) s = .next (({ b with core := { b.core with mq := s.core.mq ++ [{ m with seen := kept }] } } : State).xDone 1))) ∧
  (∀ (r : Xr) (s b : State), s.XReady 1 r.g r.gn (if r.m.getLsbD 0 then [64 + r.b.toNat] else []) b →
    exec (.mmDrain r) s = .next (if 4 ≤ s.core.mq.length then b.xWait
      else ({ b with core := { b.core with mq := s.core.mq ++ [b.mSnap .drain r 0] } } : State).xDone 1)) ∧
  (∀ (r : Xi) (s b : State), s.XReady 1 r.g r.gn [] b →
    exec (.mmCfg r) s = .next (if 4 ≤ s.core.mq.length then b.xWait
      else ({ b with core := { b.core with mq := s.core.mq ++ [b.mSnap .cfg default (r.imm.toNat % 2)] } } : State).xDone 1)) ∧
  (∀ p ∈ tileForms, ∀ (r : Xr) (s b : State), s.XReady 1 r.g r.gn [] b →
    exec (p.1 r) s = .next (if 4 ≤ s.core.mq.length then b.xWait
      else ({ b with core := { b.core with mq := s.core.mq ++ [b.mSnap p.2 r (r.d.toNat % 16)] } } : State).xDone 1))

/-- 06 R151-R154, R157-R160; 03 R71; 13 R336: the matrix engine's steps. `mm.cfg`, `tset` and `tclr` take effect when they come to the head; a drain waits for its
tile to be empty; a granule runs its steps, and its end releases tiles and keeps the results; what redundant mode
finds unresolved is computed again, with the core withdrawn; a command that has done all its steps leaves the queue, its flags reach FPFLAGS and a drain's amax its register. -/
def Obligations.MatrixEngineRunsTheHead : Prop :=
  (∀ s : State, s.core.mq = [] → exec .matrixCommandStart s = .next s ∧ exec .matrixCommandComplete s = .next s ∧
    ∀ w, exec (.matrixGranuleEnd w) s = .next s) ∧
  (∀ (s : State) (m : MCmd) (rest : List MCmd), s.core.mq = m :: rest → s.core.matrixMay m = true → s.core.mstrike = [] → s.leaving = false →
    let h : MCmd := { m with started := true, cursor := 1 }
    (m.kind = .cfg → exec .matrixCommandStart s = .next { s with core := { s.core with mq := h :: rest, redundant := decide (m.arg = 1) } }) ∧
    (m.kind = .tset → exec .matrixCommandStart s = .next { s with core := { s.core with mq := h :: rest, tfull := tset s.core.tfull m.arg .full } }) ∧
    (m.kind = .tclr → exec .matrixCommandStart s = .next { s with core := { s.core with mq := h :: rest, tfull := tdel s.core.tfull m.arg } }) ∧
    (m.kind = .drain → (tget s.core.tfull (m.r.d.toNat % 16)).isSome = true →
      exec .matrixCommandStart s = .next { s with core := { s.core with mq := { m with started := true } :: rest } }) ∧
    (m.kind = .drain → tget s.core.tfull (m.r.d.toNat % 16) = none → s.drainBad m = none →
      exec .matrixCommandStart s = .next ((s.drainRun { m with started := true }).1.setMHead (s.drainRun { m with started := true }).2)) ∧
    (∀ t w, (m.kind = .go ∨ m.kind = .zero) → s.granuleAttempt m = .ok (t, w) → t.core.mstrike = [] →
      let u := t.setMHead { w with started := true }
      exec .matrixCommandStart s = .next { u with core := { u.core with mdog := false } }) ∧
    ((m.kind = .go ∨ m.kind = .zero) → s.granuleAttempt m = .wait → exec .matrixCommandStart s = .next s)) ∧
  (∀ (s : State) (m : MCmd) (rest : List MCmd), s.core.mq = m :: rest →
    s.core.matrixMay m = false ∨ s.core.mstrike ≠ [] ∨ s.leaving = true → exec .matrixCommandStart s = .next s) ∧
  (∀ (s : State) (m : MCmd) (rest : List MCmd) (w : Twin), s.core.mq = m :: rest → s.core.granuleEnds s.leaving = true →
    let g : MCmd := { m with release := [], check := none, fetched := [], flags := m.flags ||| m.granFlags, granFlags := 0 }
    let t : State := { s with core := { s.core with
      tfull := s.core.tfull.filter (fun t => !m.release.contains t.1), lastGran := some { m with fetched := [] }, mq := g :: rest } }
    (s.core.redundant = false ∨ w = .agree → exec (.matrixGranuleEnd w) s = .next t) ∧
    (s.core.redundant = true → exec (.matrixGranuleEnd .transient) s =
      .next (t.domRecord s.domHere 0 (s.handleOf (s.core.ctx.getD 0)) s.here 0 8 5)) ∧
    (∀ q d, s.core.redundant = true → m.check = some (q, d) → ∃ u h, exec (.matrixGranuleEnd .unresolved) s = .next u ∧ u.core.adata = d ∧
      u.core.tfull = s.core.tfull ∧ u.core.mq = h :: rest ∧ h.frozen = true ∧ h.cursor = m.granStart ∧ h.touched = q ∧ h.granFlags = 0 ∧
      s.here ∈ u.withdrawn ∧ u.mem = s.mem)) ∧
  (∀ (s : State) (m : MCmd) (rest : List MCmd) (w : Twin), s.core.mq = m :: rest → s.core.granuleEnds s.leaving = false →
    exec (.matrixGranuleEnd w) s = .next s) ∧
  (∀ (s : State) (m : MCmd) (rest : List MCmd), s.core.mq = m :: rest → m.started = true → m.frozen = false → m.cursor = m.total →
    m.check = none →
    let t : State := { s with core := { s.core with mq := rest, xflags := s.core.xflags ||| m.flags } }
    (m.pends = none → exec .matrixCommandComplete s = .next t) ∧
    (∀ d v, m.pends = some d → m.amax = some v → exec .matrixCommandComplete s = .next (t.setX d v)))

namespace Sys2Proof.Claims

/-- What an engine's word may change: its core and its context's leave requests; on the core, what `keep` lets change, the windows
with FPFLAGS, and the stream's place. -/
structure IssueFrame (s t : State) (keep : Core → Core → Core) : Prop where
  rest : t = { s with core := t.core, ctxs := t.ctxs, doms := t.doms }
  counts : SameButCounts s t
  core : t.core =
    { keep s.core t.core with
      xflags := s.landDue.core.xflags, wins := s.landDue.core.wins, xpc := t.core.xpc, xdoubt := t.core.xdoubt, xcycle := t.core.xcycle, rstack := t.core.rstack,
      spilled := t.core.spilled, xhold := t.core.xhold }
  memory : ∀ a, t.mem.byte a = s.mem.byte a

end Sys2Proof.Claims

/-- 05 R104, R108, R128; 06 R142, R143, R151: what the engines' words leave alone whenever they give a next state: memory, stores, every
register and every other core; a word that issues a command only adds it to its engine's queue, a `vset` word only writes its span
register. -/
def Obligations.EngineWordsLeaveTheRestAlone : Prop :=
  (∀ c ∈ List.append (spanForms.map (fun p => p.1)) (rowForms.map (fun p => p.1)), ∀ (r : Xs) (s t : State), exec (c r) s = .next t →
    IssueFrame s t (fun c d => { c with vq := d.vq }) ∧ (t.core.vq = s.core.vq ∨ ∃ v, t.core.vq = s.core.vq ++ [v])) ∧
  (∀ (r : Xc) (s t : State), exec (.vchain r) s = .next t →
    IssueFrame s t (fun c d => { c with vq := d.vq }) ∧ (t.core.vq = s.core.vq ∨ ∃ v, t.core.vq = s.core.vq ++ [v])) ∧
  (∀ c ∈ [Instr.vsetb, Instr.vsets, Instr.vsetn, Instr.vsett], ∀ (r : Xs) (s t : State), s.core.sp.wf = true → exec (c r) s = .next t →
    IssueFrame s t (fun c d => { c with sp := d.sp }) ∧ t.core.sp.undef = s.core.sp.undef ∧
      ∀ i, i ≠ r.sd.toNat → tget t.core.sp.cells i = tget s.core.sp.cells i) ∧
  (∀ c ∈ [Instr.mmGo, Instr.mmZero, Instr.mmDrain, Instr.tset, Instr.tclr], ∀ (r : Xr) (s t : State), exec (c r) s = .next t →
    IssueFrame s t (fun c d => { c with mq := d.mq }) ∧ (t.core.mq = s.core.mq ∨ ∃ m, t.core.mq = s.core.mq ++ [m])) ∧
  (∀ (r : Xi) (s t : State), exec (.mmCfg r) s = .next t →
    IssueFrame s t (fun c d => { c with mq := d.mq }) ∧ (t.core.mq = s.core.mq ∨ ∃ m, t.core.mq = s.core.mq ++ [m])) ∧
  (∀ (r : Xr) (s t : State), exec (.mmSwap r) s = .next t → IssueFrame s t (fun c d => { c with shadow := d.shadow, active := d.active })) ∧
  (∀ (r : Xm) (s t : State), exec (.mmNest r) s = .next t → IssueFrame s t (fun c d => { c with shadow := d.shadow }))

namespace Sys2Proof.Claims

/-- What a synchronising word may change: the core in focus and the contexts; on the core, x[D], the windows with FPFLAGS, the clocks,
the stream's place and why it waits. -/
structure SyncFrame (s t : State) (d : Option Nat) : Prop where
  rest : t = { s with core := t.core, ctxs := t.ctxs, doms := t.doms }
  counts : SameButCounts s t
  core : t.core =
    { s.core with
      x := t.core.x, xbad := t.core.xbad, xflags := s.landDue.core.xflags, wins := t.core.wins, xpc := t.core.xpc, xdoubt := t.core.xdoubt, xcycle := t.core.xcycle,
      rstack := t.core.rstack, spilled := t.core.spilled, xhold := t.core.xhold, xclk := t.core.xclk, syncing := t.core.syncing }
  others : ∀ i, some i ≠ d → tget t.core.x.cells i = tget s.core.x.cells i ∧ tget t.core.xbad i = tget s.core.xbad i
  undef : t.core.x.undef = s.core.x.undef
  memory : ∀ a, t.mem.byte a = s.mem.byte a

end Sys2Proof.Claims

/-- 10 R275, R276; 01 R25; 07 R178: the barrier words that are ready. `bar.init` traps with ILL on a descriptor that breaks the rules or over another
barrier's arrivals, does nothing where the descriptor stands on every member, and otherwise installs it with nothing arrived;
`bar.arr` counts an arrival, or waits while its last one is in an incomplete phase; `bar.wait` waits for that phase; `bar.sync` arrives, once,
and waits. An arrival waits until the stream's earlier commands that access memory are complete. -/
def Obligations.BarrierWordsCountArrivals : Prop :=
  (∀ (r : Xk) (s b : State) (slot : Nat) (c : Ctx), s.XReady 1 r.g r.gn [r.d.toNat] b → s.here? = some (slot, c) →
    let k := r.imm.toNat % 512
    let d := b.getX 0 r.d.toNat
    let g := bits d.toNat 17 0
    let bad := 2 ^ 31 ≤ d.toNat ∨ subRect g s.partition = false ∨ inRect g s.core.pos = false ∨ bits d.toNat 30 18 = 0 ∨ rectSize g < bits d.toNat 30 18
    (bad → exec (.barInit r) s = .next (b.raiseLeave false (.fault causeIll) 0 0)) ∧
    (¬ bad → (∀ p ∈ rectCores g, c.barDesc k p = some d) → exec (.barInit r) s = .next (b.xDone 1)) ∧
    (¬ bad → (∃ p ∈ rectCores g, c.barDesc k p ≠ some d) →
      ((∃ p ∈ rectCores g, ∃ e, c.barDesc k p = some e ∧ e ≠ d ∧ (c.bar k e).arrived ≠ 0) →
        exec (.barInit r) s = .next (b.raiseLeave false (.fault causeIll) 0 0)) ∧
      (¬ (∃ p ∈ rectCores g, ∃ e, c.barDesc k p = some e ∧ e ≠ d ∧ (c.bar k e).arrived ≠ 0) →
        exec (.barInit r) s = .next ((b.setCtx slot (c.install k d)).xDone 1)))) ∧
  (∀ (r : Xk) (s b : State) (slot : Nat) (c : Ctx), s.XReady 1 r.g r.gn [] b → s.here? = some (slot, c) →
    let k := r.imm.toNat % 512
    let pos := s.core.pos
    (c.barDesc k pos = none →
      exec (.barArr r) s = .next (b.raiseLeave false (.fault causeIll) 0 0) ∧
      exec (.barSync r) s = .next (b.raiseLeave false (.fault causeIll) 0 0) ∧ exec (.barWait r) s = .next (b.xDone 1)) ∧
    (∀ d, c.barDesc k pos = some d →
      let q := c.bar k d
      let q' := q.arrive (bits d.toNat 30 18) pos
      let t := b.setCtx slot { c with bars := tset c.bars (barKey k d) q' }
      (q.waits pos = true → exec (.barArr r) s = .next b.xWait ∧ exec (.barWait r) s = .next b.xWait ∧ exec (.barSync r) s = .next b.xWait) ∧
      (q.waits pos = false → exec (.barArr r) s = .next (if s.core.memReady then t.xDone 1 else b.xWait) ∧
        exec (.barWait r) s = .next (b.xDone 1) ∧
        (s.core.syncing = some k → exec (.barSync r) s = .next (({ b with core := { b.core with syncing := none } } : State).xDone 1)) ∧
        (s.core.syncing ≠ some k → s.core.memReady = false → exec (.barSync r) s = .next b.xWait) ∧
        (s.core.syncing ≠ some k → s.core.memReady = true → q'.waits pos = true →
          exec (.barSync r) s = .next (({ t with core := { t.core with syncing := some k } } : State).xWait)) ∧
        (s.core.syncing ≠ some k → s.core.memReady = true → q'.waits pos = false →
          exec (.barSync r) s = .next (({ t with core := { t.core with syncing := none } } : State).xDone 1)))))

/-- 10 R276: the last of COUNT arrivals of a phase completes it, and only then do its members stop waiting: an arrival before the last leaves
its member waiting, and the last one leaves nobody who arrived in that phase waiting. -/
def Obligations.LastArrivalCompletesThePhase : Prop :=
  ∀ (q : Barrier) (n pos : Nat), (∀ p ph, tget q.last p = some ph → ph ≤ q.phase) →
    (q.arrived + 1 ≠ n → (q.arrive n pos).waits pos = true ∧ (q.arrive n pos).phase = q.phase ∧ (q.arrive n pos).arrived = q.arrived + 1 ∧
      ∀ p, p ≠ pos → (q.arrive n pos).waits p = q.waits p) ∧
    (q.arrived + 1 = n → (q.arrive n pos).arrived = 0 ∧ (q.arrive n pos).phase = q.phase + 1 ∧ ∀ p, (q.arrive n pos).waits p = false) ∧
    ∀ p ph, tget (q.arrive n pos).last p = some ph → ph ≤ (q.arrive n pos).phase

/-- 10 R248, R259-R261: the event words that are ready. `ev.set` and `ev.clr` of a stale handle or of no peer trap with VIOL; otherwise they set, after every
earlier access, or clear the bit; `ev.wait` that is satisfied consumes the hardware bits it observed and goes on, one that is not
raises a leave request, and an empty mask with `any` traps with ILL. -/
def Obligations.EventWordsSetClearAndWait : Prop :=
  (∀ (r : Xi) (s b : State), s.XReady 1 r.g r.gn [r.a.toNat] b →
    let n := r.imm.toNat % 256
    (b.eventTarget r.a.toNat = none →
      exec (.evSet r) s = .next (b.raiseLeave false (.fault causeViol) 0 0) ∧ exec (.evClr r) s = .next (b.raiseLeave false (.fault causeViol) 0 0)) ∧
    (∀ y, b.eventTarget r.a.toNat = some y →
      exec (.evSet r) s = .next (if s.core.memReady then (b.setEvent y n).xDone 1 else b.xWait)) ∧
    (∀ y c, b.eventTarget r.a.toNat = some y → tget s.ctxs y = some c →
      exec (.evClr r) s = .next ((b.setCtx y { c with events := c.events &&& ~~~(BitVec.twoPow 256 n) }).xDone 1))) ∧
  (∀ (r : Xi) (s b : State) (k : Nat) (c : Ctx), s.XReady 1 r.g r.gn [r.a.toNat, r.d.toNat] b → s.here? = some (k, c) →
    let w := (r.imm.extractLsb' 0 2).toNat
    let any := r.imm.getLsbD 2
    let mask := b.getX 0 r.a.toNat
    let word := eventWord c.events w
    let sat := if any then word &&& mask ≠ 0 else word &&& mask = mask
    (any = true → mask = 0 → exec (.evWait r) s = .next (b.raiseLeave false (.fault causeIll) 0 0)) ∧
    (¬ (any = true ∧ mask = 0) → sat → exec (.evWait r) s = .next ((b.setCtx k { c with events := consume c.events w mask }).xDone 1)) ∧
    (¬ (any = true ∧ mask = 0) → ¬ sat →
      exec (.evWait r) s = .next (b.raiseLeave false (.wait w any mask (b.getX 1 r.d.toNat).toNat) 0 0))) ∧
  (∀ (s : State) (k a : Nat) (c : Ctx), s.here? = some (k, c) →
    s.eventTarget 0 = some k ∧ (a ≠ 0 → 2 ^ 32 ≤ (s.getX 0 a).toNat → s.eventTarget a = none) ∧
    (a ≠ 0 → s.slotOf (s.getX 0 a).toNat = none → s.eventTarget a = none) ∧
    (a ≠ 0 → ∀ y v, (s.getX 0 a).toNat < 2 ^ 32 → s.slotOf (s.getX 0 a).toNat = some y → tget s.ctxs y = some v →
      (s.eventTarget a = some y ↔ y = k ∨ (v.tdom = c.tdom ∧ (c.super = true ∨ v.asid = c.asid)))))

/-- 10 R255-R257, R269, R270, R279; 02 R44: the words that end, hand over, launch, trap or tell who and when. -/
def Obligations.ProgressWordsAct : Prop :=
  (∀ (r : Xr) (s b : State), s.XReady 1 r.g r.gn [] b → exec (.ctxYield r) s = .next (b.raiseLeave false .yield 0 0)) ∧
  (∀ (r : Xk) (s b : State), s.XReady 1 r.g r.gn [] b → exec (.trap r) s = .next (b.raiseLeave false (.fault causeTrap) 0 r.imm)) ∧
  (∀ (r : Xr) (s b : State) (k : Nat) (c : Ctx), s.XReady 1 r.g r.gn [r.a.toNat, 64 + r.d.toNat] b → s.here? = some (k, c) →
    let h := (b.getX 0 r.a.toNat).toNat
    let status (n : Nat) : Out := .next ((b.setX r.d.toNat (BitVec.ofNat 64 n)).xDone 1)
    ((2 ^ 32 ≤ h ∨ b.slotOf h = none) → exec (.ctxXfer r) s = status 1) ∧
    (∀ y v, h < 2 ^ 32 → b.slotOf h = some y → tget s.ctxs y = some v →
      let peer := y = k ∨ (v.tdom = c.tdom ∧ (c.super = true ∨ v.asid = c.asid))
      (¬ peer → exec (.ctxXfer r) s = status 3) ∧
      (peer → v.nextLaunch = none → exec (.ctxXfer r) s = status 2) ∧
      (∀ pa q, peer → v.nextLaunch = some (pa, q) →
        (¬ (v.state = .ready ∧ bits q.rect.toNat 17 12 = bits s.partition 17 12) → exec (.ctxXfer r) s = status 2) ∧
        ((v.state = .ready ∧ bits q.rect.toNat 17 12 = bits s.partition 17 12) →
          exec (.ctxXfer r) s = .next (b.raiseLeave false (.xfer y r.d.toNat) (b.getX 0 r.a.toNat) 0))))) ∧
  (∀ (r : Xr) (s b : State) (k : Nat) (c : Ctx), s.XReady 1 r.g r.gn [r.a.toNat, 64 + r.d.toNat] b → s.here? = some (k, c) →
    let o := b.armRecord (.launch k) (.virt c.tdom c.asid) (b.getX 0 r.a.toNat).toNat
    ((s.core.memReady = false ∨ s.quiesced = true) → exec (.launch r) s = .next b.xWait) ∧
    (s.core.memReady = true → s.quiesced = false →
      (∀ t n, o = (t, .ok n) → exec (.launch r) s = .next ((t.setX r.d.toNat (BitVec.ofNat 64 n)).xDone 1)) ∧
      (∀ t v, o = (t, .pages v) → exec (.launch r) s = .next (b.raiseLeave false (.fault causePages) (BitVec.ofNat 64 v) 0)) ∧
      (∀ t v, o = (t, .viol v) → exec (.launch r) s = .next (b.raiseLeave false (.fault causeViol) (BitVec.ofNat 64 v) 0)) ∧
      (∀ t v, o = (t, .data v) → exec (.launch r) s = .next (b.raiseLeave false (.fault causeData) (BitVec.ofNat 64 v) 0)) ∧
      (∀ t v, o = (t, .far v) → exec (.launch r) s = .next b.xWait))) ∧
  (∀ (r : Xr) (s b : State), s.XReady 1 r.g r.gn [] b → s.core.xexited = false →
    (s.core.vq = [] → s.core.mq = [] →
      exec (.exit r) s =
        .next ((({ b with core := { b.core.landAll with xexited := true } } : State).xDone 1).checkEnd (s.core.ctx.getD 0))) ∧
    ((s.core.vq ≠ [] ∨ s.core.mq ≠ []) → exec (.exit r) s = .next b.xWait)) ∧
  (∀ (r : Xr) (s b : State), s.XReady 1 r.g r.gn [64 + r.d.toNat] b →
    let pos := s.core.pos
    let v := if r.m = 0 then pos % 64 else if r.m = 1 then pos / 64
      else if r.m = 2 then s.handleOf (s.core.ctx.getD 0)
      else if r.m = 3 then s.partition else dieOf pos
    exec (.id r) s = .next ((b.putX r.d.toNat (BitVec.ofNat 64 v) 0 0).xDone 1) ∧
    exec (.time r) s = .next ((b.putX r.d.toNat (BitVec.ofNat 64 (if r.m = 0 then s.ptp else s.cycle)) 3 0).xDone 1))

/-- 08 R206, R212, R224; 04 R79, 03 R71; 12 R305: pauses and their end at the cycle they name, tag waits, and the landing of a result. A tag wait writes the error bits of its tags
once all are done; until then it waits, or leaves with PAGES where a command awaits a promotion. -/
def Obligations.PausesAndTagWaitsHoldTheStream : Prop :=
  (∀ (r : Xk) (s b : State), s.XReady 1 r.g r.gn [] b →
    let n := r.imm.toNat
    let c : Core := { b.core with xclk := s.core.xclk.map (fun t => t + n), xhold := .paused (s.cycle + n), xcycle := s.core.xcycle + n }
    exec (.pause r) s = .next (({ b with core := c } : State).xDone 1)) ∧
  (∀ (s : State) (n : Nat), s.core.xhold = .paused n → n ≤ s.cycle →
    exec (.pauseExpiry false) s = .next { s with core := { s.core with xhold := .none } }) ∧
  (∀ (s : State) (n : Nat), s.core.ahold = .paused n → n ≤ s.cycle →
    exec (.pauseExpiry true) s = .next { s with core := { s.core with ahold := .none } }) ∧
  (∀ s : State, (∀ n, s.core.xhold = .paused n → s.cycle < n) → exec (.pauseExpiry false) s = .next s) ∧
  (∀ s : State, (∀ n, s.core.ahold = .paused n → s.cycle < n) → exec (.pauseExpiry true) s = .next s) ∧
  (∀ (r : Xk) (s b : State), s.XReady 1 r.g r.gn [64 + r.d.toNat] b →
    let t := r.imm.toNat % 64
    ((s.own.tag t).done = true →
      exec (.tw r) s = .next ((b.setX r.d.toNat (if (s.own.tag t).err then 1 else 0)).xDone 1)) ∧
    ((s.own.tag t).done = false → s.tagPage t = none → exec (.tw r) s = .next b.xWait) ∧
    (∀ k, (s.own.tag t).done = false → s.tagPage t = some k →
      exec (.tw r) s = .next (b.raiseLeave false (.fault causePages) (BitVec.ofNat 64 k) 1))) ∧
  (∀ (r : Xk) (s b : State), s.XReady 1 r.g r.gn [r.d.toNat] b →
    let m := b.getX 0 r.d.toNat
    let open_ := (maskTags m).filter (fun t => !(s.own.tag t).done)
    (open_ = [] → exec (.twa r) s = .next ((b.setX r.d.toNat (s.tagErrs &&& m)).xDone 1)) ∧
    (open_ ≠ [] → open_.findSome? s.tagPage = none → exec (.twa r) s = .next b.xWait) ∧
    (∀ k, open_ ≠ [] → open_.findSome? s.tagPage = some k →
      exec (.twa r) s = .next (b.raiseLeave false (.fault causePages) (BitVec.ofNat 64 k) 1))) ∧
  (∀ (s : State) (i : Nat) (w : Window), s.core.wins[i]? = some w →
    exec (.resultLand i) s = .next { s with core := { s.core with
      xflags := s.core.xflags ||| w.flags, wins := setAt s.core.wins i { w with flags := 0 } } }) ∧
  (∀ (s : State) (i : Nat), s.core.wins[i]? = none → exec (.resultLand i) s = .next s)

namespace Sys2Proof.Claims

/-- The readable system registers of a supervisor in domain `n` (12 Table 12-3). -/
def systemRegisters (s : State) (n : Nat) (d : Dom) : List (Nat × Nat) :=
  [(0x000, s.core.xflags.toNat), (0x001, s.core.aflags.toNat), (0x002, s.core.spillbase.toNat),
    (0x003, s.core.spilled % 256 * 256 + s.core.rstack.length % 64), (0x010, d.tgt.toNat), (0x011, d.tgtcore.toNat), (0x012, d.foff),
    (0x014, d.fstat), (0x015, 0), (0x020, d.kvfree), (0x021, d.asidtab), (0x022, n * 16 + d.dies.toNat), (0x023, s.pkg)]

/-- What a write of `v` to each writable system register does. -/
def systemWrites (s : State) (n : Nat) (d : Dom) (v : Word) : List (Nat × State) :=
  [(0x000, { s with core := { s.core with xflags := v.extractLsb' 0 5 } }), (0x001, { s with core := { s.core with aflags := v.extractLsb' 0 5 } }),
    (0x002, s.setSpillbase (v.extractLsb' 0 32 &&& spillMask)), (0x003, s),
    (0x010, s.setDom n { d with tgt := v.extractLsb' 0 32 }), (0x011, s.setDom n { d with tgtcore := v.extractLsb' 0 14 &&& 0x3F3F#14 }),
    (0x012, s.setDom n { d with foff := v.toNat % 2 ^ 17 / 8 * 8 }), (0x014, s), (0x015, s),
    (0x020, s.setDom n { d with kvfree := v.toNat % 2 ^ 52 / 8 * 8 }),
    (0x021, s.setDom n { d with asidtab := v.toNat % 2 ^ 52 / 2 ^ 19 * 2 ^ 19 }), (0x022, s), (0x023, s)]

end Sys2Proof.Claims

/-- 12 R311-R313: in a supervisor, `sys.rd` and `sys.wr` of a register of Table 12-3 read or write it, of another number trap with ILL;
the FDATA words read or write 8 bytes of the target's saved frame at FOFF, which goes on by 8, or set FSTAT; EVMSG sets event 228 of the
target. -/
def Obligations.SystemRegisterWordsAct : Prop :=
  (∀ (r : Xk) (s b : State) (n : Nat) (d : Dom), s.PrivReady r.g r.gn [64 + r.d.toNat] b → b.myDom = some (n, d) →
    (∀ p ∈ systemRegisters b n d, r.imm.toNat % 65536 = p.1 → exec (.sysRd r) s = .next ((b.setX r.d.toNat (BitVec.ofNat 64 p.2)).xDone 1)) ∧
    (r.imm.toNat % 65536 ∉ (systemRegisters b n d).map (fun p => p.1) →
      exec (.sysRd r) s = .next (b.raiseLeave false (.fault causeIll) 0 0)) ∧
    (∀ y c l pos k, b.frameTarget n d = .ok (y, c, l, pos, k) →
      exec (.fdataRead r) s = .next (((b.setDom n { d with fstat := 0, foff := (d.foff + 8) % 2 ^ 17 }).setX r.d.toNat
        (frameGet k l.record.live s.tick d.foff)).xDone 1)) ∧
    (∀ e, b.frameTarget n d = .error e →
      exec (.fdataRead r) s = .next (((b.setDom n { d with fstat := e, foff := (d.foff + 8) % 2 ^ 17 }).setX r.d.toNat 0).xDone 1))) ∧
  (∀ (r : Xk) (s b : State) (n : Nat) (d : Dom), s.PrivReady r.g r.gn [r.d.toNat] b → b.myDom = some (n, d) →
    let v := b.getX 0 r.d.toNat
    (∀ p ∈ systemWrites b n d v, r.imm.toNat % 65536 = p.1 → exec (.sysWr r) s = .next (p.2.xDone 1)) ∧
    (r.imm.toNat % 65536 ∉ (systemRegisters b n d).map (fun p => p.1) →
      exec (.sysWr r) s = .next (b.raiseLeave false (.fault causeIll) 0 0)) ∧
    (∀ y c l pos k, b.frameTarget n d = .ok (y, c, l, pos, k) →
      let f := tset l.frames pos (frameSet k l.record.live s.tick d.foff v)
      exec (.fdataWrite r) s = .next (((b.setCtx y { c with launch := some { l with frames := f } }).setDom n
        { d with fstat := 0, foff := (d.foff + 8) % 2 ^ 17 }).xDone 1)) ∧
    (∀ e, b.frameTarget n d = .error e →
      exec (.fdataWrite r) s = .next ((b.setDom n { d with fstat := e, foff := (d.foff + 8) % 2 ^ 17 }).xDone 1)) ∧
    (s.core.memReady = false → exec (.evmsg r) s = .next b.xWait) ∧
    (s.core.memReady = true → b.slotOf d.tgt.toNat = none → exec (.evmsg r) s = .next ((b.setDom n { d with fstat := 1 }).xDone 1)) ∧
    (∀ y c, s.core.memReady = true → b.slotOf d.tgt.toNat = some y → tget s.ctxs y = some c →
      exec (.evmsg r) s = .next (if c.tdom = n then ((b.setDom n { d with fstat := 0 }).setEvent y 228).xDone 1
        else (b.setDom n { d with fstat := 3 }).xDone 1)))

namespace Sys2Proof.Claims

/-- The word acting in `b` removes the entries of its domain that meet `f` from the translation caches of every cluster, once the stream's
earlier accesses are performed and no access under way uses one of them; until then it waits. -/
def Removes (o : Out) (b : State) (f : Tlb → Bool) : Prop :=
  ((b.core.memReady = false ∨ b.tlbInUse f = true) → o = .next b.xWait) ∧
  (b.core.memReady = true → b.tlbInUse f = false →
    o = .next (({ b with tlb := b.tlb.map (fun k => (k.1, k.2.filter (fun e => !(decide (e.dom = b.who.dom) && f e)))) } : State).xDone 1))

end Sys2Proof.Claims

/-- 12 R302, R303, R314-R316: in a supervisor, the words that make, destroy and settle contexts, drop translations and withdraw cores. -/
def Obligations.ContextAndCoreWordsAct : Prop :=
  (∀ (r : Xr) (s b : State) (n : Nat) (d : Dom), s.PrivReady r.g r.gn [r.a.toNat, 64 + r.d.toNat] b → b.myDom = some (n, d) →
    let va := b.getX 0 r.a.toNat
    (va.toNat % 256 ≠ 0 → exec (.ctxNew r) s = .next (b.raiseLeave false (.fault causeIll) 0 0)) ∧
    (∀ t pa ty, va.toNat % 256 = 0 → b.translate b.who needRW va.toNat = (t, .ok pa ty) →
      exec (.ctxNew r) s = .next (if t.inDomHbm n pa then
          ((t.ctxNew n false pa).1.setX r.d.toNat (BitVec.ofNat 64 (t.ctxNew n false pa).2)).xDone 1
        else b.raiseLeave false (.fault causeViol) va 0)) ∧
    (∀ t, va.toNat % 256 = 0 → b.translate b.who needRW va.toNat = (t, .fault) →
      exec (.ctxNew r) s = .next (b.raiseLeave false (.fault causePages) va 0)) ∧
    (∀ t x, va.toNat % 256 = 0 → b.translate b.who needRW va.toNat = (t, .viol x) →
      exec (.ctxNew r) s = .next (b.raiseLeave false (.fault causeViol) (BitVec.ofNat 64 x) 0)) ∧
    (∀ t x, va.toNat % 256 = 0 → b.translate b.who needRW va.toNat = (t, .data x) →
      exec (.ctxNew r) s = .next (b.raiseLeave false (.fault causeData) (BitVec.ofNat 64 x) 0))) ∧
  (∀ (r : Xr) (s b : State), s.PrivReady r.g r.gn [r.a.toNat, 64 + r.d.toNat] b →
    let h := (b.getX 0 r.a.toNat).toNat
    let status (t : State) (n : Nat) : Out := .next ((t.setX r.d.toNat (BitVec.ofNat 64 n)).xDone 1)
    ((2 ^ 32 ≤ h ∨ b.slotOf h = none) → exec (.ctxDel r) s = status b 1) ∧
    (∀ y c n d, h < 2 ^ 32 → b.slotOf h = some y → tget s.ctxs y = some c → b.myDom = some (n, d) →
      (n ≠ c.tdom → exec (.ctxDel r) s = status b 3) ∧
      (n = c.tdom → c.state = .running → exec (.ctxDel r) s = status b 2) ∧
      (n = c.tdom → c.state ≠ .running → (∃ k ∈ s.cmds, k.slot = y) → exec (.ctxDel r) s = status b 4) ∧
      (n = c.tdom → c.state ≠ .running → (∀ k ∈ s.cmds, k.slot ≠ y) → exec (.ctxDel r) s = status (b.ctxDel y) 0))) ∧
  (∀ (r : Xr) (s b : State), s.PrivReady r.g r.gn [r.a.toNat, r.b.toNat, 64 + r.d.toNat] b →
    let h := (b.getX 0 r.a.toNat).toNat
    let act := (b.getX 1 r.b.toNat).toNat
    let status (t : State) (n : Nat) : Out := .next ((t.setX r.d.toNat (BitVec.ofNat 64 n)).xDone 1)
    (2 < act → exec (.ctxSev r) s = .next (b.raiseLeave false (.fault causeIll) 0 0)) ∧
    (act ≤ 2 → (2 ^ 32 ≤ h ∨ b.slotOf h = none) → exec (.ctxSev r) s = status b 1) ∧
    (∀ y c n d, act ≤ 2 → h < 2 ^ 32 → b.slotOf h = some y → tget s.ctxs y = some c → b.myDom = some (n, d) →
      (n ≠ c.tdom → exec (.ctxSev r) s = status b 3) ∧
      (n = c.tdom → ¬ (c.state ≠ .running ∧ 1 ≤ c.parkCause ∧ c.parkCause ≤ 10) → exec (.ctxSev r) s = status b 2) ∧
      (n = c.tdom → (c.state ≠ .running ∧ 1 ≤ c.parkCause ∧ c.parkCause ≤ 10) → exec (.ctxSev r) s = status (b.settle y c act) 0))) ∧
  (∀ (r : Xr) (s b : State), s.PrivReady r.g r.gn [r.a.toNat, r.b.toNat] b →
    let va := (b.getX 0 r.a.toNat).toNat
    let asid := (b.getX 1 r.b.toNat).toNat
    (65536 ≤ asid → exec (.tlbInv r) s = .next (b.raiseLeave false (.fault causeIll) 0 0)) ∧
    (asid < 65536 → Removes (exec (.tlbInv r) s) b (fun e => e.covers e.dom asid va))) ∧
  (∀ (r : Xr) (s b : State), s.PrivReady r.g r.gn [r.b.toNat] b →
    let asid := (b.getX 1 r.b.toNat).toNat
    (65536 ≤ asid → exec (.tlbAsid r) s = .next (b.raiseLeave false (.fault causeIll) 0 0)) ∧
    (asid < 65536 → Removes (exec (.tlbAsid r) s) b (fun e => decide (e.asid = asid)))) ∧
  (∀ (r : Xr) (s b : State), s.PrivReady r.g r.gn [] b → Removes (exec (.tlbAll r) s) b (fun _ => true)) ∧
  (∀ (r : Xr) (s b : State), s.PrivReady r.g r.gn [r.a.toNat, 64 + r.d.toNat] b →
    let v := b.getX 0 r.a.toNat
    let i := bits v.toNat 13 8 * 64 + bits v.toNat 5 0
    let mine := b.domHasDie b.who.dom (dieOf i)
    let out : State := { b with withdrawn := if s.withdrawn.contains i then s.withdrawn else i :: s.withdrawn }
    (v &&& ~~~0x3F3F#64 ≠ 0 →
      exec (.coreOut r) s = .next (b.raiseLeave false (.fault causeIll) 0 0) ∧ exec (.coreIn r) s = .next (b.raiseLeave false (.fault causeIll) 0 0)) ∧
    (v &&& ~~~0x3F3F#64 = 0 → mine = false →
      exec (.coreOut r) s = .next ((b.setX r.d.toNat 1).xDone 1) ∧ exec (.coreIn r) s = .next ((b.setX r.d.toNat 1).xDone 1)) ∧
    (v &&& ~~~0x3F3F#64 = 0 → mine = true →
      exec (.coreIn r) s = .next ((({ b with withdrawn := s.withdrawn.filter (fun j => decide (j ≠ i)) } : State).setX r.d.toNat 0).xDone 1) ∧
      ((b.coreAt i).ctx = none → exec (.coreOut r) s = .next ((out.setX r.d.toNat 0).xDone 1)) ∧
      (∀ k, (b.coreAt i).ctx = some k → exec (.coreOut r) s = .next (((out.askPreempt k false).setX r.d.toNat 0).xDone 1))))

/-- What the synchronising words leave alone whenever they give a next state: memory, stores, other cores, and every register but x[D] of the
words that have one (10 R256-R261, R269, R275, R276, R279; 08 R212, R224). -/
def Obligations.SyncWordsLeaveTheRestAlone : Prop :=
  (∀ c ∈ [Instr.barInit, Instr.barArr, Instr.barWait, Instr.barSync, Instr.trap, Instr.pause], ∀ (r : Xk) (s t : State), exec (c r) s = .next t →
    SyncFrame s t none) ∧
  (∀ c ∈ [Instr.tw, Instr.twa], ∀ (r : Xk) (s t : State), s.core.x.wf = true → tableFrom 0 s.core.xbad = true → exec (c r) s = .next t →
    SyncFrame s t (some r.d.toNat)) ∧
  (∀ c ∈ [Instr.id, Instr.time], ∀ (r : Xr) (s t : State), s.core.x.wf = true → tableFrom 0 s.core.xbad = true → exec (c r) s = .next t →
    SyncFrame s t (some r.d.toNat)) ∧
  (∀ c ∈ [Instr.ctxYield, Instr.fence], ∀ (r : Xr) (s t : State), exec (c r) s = .next t → SyncFrame s t none) ∧
  (∀ c ∈ [Instr.evClr, Instr.evWait], ∀ (r : Xi) (s t : State), exec (c r) s = .next t → SyncFrame s t none)

namespace Sys2Proof.Claims

/-- The A words on two registers, with their effect (08 Table 08-1). -/
def addressForms : List ((Ar → Instr) × (Word → Word → Word)) :=
  [(Instr.aAdd, fun a b => a + b), (Instr.aSub, fun a b => a - b), (Instr.aAnd, fun a b => a &&& b), (Instr.aOr, fun a b => a ||| b),
    (Instr.aXor, fun a b => a ^^^ b), (Instr.aSll, fun a b => a <<< (b.toNat % 64)), (Instr.aSrl, fun a b => a >>> (b.toNat % 64)),
    (Instr.aSra, fun a b => a.sshiftRight (b.toNat % 64)), (Instr.aMul, fun a b => BitVec.ofInt 64 (a.toInt * b.toInt)),
    (Instr.aMin, fun a b => BitVec.ofInt 64 (min a.toInt b.toInt)), (Instr.aMax, fun a b => BitVec.ofInt 64 (max a.toInt b.toInt)),
    (Instr.aMinu, fun a b => BitVec.ofNat 64 (min a.toNat b.toNat)), (Instr.aMaxu, fun a b => BitVec.ofNat 64 (max a.toNat b.toNat))]

/-- The A words on a register and an immediate, with their effect on it sign-extended (08 R186). -/
def addressImmForms : List ((Ai → Instr) × (Word → Word → Word)) :=
  [(Instr.aAddi, fun a i => a + i), (Instr.aAddhi, fun a i => a + i * 16384), (Instr.aSlli, fun a i => a <<< (i.toNat % 64)),
    (Instr.aAndi, fun a i => a &&& i)]

/-- The cause and the data with which an access that is refused stops its word. -/
def stopOf {α : Type} : Got α → Option (Nat × Nat)
  | .pages v => some (causePages, v)
  | .viol v => some (causeViol, v)
  | .data v => some (causeData, v)
  | _ => none

/-- What an A word makes of each outcome of its access: `ok` is the state that the word leaves when the access is performed, `dev` when
it meets a register of the device at an offset; an access that leaves the package holds issue. -/
def AccessEnds {α : Type} (s : State) (run : Out) (o : State × Got α) (va size : Nat) (kind : GlobalKind) (dev : State → Nat → State)
    (ok : State → α → State) : Prop :=
  (∀ t v, o = (t, .ok v) → run = .next (ok t v).aDone) ∧
  (∀ c v, stopOf o.2 = some (c, v) → run = .next (s.raiseLeave true (.fault c) (BitVec.ofNat 64 v) 0)) ∧
  (∀ t pa, o = (t, .dev pa) → run = .next (if t.devOk pa then (dev t (devOffset pa)).aDone
    else s.raiseLeave true (.fault causeViol) (BitVec.ofNat 64 va) 0)) ∧
  (∀ t pa, o = (t, .far pa) →
    run = .next { t with core := { t.core with ahold := .access { kind := kind, va := BitVec.ofNat 64 va, pa := pa, size := size } } })

/-- The atomics' types, by the width bit, and effects on the pattern in memory and the operands: what is written, if anything, the
result and the flags (08 R217, R218). -/
def amoEffects : List ((Bool → Nat) × (Nat → Nat → Nat → Nat → Option Nat × Nat × Flags)) :=
  let n (w : Bool) : Nat := if w then 7 else 6
  let i (w : Bool) : Nat := if w then 3 else 2
  let f (w : Bool) : Nat := if w then 11 else 10
  [(n, fun ty old b _ => (some (wrapT ty (decInt ty old + decInt ty b)), old, 0)), (n, fun _ old b _ => (some (old &&& b), old, 0)),
    (n, fun _ old b _ => (some (old ||| b), old, 0)), (n, fun _ old b _ => (some (old ^^^ b), old, 0)),
    (i, fun ty old b _ => (some (if decInt ty old ≤ decInt ty b then old else b), old, 0)),
    (i, fun ty old b _ => (some (if decInt ty old ≤ decInt ty b then b else old), old, 0)), (n, fun _ old b _ => (some b, old, 0)),
    (n, fun _ old b c => (if old = c then some b else none, old, 0)),
    (f, fun ty old b _ => (some (fAdd ty 0 old b).1, old, (fAdd ty 0 old b).2)),
    (f, fun ty old b _ => (some (minMax ty true old b).1, old, (minMax ty true old b).2)),
    (i, fun ty old b c => (some c, if decInt ty old ≤ decInt ty b then b else old, 0))]

/-- The A atomics and the remote atomics, with their types and effects. -/
noncomputable def addressAmoForms : List ((Ar → Instr) × (Bool → Nat) × (Nat → Nat → Nat → Nat → Option Nat × Nat × Flags)) :=
  [Instr.aAmoAdd, Instr.aAmoAnd, Instr.aAmoOr, Instr.aAmoXor, Instr.aAmoMin, Instr.aAmoMax, Instr.aAmoSwap, Instr.aAmoCas,
    Instr.aAmoFadd, Instr.aAmoFmax, Instr.aAmoMaxx].zip amoEffects

noncomputable def remoteAmoForms : List (((Ar → Instr) × Nat) × (Bool → Nat) × (Nat → Nat → Nat → Nat → Option Nat × Nat × Flags)) :=
  [(Instr.ramoAdd, 0), (Instr.ramoAnd, 1), (Instr.ramoOr, 2), (Instr.ramoXor, 3), (Instr.ramoMin, 4), (Instr.ramoMax, 5), (Instr.ramoSwap, 6),
    (Instr.ramoFadd, 8), (Instr.ramoFmax, 9)].zip (List.append (amoEffects.take 7) ((amoEffects.drop 8).take 2))

/-- An atomic performed on the HBM4E word at `pa`, in the state `u` that its translation left: its result is pending for a[D]. -/
def performed (u : State) (pa ty d : Nat) (o : Option Nat × Nat × Flags) (status : Option (BitVec 2)) : State :=
  let n := tyWidth ty / 8
  let m := match o.1 with
    | none => u.mem
    | some x => u.mem.setBytes pa (toBytes n x)
  let v := ({ (if o.1.isSome then u.clearScrub pa n else u) with mem := m } : State).note pa n
  { v with core := { v.core with amos := v.core.amos ++ [{ d := d, value := amoExt ty o.2.1, status := status, flags := o.2.2 }] } }

end Sys2Proof.Claims

/-- 08 R185, R186: register arithmetic and the immediate forms of the A stream set a[D] to their effect; a0 reads zero and discards writes
(R183). -/
def Obligations.AddressWordsWriteTheirResult : Prop :=
  (∀ p ∈ addressForms, ∀ (r : Ar) (s : State), s.AReady r.l r.f [r.a.toNat, r.b.toNat, r.d.toNat] false →
    exec (p.1 r) s = .next (s.setA r.d.toNat (p.2 (s.getA 0 r.a.toNat) (s.getA 1 r.b.toNat))).aDone) ∧
  (∀ p ∈ addressImmForms, ∀ (r : Ai) (s : State), s.AReady r.l r.f [r.a.toNat, r.d.toNat] false →
    exec (p.1 r) s = .next (s.setA r.d.toNat (p.2 (s.getA 0 r.a.toNat) (r.imm.signExtend 64))).aDone) ∧
  (∀ (s : State) (d p i : Nat) (v : Word),
    (s.setA 0 v = s) ∧ s.getA p 0 = 0 ∧ (d ≠ 0 → s.core.a.wf = true → (s.setA d v).getA p d = v) ∧
    (d ≠ i → s.core.a.wf = true → (s.setA d v).getA p i = s.getA p i))

/-- 08 R187-R191, 02 R40: branches go to PC + 4 × OFF and deactivate the levels whose bodies do not hold the target; `nest` activates a
level, passes a body of count zero by once the registers that its end binds are written, or traps with ILL; `bind` registers, replaces or removes a pair; a word at the end of the innermost
body steps its level, with the binds applied each time; a word held back by F or L only completes. -/
def Obligations.BranchesNestsAndBindsStepTheStream : Prop :=
  (∀ (r : Sys2Proof.Ab) (s : State), s.AReady false false [r.a.toNat] false →
    let dst := s.core.apc + BitVec.ofInt 64 (4 * r.off.toInt)
    let out (t : State) (v : Nat × ALevel) : Bool := !(decide (v.2.start.toNat ≤ t.core.apc.toNat) && decide (t.core.apc.toNat ≤ v.2.stop.toNat))
    let j : State := { s with core := { s.core with apc := dst, adoubt := false } }
    let taken : State := { j with core := { j.core with levels := s.core.levels.dropWhile (out j) } }
    exec (.b r) s = .next taken ∧
    exec (.bz r) s = .next (if s.getA 0 r.a.toNat = 0 then taken else s.aDone) ∧
    exec (.bnz r) s = .next (if s.getA 0 r.a.toNat = 0 then s.aDone else taken)) ∧
  (∀ (r : An) (s : State), s.AReady false false [r.a.toNat] false →
    let l := r.d.toNat
    let pc := s.core.apc
    let stop := pc + BitVec.ofNat 64 (4 * r.k.toNat)
    let n := (s.getA 0 r.a.toNat).toNat % 2 ^ 32
    let bad := (tget s.core.levels l).isSome = true ∨
      ∃ v ∈ s.core.levels, v.2.start.toNat ≤ pc.toNat ∧ pc.toNat ≤ v.2.stop.toNat ∧ (v.1 ≤ l ∨ v.2.stop.toNat < stop.toNat)
    (bad → exec (.nest r) s = .next (s.raiseLeave true (.fault causeIll) 0 0)) ∧
    (¬ bad → n = 0 → (s.core.endBindsAt stop).any s.pendingA = false →
      exec (.nest r) s = .next ({ s with core := { s.core with apc := stop, adoubt := false } } : State).aDone) ∧
    (¬ bad → n = 0 → (s.core.endBindsAt stop).any s.pendingA = true → exec (.nest r) s = .next s) ∧
    (¬ bad → n ≠ 0 → exec (.nest r) s = .next ({ s with core := { s.core with
      levels := tset s.core.levels l { start := pc + 4, stop := stop, idx := 0, count := n } } } : State).aDone)) ∧
  (∀ (v : BitVec 3) (r : Ar) (s : State), s.AReady false false [r.a.toNat] false →
    let mine (b : Bind) : Bool := decide (b.level = v.toNat) && decide (b.d = r.d.toNat)
    let rest := s.core.binds.filter (fun b => !mine b)
    let full := 4 ≤ (rest.filter (fun b => decide (b.level = v.toNat))).length
    let kept (bs : List Bind) : Out := .next ({ s with core := { s.core with binds := bs } } : State).aDone
    (r.d = 0 → exec (.bind v r) s = .next (s.raiseLeave true (.fault causeIll) 0 0)) ∧
    (r.d ≠ 0 → r.a = 0 → exec (.bind v r) s = kept rest) ∧
    (r.d ≠ 0 → r.a ≠ 0 → full → exec (.bind v r) s = .next (s.raiseLeave true (.fault causeIll) 0 0)) ∧
    (r.d ≠ 0 → r.a ≠ 0 → ¬ full →
      exec (.bind v r) s = kept (List.append rest [{ level := v.toNat, d := r.d.toNat, inc := s.getA 0 r.a.toNat }]))) ∧
  (∀ (s : State) (l : Nat) (v : ALevel) (rest : Table ALevel), s.core.levels = (l, v) :: rest →
    let b := s.core.applyBinds l s.tick
    (v.stop ≠ s.core.apc → s.aDone = { s with core := { s.core with apc := s.core.apc + 4, adoubt := false } }) ∧
    (v.stop = s.core.apc → v.idx + 1 < v.count →
      s.aDone = { s with core := { b with apc := v.start, adoubt := false, levels := (l, { v with idx := v.idx + 1 }) :: rest } }) ∧
    (v.stop = s.core.apc → v.count ≤ v.idx + 1 → (∀ o ∈ rest.head?, o.2.stop ≠ v.stop) →
      s.aDone = { s with core := { b with apc := v.stop + 4, adoubt := false, levels := rest } })) ∧
  (∀ (c : Core) (l t : Nat), c.a.wf = true → (c.binds.map (fun b => (b.level, b.d))).Nodup →
    let n := c.applyBinds l t
    n = { c with a := n.a } ∧
    (∀ b ∈ c.binds, b.level = l → n.a.get b.d t (4096 + b.d) = c.a.get b.d t (4096 + b.d) + b.inc) ∧
    ∀ d p, (∀ b ∈ c.binds, b.level = l → b.d ≠ d) → n.a.get d t p = c.a.get d t p) ∧
  (∀ (c : Core) (l f : Bool), c.issues l f = true ↔
    ∀ v ∈ c.levels.head?, (f = true → v.2.idx = 0) ∧ (l = true → v.2.idx + 1 = v.2.count)) ∧
  (∀ p ∈ addressForms, ∀ (r : Ar) (s : State), s.core.issues r.l r.f = false → s.core.endBinds.any s.pendingA = false →
    exec (p.1 r) s = .next s.aDone)

/-- 08 R187, R211, R223, R224, 07 R179, 12 R305: the A words that wait for tags, accesses and time. A tag wait goes on once its tags are
done and otherwise waits or leaves with PAGES; `tclr` resets a tag that nothing pends on; `pf` only goes on. -/
def Obligations.AddressWordsThatWait : Prop :=
  (∀ (r : An) (s : State), s.AReady r.l r.f [] false →
    let t := r.k.toNat % 64
    ((s.own.tag t).done = true → exec (.aTw r) s = .next s.aDone) ∧
    ((s.own.tag t).done = false → s.tagPage t = none → exec (.aTw r) s = .next s) ∧
    (∀ k, (s.own.tag t).done = false → s.tagPage t = some k →
      exec (.aTw r) s = .next (s.raiseLeave true (.fault causePages) (BitVec.ofNat 64 k) 1))) ∧
  (∀ (r : An) (s : State), s.AReady r.l r.f [r.a.toNat, r.d.toNat] false →
    let m := s.getA 0 r.a.toNat
    let open_ := (maskTags m).filter (fun t => !(s.own.tag t).done)
    (open_ = [] → exec (.aTwa r) s = .next (s.setA r.d.toNat (s.tagErrs &&& m)).aDone) ∧
    (open_ ≠ [] → open_.findSome? s.tagPage = none → exec (.aTwa r) s = .next s) ∧
    (∀ k, open_ ≠ [] → open_.findSome? s.tagPage = some k →
      exec (.aTwa r) s = .next (s.raiseLeave true (.fault causePages) (BitVec.ofNat 64 k) 1))) ∧
  (∀ (r : An) (s : State), s.AReady r.l r.f [] true →
    let t := r.k.toNat % 64
    let sent := ∃ m ∈ s.ramos, some m.slot = s.core.ctx ∧ m.pos = s.core.pos
    ((s.own.tag t).pend ≠ 0 → exec (.aTclr r) s = .next s) ∧
    ((s.own.tag t).pend = 0 →
      exec (.aTclr r) s = .next (s.setOwn (s.own.setTag t { pend := 0, done := true, err := false })).aDone) ∧
    (sent → exec (.aFence r) s = .next s) ∧ (¬ sent → exec (.aFence r) s = .next s.aDone)) ∧
  (∀ (r : Am) (s : State), s.AReady r.l r.f [] false → exec (.pf r) s = .next s.aDone) ∧
  (∀ (r : Ai) (s : State), s.AReady r.l r.f [] false →
    let c : Core := { s.core with aclk := s.core.aclk.map (fun t => t + r.imm.toNat), ahold := .paused (s.cycle + r.imm.toNat) }
    exec (.aPause r) s = .next ({ s with core := c } : State).aDone) ∧
  (∀ (r : Sys2Proof.Ab) (s : State), s.AReady false false [] true → s.core.aexited = false →
    let busy := s.core.amos ≠ [] ∨ (∃ m ∈ s.ramos, some m.slot = s.core.ctx ∧ m.pos = s.core.pos) ∨
      ∃ c ∈ s.cmds, some c.slot = s.core.ctx ∧ c.pos = s.core.pos ∧ c.launch = s.launchId
    (busy → exec (.aExit r) s = .next s) ∧
    (¬ busy → exec (.aExit r) s =
      .next (({ s with core := { s.core with aexited := true } } : State).aDone.checkEnd (s.core.ctx.getD 0))))

/-- 08 R192-R196, R201; 13 R329, R331; 14 R356, R357: the memory words of the A stream make one access at their address: what each outcome does. A load of a queue or a
tile is issued into reserved places and becomes visible, oldest first, when it commits; a word whose queue or tile is not ready waits; an
answer from outside the package ends the word that waits for it. -/
def Obligations.AddressMemoryWordsMakeOneAccess : Prop :=
  (∀ (r : Am) (s : State), s.AReady r.l r.f (r.d.toNat :: amReads r) false →
    let n := sizeBytes r.sz.toNat
    let got (t : State) (bs : List Byte) : State := t.setA r.d.toNat (BitVec.ofNat 64 (ofBytes bs))
    AccessEnds s (exec (.lda r) s) (s.amRead r n) (s.amAddr r).toNat n (.lda r.d.toNat) (fun t o => got t (t.mgmtRead o n)) got) ∧
  (∀ (r : Am) (s : State), s.AReady r.l r.f (r.d.toNat :: amReads r) true →
    let n := sizeBytes r.sz.toNat
    let bs := toBytes n (s.getA 2 r.d.toNat).toNat
    AccessEnds s (exec (.sta r) s) (s.amWrite r bs) (s.amAddr r).toNat n (.store bs) (fun t o => t.mgmtWrite o bs) (fun t _ => t)) ∧
  (∀ (r : Am) (s : State), s.AReady r.l r.f (amReads r) false →
    let q := r.d.toNat
    let n := sizeBytes r.sz.toNat
    let k := if r.sz = 4 then 8 else 1
    let a := (s.amAddr r).toNat
    let held := (s.own.qWords .queue q).length + s.core.reserved q
    let load (t : State) (ws : List CWord) : PendLoad :=
      { dest := .queue q ws, pc := t.core.apc, a := t.core.a, nest := t.core.levels, binds := t.core.binds }
    let land (t : State) (ws : List CWord) : State := { t with core := { t.core with loads := t.core.loads ++ [load t ws] } }
    (s.qHome q ≠ .queue → exec (.ldq r) s = .next (s.raiseLeave true (.fault causeIll) 0 0)) ∧
    (s.qHome q = .queue → 256 < held + k → exec (.ldq r) s = .next { s with core := { s.core with ahold := .queue } }) ∧
    (s.qHome q = .queue → held + k ≤ 256 → r.sz = 4 →
      AccessEnds s (exec (.ldq r) s) (s.amReadWords r 8) a n (.ldq q 8) (fun t o => land t (packWords (t.mgmtRead o n))) land) ∧
    (s.qHome q = .queue → held + k ≤ 256 → r.sz ≠ 4 →
      AccessEnds s (exec (.ldq r) s) (s.amRead r n) a n (.ldq q 1) (fun t o => land t (packWords (t.mgmtRead o n)))
        (fun t bs => land t (packWords bs)))) ∧
  (∀ (r : Am) (s : State), s.AReady r.l r.f (amReads r) true →
    let q := r.d.toNat
    let n := sizeBytes r.sz.toNat
    let a := (s.amAddr r).toNat
    (s.qHome q = .none → exec (.stq r) s = .next (s.raiseLeave true (.fault causeIll) 0 0)) ∧
    (s.qHome q ≠ .none → (s.qOffer q).length < (if r.sz = 4 then 8 else 1) →
      exec (.stq r) s = .next { s with core := { s.core with ahold := .queue } }) ∧
    (s.qHome q ≠ .none → r.sz = 4 → 8 ≤ (s.qOffer q).length →
      let ws := (s.qOffer q).take 8
      AccessEnds s (exec (.stq r) s) (s.amWriteWords r ws) a n (.stq q ws) (fun t o => (t.mgmtWrite o (wordBytes ws)).qTake q 8)
        (fun t _ => t.qTake q 8)) ∧
    (∀ w rest, s.qHome q ≠ .none → r.sz ≠ 4 → s.qOffer q = w :: rest → n = 8 → a % 8 = 0 →
      AccessEnds s (exec (.stq r) s) (if r.s = 1 then s.sWriteWords s.who a [w] else s.gWriteWords s.who a [w]) a n (.stq q [w])
        (fun t o => (t.mgmtWrite o (toBytes 8 w.v.toNat)).qTake q 1) (fun t _ => t.qTake q 1)) ∧
    (∀ w rest, s.qHome q ≠ .none → r.sz ≠ 4 → s.qOffer q = w :: rest → ¬ (n = 8 ∧ a % 8 = 0) →
      (w.use = none → exec (.stq r) s = .next (s.raiseLeave true (.fault causeData) 0 (w.syn.zeroExtend 32))) ∧
      (∀ v, w.use = some v →
        let bs := toBytes n v.toNat
        let b := s.fixed (if fixable w.syn then 1 else 0)
        AccessEnds s (exec (.stq r) s) (b.amWrite r bs) a n (.stq q [w]) (fun t o => (t.mgmtWrite o bs).qTake q 1)
          (fun t _ => t.qTake q 1)))) ∧
  (∀ (r : Am) (s : State), s.AReady r.l r.f (amReads r) false →
    let k := r.d.toNat
    let load (t : State) (ws : List CWord) : PendLoad :=
      { dest := .tile k ws, pc := t.core.apc, a := t.core.a, nest := t.core.levels, binds := t.core.binds }
    let land (t : State) (ws : List CWord) : State :=
      { t with core := { t.core with tfull := tset t.core.tfull k .reserved, loads := t.core.loads ++ [load t ws] } }
    (s.core.tileFree k = false → exec (.ldt r) s = .next s) ∧
    (s.core.tileFree k = true →
      AccessEnds s (exec (.ldt r) s) (s.amReadWords r 512) (s.amAddr r).toNat 4096 (.ldt k) (fun t o => land t (packWords (t.mgmtRead o 4096))) land)) ∧
  (∀ (r : Am) (s : State), s.AReady r.l r.f (amReads r) true →
    let k := r.d.toNat
    let ws := s.core.tdata.words (k * 4096) 512
    let freed (t : State) : State := { t with core := { t.core with tfull := tdel t.core.tfull k } }
    (tget s.core.tfull k ≠ some .full → exec (.stt r) s = .next s) ∧
    (tget s.core.tfull k = some .full →
      AccessEnds s (exec (.stt r) s) (s.amWriteWords r ws) (s.amAddr r).toNat 4096 (.stt k ws)
        (fun t o => freed (t.mgmtWrite o (wordBytes ws))) (fun t _ => freed t))) ∧
  (∀ s : State,
    (s.core.loads = [] → exec .loadCommit s = .next s) ∧
    (∀ l rest q ws, s.core.loads = l :: rest → l.dest = .queue q ws →
      let t : State := { s with core := { s.core with loads := rest } }
      exec .loadCommit s = .next (t.setOwn (s.own.setQ .queue q (List.append (s.own.qWords .queue q) ws)))) ∧
    (∀ l rest k ws, s.core.loads = l :: rest → l.dest = .tile k ws →
      exec .loadCommit s = .next { s with core := { s.core with
        loads := rest, tdata := s.core.tdata.setWords (k * 4096) ws, tfull := tset s.core.tfull k .full } })) ∧
  (∀ (s : State) (g : GlobalAccess), s.core.xhold = .access g → placeOf g.pa ≠ .pool →
    let t : State := { s with core := { s.core with xhold := .none } }
    exec (.globalAccessComplete .refused) s = .next (t.raiseLeave false (.fault causeViol) g.va 0) ∧
    (∀ d, g.kind = .load d →
      exec (.globalAccessComplete .poisoned) s = .next (t.raiseLeave false (.fault causeData) (BitVec.ofNat 64 g.pa) 0) ∧
      ∀ v, t.stepPoisoned 1 = none →
        exec (.globalAccessComplete (.value v)) s = .next ((t.setX d (BitVec.ofNat 64 (v.toNat % 2 ^ (8 * g.size)))).xDone 1)) ∧
    (∀ v, t.stepPoisoned 1 = none → ((∃ bs, g.kind = .store bs) ∨ ∃ ws, g.kind = .storeWords ws) →
      exec (.globalAccessComplete .poisoned) s = .next (t.xDone 1) ∧ exec (.globalAccessComplete (.value v)) s = .next (t.xDone 1))) ∧
  (∀ (s : State) (g : GlobalAccess), (∀ h, s.core.xhold ≠ .access h) → s.core.ahold = .access g → placeOf g.pa ≠ .pool →
    let t : State := { s with core := { s.core with ahold := .none } }
    exec (.globalAccessComplete .refused) s = .next (t.raiseLeave true (.fault causeViol) g.va 0) ∧
    (∀ d, g.kind = .lda d →
      exec (.globalAccessComplete .poisoned) s = .next (t.raiseLeave true (.fault causeData) (BitVec.ofNat 64 g.pa) 0) ∧
      ∀ v, exec (.globalAccessComplete (.value v)) s = .next (t.setA d (BitVec.ofNat 64 (v.toNat % 2 ^ (8 * g.size)))).aDone) ∧
    (∀ v q ws, g.kind = .stq q ws →
      exec (.globalAccessComplete .poisoned) s = .next (t.qTake q ws.length).aDone ∧
      exec (.globalAccessComplete (.value v)) s = .next (t.qTake q ws.length).aDone)) ∧
  (∀ (s : State) (g : GlobalAccess) (ans : Answer), s.core.xhold = .access g → placeOf g.pa = .pool → s.downPort g.pa = none →
    exec (.globalAccessComplete ans) s = .next ({ s with core := { s.core with xhold := .none } } : State).xWait) ∧
  (∀ (s : State) (ans : Answer), (∀ g, s.core.xhold ≠ .access g) → (∀ g, s.core.ahold ≠ .access g) →
    exec (.globalAccessComplete ans) s = .next s) ∧
  (∀ s : State,
    (s.core.xhold = .queue → exec (.queueWordProceed false) s = .next { s with core := { s.core with xhold := .none } }) ∧
    (s.core.ahold = .queue → exec (.queueWordProceed true) s = .next { s with core := { s.core with ahold := .none } }) ∧
    (s.core.xhold ≠ .queue → exec (.queueWordProceed false) s = .next s) ∧ (s.core.ahold ≠ .queue → exec (.queueWordProceed true) s = .next s))

/-- 08 R217-R220, 07 R163: an atomic of the A stream on HBM4E reads and writes its word at one instant, and its result is written
to a[D] later, oldest first, with the flags, and kept where the loads under way are rolled back; a misaligned one traps with ILL. A `ramo` on a local address acts as `amo` with status 0 for
a[D + 1], one on another package is sent, and a request with bits 63:17 set traps with ILL. -/
def Obligations.AddressAtomicsPendTheirResult : Prop :=
  (∀ p ∈ addressAmoForms, ∀ (r : Ar) (s : State), s.AReady r.l r.f [r.a.toNat, r.b.toNat, r.d.toNat] true →
    let ty := p.2.1 (r.x.getLsbD 0)
    let w := tyWidth ty
    let a := (s.getA 0 r.a.toNat).toNat
    (a % (w / 8) ≠ 0 → exec (p.1 r) s = .next (s.raiseLeave true (.fault causeIll) 0 0)) ∧
    (∀ (u : State) (pa mt : Nat), a % (w / 8) = 0 → s.translate s.who needRW a = (u, .ok pa mt) → placeOf pa = .hbm →
      u.dirAt pa = none → u.mem.bad = [] → u.meetsBlock pa (w / 8) = false → s.mem.wf = true →
      let o := p.2.2 ty (ofBytes (s.mem.bytes pa (w / 8))) ((s.getA 1 r.b.toNat).toNat % 2 ^ w) ((s.getA 2 r.d.toNat).toNat % 2 ^ w)
      exec (p.1 r) s = .next (performed u pa ty r.d.toNat o none).aDone) ∧
    (∀ u, a % (w / 8) = 0 → s.translate s.who needRW a = (u, .fault) →
      exec (p.1 r) s = .next (s.raiseLeave true (.fault causePages) (BitVec.ofNat 64 a) 0)) ∧
    (∀ (u : State) (pa mt k : Nat), a % (w / 8) = 0 → s.translate s.who needRW a = (u, .ok pa mt) → placeOf pa = .remote k →
      exec (p.1 r) s = .next (s.raiseLeave true (.fault causeViol) (s.getA 0 r.a.toNat) 0))) ∧
  (∀ p ∈ remoteAmoForms, ∀ (r : Ar) (s : State), s.AReady r.l r.f [r.a.toNat, r.b.toNat, r.d.toNat, r.d.toNat + 1] true →
    let ty := p.2.1 (r.x.getLsbD 0)
    let w := tyWidth ty
    let a := (s.getA 0 r.a.toNat).toNat
    let req := s.getA 2 r.d.toNat
    (2 ^ 17 ≤ req.toNat → exec (p.1.1 r) s = .next (s.raiseLeave true (.fault causeIll) 0 0)) ∧
    (∀ (u : State) (pa mt : Nat), req.toNat < 2 ^ 17 → a % (w / 8) = 0 → s.translate s.who needRW a = (u, .ok pa mt) → placeOf pa = .hbm →
      u.dirAt pa = none → u.mem.bad = [] → u.meetsBlock pa (w / 8) = false → s.mem.wf = true →
      let o := p.2.2 ty (ofBytes (s.mem.bytes pa (w / 8))) ((s.getA 1 r.b.toNat).toNat % 2 ^ w) (req.toNat % 2 ^ w)
      exec (p.1.1 r) s = .next (performed u pa ty r.d.toNat o (some 0)).aDone) ∧
    (∀ (u : State) (pa mt k : Nat), req.toNat < 2 ^ 17 → a % (w / 8) = 0 → s.translate s.who needRW a = (u, .ok pa mt) →
      placeOf pa = .remote k →
      let m : RamoOut :=
        { id := u.nextId, slot := u.core.ctx.getD 0, pos := u.core.pos, d := r.d.toNat, req := (u.getA 2 r.d.toNat).extractLsb' 0 16,
          retry := (u.getA 2 r.d.toNat).getLsbD 16, pkg := k, op := p.1.2, wide := r.x.getLsbD 0, addr := pa % 2 ^ 40,
          b := u.getA 1 r.b.toNat, sends := 1, first := u.ptp, last := u.ptp, busy := false, word := u.core.air, at_ := u.core.apc,
          va := u.getA 0 r.a.toNat }
      exec (p.1.1 r) s = .next ({ u with ramos := List.append u.ramos [m], nextId := u.nextId + 1 } : State).aDone)) ∧
  (∀ s : State,
    (s.core.amos = [] → exec .aAmoComplete s = .next s) ∧
    (∀ m rest, s.core.amos = m :: rest →
      let first (a : Regs 64) : Regs 64 := if m.d = 0 then a else a.put m.d m.value
      let late (a : Regs 64) : Regs 64 := match m.status with
        | none => first a
        | some v => (first a).put (m.d + 1) (v.zeroExtend 64)
      exec .aAmoComplete s = .next { s with core := { s.core with
        amos := rest, aflags := s.core.aflags ||| m.flags, a := late s.core.a,
        loads := s.core.loads.map (fun (l : PendLoad) => { l with a := late l.a }) } }))

namespace Sys2Proof.Claims

/-- The state with a command pushed: its tag counts it, and it is the youngest. -/
def pushed (s : State) (c : EngCmd) : State :=
  let g := s.own.tag c.tag
  let t := s.setOwn (s.own.setTag c.tag { g with pend := g.pend + 1, done := false })
  { t with cmds := s.cmds ++ [c], nextId := s.nextId + 1 }

/-- The KV words, with their command and when a[B] is illegal (08 R213-R216). -/
noncomputable def kvForms : List ((An → Instr) × EngKind × (Nat → Prop)) :=
  [(Instr.kvg, .kvg, fun b => bits b 63 48 ≠ 0 ∨ bits b 47 32 = 0), (Instr.kva, .kva, fun b => bits b 63 16 ≠ 0 ∨ bits b 15 0 = 0),
    (Instr.kvc, .kvc, fun b => bits b 63 32 ≠ 0)]

/-- The near-bank row words, with their command and whether they take a parameter and a type (09 R230, R233, R236). -/
noncomputable def rowCommandForms : List ((An → Instr) × EngKind × Bool) :=
  [(Instr.nbCopy, .nbCopy, false), (Instr.nbZero, .nbZero, false), (Instr.nbAxpy, .nbAxpy, true), (Instr.nbRun, .nbRun, true)]

/-- The near-bank atomics, with their code (09 R237). -/
noncomputable def nearAmoForms : List ((An → Instr) × Nat) :=
  [(Instr.nbAmoAdd, 0), (Instr.nbAmoAnd, 1), (Instr.nbAmoOr, 2), (Instr.nbAmoXor, 3), (Instr.nbAmoMin, 4), (Instr.nbAmoMax, 5), (Instr.nbAmoFadd, 6),
    (Instr.nbAmoFmax, 7)]

/-- The collectives, with their code (08 R221). -/
noncomputable def collForms : List ((An → Instr) × Nat) :=
  [(Instr.collAllReduceSum, 0), (Instr.collAllReduceMax, 1), (Instr.collAllReduceMin, 2), (Instr.collReduceScatterSum, 3), (Instr.collAllGather, 4),
    (Instr.collBroadcast, 5)]

/-- What an A word that reads a 64-byte descriptor goes by: the state after the read and the descriptor's value. -/
def described (s : State) (op : Word) : Option (State × Nat) :=
  match s.runs s.who needR op 64 with
  | (t, .ok rs) =>
    let bs := rs.zipIdx.flatMap (fun r => t.runBytes (2 ^ 20 * r.2) r.1)
    if (firstBad rs bs).isNone then some (t.postRuns s.who.dom rs, ofBytes (bs.map (fun b => b.getD 0))) else none
  | _ => none

/-- What an A word may change when it makes no access of its own. -/
structure AddressFrame (s t : State) (d : Option Nat) : Prop where
  rest : t = { s with core := t.core, ctxs := t.ctxs }
  core : t.core =
    { s.core with
      a := t.core.a, apc := t.core.apc, adoubt := t.core.adoubt, levels := t.core.levels, binds := t.core.binds, ahold := t.core.ahold, aclk := t.core.aclk }
  undef : t.core.a.undef = s.core.a.undef
  others : s.core.endBinds = [] → ∀ i, some i ≠ d → tget t.core.a.cells i = tget s.core.a.cells i

end Sys2Proof.Claims

/-- 08 R205-R209, R213-R216, 09 R227, R230, R233, R236, R237: a push word takes its operands at issue, counts the command on its tag, with
segments laid out for what it names, and goes on; it traps with ILL on an illegal operand, and holds issue while its tag counts
255, or, near the bank, while 16 commands of the stream are not fully forwarded. A copy of length 0 is complete at once. -/
def Obligations.PushWordsQueueTheirCommand : Prop :=
  (∀ (r : An) (s : State), s.AReady r.l r.f [r.d.toNat, r.a.toNat, r.b.toNat] true →
    let d := s.getA 0 r.d.toNat
    let a := s.getA 1 r.a.toNat
    let b := s.getA 2 r.b.toNat
    let tag := r.k.toNat % 64
    let sc := r.k.toNat / 64
    let n := b.toNat % 2 ^ 32
    let rect := bits b.toNat 49 32
    let ill : Out := .next (s.raiseLeave true (.fault causeIll) 0 0)
    let push (bad : Prop) (c : EngCmd) (run : Out) : Prop :=
      (bad → run = ill) ∧ (¬ bad → (s.own.tag tag).pend = 255 → run = .next s) ∧
        (¬ bad → (s.own.tag tag).pend ≠ 255 → run = .next (pushed s c).aDone)
    (n = 0 → (s.own.tag tag).pend ≠ 255 → exec (.cp r) s = .next s.aDone) ∧
    (n = 0 → (s.own.tag tag).pend = 255 → exec (.cp r) s = .next s) ∧
    (n ≠ 0 → push False (s.newCmd .cp tag sc 0 d a b (transferSegs d a n s.core.pos 0)) (exec (.cp r) s)) ∧
    push (bits b.toNat 63 50 ≠ 0 ∨ subRect rect s.partition = false)
      (s.newCmd .mcast tag sc 0 d a b ((rectCores rect).zipIdx.flatMap (fun p => transferSegs (mcastDst d p.2 n p.1) a n p.1 (p.2 * 2 ^ 32))))
      (exec (.mcast r) s) ∧
    (let z := sizeBytes (bits b.toNat 34 32)
     let bad := bits b.toNat 63 35 ≠ 0 ∨ 5 ≤ bits b.toNat 34 32
     push bad (s.newCmd .gat tag sc 0 d a b (elemSegs a n (if z = 64 then 64 else 8) s.core.pos)) (exec (.gat r) s) ∧
     push bad (s.newCmd .sct tag sc 0 d a b (elemSegs a n z s.core.pos)) (exec (.sct r) s)) ∧
    (∀ p ∈ kvForms, push (bits a.toNat 63 56 ≠ 0 ∨ p.2.2 b.toNat) (s.newCmd p.2.1 tag 3 0 d a b [kvStartSeg s.core.pos]) (exec (p.1 r) s)) ∧
    (let c := s.newCmd .cp tag sc 0 d a b []
     c.slot = s.core.ctx.getD 0 ∧ c.pos = s.core.pos ∧ c.word = s.core.air ∧ c.addr = s.core.apc ∧ c.dst = d ∧ c.src = a ∧ c.cnt = b ∧
       c.err = false ∧ c.frozen = none)) ∧
  (∀ (r : An) (s : State), s.AReady r.l r.f [r.d.toNat, r.a.toNat, r.b.toNat] true →
    let d := s.getA 0 r.d.toNat
    let a := s.getA 1 r.a.toNat
    let b := s.getA 2 r.b.toNat
    let tag := r.k.toNat % 64
    let waiting (c : EngCmd) : Prop :=
      (s.own.tag tag).pend = 255 ∨ 16 ≤ (s.cmds.filter (fun k => k.kind.nearBank && k.sameStream c && !k.segs.isEmpty)).length
    let push (bad : Prop) (c : EngCmd) (run : Out) : Prop :=
      (bad → run = .next (s.raiseLeave true (.fault causeIll) 0 0)) ∧ (¬ bad → waiting c → run = .next s) ∧
        (¬ bad → ¬ waiting c → run = .next (pushed s c).aDone)
    (∀ p ∈ rowCommandForms,
      let n := b.toNat % 8192
      let c := s.newCmd p.2.1 tag 0 (if p.2.2 then r.k.toNat / 64 else 0) d a b []
      push (2 ^ 63 ≤ d.toNat ∨ d.toNat % 2048 ≠ 0 ∨ 2 ^ 63 ≤ a.toNat ∨ a.toNat % 2048 ≠ 0 ∨ n = 0 ∨ 4096 < n ∨
          bits b.toNat (if p.2.2 then 31 else 63) 13 ≠ 0 ∨ (p.2.1 = .nbRun ∧ s.core.nbprog = []))
        { c with prog := s.core.nbprog, segs := (List.range n).map c.rowSeg } (exec (p.1 r) s)) ∧
    (∀ p ∈ nearAmoForms,
      let n := b.toNat % 65536
      let c := s.newCmd .nbAmo tag 0 p.2 d a b []
      push (n = 0 ∨ bits b.toNat 63 17 ≠ 0) { c with segs := (List.range n).map c.rowSeg } (exec (p.1 r) s)))

/-- 08 R221, R222, 01 R25, 09 R234, R238, R239: collectives push a command that their descriptor describes, or trap with ILL on an
illegal one; the words that abort, ask for a collective's last attempt, fence or ask for a bank's unit, and fill NBPROG. What a
group across devices is, is configuration (log 11); that the words that abort and ask name the group of either reach is the model's choice
(log 59). -/
def Obligations.CollectiveAndNearBankQueryWordsAct : Prop :=
  (∀ p ∈ collForms, ∀ (r : An) (s t : State) (v : Nat), s.AReady r.l r.f [r.d.toNat, r.a.toNat, r.b.toNat] true →
    described s (s.getA 2 r.b.toNat) = some (t, v) →
    let reach := r.k.getLsbD 8
    let rect := bits v 81 64
    let device := bits v 95 64
    let group := if reach then 2 ^ 32 + device else rect
    let tag := bits v 133 128
    let bad := 2 ^ 224 ≤ v ∨ (reach = false ∧ (subRect rect t.partition = false ∨ inRect rect t.core.pos = false))
    let part : CollPart :=
      { op := p.2, ty := bits r.k.toNat 7 4, reach := reach, count := bits v 63 0, group := group, root := bits v 143 136,
        attempt := bits v 223 192, size := if reach then Config.groupSize device else rectSize rect,
        rank := if reach then Config.groupRank device else ((rectCores rect).findIdx? (fun q => decide (q = t.core.pos))).getD 0, got := [],
        since := t.ptp, sent := false, closed := false, aborted := false }
    let c := t.newCmd .coll tag (if reach then 4 else 3) p.2 (s.getA 0 r.d.toNat) (s.getA 1 r.a.toNat) (s.getA 2 r.b.toNat) []
    let e := decide (bits v 223 192 ≤ t.highest (t.core.ctx.getD 0) group)
    (bad → exec (p.1 r) s = .next (s.raiseLeave true (.fault causeIll) 0 0)) ∧
    (¬ bad → (t.own.tag tag).pend = 255 → exec (p.1 r) s = .next t) ∧
    (¬ bad → (t.own.tag tag).pend ≠ 255 → exec (p.1 r) s = .next (pushed t { c with coll := some part, err := e }).aDone)) ∧
  (∀ (r : An) (s t : State) (v : Nat), s.AReady r.l r.f [r.a.toNat] true → described s (s.getA 0 r.a.toNat) = some (t, v) →
    let k := t.core.ctx.getD 0
    exec (.collAbort r) s =
      .next ((t.collAbort k (bits v 81 64) (bits v 223 192)).collAbort k (2 ^ 32 + bits v 95 64) (bits v 223 192)).aDone) ∧
  (∀ (r : An) (s t : State) (v : Nat), s.AReady r.l r.f [r.a.toNat, r.d.toNat] false → described s (s.getA 0 r.a.toNat) = some (t, v) →
    let k := t.core.ctx.getD 0
    exec (.collAtt r) s =
      .next (t.setA r.d.toNat (BitVec.ofNat 64 (max (t.highest k (bits v 81 64)) (t.highest k (2 ^ 32 + bits v 95 64))))).aDone) ∧
  (∀ (r : An) (s : State), s.AReady r.l r.f [] true →
    let pending := ∃ c ∈ s.cmds, c.kind.nearBank = true ∧ some c.slot = s.core.ctx ∧ c.pos = s.core.pos ∧ c.launch = s.launchId
    (pending → exec (.nbFence r) s = .next s) ∧ (¬ pending → exec (.nbFence r) s = .next s.aDone)) ∧
  (∀ (r : An) (s t : State) (pa ty : Nat), s.AReady r.l r.f [r.a.toNat, r.d.toNat] false →
    let va := s.getA 0 r.a.toNat
    (s.translate s.who needR va.toNat = (t, .ok pa ty) →
      exec (.nbStat r) s =
        .next (t.setA r.d.toNat (if placeOf pa = .hbm then t.nbStatus (t.core.ctx.getD 0) (bankOf pa) else 0)).aDone) ∧
    (s.translate s.who needR va.toNat = (t, .fault) → exec (.nbStat r) s = .next (s.raiseLeave true (.fault causePages) va 0)) ∧
    (s.translate s.who needR va.toNat = (t, .viol pa) →
      exec (.nbStat r) s = .next (s.raiseLeave true (.fault causeViol) (BitVec.ofNat 64 pa) 0)) ∧
    (s.translate s.who needR va.toNat = (t, .data pa) →
      exec (.nbStat r) s = .next (s.raiseLeave true (.fault causeData) (BitVec.ofNat 64 pa) 0))) ∧
  (∀ (r : An) (s t : State) (bs : List Byte) (a : Nat), s.AReady r.l r.f [r.a.toNat] false →
    let op := s.getA 0 r.a.toNat
    let n := r.k.toNat % 16 + 1
    let prog := (List.range n).map (fun i => BitVec.ofNat 16 (ofBytes ((bs.drop (2 * i)).take 2)))
    (op.getLsbD 0 = true → exec (.nbProg r) s = .next (s.raiseLeave true (.fault causeIll) 0 0)) ∧
    (op.getLsbD 0 = false →
      ((engAddr op = .store a ∧ t = s ∧ s.sRead s.who a (2 * n) = .ok bs) ∨
        (engAddr op = .global a ∧ s.gRead s.who needR a (2 * n) = (t, .ok bs))) →
      ((∀ w ∈ prog, microOk w = true) →
        exec (.nbProg r) s = .next ({ t with core := { t.core with nbprog := prog } } : State).aDone) ∧
      ((∃ w ∈ prog, microOk w = false) → exec (.nbProg r) s = .next (s.raiseLeave true (.fault causeIll) 0 0))))

/-- What the A words that only compute, branch, sequence or wait leave alone whenever they give a next state: memory, stores, the X
stream's registers, and every address register but a[D] and those that binds at the end of a body step (08 R185-R190, R224). -/
def Obligations.AddressWordsLeaveTheRestAlone : Prop :=
  (∀ p ∈ addressForms, ∀ (r : Ar) (s t : State), s.core.a.wf = true → exec (p.1 r) s = .next t → AddressFrame s t (some r.d.toNat)) ∧
  (∀ p ∈ addressImmForms, ∀ (r : Ai) (s t : State), s.core.a.wf = true → exec (p.1 r) s = .next t → AddressFrame s t (some r.d.toNat)) ∧
  (∀ c ∈ [Instr.b, Instr.bz, Instr.bnz], ∀ (r : Sys2Proof.Ab) (s t : State), s.core.a.wf = true → exec (c r) s = .next t → AddressFrame s t none) ∧
  (∀ (r : An) (s t : State), s.core.a.wf = true → r.k ≠ 0 →
    (∀ v ∈ s.core.levels.head?, v.2.stop ≠ s.core.apc ∧ v.2.stop ≠ s.core.apc + BitVec.ofNat 64 (4 * r.k.toNat)) →
    exec (.nest r) s = .next t → AddressFrame s t none) ∧
  (∀ (v : BitVec 3) (r : Ar) (s t : State), s.core.a.wf = true → (∀ v ∈ s.core.levels.head?, v.2.stop ≠ s.core.apc) →
    exec (.bind v r) s = .next t → AddressFrame s t none) ∧
  (∀ (r : An) (s t : State), s.core.a.wf = true → exec (.aTw r) s = .next t → AddressFrame s t none) ∧
  (∀ (r : An) (s t : State), s.core.a.wf = true → exec (.aTwa r) s = .next t → AddressFrame s t (some r.d.toNat)) ∧
  (∀ (r : Am) (s t : State), s.core.a.wf = true → exec (.pf r) s = .next t → AddressFrame s t none) ∧
  (∀ (r : Ai) (s t : State), s.core.a.wf = true → exec (.aPause r) s = .next t → AddressFrame s t none)

namespace Sys2Proof.Claims

/-- What follows a microinstruction's effect `t`: the bank is let go if the step held it, and UPC goes on, or the item ends after the last
microinstruction (09 R236, R240). -/
def goesOn (k : Nat) (c : EngCmd) (holds : Bool) (t : State) : State :=
  let v := t.stepped k k holds
  let u := v.nbUnit k
  if u.upc + 1 < u.store.length then v.setUnit k { u with upc := u.upc + 1 } else v.nbFinish k c false

/-- An accumulator of a unit takes a row of element results. -/
def accumulates (s : State) (k : Nat) (c : EngCmd) (d : Bool) (r : List (Option Word) × Flags) : State :=
  (s.setUnit k ((s.nbUnit k).setBa d r.1)).cmdFlags c r.2

end Sys2Proof.Claims

/-- 09 R233, R235, R236, R240: at the bank in focus, a microinstruction of a started item whose step may go ahead loads or stores a row of
X or Y, computes element by element on the accumulators, or on Y in place, and UPC goes on; END ends the item. One that may not step, and
one with no such item, change nothing. -/
def Obligations.MicroinstructionsActOnTheirAccumulators : Prop :=
  (∀ (s : State) (it : NbItem) (c : EngCmd) (d b : Bool), s.nbHead s.bankHere = some (it, c) → c.kind = .nbRun → it.started = true →
    let k := s.bankHere
    let u := s.nbUnit k
    let ty := nbType (c.op % 8)
    let p := bits c.cnt.toNat 63 32
    let x := s.rowIn c it.src
    let y := s.rowIn c it.dst
    let row (f : Nat → Nat → Nat × Flags) : List (Option Word) × Flags := zipRow ty f (u.ba b) (u.ba d)
    let own (f : Nat → Nat × Flags) : List (Option Word) × Flags := zipRow ty (fun _ e => f e) (u.ba d) (u.ba d)
    let inPlace (f : Nat → Nat → Nat × Flags) : State := (y.1.rowOut it.dst (zipRow ty f (u.ba b) y.2).1).cmdFlags c (zipRow ty f (u.ba b) y.2).2
    let fill := mapWord ty (fun _ _ => nbFill ty p) 0 0
    exec .nbuEnd s = .next (s.nbFinish k c false) ∧
    (s.mayStep k k true = true →
      exec (.nbuLdx d) s = .next (goesOn k c true (x.1.setUnit k (u.setBa d x.2))) ∧
      exec (.nbuLdy d) s = .next (goesOn k c true (y.1.setUnit k (u.setBa d y.2))) ∧
      exec (.nbuSty b) s = .next (goesOn k c true (s.rowOut it.dst (u.ba b))) ∧
      exec (.nbuAccy b) s = .next (goesOn k c true (inPlace (nbAdd ty))) ∧
      exec (.nbuAxpy b) s = .next (goesOn k c true (inPlace (nbFma ty p)))) ∧
    (s.mayStep k k false = true →
      exec (.nbuAdd d b) s = .next (goesOn k c false (accumulates s k c d (row (nbAdd ty)))) ∧
      exec (.nbuMul d b) s = .next (goesOn k c false (accumulates s k c d (row (nbMul ty)))) ∧
      exec (.nbuMax d b) s = .next (goesOn k c false (accumulates s k c d (row (nbMax ty)))) ∧
      exec (.nbuScl d) s = .next (goesOn k c false (accumulates s k c d (own (nbScl ty p)))) ∧
      exec (.nbuFill d) s = .next (goesOn k c false (accumulates s k c d (List.replicate 256 (some fill.1), fill.2))) ∧
      exec (.nbuFma d b) s = .next (goesOn k c false (accumulates s k c d (row (nbFma ty p))))) ∧
    (s.mayStep k k true = false →
      ∀ i ∈ [Instr.nbuLdx d, Instr.nbuLdy d, Instr.nbuSty b, Instr.nbuAccy b, Instr.nbuAxpy b], exec i s = .next s) ∧
    (s.mayStep k k false = false →
      ∀ i ∈ [Instr.nbuAdd d b, Instr.nbuMul d b, Instr.nbuMax d b, Instr.nbuScl d, Instr.nbuFill d, Instr.nbuFma d b], exec i s = .next s)) ∧
  (∀ (s : State) (d b : Bool), s.nbHead s.bankHere = none →
    ∀ i ∈ [Instr.nbuEnd, Instr.nbuLdx d, Instr.nbuLdy d, Instr.nbuSty b, Instr.nbuAdd d b, Instr.nbuMul d b, Instr.nbuMax d b, Instr.nbuScl d,
        Instr.nbuFill d, Instr.nbuFma d b, Instr.nbuAccy b, Instr.nbuAxpy b], exec i s = .next s) ∧
  (∀ ty p a b : Nat, tyInt ty = true →
    nbAdd ty a b = (nbInt ty (decInt ty a + decInt ty b), 0) ∧ nbMul ty a b = (nbInt ty (decInt ty a * decInt ty b), 0) ∧
    nbMax ty a b = (if decInt ty a ≤ decInt ty b then b else a, 0) ∧ nbScl ty p a = (nbInt ty (decInt 2 p * decInt ty a), 0) ∧
    nbFma ty p a b = (nbInt ty (decInt 2 p * decInt ty a + decInt ty b), 0)) ∧
  (∀ ty p a b : Nat, tyInt ty = false →
    nbAdd ty a b = fAdd ty 0 a b ∧ nbMax ty a b = minMax ty true a b ∧
    nbFma ty p a b = fusedV ty 0 false false (decF 10 p) (decF ty a) (decF ty b))

namespace Sys2Proof.Claims

/-- A command after its segment number `i`, which is `g`, is performed: the segment is forgotten, and with it the containment event that
it may have met. -/
def segDone (i : Nat) (g : Seg) (c : EngCmd) : EngCmd :=
  { c with segs := c.segs.eraseIdx i, strike := c.strike.filter (fun x => decide (x.1 ≠ g)), fired := false }

/-- A command whose segment number `i` waits in its fix-up list for the promotion that resolves it. -/
def segFix (i : Nat) (g : Seg) (p : Option Nat) (c : EngCmd) : EngCmd :=
  let f : Fixup := { seg := g, promote := p }
  { c with segs := c.segs.eraseIdx i, fixups := c.fixups ++ [f] }

/-- A command that takes segment `g` of a fix-up entry back. -/
def fixBack (ent : Nat) (g : Seg) (c : EngCmd) : EngCmd := { c with fixups := c.fixups.eraseIdx ent, segs := g :: c.segs }

/-- A command whose fix-up entry fails. -/
def fixLost (ent : Nat) (c : EngCmd) : EngCmd := { c with fixups := c.fixups.eraseIdx ent, err := true }

/-- A near-bank item that its row step has ended: the bank is let go, the queue goes on, and its command counts one item less. -/
def rowDone (t : State) (k : Nat) (c : EngCmd) (err : Bool) : State := (t.stepped k k true).nbFinish k c err

end Sys2Proof.Claims

/-- 08 R205-R207, R209, R210, R214, R221; 09 R227, R232: a segment of a copy whose source and destination are reached moves its check words, and
the command has one segment less; one that meets a translation fault goes to the fix-up list, and its replay performs it once the page is
present; one that no promotion resolves fails; a range that leaves its address space is a violation. The rows of `kvg` are performed in order.
A command that is done posts its completion in its tag and is forgotten. Items go to their banks in push order; those bound for a full
queue let later ones pass. A frozen command and a package that quiesces do nothing. -/
def Obligations.EngineCommandsMoveTheirSegments : Prop :=
  (∀ (s : State) (k i : Nat) (c : EngCmd) (g : Seg), s.cmd k = some c → c.frozen = none → s.quiesced = false → c.segs[i]? = some g →
    let n := c.cnt.toNat % 2 ^ 32
    let same := sameSpace c.src g.src = true ∧ sameSpace c.dst g.dst = true
    (c.kind = .cp ∨ c.kind = .mcast → same → ∀ (u v : State) (rs rd : List (Loc × Nat)),
      s.runs (s.cmdWho c c.pos) needR g.src g.len = (u, .ok rs) → u.runs (s.cmdWho c g.pos) needW g.dst g.len = (v, .ok rd) →
      (∀ x ∈ c.strike, x.1 ≠ g) → allWords c.dst c.src n = true → s.clash c = false → runsMeet rs rd = false →
      exec (.engineSegment k i) s =
        .next ((v.putWords rd (rs.zipIdx.flatMap (fun r => v.runWords (2 ^ 20 * r.2) r.1))).updCmd c.id (segDone i g))) ∧
    (c.kind = .cp ∨ c.kind = .mcast → same → ∀ (u : State) (a : Nat), s.runs (s.cmdWho c c.pos) needR g.src g.len = (u, .pages a) →
      c.fixups.length < 32 → exec (.engineSegment k i) s =
        .next ((u.updCmd c.id (segFix i g none)).sample (u.whoOf c.slot 0).dom 8 (c.fixups.length + 1))) ∧
    (c.kind = .cp ∨ c.kind = .mcast → same → ∀ (u : State) (a : Nat), s.runs (s.cmdWho c c.pos) needR g.src g.len = (u, .viol a) →
      exec (.engineSegment k i) s = .next (u.cmdViol c a)) ∧
    (c.kind = .cp ∨ c.kind = .mcast → sameSpace c.src g.src = false → exec (.engineSegment k i) s = .next (s.cmdViol c g.src.toNat)) ∧
    (c.kind = .gat ∨ c.kind = .sct → exec (.engineSegment k i) s = .next ((s.elemSeg c g).1.segEnd c i g (s.elemSeg c g).2)) ∧
    (c.kind = .kvg ∨ c.kind = .kva → g.len ≠ 0 → c.kind = .kva ∨ i = 0 →
      exec (.engineSegment k i) s = .next ((s.kvRow c g).1.segEnd c i g (s.kvRow c g).2)) ∧
    (c.kind = .kvg → i ≠ 0 → exec (.engineSegment k i) s = .next s) ∧
    (c.kind.nearBank = true → exec (.engineSegment k i) s = .next s)) ∧
  (∀ (s : State) (k i : Nat) (c : EngCmd), s.cmd k = some c → c.frozen ≠ none ∨ s.quiesced = true →
    exec (.engineSegment k i) s = .next s ∧ exec (.fixupReplay k i) s = .next s ∧ exec (.nbItemForward k) s = .next s) ∧
  (∀ (s : State) (k j q : Nat) (c : EngCmd) (f : Fixup), s.cmd k = some c → c.fixups[j]? = some f → c.frozen = none → s.quiesced = false →
    f.promote = some q →
    (eTier (s.dirEntry q) ≤ 1 → eMoving (s.dirEntry q) = false →
      exec (.fixupReplay k j) s = .next ((s.updCmd k (fun _ => fixBack j f.seg c)).segment (fixBack j f.seg c) 0)) ∧
    (2 ≤ eTier (s.dirEntry q) ∨ eMoving (s.dirEntry q) = true → exec (.fixupReplay k j) s = .next s)) ∧
  (∀ (s : State) (k j : Nat) (c : EngCmd) (f : Fixup), s.cmd k = some c → c.fixups[j]? = some f → c.frozen = none → f.promote = none →
    exec (.fixupFail k j) s = .next (s.updCmd k (fixLost j))) ∧
  (∀ (s : State) (k : Nat) (c : EngCmd), s.cmd k = some c →
    (c.ready = false → exec (.engineCommandComplete k) s = .next s) ∧
    (c.ready = true → c.kind ≠ .kva → c.flags = 0 → c.coll = none → ∃ t, exec (.engineCommandComplete k) s = .next t ∧
      tget t.stores (storeKey c.slot c.pos) = some ((s.storeAt (storeKey c.slot c.pos)).setTag c.tag
        (((s.storeAt (storeKey c.slot c.pos)).tag c.tag).complete c.err)) ∧
      t.cmds = s.cmds.filter (fun x => decide (x.id ≠ c.id)) ∧ t.mem = s.mem ∧ t.core = s.core ∧ t.ctxs = s.ctxs)) ∧
  (∀ (s : State) (k : Nat) (c : EngCmd), s.cmd k = some c → c.segs = [] → c.fixups = [] → c.items = 0 →
    exec (.nbInvalidationDone k) s = .next (s.updCmd k (fun c => { c with invalid := false }))) ∧
  (∀ (s t : State) (k : Nat) (c : EngCmd) (g : Seg) (r : List Seg) (it : NbItem) (copies : Bool), s.cmd k = some c → c.frozen = none →
    s.quiesced = false → c.kind.nearBank = true → c.segs = g :: r →
    (s.cmds.filter (fun e => e.kind.nearBank && e.sameStream c && e.frozen.isNone)).head? = some c →
    s.nbItem c g r = (t, .ok (it, copies)) →
    ((s.nbUnit (bankOf it.dst)).queue.length < 8 → bankOf it.src = bankOf it.dst → exec (.nbItemForward k) s = .next (t.enqueue c 0 it copies)) ∧
    (∀ (u : State) (h : Seg) (q : List Seg) (jt : NbItem) (more : Bool), 8 ≤ (s.nbUnit (bankOf it.dst)).queue.length → r = h :: q →
      s.nbItem c h q = (u, .ok (jt, more)) → (s.nbUnit (bankOf jt.dst)).queue.length < 8 → bankOf jt.src = bankOf jt.dst →
      exec (.nbItemForward k) s = .next (u.enqueue c 1 jt more)))

/-- 09 R229-R233, R236, R237, R240, R241; 11 R291, R293-R295: the item at the head of a bank's queue takes its next step: a zeroed row, a
copied row at once or through a buffer of the base die, the two steps of a scaled addition, a group of atomic entries, the next
microinstruction. A step that holds a bank, a source bank included, goes only when that bank's sharing allows it.
Ordinary requests that have waited too long suspend the unit, and it resumes when they have gone; a request that issues opens its row
and is counted; the published list and the filter go over at the end of their interval. -/
def Obligations.NearBankUnitsShareTheirBanks : Prop :=
  (∀ (s : State) (k : Nat) (it : NbItem) (c : EngCmd), s.nbHead k = some (it, c) → s.quiesced = false ∨ it.started = true →
    s.mayStep k k true = true →
    (c.kind = .nbZero → exec (.nbRowStep k) s = .next (rowDone (s.physSetWords it.dst (List.replicate 256 (CWord.good 0))) k c false)) ∧
    (c.kind = .nbCopy → bankOf it.src = k → subarrayOf it.src = subarrayOf it.dst → s.rowsClash c = false →
      exec (.nbRowStep k) s = .next (rowDone (s.physSetWords it.dst (s.rowRaw it.src)) k c false)) ∧
    (c.kind = .nbCopy → (bankOf it.src ≠ k ∨ subarrayOf it.src ≠ subarrayOf it.dst) → ∀ w ws, it.buffer = some (w :: ws) →
      s.rowsClash c = false → exec (.nbRowStep k) s = .next (rowDone (s.physSetWords it.dst (w :: ws)) k c false)) ∧
    (c.kind = .nbAxpy → (s.nbUnit k).upc ≠ 0 → exec (.nbRowStep k) s = .next (rowDone (s.microStep k it c 11 false false) k c false)) ∧
    (c.kind = .nbAxpy → (s.nbUnit k).upc = 0 → bankOf it.src = k →
      let t := ((s.microStep k it c 1 false false).setHead k { it with started := true }).stepped k k true
      exec (.nbRowStep k) s = .next (t.setUnit k { t.nbUnit k with upc := 1 })) ∧
    (c.kind = .nbAmo → exec (.nbRowStep k) s = .next (rowDone (it.entries.foldl (fun u e => u.amoEntry c e) s) k c false))) ∧
  (∀ (s t : State) (c : EngCmd) (e : NbEntry) (o : AmoOut),
    s.atomicAt (s.whoOf c.slot 0).dom e.at_ (nbAmoOp c.op) c.amoType e.val.toNat 0 = (t, .ok o) → s.amoEntry c e = t.cmdFlags c o.flags) ∧
  (∀ (s : State) (k : Nat) (it : NbItem) (c : EngCmd), s.nbHead k = some (it, c) → it.started = true → c.kind = .nbRun →
    ∀ w, (s.nbUnit k).store[(s.nbUnit k).upc]? = some w →
      exec (.nbRowStep k) s = .next (s.micro k (w.extractLsb' 12 4).toNat (w.getLsbD 11) (w.getLsbD 10))) ∧
  (∀ (s : State) (k : Nat) (it : NbItem) (c : EngCmd), s.nbHead k = some (it, c) → it.started = false → s.quiesced = false → c.kind = .nbRun →
    (s.heldBack k = true → exec (.nbRowStep k) s = .next s) ∧
    (s.heldBack k = false → bankOf it.src ≠ k → exec (.nbRowStep k) s = .next (s.nbFinish k c true)) ∧
    (s.heldBack k = false → bankOf it.src = k → ∃ t, exec (.nbRowStep k) s = .next t ∧ (t.nbUnit k).store = c.prog ∧ (t.nbUnit k).upc = 0 ∧
      (t.nbUnit k).ba0 = List.replicate 256 (some 0) ∧ (t.nbUnit k).ba1 = List.replicate 256 (some 0) ∧
      (t.nbUnit k).queue = { it with started := true } :: (s.nbUnit k).queue.drop 1 ∧ t.mem = s.mem)) ∧
  (∀ (s : State) (k : Nat) (it : NbItem) (c : EngCmd), s.nbHead k = some (it, c) → s.quiesced = false ∨ it.started = true →
    (c.kind = .nbCopy ∧ (bankOf it.src ≠ k ∨ subarrayOf it.src ≠ subarrayOf it.dst)) ∨
      (c.kind = .nbAxpy ∧ (s.nbUnit k).upc = 0 ∧ bankOf it.src ≠ k) →
    let place := bankOf it.src
    (it.buffer = none → s.buffersUsed (stackOf it.src) < 16 →
      exec (.nbRowStep k) s = .next ((s.setUnit k { s.nbUnit k with since := s.ptp }).setHead k { it with buffer := some [] })) ∧
    (it.buffer = none → 16 ≤ s.buffersUsed (stackOf it.src) → exec (.nbRowStep k) s = .next s) ∧
    (it.buffer = some [] → s.mayStep k place true = true →
      exec (.nbRowStep k) s = .next ((s.setHead k { it with started := true, buffer := some (s.rowRaw it.src) }).stepped k place true)) ∧
    (it.buffer = some [] → s.mayStep k place true = false → exec (.nbRowStep k) s = .next s)) ∧
  (∀ (s : State) (k : Nat) (it : NbItem) (c : EngCmd), s.nbHead k = some (it, c) → s.mayStep k k true = false →
    c.kind = .nbZero ∨ c.kind = .nbAmo ∨ (c.kind = .nbAxpy ∧ (s.nbUnit k).upc ≠ 0) → exec (.nbRowStep k) s = .next s) ∧
  (∀ (s : State) (k place : Nat), s.heldBack k = true ∨ s.heldBack place = true ∨ (∃ r ∈ (tget s.reqs place).getD [], r.owed = true) →
    s.mayStep k place true = false) ∧
  (∀ (s : State) (k : Nat), s.nbHead k = none → exec (.nbRowStep k) s = .next s) ∧
  (∀ (s : State) (k : Nat) (it : NbItem) (q : List NbItem), (s.nbUnit k).queue = it :: q → (s.nbUnit k).suspended = false →
    (s.olderThan k s.res.agecap = true → ∃ t, exec (.nbSuspend k) s = .next t ∧ (t.nbUnit k).suspended = true ∧
      (t.nbUnit k).queue = { it with suspends := it.suspends + 1 } :: q ∧ (t.nbUnit k).upc = (s.nbUnit k).upc ∧ t.mem = s.mem) ∧
    (s.olderThan k s.res.agecap = false → exec (.nbSuspend k) s = .next s)) ∧
  (∀ (s : State) (k : Nat), (s.nbUnit k).suspended = true → s.olderThan k (s.res.agecap / 2) = false →
    exec (.nbResume k) s = .next (s.setUnit k { s.nbUnit k with suspended := false, since := s.ptp })) ∧
  (∀ (s : State) (k : Nat) (q : List BankReq) (r : BankReq), tget s.reqs k = some q →
    q[nextReq q (tget s.openRow k) s.ptp s.res.agecap]? = some r →
    ∃ t, exec (.bankRequestIssue k) s = .next t ∧ tget t.openRow k = some r.row ∧ t.mem = s.mem ∧
      tget t.hbm (k / 1024) = some ((s.stack (k / 1024)).count r.pn) ∧
      (s.olderThan k s.res.agecap = true → (t.nbUnit k).suspended = true)) ∧
  (∀ (s : State) (k : Nat), exec (.refresh k) s = .next { s with openRow := tdel s.openRow k }) ∧
  (∀ (s : State) (k : Nat), (s.stack k).since + s.res.skint ≤ s.ptp → ∃ t, exec (.skintExpiry k) s = .next t ∧
    (t.stack k).top = (s.stack k).working.foldl (fun l e => insertTop e l) [] ∧ (t.stack k).working = [] ∧ (t.stack k).sketch = [] ∧
    (t.stack k).since = s.ptp ∧ t.mem = s.mem) ∧
  (∀ (s : State) (k : Nat), s.res.mscwin ≤ (s.stack k).misses → ∃ t, exec (.mscFilterClear k) s = .next t ∧ (t.stack k).filter = [] ∧
    (t.stack k).misses = 0 ∧ t.mem = s.mem)

namespace Sys2Proof.Claims

/-- The park record of a leave request with a cause, in the control block of its context (10 Table 10-3): TCODE, place, stream and CAUSE, then
PWORD, PADDR and PDATA. -/
def withParkRecord (s : State) (c : Ctx) (a : Ask) (cause : Nat) : State :=
  let v := (if cause = causeTrap then a.tcode.toNat else 0) * 2 ^ 32 + a.pos / 64 * 2 ^ 18 + a.pos % 64 * 2 ^ 12 +
    (if a.aStream then 2 ^ 11 else 0) + cause
  (((s.setCb c 0x20 (BitVec.ofNat 64 v)).setCb c 0x28 a.word).setCb c 0x30 a.addr).setCb c 0x38 a.data

/-- A pre-emption request as the scheduler raises it, for a deadline launch or not. -/
def preemptAsk (s : State) (deadline : Bool) : Ask :=
  { kind := .preempt deadline, pos := 0, aStream := false, word := 0, addr := 0, data := 0, tcode := 0, passed := true, time := s.ptp }

/-- A context with a further leave request. -/
def asked (c : Ctx) (a : Ask) : Ctx := { c with asks := c.asks ++ [a] }

/-- A context whose leave is accepted. -/
def leaving (c : Ctx) (r : List Ask) (a : Ask) : Ctx := { c with asks := r, leave := some a }

/-- A context whose leave is accepted and that is parked by a cause. -/
def leavingFor (c : Ctx) (r : List Ask) (a : Ask) (cause : Nat) : Ctx :=
  let p := if cause = causePages ∧ a.tcode = 1 then some a.data.toNat else none
  { c with asks := r, leave := some a, parkCause := cause, parkPassed := a.passed, pagesOf := p }

/-- A started move of a page, with its directory entry marked (11 R286). -/
def moveBegun (s : State) (m : Move) : State := { s.setDir m.kvpn (withMoving m.old true) with moves := s.moves ++ [m] }

/-- The move of a page to a place, under an entry whose other fields `e` gives. -/
def moveTo (s : State) (k : Nat) (e : Word) (tier loc : Nat) (demotion : Bool) : Move :=
  { kvpn := k, old := s.dirEntry k, entry := placedIn e tier loc, tier := tier, loc := loc, t0 := s.ptp, demotion := demotion }

/-- Whether the die that is home to a page has a move left: it runs up to sixteen. -/
def moveLeft (s : State) (k : Nat) : Prop := (s.moves.filter (fun m => decide (m.kvpn % 4 = k % 4))).length < 16

/-- A move that the supervisor asked for: it starts where the die's engine can take it, no faulted page waits for its own, and the new
place is not fenced; otherwise it waits. -/
def moveWanted (s : State) (m : Move) (t : State) : Prop :=
  let may := moveLeft s m.kvpn ∧ s.faultWaits (m.kvpn % 4) = false ∧
    ((eTier (s.dirEntry m.kvpn) = m.tier ∧ eLoc (s.dirEntry m.kvpn) = m.loc) ∨ s.fenced m.tier m.loc = false)
  (may → t = moveBegun s m) ∧ (¬ may → t = { s with moveQueue := s.moveQueue ++ [m] })

end Sys2Proof.Claims

/-- 10 R245-R247, R258, R261, R269-R273; 01 R21, R22: the first leave request is accepted, but a fault goes before a pre-emption
that is asked for and not yet accepted: a fault writes the park record and, but for PAGES, tells the supervisor; a yield completes; a wait
whose condition came true completes, and another sets WAKE from the time of its word. A request that comes later is counted
in NFAULT when a record stands, parks the context if an asynchronous command raised it, or completes if it is a yield; a transfer that
cannot be made completes with its status. The scheduler asks a context to leave where it must. When everything has stopped the frames are
saved, each trimmed by the live mask, the cores are free, and the context takes the state that its leave gives it. -/
def Obligations.LeavesAreAcceptedAndFramesSaved : Prop :=
  ((∀ (a : Ask) (r : List Ask), a.kind.preempts = false ∨ (∀ b ∈ r, b.kind.faults = false) → nextAsk (a :: r) = some (a, r)) ∧
    ∀ (a b : Ask) (p q : List Ask), a.kind.preempts = true → (∀ x ∈ p, x.kind.faults = false) → b.kind.faults = true →
      nextAsk (a :: List.append p (b :: q)) = some (b, a :: List.append p q)) ∧
  (∀ (s : State) (k : Nat) (c : Ctx) (a : Ask) (r : List Ask), tget s.ctxs k = some c → nextAsk c.asks = some (a, r) → c.leave = none →
    let c' : Ctx := { c with asks := r }
    let u := s.setCtx k c'
    (∀ b, a.kind = .preempt b → exec (.leaveAccept k) s = .next (u.setCtx k (leaving c r a))) ∧
    (a.kind = .yield → exec (.leaveAccept k) s = .next ((u.setCtx k (leaving c r a)).completeAt k a.pos)) ∧
    (∀ cause, a.kind = .fault cause → c.parkCause = 0 → cause ≠ causeData → cause ≠ 0 → cause ≠ causePages →
      exec (.leaveAccept k) s = .next (((withParkRecord u c a cause).setCtx k (leavingFor c r a cause)).tellSuper c.tdom)) ∧
    (a.kind = .fault causePages → c.parkCause = 0 →
      exec (.leaveAccept k) s = .next ((withParkRecord u c a causePages).setCtx k (leavingFor c r a causePages))) ∧
    (∀ cause, a.kind = .late cause → c.parkCause = 0 → cause ≠ causeData → cause ≠ 0 → cause ≠ causePages →
      exec (.leaveAccept k) s = .next (((withParkRecord u c a cause).setCtx k
        { leaving c r a with parkCause := cause, parkPassed := a.passed }).tellSuper c.tdom)) ∧
    (∀ y d, a.kind = .xfer y d →
      (u.xferStatus k a.data.toNat = 0 → exec (.leaveAccept k) s = .next (u.setCtx k (leaving c r a))) ∧
      (u.xferStatus k a.data.toNat ≠ 0 →
        exec (.leaveAccept k) s = .next ((u.setCtx k c').xferEnd k a d (u.xferStatus k a.data.toNat)))) ∧
    (∀ w any mask hint, a.kind = .wait w any mask hint →
      (waitSat c.events w any mask = true →
        exec (.leaveAccept k) s = .next (((u.setCtx k { c' with events := consume c.events w mask }).completeAt k a.pos).updCore k a.pos
          (fun x => x.release false))) ∧
      (waitSat c.events w any mask = false →
        let h := hint % 2 ^ 63
        let v := u.setCb c 0x40 (BitVec.ofNat 64 (a.time + (if h = 0 then (u.cbWord c 0x48).toNat else h)))
        let t := if 2 ^ 63 ≤ hint then some (a.time + h) else c.timer
        let e : Option EvWait := some { pos := a.pos, word := w, any := any, mask := mask }
        exec (.leaveAccept k) s = .next (v.setCtx k { leaving c r a with timer := t, evWait := e })))) ∧
  (∀ (s : State) (k : Nat) (c : Ctx) (a : Ask) (r : List Ask), tget s.ctxs k = some c → nextAsk c.asks = some (a, r) → c.leave ≠ none →
    let c' : Ctx := { c with asks := r }
    let u := s.setCtx k c'
    (a.kind = .yield → exec (.leaveAccept k) s = .next ((u.completeAt k a.pos).updCore k a.pos (fun x => x.release a.aStream))) ∧
    (∀ b, a.kind = .preempt b → exec (.leaveAccept k) s = .next (u.updCore k a.pos (fun x => x.release a.aStream))) ∧
    (∀ y d, a.kind = .xfer y d → exec (.leaveAccept k) s = .next ((u.xferEnd k a d 4).updCore k a.pos (fun x => x.release a.aStream))) ∧
    (∀ cause, a.kind = .fault cause → cause ≠ causeData →
      exec (.leaveAccept k) s = .next ((if c.parkCause = 0 then u
        else u.setCbBits c' 0x20 31 24 (min 255 (bits (u.cbWord c' 0x20).toNat 31 24 + 1))).updCore k a.pos (fun x => x.release a.aStream))) ∧
    (∀ cause, a.kind = .late cause → cause ≠ causeData → c.parkCause = 0 →
      let x : Ctx := { c' with
        parkCause := cause, parkPassed := a.passed, evWait := none, pagesOf := none,
        state := if c.state = .running then .running else if c.launch.any (fun l => l.inHbm) then .swapped else .parked }
      exec (.leaveAccept k) s = .next (((withParkRecord u c a cause).setCtx k x).tellSuper c.tdom))) ∧
  (∀ (s : State) (k : Nat) (c : Ctx), tget s.ctxs k = some c → c.asks = [] → exec (.leaveAccept k) s = .next s) ∧
  (∀ (s : State) (k : Nat) (c : Ctx), tget s.ctxs k = some c → c.state = .running → c.leave = none →
    (∀ a ∈ c.asks, a.kind.preempts = false) →
    let pressed (p : LaunchRec → Prop) : Prop := ∃ x ∈ s.ctxs, x.2.state = .ready ∧ x.2.tdom = c.tdom ∧ ∃ q, x.2.nextLaunch = some q ∧ p q.2 ∧
      s.presses x.2 q.2 = true ∧ k ∈ s.bestVictims x.2.tdom q.2
    let deadline := pressed (fun q => q.cls = 0)
    let out := ∃ l, c.launch = some l ∧ ∃ p ∈ rectCores l.record.rect.toNat, physOf l.record.rect.toNat l.origin p ∈ s.withdrawn
    (deadline → exec (.preemption k) s = .next (s.setCtx k (asked c (preemptAsk s true)))) ∧
    (¬ deadline → pressed (fun _ => True) ∨ out ∨ s.quiesced = true →
      exec (.preemption k) s = .next (s.setCtx k (asked c (preemptAsk s false)))) ∧
    (¬ pressed (fun _ => True) → ¬ out → s.quiesced = false → exec (.preemption k) s = .next s)) ∧
  (∀ (s : State) (k : Nat) (c : Ctx) (l : Launch), tget s.ctxs k = some c → c.state = .running → c.leave = none →
    (∀ a ∈ c.asks, a.kind.preempts = false) → c.launch = some l →
    l.record.cls = 2 → l.since + ((s.dom c.tdom).map (fun d => d.sched.quantum)).getD 0 ≤ s.ptp →
    (∃ x ∈ s.ctxs, x.2.state = .ready ∧ x.2.tdom = c.tdom ∧ ∃ q, x.2.nextLaunch = some q ∧ q.2.cls = 2) →
    exec (.quantumExpiry k) s = .next (s.setCtx k (asked c (preemptAsk s false)))) ∧
  (∀ (s : State) (k : Nat) (c : Ctx) (l : Launch) (a : Ask), tget s.ctxs k = some c → c.launch = some l → c.leave = some a →
    (c.state ≠ .running ∨ s.halted k l = false → exec (.frameSave k) s = .next s) ∧
    (c.state = .running → s.halted k l = true → ∀ y d, a.kind = .xfer y d → s.xferStatus k a.data.toNat ≠ 0 →
      exec (.frameSave k) s = .next ((s.setCtx k { c with leave := none }).xferEnd k a d (s.xferStatus k a.data.toNat))) ∧
    (c.state = .running → s.halted k l = true → c.asks = [] → (∀ y d, a.kind ≠ .xfer y d) →
      ((∃ x ∈ s.launchCores k l, x.2.gone = false) ∨ a.kind.preempts = false ∨ c.parkCause ≠ 0) →
      let waits := a.kind.waits = true ∨ c.parkCause ≠ 0
      let goes := c.parkCause = 0 ∨ c.pagesOf ≠ none
      (c.parkCause = causePages → a.tcode ≠ 1 → c.pagesOf = none → ∃ t x, exec (.frameSave k) s = .next t ∧ tget t.ctxs k = some x ∧
        x.leave = none ∧ x.parkCause = causeViol) ∧
      (c.parkCause ≠ causePages → c.pagesOf = none →
        ∃ t x q, exec (.frameSave k) s = .next t ∧ tget t.ctxs k = some x ∧ x.leave = none ∧ x.launch = some q ∧ q.record = l.record ∧
          q.frames = (s.launchCores k l).map (fun p =>
            let f := (p.2.drain s.cycle).trim l.record.live (s.epoch (s.here + 4096 * p.1) 8)
            (p.1, if goes then f.thaw else f)) ∧
          (¬ waits → x.state = .ready) ∧ (waits → x.state = if q.inHbm then .swapped else .parked) ∧
          x.parkCause = c.parkCause ∧ t.core.ctx ≠ some k ∧ ∀ e ∈ t.cores, e.2.ctx ≠ some k) ∧
      (∀ p, c.parkCause = causePages → a.tcode = 1 → c.pagesOf = some p → s.isPresent p = true →
        ∃ t x, exec (.frameSave k) s = .next t ∧ tget t.ctxs k = some x ∧ x.leave = none ∧ x.parkCause = 0 ∧ x.pagesOf = none)))

/-- 10 R252-R254, R261-R264; 01 R22, R26, R29; 11 R287, R289; 17 R375: a ready context that no other goes before is placed on a free rectangle
that is not kept for a bulk launch, its cores initialised or restored, and one that could never be placed tells the supervisor. Frames go to HBM4E and come back when there is
room. A reclaimed bank is no longer bound once it holds no page. A context whose wait is over becomes ready; the wake timer sets event
225; a control node reads its condition word, sets SET and arms the successor that the word selects. -/
def Obligations.ContextsArePlacedAndWoken : Prop :=
  (∀ (s : State) (k o pa : Nat) (c : Ctx) (r : LaunchRec), tget s.ctxs k = some c → c.nextLaunch = some (pa, r) → c.state = .ready →
    s.ready = true → s.quiesced = false → s.pNow ≠ 3 → s.awaited k = false →
    ((∀ z ∈ origins r.rect.toNat, s.usableAt c.tdom r.rect.toNat z = false) → exec (.placement k o) s = .next (s.tellSuper c.tdom)) ∧
    ((∃ z ∈ origins r.rect.toNat, s.usableAt c.tdom r.rect.toNat z = true) → s.freeAt c.tdom r.rect.toNat o = true →
      s.banksFree k r.rect.toNat o = true → s.outranked k c r = false → s.reserved k c r o = false →
      ∃ t x q, exec (.placement k o) s = .next t ∧ tget t.ctxs k = some x ∧ x.state = .running ∧ x.launch = some q ∧ q.origin = o ∧
        q.since = s.ptp ∧ q.inHbm = false ∧ q.frames = [] ∧ x.parkCause = 0 ∧ x.evWait = none ∧
        x.asid = ((s.cbWord c 0).extractLsb' 32 16).toNat ∧
        (∀ p, c.launch = none → rectCores r.rect.toNat = [p] →
          (∀ g, tableFrom 0 (s.storeAt (storeKey k p)).tags = true → ((s.storeAt (storeKey k p)).tag g).pend = 0 →
            (t.storeAt (storeKey k p)).tag g = { pend := 0, done := true, err := false }) ∧
          t.coreAt (physOf r.rect.toNat o p) = Core.first k p r (BitVec.ofNat 32 (s.cbWord c 0x10).toNat &&& spillMask)
            (s.epoch (physOf r.rect.toNat o p) 16))) ∧
    ((∃ z ∈ origins r.rect.toNat, s.usableAt c.tdom r.rect.toNat z = true) →
      s.freeAt c.tdom r.rect.toNat o = false ∨ s.banksFree k r.rect.toNat o = false ∨ s.outranked k c r = true ∨ s.reserved k c r o = true →
      exec (.placement k o) s = .next s)) ∧
  (∀ (s : State) (k o : Nat) (c : Ctx), tget s.ctxs k = some c →
    c.state ≠ .ready ∨ s.ready = false ∨ s.quiesced = true ∨ s.pNow = 3 ∨ s.awaited k = true →
    exec (.placement k o) s = .next s) ∧
  (∀ (s : State) (k : Nat) (c : Ctx) (l : Launch), tget s.ctxs k = some c → c.launch = some l →
    (c.state = .parked → exec (.swapOut k) s = .next (s.setCtx k { c with state := .swapped, launch := some { l with inHbm := true } })) ∧
    (c.state = .ready → exec (.swapOut k) s = .next (s.setCtx k { c with launch := some { l with inHbm := true } })) ∧
    (l.inHbm = true → c.state = .swapped → s.roomFor l false (((s.dom c.tdom).map (fun d => d.sched.dlreserve)).getD 0) = true →
      exec (.swapIn k) s = .next (s.setCtx k { c with state := .parked, launch := some { l with inHbm := false } })) ∧
    (l.inHbm = true → s.roomFor l false (((s.dom c.tdom).map (fun d => d.sched.dlreserve)).getD 0) = false →
      exec (.swapIn k) s = .next s)) ∧
  (∀ (s : State) (k : Nat) (c : Ctx), tget s.ctxs k = some c → c.launch = none →
    exec (.swapOut k) s = .next s ∧ exec (.swapIn k) s = .next s) ∧
  (∀ (s : State) (k p : Nat) (c : Ctx), tget s.ctxs k = some c →
    (∀ i, c.state ≠ .running → tget s.bound (storeKey k p) = some i → (∀ h ∈ s.homes, storeKey h.2.slot h.2.pos ≠ storeKey k p) →
      (s.coreFenced i = false → exec (.bankReclaim k p) s = .next { s with bound := tdel s.bound (storeKey k p) }) ∧
      (s.coreFenced i = true → exec (.bankReclaim k p) s = .next s)) ∧
    (∀ l, c.state = .running → c.launch = some l → inRect l.record.rect.toNat p = true → exec (.bankReclaim k p) s = .next s)) ∧
  (∀ (s : State) (k : Nat) (c : Ctx), tget s.ctxs k = some c →
    (c.state = .parked ∨ c.state = .swapped → c.parkCause = 0 → c.evWait = none → c.leave = none → c.nextLaunch ≠ none →
      ∃ t x, exec (.contextReady k) s = .next t ∧ tget t.ctxs k = some x ∧ x.state = .ready ∧ x.nodes = c.nodes ∧ x.events = c.events) ∧
    (c.parkCause ≠ 0 ∨ c.evWait ≠ none ∨ c.leave ≠ none ∨ c.state = .running ∨ c.state = .ready ∨ c.nextLaunch = none → exec (.contextReady k) s = .next s)) ∧
  (∀ (s : State) (k : Nat) (c : Ctx), tget s.ctxs k = some c →
    (∀ z, c.timer = some z → z ≤ s.ptp → exec (.wakeTimerExpiry k) s = .next ((s.setCtx k { c with timer := none }).setEvent k 225)) ∧
    (∀ z, c.timer = some z → s.ptp < z → exec (.wakeTimerExpiry k) s = .next s) ∧
    (c.timer = none → exec (.wakeTimerExpiry k) s = .next s)) ∧
  (∀ (s u : State) (pa k v : Nat) (c : Ctx) (n : Node), s.quiesced = false →
    s.ctxs.findSome? (fun x => (x.2.nodes.find? (fun n => decide (n.pa = pa) && n.ready.isSome && decide (n.record.node ≠ 0))).map
      (fun n => (x.1, x.2, n))) = some (k, c, n) →
    (s.readWords n.space n.record.cond.toNat 1 = (u, .ok [v]) →
      let off := (u.settleNode k pa false).setEvents k n.record.set
      let on := (u.settleNode k pa true).setEvents k n.record.set
      (n.record.node = 1 → exec (.controlNodeEval pa) s = .next (off.armSucc c.tdom n.space n.va (if v ≠ 0 then n.record.succ0 else n.record.succ1))) ∧
      (n.record.node = 2 → v ≠ 0 → exec (.controlNodeEval pa) s = .next (on.armSucc c.tdom n.space n.va n.record.succ0)) ∧
      (n.record.node = 2 → v = 0 → exec (.controlNodeEval pa) s = .next (off.armSucc c.tdom n.space n.va n.record.succ1)) ∧
      (n.record.node = 3 → v < n.record.ncase → n.record.succ0 ≠ 0 →
        exec (.controlNodeEval pa) s = .next (off.armLink c.tdom n.space n.va (n.record.succ0.toInt + v))) ∧
      (n.record.node = 3 → n.record.ncase ≤ v → exec (.controlNodeEval pa) s = .next (off.armSucc c.tdom n.space n.va n.record.succ1))) ∧
    (∀ a, s.readWords n.space n.record.cond.toNat 1 = (u, .data a) ∨ s.readWords n.space n.record.cond.toNat 1 = (u, .pages a) ∨
        s.readWords n.space n.record.cond.toNat 1 = (u, .viol a) →
      exec (.controlNodeEval pa) s = .next ((u.settleNode k pa false).tellSuper c.tdom)) ∧
    (∀ a, s.readWords n.space n.record.cond.toNat 1 = (u, .far a) → exec (.controlNodeEval pa) s = .next s)) ∧
  (∀ (s : State) (d : Nat) (sp : Space) (va : Nat) (succ : BitVec 32),
    s.armSucc d sp va 0 = s ∧ (succ ≠ 0 → s.armSucc d sp va succ = s.armLink d sp va succ.toInt))

/-- 11 R285-R289; 17 R374, R375, R377; 14 R355: a page that is eligible and first in order starts its demotion to the lowest free frame of the
next tier; one in the pool that a fault names starts its promotion to HBM4E; at the end of the copy the new entry stands and the
old place, if the page has left it, stays fenced; a fence goes with the last lease, and a die drops a lease that has ended. A request of
the supervisor pins, prefers or moves a page of its domain that does not move, by a move that starts at once or waits, or frees it, and
answers with a status. -/
def Obligations.KvPagesMoveByTheirDirectory : Prop :=
  (∀ (s : State) (k d f : Nat), s.pageDom (s.dirEntry k) = some d → s.mayDemote k = true → s.faultWaits (k % 4) = false →
    (∀ z, tget s.paced (d * 65536 + eAsid (s.dirEntry k)) = some z → z + s.res.dpace ≤ s.ptp) →
    (∀ x ∈ s.dir, ∀ g, s.pageDom x.2 = some g → s.due g x.2 = true → s.demotable g x.1 = true →
      ¬ (eTier x.2 < eTier (s.dirEntry k) ∨ (eTier x.2 = eTier (s.dirEntry k) ∧ x.1 < k))) →
    least (s.freeFrames d (if eTier (s.dirEntry k) = 0 then frameHbm else framePool)) = some f → moveLeft s k →
    s.fenced (eTier (s.dirEntry k) + 1) f = false →
    let t := moveBegun s (moveTo s k (s.dirEntry k) (eTier (s.dirEntry k) + 1) f true)
    exec (.demotionStart k) s = .next { t with paced := tset t.paced (d * 65536 + eAsid (s.dirEntry k)) s.ptp }) ∧
  (∀ (s : State) (k d : Nat), s.pageDom (s.dirEntry k) = some d → s.mayDemote k = false ∨ s.faultWaits (k % 4) = true →
    exec (.demotionStart k) s = .next s) ∧
  (∀ (s : State) (k d f : Nat), s.pageDom (s.dirEntry k) = some d →
    (∀ x, s.pageDistance d (eAsid (s.dirEntry k)) = some x → x ≠ 0 ∧ s.res.plead ≤ x) →
    eMoving (s.dirEntry k) = false → s.faultNames k = true → eTier (s.dirEntry k) = 2 →
    least (s.freeFrames d frameHbm) = some f → moveLeft s k → s.fenced 1 f = false →
    exec (.promotionStart k) s = .next (moveBegun s (moveTo s k (s.dirEntry k) 1 f false))) ∧
  (∀ (s : State) (k d : Nat), s.pageDom (s.dirEntry k) = some d →
    (∀ x, s.pageDistance d (eAsid (s.dirEntry k)) = some x → x ≠ 0 ∧ s.res.plead ≤ x) →
    eMoving (s.dirEntry k) = true ∨ s.faultNames k = false → exec (.promotionStart k) s = .next s) ∧
  (∀ (s : State) (k : Nat) (m : Move), s.moves.find? (fun m => decide (m.kvpn = k)) = some m →
    let u := s.kvCopy k (eTier m.old) (eLoc m.old) m.tier m.loc
    let f : Fence := { tier := eTier m.old, loc := eLoc m.old, dom := (u.pageDom m.old).getD 0, kvpn := k, ends := u.leaseEnd k }
    let t : State := { u.setDir k m.entry with
      moves := u.moves.filter (fun x => decide (x.kvpn ≠ k))
      fences := if m.tier = f.tier ∧ m.loc = f.loc then u.fences else u.fences ++ [f] }
    exec (.moveInstall k) s = .next (if m.tier ≤ 1 then t.pagePresent k else t).startQueued) ∧
  (∀ (s : State) (i : Nat) (f : Fence), s.fences[i]? = some f →
    (f.ends ≤ s.cycle → exec (.oldLocationRelease i) s = .next ({ s with fences := s.fences.eraseIdx i } : State).startQueued) ∧
    (s.cycle < f.ends → exec (.oldLocationRelease i) s = .next s)) ∧
  (∀ (s : State) (die k : Nat), ∃ t, exec (.directoryLeaseExpiry die k) s = .next t ∧ t = { s with leases := t.leases } ∧
    ∀ l, l ∈ t.leases ↔ l ∈ s.leases ∧ ¬ (l.die = die ∧ l.kvpn = k ∧ l.ends ≤ s.cycle)) ∧
  (∀ (s : State) (d k : Nat) (b : BitVec 2) (w : BitVec 36),
    (s.pageDom (s.dirEntry k) ≠ some d → exec (.setPin d k) s = .next (s.resAnswer d 1) ∧ exec (.clearPin d k) s = .next (s.resAnswer d 1) ∧
      exec (.freePage d k) s = .next (s.resAnswer d 1) ∧ exec (.moveToStoreTier d k w) s = .next (s.resAnswer d 1) ∧
      (b ≠ 3 → exec (.setPref d k b) s = .next (s.resAnswer d 1))) ∧
    (s.pageDom (s.dirEntry k) = some d → eMoving (s.dirEntry k) = true →
      exec (.setPin d k) s = .next (s.resAnswer d 2) ∧ exec (.clearPin d k) s = .next (s.resAnswer d 2) ∧
      exec (.freePage d k) s = .next (s.resAnswer d 2) ∧ exec (.moveToStoreTier d k w) s = .next (s.resAnswer d 2) ∧
      (b ≠ 3 → exec (.setPref d k b) s = .next (s.resAnswer d 2))) ∧
    exec (.setPref d k 3) s = .next (s.resAnswer d 3) ∧
    (s.pageDom (s.dirEntry k) = some d → eMoving (s.dirEntry k) = false →
      let e := (s.dirEntry k).toNat
      let f : Fence := { tier := eTier (s.dirEntry k), loc := eLoc (s.dirEntry k), dom := d, kvpn := k, ends := s.leaseEnd k }
      let here (v : Nat) (t : State) : Prop :=
        moveWanted s (moveTo s k (BitVec.ofNat 64 v) (eTier (s.dirEntry k)) (eLoc (s.dirEntry k)) false) t
      (∀ t, here (putBits e 60 60 1) t → exec (.setPin d k) s = .next (t.resAnswer d 0)) ∧
      (∀ t, here (putBits e 60 60 0) t → exec (.clearPin d k) s = .next (t.resAnswer d 0)) ∧
      (∀ t, b ≠ 3 → here (putBits e 59 58 b.toNat) t → exec (.setPref d k b) s = .next (t.resAnswer d 0)) ∧
      exec (.freePage d k) s =
        .next ((({ (s.dropHome k).setDir k dirFree with fences := s.fences ++ [f] } : State).pageLost k).resAnswer d 0) ∧
      ((∀ x ∈ s.bound, x.2 = locCore w.toNat → ∀ c, tget s.ctxs (x.1 / 4096) = some c → ¬ (c.tdom = d ∧ c.asid = eAsid (s.dirEntry k))) →
        exec (.moveToStoreTier d k w) s = .next (s.resAnswer d 3)) ∧
      (∀ key c, s.bound = [(key, locCore w.toNat)] → tget s.ctxs (key / 4096) = some c → c.tdom = d → c.asid = eAsid (s.dirEntry k) →
        w.toNat < 2 ^ 16 → locBank w.toNat % 2 = 0 → eTier (s.dirEntry k) = 1 →
        (∀ i, i = locBank w.toNat ∨ i = locBank w.toNat + 1 →
          ((s.storeAt key).bank i).page = none ∧ ((s.storeAt key).bank i).mode = .scratch) →
        let u := (s.dropHome k).markPair key (locBank w.toNat) (some k)
        let h : Home := { slot := key / 4096, pos := key % 4096, bank := locBank w.toNat }
        let v : State := { u with homes := tset u.homes k h }
        ∀ t, moveWanted v (moveTo s k (s.dirEntry k) 0 w.toNat false) t → exec (.moveToStoreTier d k w) s = .next (t.resAnswer d 0))))

namespace Sys2Proof.Claims

/-- The entry that a frame matches at a port: the one of lowest index (14 R359). -/
def matched (s : State) (port : Nat) (f : Frame) : Option Nat :=
  (List.range 64).find? (fun i => (tget s.flows (port * 64 + i)).any (fun e => flowMatches e f))

/-- The check words of a frame that lands: its arrival record and its first MAXLEN bytes (14 Table 14-6). -/
def landing (s : State) (port i : Nat) (f : Frame) (e : BitVec 256) : List CWord :=
  let status := s.frameStatus (decide (fwMax e < f.bytes.length)) f.badChecksum
  frameWords (arrival f i port status ((tget s.flowSeq (port * 64 + i)).getD 0 + 1)) (f.bytes.take (fwMax e))

/-- A domain whose launch port has rejected a record with a status. -/
def rejected (x : Dom) (addr status : Nat) : Dom :=
  { x with reject := min (x.reject + 1) 65535, lastStatus := status, lastAddr := addr }

/-- The record of a shutdown by heat, in the persistent log (14 R365). -/
def shutdownRecord (s : State) : BitVec 256 := faultRecord s.ptp 0 0 0 0 8 7

end Sys2Proof.Claims

/-- 14 R352-R354, R356, R358-R362, R364, R365; 12 R323; 13 R333, R350: a frame that fails its check or matches no entry is dropped; one that
matches lands whole in its FIFO bank, or is dropped and counted. The time base steps at the first lock alone. The host reads and writes
memory and the window; a write to RADDR queues a record address, which the port arms or rejects in turn. A flow entry in conflict leaves
the entry invalid. A dead pool link answers poisoned. Power states change as the host and the heat ask; a shutdown is logged. -/
def Obligations.TheOutsideWorldIsServed : Prop :=
  (∀ (s : State) (port : Nat) (f : Frame),
    (f.fcsOk = false ∨ s.ready = false → exec (.frameArrival port f) s = .next s) ∧
    (f.fcsOk = true → s.ready = true → matched s port f = none →
      (f.udpPort = some s.ports.transport → exec (.frameArrival port f) s = .next s) ∧
      (f.udpPort ≠ some s.ports.transport → exec (.frameArrival port f) s = .next (s.dropFrame port))) ∧
    (∀ (i : Nat) (e : BitVec 256), f.fcsOk = true → s.ready = true → matched s port f = some i → tget s.flows (port * 64 + i) = some e →
      (s.slotOf (fwCtx e) = none ∨ s.quiesced = true → exec (.frameArrival port f) s = .next (s.dropFrame port)) ∧
      (∀ slot, s.slotOf (fwCtx e) = some slot → s.quiesced = false → fwKind e = true →
        let k := storeKey slot (fwPos e)
        let t := s.storeAt k
        let old := (tget t.windows (fwBank e)).getD []
        let ws := landing s port i f e
        let fits := tget s.bound k ≠ none ∧ (t.bank (fwBank e)).mode = .fifo ∧ (t.bank (fwBank e)).use = 2 ∧ old.length + ws.length ≤ 4096
        (fits → exec (.frameArrival port f) s =
          .next ((s.setStore k { t with windows := tset t.windows (fwBank e) (old ++ ws) }).landed (port * 64 + i) slot)) ∧
        (¬ fits → exec (.frameArrival port f) s = .next (s.dropFrame port))) ∧
      (∀ slot, s.slotOf (fwCtx e) = some slot → s.quiesced = false → fwKind e = false →
        exec (.frameArrival port f) s = .next (s.frameRing port (port * 64 + i) slot i e (landing s port i f e))))) ∧
  (∀ (s : State) (now : Nat),
    (s.locked = false → exec (.ptpLock now) s = .next { s with synced := true, locked := true, ptp := now }) ∧
    (s.locked = true → exec (.ptpLock now) s = .next { s with synced := true }) ∧
    exec .ptpLockLoss s = .next { s with synced := false }) ∧
  (∀ (s : State) (a n : Nat) (bs : List Byte),
    (s.hostPlace a = .nothing → exec (.hostWrite a bs) s = .next s ∧
      (s.ready = false → exec (.hostRead a n) s = .next { s with reply := none }) ∧
      (s.ready = true → ∃ got, got.length = n ∧ exec (.hostRead a n) s = .next { s with reply := some (.data false got) })) ∧
    (∀ o, s.hostPlace a = .mgmt o → exec (.hostWrite a bs) s = .next (s.mgmtBytes o bs) ∧
      exec (.hostRead a n) s = .next { s with reply := some (.data false (s.mgmtRead o n)) }) ∧
    (∀ pa, s.hostPlace a = .memory pa → s.downPort pa = none →
      (∀ t, s.physStore pa bs = .ok t → exec (.hostWrite a bs) s = .next (t.note pa bs.length)) ∧
      (∀ got, s.physRead pa n = .ok got → exec (.hostRead a n) s = .next { (s.note pa n).postPhys 4 pa n with reply := some (.data false got) }) ∧
      (∀ x, s.physRead pa n = .error x → exec (.hostRead a n) s = .next { s.hostEvent x with reply := some (.data true []) })) ∧
    (∀ pa p, s.hostPlace a = .memory pa → s.downPort pa = some p →
      (s.linkDead p = true → exec (.hostWrite a bs) s = .next s ∧ exec (.hostRead a n) s = .next { s with reply := some (.data true []) }) ∧
      (s.linkDead p = false → exec (.hostWrite a bs) s = .next { s with again := true } ∧
        exec (.hostRead a n) s = .next { s with again := true }))) ∧
  (∀ (s : State) (d : Nat) (x : Dom) (v : BitVec 64), s.dom d = some x →
    (v.extractLsb' 52 12 = 0 → v.extractLsb' 0 7 = 0 → x.fifo.length < 256 →
      exec (.raddr d v) s = .next (s.setDom d { x with fifo := x.fifo ++ [v.toNat] })) ∧
    (v.extractLsb' 52 12 ≠ 0 ∨ v.extractLsb' 0 7 ≠ 0 ∨ 256 ≤ x.fifo.length →
      exec (.raddr d v) s = .next (s.setDom d { x with ovf := min (x.ovf + 1) 65535 })) ∧
    (x.fifo = [] ∨ s.quiesced = true → exec (.hostLaunchArm d) s = .next s) ∧
    (∀ a r, x.fifo = a :: r → s.quiesced = false →
      let x' : Dom := { x with fifo := r }
      let u := s.setDom d x'
      (u.inDomHbm d a = false → exec (.hostLaunchArm d) s = .next (u.setDom d (rejected x' a 2))) ∧
      (u.inDomHbm d a = true → ∀ t, u.armRecord (.host d) (.phys d) a = (t, .ok 0) → exec (.hostLaunchArm d) s = .next t) ∧
      (u.inDomHbm d a = true → ∀ t y k, u.armRecord (.host d) (.phys d) a = (t, .ok (k + 1)) → t.dom d = some y →
        exec (.hostLaunchArm d) s = .next (t.setDom d (rejected y a (k + 1)))) ∧
      (u.inDomHbm d a = true → ∀ t x, u.armRecord (.host d) (.phys d) a = (t, .far x) → exec (.hostLaunchArm d) s = .next s))) ∧
  (∀ (s : State) (port i : Nat) (w : BitVec 256), s.ready = true → port < 4 → i < 64 →
    let e := w &&& flowMask
    let key := port * 64 + i
    let others := s.flows.filter (fun f => decide (f.1 ≠ key) && fwV f.2)
    let range := 64 ≤ fwMax e ∧ fwMax e ≤ 9216 ∧ (fwKind e = true ∨
      (16 ≤ fwLog e ∧ fwLog e ≤ 30 ∧ placeOf (fwAddr e) = .hbm ∧ placeOf (fwAddr e + 2 ^ fwLog e - 1) = .hbm))
    let good := range ∧ ∀ f ∈ others, (f.1 / 64 ≠ port → sameWindow e f.2 = false) ∧ clashQueue e f.2 = false
    let old := (tget s.flows key).getD 0 &&& ~~~(BitVec.twoPow 256 128)
    (e ≠ 0 → fwV e = false ∨ good → exec (.flowEntryWrite port i w) s = .next { s with flows := tset s.flows key e }) ∧
    (e = 0 → exec (.flowEntryWrite port i w) s = .next { s with flows := tdel s.flows key }) ∧
    (fwV e = true → ¬ good → exec (.flowEntryWrite port i w) s =
      .next { s with flows := if old = 0 then tdel s.flows key else tset s.flows key old })) ∧
  (∀ (s : State) (o : Nat) (v : BitVec 64), o < 2 ^ 39 → s.ready = true → exec (.registerWrite o v) s = .next (s.mgmtSet (o / 8 * 8) v)) ∧
  (∀ (s : State) (p : Nat),
    (tget s.down p = none → exec (.linkDown p) s = .next { s with down := tset s.down p s.ptp }) ∧
    (tget s.down p ≠ none → exec (.linkDown p) s = .next s) ∧
    exec (.linkRetrain p) s = .next (({ s with down := tdel s.down p } : State).answerPorts p) ∧
    (s.linkDead p = true → exec (.poolLinkTimeout p) s = .next (s.answerPorts p)) ∧
    (s.linkDead p = false → exec (.poolLinkTimeout p) s = .next s) ∧
    (s.core.xhold.behind p = false → s.core.ahold.behind p = false →
      (∀ c ∈ s.cores, c.2.xhold.behind p = false ∧ c.2.ahold.behind p = false) → s.links = [] → s.answerPorts p = s) ∧
    (∀ g d, s.core.xhold = .access g → g.kind = .load d → placeOf g.pa = .pool → s.linkDead (poolPort g.pa) = true →
      s.answerX .poisoned = ({ s with core := { s.core with xhold := .none } } : State).raiseLeave false (.fault causeData) (BitVec.ofNat 64 g.pa) 0)) ∧
  (∀ (s : State) (p : BitVec 2),
    (s.ready = true → s.hot = false ∨ s.pNow ≤ p → exec (.pstate p) s = .next { s with pAsked := p, pNow := p }) ∧
    (s.ready = true → s.hot = true → p < s.pNow → exec (.pstate p) s = .next { s with pAsked := p }) ∧
    (s.pNow ≠ 3 → exec .thermalThrottle s = .next { s with hot := true, pNow := s.pNow + 1 }) ∧
    (s.pNow = 3 → exec .thermalThrottle s = .next { s with hot := true }) ∧
    (s.hot = true → s.pAsked < s.pNow → exec .thermalRecover s = .next { s with pNow := s.pNow - 1, hot := decide (s.pAsked < s.pNow - 1) }) ∧
    (s.hot = false → exec .thermalRecover s = .next s) ∧
    exec .thermalShutdown s = .next { s with shut := true, plog := s.plog ++ [shutdownRecord s] }) ∧
  (∀ (s : State) (d i v : Nat) (x : Dom), s.dom d = some x → i ≤ 10 →
    exec (.monitorClear d i) s = .next (s.setDom d { x with monitors := tdel x.monitors i }) ∧
    (i = 5 → exec (.monitorInterval d i v) s = .next (s.setDom d { x with
      monitors := tset x.monitors i (((tget x.monitors i).getD Monitor.clear).add (monitorShift i) v) })) ∧
    (i = 9 ∨ i = 10 → exec (.monitorInterval d i v) s = .next (s.setDom d { x with
      monitors := tset x.monitors i (((tget x.monitors i).getD Monitor.clear).add 0 ((tget x.tally i).getD 0)), tally := tdel x.tally i }))) ∧
  (∀ (s : State) (port i : Nat) (w n : BitVec 256) (p : BitVec 2), s.ready = false →
    exec (.flowEntryWrite port i w) s = .next s ∧ exec (.pstate p) s = .next s ∧ exec (.attestationRequest n) s = .next s) ∧
  (∀ (s : State) (n : BitVec 256), s.ready = true → ∃ a, exec (.attestationRequest n) s = .next { s with attests := s.attests ++ [a] } ∧ a.nonce = n ∧
    a.serial = Config.moduleSerial ∧ a.pkg = s.pkg ∧ a.digest = s.fwDigest ∧ a.counters = s.counters ∧ a.fw = s.flashFw ∧ a.layout = s.layout ∧
    a.records = s.inUse.map (fun r => (r.type, r.version, Config.sha384 r.bytes)))

namespace Sys2Proof.Claims

/-- A live completion record of a source's request (13 R347). -/
def recorded (s : State) (src : Nat) (id : BitVec 16) : Option Dedup :=
  s.dedup.find? (fun d => decide (d.src = src) && decide (d.id = id) && decide (s.ptp < d.ends))

/-- A remote atomic that is sent again with RETRY set, and one whose answer was busy. -/
def resent (s : State) (o : RamoOut) : RamoOut := { o with sends := o.sends + 1, retry := true, last := s.ptp }

end Sys2Proof.Claims

/-- 08 R220, R221; 13 R338-R349; 12 R321, R322; 14 R357, R363: a request from another package is performed inside an export window and refused
outside; an atomic is performed once, and its record answers what comes again. This package's atomic ends with its answer, is sent again
after 8 µs up to seven times, and after a busy answer. Contributions of a settled attempt are discarded; an abort ends every member in error.
The scrubber corrects what it can and leaves what was written meanwhile. A second checker mismatch or watchdog parks the context. An image is
written once all is quiet, and power-on reset brings the device up, or to the recovery state. -/
def Obligations.OtherPackagesAndRecoveryAreServed : Prop :=
  (∀ (s : State) (src a n : Nat) (bs : List Byte),
    (s.ready = false → exec (.remoteRequest src (.read a n)) s = .next s ∧ exec (.remoteRequest src (.write a bs)) s = .next s) ∧
    (s.ready = true → s.quiesced = true → exec (.remoteRequest src (.read a n)) s = .next (s.replying .busy) ∧
      exec (.remoteRequest src (.write a bs)) s = .next (s.replying .busy)) ∧
    (s.ready = true → s.quiesced = false → s.exported src a n true false = true →
      exec (.remoteRequest src (.read a n)) s = .next ((s.note a n).replying (.words (s.mem.words (a / 8 * 8) ((a + n + 7) / 8 - a / 8))))) ∧
    (s.ready = true → s.quiesced = false → s.exported src a n true false = false → exec (.remoteRequest src (.read a n)) s = .next (s.replying .refused)) ∧
    (s.ready = true → s.quiesced = false → s.exported src a bs.length false true = true → ∀ t, (s.postMerge 4 s.mem 0 a bs.length).physStore a bs = .ok t →
      exec (.remoteRequest src (.write a bs)) s = .next ((t.note a bs.length).replying .done)) ∧
    (∀ ws : List CodedWord, s.ready = true → s.quiesced = false → a % 8 = 0 → s.exported src a (8 * ws.length) false true = true →
      exec (.remoteRequest src (.writeWords a ws)) s =
        .next (((s.physSetWords a (ws.map CWord.coded)).note a (8 * ws.length)).replying .done)) ∧
    (s.ready = true → s.quiesced = false → s.exported src a bs.length false true = false →
      exec (.remoteRequest src (.write a bs)) s = .next (s.replying .refused))) ∧
  (∀ (s : State) (src : Nat) (q : RamoReq),
    let ty := aAmoType q.op (if q.wide then 1 else 0)
    (∀ d, recorded s src q.id = some d → exec (.ramoRequest src q) s = .next (s.replying (.ramo (.earlier d.old)))) ∧
    (s.ready = false → recorded s src q.id = none → exec (.ramoRequest src q) s = .next s) ∧
    (s.ready = true → recorded s src q.id = none →
      (q.retry = true → exec (.ramoRequest src q) s = .next (s.replying (.ramo .indet))) ∧
      (q.retry = false → s.quiesced = true ∨ 65536 ≤ s.dedup.length → exec (.ramoRequest src q) s = .next (s.replying (.ramo .busy))) ∧
      (q.retry = false → s.quiesced = false → s.dedup.length < 65536 → s.exported src q.addr (tyWidth ty / 8) true true = false →
        exec (.ramoRequest src q) s = .next (s.replying (.ramo .refused))) ∧
      (q.retry = false → s.quiesced = false → s.dedup.length < 65536 → s.exported src q.addr (tyWidth ty / 8) true true = true →
        ∀ t o, s.atomicAt 4 q.addr q.op ty q.b.toNat 0 = (t, .ok o) →
          let e : Dedup := { src := src, id := q.id, wide := q.wide, old := amoExt ty o.res, ends := t.ptp + 64000 }
          exec (.ramoRequest src q) s =
            .next (({ t with dedup := t.dedup ++ [e] } : State).replying (.ramo (.performed (amoExt ty o.res))))))) ∧
  (∀ (s : State) (k : Nat) (o : RamoOut) (v : Word), s.ramo k = some o →
    exec (.ramoResponse k (.performed v)) s = .next (s.ramoEnd o v 0) ∧ exec (.ramoResponse k (.earlier v)) s = .next (s.ramoEnd o v 1) ∧
    exec (.ramoResponse k .indet) s = .next (s.ramoEnd o 0 2) ∧
    exec (.ramoResponse k .busy) s = .next (s.updRamo k (fun o => { o with busy := true, last := s.ptp })) ∧
    (o.busy = false → o.last + 8000 ≤ s.ptp →
      (o.sends < 8 → exec (.ramoRetryTimeout k) s = .next (s.updRamo k (resent s))) ∧
      (8 ≤ o.sends → exec (.ramoRetryTimeout k) s = .next (s.ramoEnd o 0 2))) ∧
    (o.busy = true → o.last + 2000 ≤ s.ptp →
      (o.first + 64000 ≤ s.ptp → exec (.busyRetryTimer k) s = .next (s.ramoEnd o 0 2)) ∧
      (s.ptp < o.first + 64000 → exec (.busyRetryTimer k) s = .next (s.updRamo k (fun o => { o with busy := false, retry := false, last := s.ptp })))) ∧
    (s.core.ctx = some o.slot → s.core.pos = o.pos → ∀ st,
      let ty := aAmoType o.op (if o.wide then 1 else 0)
      (s.ramoEnd o v st).core.a = (if o.d = 0 then s.core.a else s.core.a.put o.d v).put (o.d + 1) (BitVec.ofNat 64 st) ∧
      (st ≠ 2 → (s.ramoEnd o v st).core.aflags =
        s.core.aflags ||| (amoApply o.op ty (v.toNat % 2 ^ tyWidth ty) (o.b.toNat % 2 ^ tyWidth ty) 0).flags))) ∧
  (∀ (s : State) (i : Nat) (d : Dedup), s.dedup[i]? = some d →
    (d.ends ≤ s.ptp → exec (.dedupRecordExpiry i) s = .next { s with dedup := s.dedup.eraseIdx i }) ∧
    (s.ptp < d.ends → exec (.dedupRecordExpiry i) s = .next s)) ∧
  (∀ (s : State) (k rank attempt : Nat) (data : List CodedWord) (c : EngCmd) (p : CollPart), s.cmd k = some c → c.coll = some p →
    (p.attempt ≠ attempt ∨ attempt ≤ s.highest c.slot p.group ∨ c.err = true → exec (.contributionToken k rank attempt data) s = .next s) ∧
    (p.attempt = attempt → s.highest c.slot p.group < attempt → c.err = false → c.frozen = none → p.closed = false → rank < p.size →
      p.reach = true → rank ≠ p.rank → data.length = (p.bytes + 7) / 8 →
      exec (.contributionToken k rank attempt data) s = .next (s.collTake c rank (data.map CWord.coded))) ∧
    (p.attempt ≠ attempt ∨ c.err = true ∨ p.closed = true → exec (.closeToken k attempt) s = .next s) ∧
    (p.attempt = attempt → c.err = false → c.frozen = none → p.closed = false → p.sent = true →
      exec (.closeToken k attempt) s = .next (s.collWrite c p)) ∧
    (p.attempt = attempt → c.err = false → c.frozen = none → p.closed = false → p.sent = false →
      (s.collAgreed c p = false → exec (.closeToken k attempt) s = .next s) ∧
      (s.collAgreed c p = true → s.collBlocked (s.collMembers c p) = none →
        ∃ t : State, exec (.closeToken k attempt) s = .next ((t.settleAttempt c.slot p.group attempt).collWrite c p) ∧ t = { s with cmds := t.cmds })) ∧
    (s.ptp < p.since + 10000000 → exec (.colltoExpiry k) s = .next s) ∧
    (c.err = false → p.closed = false → p.since + 10000000 ≤ s.ptp →
      exec (.colltoExpiry k) s = .next (s.collAbort c.slot p.group p.attempt))) ∧
  (∀ (s : State) (slot group attempt : Nat), group < 2 ^ 33 →
    exec (.abortToken (slot * 2 ^ 33 + group) attempt) s = .next (s.collAbort slot group attempt) ∧
    (attempt ≤ s.highest slot group → s.collAbort slot group attempt = s)) ∧
  (∀ (s : State) (w : Nat),
    let a := 8 * w
    let u : State := { s with patrol := w + 1 }
    ((s.scrubWord a).syn = 0 ∨ (s.scrubWord a).syn = 0xFF ∨ scrubs a = false → exec (.patrolScrub w) s = .next u) ∧
    (scrubs a = true → (s.scrubWord a).syn ≠ 0 → (syndromeFix (s.scrubWord a).syn).isSome = true →
      exec (.patrolScrub w) s = .next { u with scrubTags := tset s.scrubTags w (s.scrubWord a, false) }) ∧
    (s.directed = [] → exec .directedScrub s = .next s) ∧
    (∀ b r, s.directed = b :: r → exec .directedScrub s = .next (({ s with directed := r } : State).scrubRead b true)) ∧
    (tget s.scrubTags w = none → exec (.scrubWriteBack w) s = .next s) ∧
    (∀ c v, tget s.scrubTags w = some (c, false) → c.use = some v →
      let t : State := { s with scrubTags := tdel s.scrubTags w }
      (t.scrubWord a = c → exec (.scrubWriteBack w) s = .next (t.scrubSet a (CWord.good v))) ∧
      (t.scrubWord a ≠ c → exec (.scrubWriteBack w) s = .next t))) ∧
  (∀ (s : State) (b second : Bool),
    (s.core.issuing b = false ∨ s.item b = none ∨ second ≠ s.core.doubts b → exec (.checkerMismatch b second) s = .next s) ∧
    (s.core.issuing b = true → ∀ t, s.item b = some t →
      (s.core.doubts b = false → exec (.checkerMismatch b false) s = .next { s.coreRecord 4 with core := s.core.doubt b }) ∧
      (s.core.doubts b = true →
        exec (.checkerMismatch b true) s = .next (((t.coreRecord 4).raiseLeave b (.fault causeCheck) 0 0).withdrawCore s.here)))) ∧
  (∀ (m : Memory) (n j : Nat) (c d : Core), Core.complete m n c = .ok (d, j) → d.xdoubt = false) ∧
  (∀ (s : State) (e : LaneEngine) (w a : Word) (k : Nat) (c : EngCmd),
    (s.core.atWork e = some (w, a) →
      let t := (s.toMarker e).coreRecord 7
      (s.core.dog e = false → exec (.watchdogFiring (.lane e) false) s = .next { t with core := t.core.setDog e true }) ∧
      (s.core.dog e = true → exec (.watchdogFiring (.lane e) true) s =
        .next ((((({ t with core := t.core.setDog e false } : State).freezeHead e).engineAsk w a causeWdog 0 0)).withdrawCore s.here))) ∧
    (s.cmd k = some c → c.kind.nearBank = false → c.kind ≠ .coll → c.frozen = none → c.err = false →
      exec (.watchdogFiring (.engine k) c.fired) s = .next (s.cmdWdog c))) ∧
  (∀ (s : State) (what : Watchdog) (second : Bool), second ≠ s.dogFired what → exec (.watchdogFiring what second) s = .next s) ∧
  (∀ (s : State) (b : Nat),
    (s.poolSeg b = none → exec (.checkpointRequest b) s = .next s) ∧
    (s.poolSeg b ≠ none → s.quiet = false → exec (.checkpointRequest b) s = .next s.quiesce) ∧
    (s.poolSeg b ≠ none → s.quiet = true → ∃ t, exec (.checkpointRequest b) s = .next t ∧ t.quiesced = false ∧
      ∃ i, tget t.images b = some i ∧ i.layout = s.layout ∧ i.mem = s.mem.part true ∧ i.ctxs = s.ctxs ∧ i.stores = s.stores ∧ i.dir = s.dir ∧
      i.links = s.links ∧ i.moveQueue = s.moveQueue) ∧
    (tget s.images b = none → exec (.checkpointRestore b) s = .next s) ∧
    (∀ i, tget s.images b = some i → i.layout ≠ s.layout → exec (.checkpointRestore b) s = .next s) ∧
    (∀ i, tget s.images b = some i → i.layout = s.layout → s.quiet = true → ∃ t, exec (.checkpointRestore b) s = .next t ∧ t.ctxs = i.ctxs ∧
      t.stores = i.stores ∧ t.dir = i.dir ∧ t.mem.cells = i.mem.cells ++ (s.mem.part false).cells ∧ t.quiesced = false)) ∧
  (∀ (s : State) (r : FlashRecord), exec (.flashRecoveryWrite r) s = .next { s with flash := s.flash ++ [r] }) ∧
  (∀ (s : State) (b : Boot),
    (b.fwOk = false ∨ b.fwVersion < s.flashFw → exec (.powerOnReset b) s = .next { s.kept with recovery := true, step := 0 }) ∧
    (b.fwOk = true → s.flashFw ≤ b.fwVersion → b.pcieOk = false → exec (.powerOnReset b) s = .next { s.kept with recovery := true, step := 1 }) ∧
    (b.fwOk = true → s.flashFw ≤ b.fwVersion → b.pcieOk = true → (∀ keys, ∀ r ∈ s.flash, recordValid keys r = false) →
      exec (.powerOnReset b) s = .next { s.kept with recovery := true, step := 2 }) ∧
    (b.fwOk = true → s.flashFw ≤ b.fwVersion → b.pcieOk = true → (∀ n, n = 1 ∨ n = 2 ∨ n = 5 → ∃ r ∈ s.taken, r.type = n) →
      (b.dieOk = false → exec (.powerOnReset b) s = .next { s.kept with recovery := true, step := 3 }) ∧
      (b.dieOk = true → b.linksOk = false → exec (.powerOnReset b) s = .next { s.kept with recovery := true, step := 5 }) ∧
      (b.dieOk = true → b.linksOk = true → b.supers = [] → ∃ t, exec (.powerOnReset b) s = .next t ∧ t.ready = true ∧ t.step = 7 ∧
        t.recovery = false ∧ t.inUse = s.taken ∧ t.flashFw = b.fwVersion ∧ t.fwDigest = b.fwDigest ∧ t.flash = s.flash ∧ t.plog = s.plog)) ∧
    (∀ (keys : Option FlashRecord) (type n : Nat) (r : FlashRecord), pickRecord keys s.flash type n = some r →
      r ∈ s.flash ∧ r.type = type ∧ n ≤ r.version ∧ recordValid keys r = true ∧
      ∀ q ∈ s.flash, q.type = type → recordValid keys q = true → q.version = r.version → q = r) ∧
    s.kept.flash = s.flash ∧ s.kept.plog = s.plog ∧ s.kept.counters = s.counters ∧ s.kept.flashFw = s.flashFw)

/-- 12 R308, R320, R321; 07 R170; 11 R290; 14 R363: only a power-on reset changes what the signed records settle. From every state, a
step at any other turn leaves the records in use, the owner's keys, the anti-rollback counters, the firmware's version and digest, the
package number, the lease, the residency and port parameters, and the dies and scheduler parameters of every domain as they were. And every step, a power-on reset
included, keeps the settings those of the records in use: each of these is valid and has the version of its counter; once bring-up is
complete, the package number and the dies of each domain are those of an identity record, every die lies in exactly one of one to four
domains, the residency parameters are those of a record, and the lease is a record's or its default of 64 ticks. That no turn of the
model's own round is a power-on reset rests on log 7. -/
def Obligations.OnlyPowerOnChangesTheSettings : Prop :=
  (∀ s t : State, s.settings.Signed → step s = .next t → t.settings.Signed) ∧
  (∀ s t : State, (∀ n b rest, s.agenda ≠ .at n (.powerOnReset b) :: rest) → step s = .next t → t.settings = s.settings)

/-- 14 R358, R363, Tables 14-3, 14-4; 01 R27; 11 R284; 13 R350: what reset leaves: nothing placed and no context created, no slot count above
0, no domain and no record in use before the records are applied, memory of zero words, free directory entries, a time base at 0 without a lock, STATUS all zero.
The registers' and the model's own values at reset rest on logs 1, 3, 5, 6 and 7 and are no rule of the spec. -/
def Obligations.ResetLeavesNothingPlaced : Prop :=
  State.reset.ptp = 0 ∧ State.reset.cycle = 0 ∧ State.reset.synced = false ∧ State.reset.locked = false ∧
  State.reset.statusWord = 0 ∧ State.reset.ctxs = [] ∧ State.reset.core.ctx = none ∧ State.reset.doms = [] ∧
  (∀ slot, (tget State.reset.instars slot).getD 0 = 0) ∧ (∀ i, (State.reset.coreAt i).ctx = none) ∧
  (∀ a, State.reset.mem.word a = CWord.good 0) ∧
  (∀ k, eTier (State.reset.dirEntry k) = 3 ∧ eMoving (State.reset.dirEntry k) = false ∧ ePin (State.reset.dirEntry k) = false ∧
    ePref (State.reset.dirEntry k) = 1 ∧ eAsid (State.reset.dirEntry k) = 0 ∧ eLoc (State.reset.dirEntry k) = 0) ∧
  State.reset.canonical = true ∧ State.reset.safe = true ∧ State.reset.settings.Signed
end

