-- ==== Sys2Proof/Laws/Tables.lean ====
section
/-! SUPPORT. Tables: reading after entering or removing, and that both keep the keys rising. -/

namespace Sys2Proof.Laws

open Sys2Proof.Machine

variable {α : Type}

@[simp] theorem tget_tset_same (t : Table α) (k : Nat) (v : α) : tget (tset t k v) k = some v := by
  induction t with
  | nil => simp [tset, tget]
  | cons c r ih =>
    obtain ⟨j, u⟩ := c
    simp only [tset]
    split
    · simp [tget]
    · rename_i hj
      split
      · simp [tget]
      · rename_i hk
        simp only [tget, hj, hk, if_false, ih]
        simp

theorem tget_tset_ne (t : Table α) {k a : Nat} (v : α) (h : a ≠ k) : tget (tset t k v) a = tget t a := by
  induction t with
  | nil =>
    simp only [tset, tget]
    have : (k == a) = false := by simp; omega
    simp [this]
  | cons c r ih =>
    obtain ⟨j, u⟩ := c
    simp only [tset]
    split
    · rename_i hj
      have hj : j = k := by simpa using hj
      subst hj
      have : (j == a) = false := by simp; omega
      simp [tget, this]
    · split
      · rename_i hk
        have : (k == a) = false := by simp; omega
        simp only [tget, this, Bool.false_eq_true, if_false]
        split
        · rename_i h2
          by_cases hja : j = a
          · omega
          · have : (j == a) = false := by simp; omega
            simp [this, show a < j by omega]
        · rfl
      · simp only [tget, ih]

theorem tableFrom_mono {t : Table α} {lo hi : Nat} (hl : lo ≤ hi) (h : tableFrom hi t = true) : tableFrom lo t = true := by
  cases t with
  | nil => rfl
  | cons c r =>
    obtain ⟨j, u⟩ := c
    simp only [tableFrom, Bool.and_eq_true, decide_eq_true_eq] at *
    exact ⟨by omega, h.2⟩

theorem tget_below {t : Table α} {lo k : Nat} (h : tableFrom lo t = true) (hk : k < lo) : tget t k = none := by
  cases t with
  | nil => rfl
  | cons c r =>
    obtain ⟨j, u⟩ := c
    simp only [tableFrom, Bool.and_eq_true, decide_eq_true_eq] at h
    have : (j == k) = false := by simp; omega
    simp [tget, this, show k < j by omega]

theorem tget_tdel_same {t : Table α} {lo : Nat} (h : tableFrom lo t = true) (k : Nat) : tget (tdel t k) k = none := by
  induction t generalizing lo with
  | nil => rfl
  | cons c r ih =>
    obtain ⟨j, u⟩ := c
    simp only [tableFrom, Bool.and_eq_true, decide_eq_true_eq] at h
    simp only [tdel]
    split
    · rename_i hj
      have hj : j = k := by simpa using hj
      exact tget_below h.2 (by omega)
    · rename_i hj
      split
      · rename_i hk
        simp [tget, hj, hk]
      · rename_i hk
        simp [tget, hj, hk, ih h.2]

theorem tget_tdel_ne {t : Table α} {lo : Nat} (ht : tableFrom lo t = true) {k a : Nat} (h : a ≠ k) :
    tget (tdel t k) a = tget t a := by
  induction t generalizing lo with
  | nil => rfl
  | cons c r ih =>
    obtain ⟨j, u⟩ := c
    simp only [tableFrom, Bool.and_eq_true, decide_eq_true_eq] at ht
    simp only [tdel]
    split
    · rename_i hj
      have hj : j = k := by simpa using hj
      have h1 : (j == a) = false := by simp; omega
      simp only [tget, h1, Bool.false_eq_true, if_false]
      split
      · exact tget_below ht.2 (by omega)
      · rfl
    · split
      · rfl
      · simp only [tget, ih ht.2]

theorem tableFrom_tset {t : Table α} {lo k : Nat} (v : α) (h : tableFrom lo t = true) (hk : lo ≤ k) :
    tableFrom lo (tset t k v) = true := by
  induction t generalizing lo with
  | nil => simp [tset, tableFrom, hk]
  | cons c r ih =>
    obtain ⟨j, u⟩ := c
    simp only [tableFrom, Bool.and_eq_true, decide_eq_true_eq] at h
    simp only [tset]
    split
    · rename_i hj
      have hj : j = k := by simpa using hj
      subst hj
      simp [tableFrom, h]
    · rename_i hj
      have hj : j ≠ k := by simpa using hj
      split
      · rename_i h2
        simp only [tableFrom, Bool.and_eq_true, decide_eq_true_eq]
        exact ⟨hk, by omega, h.2⟩
      · simp only [tableFrom, Bool.and_eq_true, decide_eq_true_eq]
        exact ⟨h.1, ih h.2 (by omega)⟩

theorem tableFrom_tdel {t : Table α} {lo : Nat} (k : Nat) (h : tableFrom lo t = true) : tableFrom lo (tdel t k) = true := by
  induction t generalizing lo with
  | nil => rfl
  | cons c r ih =>
    obtain ⟨j, u⟩ := c
    simp only [tableFrom, Bool.and_eq_true, decide_eq_true_eq] at h
    simp only [tdel]
    split
    · exact tableFrom_mono (by omega) h.2
    · split
      · simp [tableFrom, h]
      · simp only [tableFrom, Bool.and_eq_true, decide_eq_true_eq]
        exact ⟨h.1, ih h.2⟩

theorem all_tset {p : Nat × α → Bool} {t : Table α} {k : Nat} {v : α} (h : t.all p = true) (hv : p (k, v) = true) :
    (tset t k v).all p = true := by
  induction t with
  | nil => simp [tset, hv]
  | cons c r ih =>
    obtain ⟨j, u⟩ := c
    simp only [List.all_cons, Bool.and_eq_true] at h
    simp only [tset]
    split
    · simp [hv, h.2]
    · split
      · simp only [List.all_cons, hv, h.1, h.2, Bool.and_self]
      · simp only [List.all_cons, h.1, ih h.2, Bool.and_self]

theorem all_tdel {p : Nat × α → Bool} {t : Table α} {k : Nat} (h : t.all p = true) : (tdel t k).all p = true := by
  induction t with
  | nil => rfl
  | cons c r ih =>
    obtain ⟨j, u⟩ := c
    simp only [List.all_cons, Bool.and_eq_true] at h
    simp only [tdel]
    split
    · exact h.2
    · split
      · simp only [List.all_cons, h.1, h.2, Bool.and_self]
      · simp only [List.all_cons, h.1, ih h.2, Bool.and_self]

end Sys2Proof.Laws
end

