-- ==== Sys2Proof/Laws/Memory.lean ====
section
/-! SUPPORT. Memories and register files: reading after writing, and that every operation keeps the canonical form. -/

namespace Sys2Proof.Laws

open Sys2Proof.Machine

/-! ### Bytes -/

theorem byte_setByte_same (m : Memory) (h : m.wf = true) (a : Nat) (b : Byte) : (m.setByte a b).byte a = b := by
  simp only [Memory.wf, Bool.and_eq_true] at h
  unfold Memory.byte
  by_cases hc : b = 0 ∧ m.fill = none
  · rw [show (m.setByte a b).cells = tdel m.cells a from if_pos hc, tget_tdel_same h.1.1.1 a,
      show (m.setByte a b).fill = none from hc.2]
    exact hc.1.symm
  · rw [show (m.setByte a b).cells = tset m.cells a b from if_neg hc, tget_tset_same]

theorem byte_setByte_ne (m : Memory) (h : m.wf = true) {a c : Nat} (b : Byte) (hne : c ≠ a) :
    (m.setByte a b).byte c = m.byte c := by
  simp only [Memory.wf, Bool.and_eq_true] at h
  unfold Memory.byte
  by_cases hc : b = 0 ∧ m.fill = none
  · rw [show (m.setByte a b).cells = tdel m.cells a from if_pos hc, tget_tdel_ne h.1.1.1 hne,
      show (m.setByte a b).fill = m.fill from rfl]
  · rw [show (m.setByte a b).cells = tset m.cells a b from if_neg hc, tget_tset_ne _ _ hne,
      show (m.setByte a b).fill = m.fill from rfl]

theorem wf_setByte (m : Memory) (h : m.wf = true) (a : Nat) (b : Byte) : (m.setByte a b).wf = true := by
  simp only [Memory.wf, Bool.and_eq_true] at h ⊢
  refine ⟨⟨⟨?_, ?_⟩, h.1.2⟩, h.2⟩
  · simp only [Memory.setByte]
    split
    · exact tableFrom_tdel a h.1.1.1
    · exact tableFrom_tset b h.1.1.1 (Nat.zero_le a)
  · simp only [Memory.setByte]
    have h2 := h.1.1.2
    simp only [Bool.or_eq_true] at h2 ⊢
    cases h2 with
    | inl h2 => exact .inl h2
    | inr h2 =>
      split
      · exact .inr (all_tdel h2)
      · rename_i hc
        cases hf : m.fill with
        | some e => exact .inl rfl
        | none => exact .inr (all_tset h2 (by simp only [decide_eq_true_eq]; exact fun hb => hc ⟨hb, hf⟩))

theorem wf_setBytes (m : Memory) (h : m.wf = true) (a : Nat) (bs : List Byte) : (m.setBytes a bs).wf = true := by
  induction bs generalizing m a with
  | nil => exact h
  | cons b r ih => exact ih _ (wf_setByte m h a b) _

/-- A write leaves every byte outside it alone. -/
theorem byte_setBytes_outside (m : Memory) (h : m.wf = true) (a : Nat) (bs : List Byte) {c : Nat}
    (hc : c < a ∨ a + bs.length ≤ c) : (m.setBytes a bs).byte c = m.byte c := by
  induction bs generalizing m a with
  | nil => rfl
  | cons b r ih =>
    simp only [List.length_cons] at hc
    rw [Memory.setBytes, ih _ (wf_setByte m h a b) _ (by omega), byte_setByte_ne m h b (by omega)]

/-- A read after a write of the same bytes gives what was written. -/
theorem bytes_setBytes_same (m : Memory) (h : m.wf = true) (a : Nat) (bs : List Byte) :
    (m.setBytes a bs).bytes a bs.length = bs := by
  induction bs generalizing m a with
  | nil => rfl
  | cons b r ih =>
    rw [Memory.setBytes, List.length_cons, Memory.bytes, ih _ (wf_setByte m h a b),
      byte_setBytes_outside _ (wf_setByte m h a b) _ _ (by omega), byte_setByte_same m h]

@[simp] theorem setByte_bad (m : Memory) (a : Nat) (b : Byte) : (m.setByte a b).bad = m.bad := rfl
@[simp] theorem setByte_fill (m : Memory) (a : Nat) (b : Byte) : (m.setByte a b).fill = m.fill := rfl

@[simp] theorem setBytes_bad (m : Memory) (a : Nat) (bs : List Byte) : (m.setBytes a bs).bad = m.bad := by
  induction bs generalizing m a with
  | nil => rfl
  | cons b r ih => rw [Memory.setBytes, ih]; rfl

/-! ### Check words -/

@[simp] theorem setSyn_byte (m : Memory) (k : Nat) (z : BitVec 8) (a : Nat) : (m.setSyn k z).byte a = m.byte a := rfl

theorem wf_setSyn (m : Memory) (h : m.wf = true) (k : Nat) (z : BitVec 8) : (m.setSyn k z).wf = true := by
  simp only [Memory.wf, Bool.and_eq_true] at h ⊢
  refine ⟨⟨h.1.1, ?_⟩, ?_⟩
  · simp only [Memory.setSyn]
    split
    · exact tableFrom_tdel k h.1.2
    · exact tableFrom_tset z h.1.2 (Nat.zero_le k)
  · simp only [Memory.setSyn]
    split
    · exact all_tdel h.2
    · rename_i hz
      exact all_tset h.2 (by simpa using hz)

theorem wf_setWord (m : Memory) (h : m.wf = true) (a : Nat) (c : CWord) : (m.setWord a c).wf = true :=
  wf_setSyn _ (wf_setBytes m h a _) _ _

theorem wf_setWords (m : Memory) (h : m.wf = true) (a : Nat) (cs : List CWord) : (m.setWords a cs).wf = true := by
  induction cs generalizing m a with
  | nil => exact h
  | cons c r ih => exact ih _ (wf_setWord m h a c) _

theorem wf_correct (m : Memory) (h : m.wf = true) (ks : List Nat) :
    (ks.foldl (fun m k => m.setWord (8 * k) (CWord.good ((m.word (8 * k)).use.getD 0))) m).wf = true := by
  induction ks generalizing m with
  | nil => exact h
  | cons k r ih => exact ih _ (wf_setWord m h _ _)

theorem wf_store (m : Memory) (h : m.wf = true) (a : Nat) (bs : List Byte) {t : Memory} (e : m.store a bs = .ok t) :
    t.wf = true := by
  simp only [Memory.store] at e
  split at e
  · cases e
    exact wf_setBytes m h a bs
  · split at e
    · cases e
    · cases e
      exact wf_setBytes _ (wf_correct m h _) _ _

theorem wf_empty (f : Option Nat) : Memory.wf { cells := [], fill := f, bad := [] } = true := by cases f <;> rfl

theorem bytes_length (m : Memory) (a n : Nat) : (m.bytes a n).length = n := by
  induction n generalizing a with
  | zero => rfl
  | succ n ih => simp [Memory.bytes, ih]

theorem toBytes_length (n v : Nat) : (toBytes n v).length = n := by
  induction n generalizing v with
  | zero => rfl
  | succ n ih => simp [toBytes, ih]

theorem ofBytes_toBytes (n v : Nat) : ofBytes (toBytes n v) = v % 2 ^ (8 * n) := by
  induction n generalizing v with
  | zero => simp [toBytes, ofBytes, Nat.mod_one]
  | succ n ih =>
    rw [toBytes, ofBytes, ih, BitVec.toNat_ofNat, Nat.mul_add, Nat.pow_add, Nat.mul_comm (2 ^ (8 * n)) (2 ^ (8 * 1)),
      Nat.mod_mul]

/-- A check word reads back as it was written. -/
theorem word_setWord_same (m : Memory) (h : m.wf = true) (a : Nat) (c : CWord) : (m.setWord a c).word a = c := by
  have hb : ((m.setWord a c)).bytes a 8 = toBytes 8 c.v.toNat := by
    have := bytes_setBytes_same m h a (toBytes 8 c.v.toNat)
    rw [toBytes_length] at this
    exact this
  have hw := wf_setBytes m h a (toBytes 8 c.v.toNat)
  simp only [Memory.wf, Bool.and_eq_true] at hw
  obtain ⟨v, z⟩ := c
  rw [Memory.word, hb, ofBytes_toBytes, Nat.mod_eq_of_lt (by simpa using v.isLt), BitVec.ofNat_toNat, BitVec.setWidth_eq]
  congr 1
  simp only [Memory.setWord, Memory.setSyn]
  split
  · rename_i hz
    rw [tget_tdel_same hw.1.2]
    exact hz.symm
  · rw [tget_tset_same]
    rfl

/-! ### Register files -/

variable {w : Nat}

theorem regs_wf_put (r : Regs w) (h : r.wf = true) (i : Nat) (v : BitVec w) : (r.put i v).wf = true := by
  simp only [Regs.wf, Bool.and_eq_true] at h ⊢
  simp only [Regs.put]
  split
  · exact ⟨tableFrom_tdel i h.1, by
      have h2 := h.2
      simp only [Bool.or_eq_true] at h2 ⊢
      exact h2.imp id (fun h2 => all_tdel h2)⟩
  · rename_i hc
    refine ⟨tableFrom_tset v h.1 (Nat.zero_le i), ?_⟩
    have h2 := h.2
    simp only [Bool.or_eq_true] at h2 ⊢
    cases hu : r.undef with
    | true => exact .inl rfl
    | false =>
      rw [hu] at h2
      exact .inr (all_tset (h2.resolve_left (by simp)) (by simp only [decide_eq_true_eq]; exact fun hb => hc ⟨hb, hu⟩))

theorem get_put_same (r : Regs w) (h : r.wf = true) (i tick slot : Nat) (v : BitVec w) : (r.put i v).get i tick slot = v := by
  simp only [Regs.wf, Bool.and_eq_true] at h
  unfold Regs.get
  by_cases hc : v = 0 ∧ r.undef = false
  · rw [show (r.put i v).cells = tdel r.cells i from if_pos hc, tget_tdel_same h.1 i]
    exact (if_neg (by rw [show (r.put i v).undef = false from hc.2]; decide)).trans hc.1.symm
  · rw [show (r.put i v).cells = tset r.cells i v from if_neg hc, tget_tset_same]

theorem get_put_ne (r : Regs w) (h : r.wf = true) {i j : Nat} (tick slot : Nat) (v : BitVec w) (hne : j ≠ i) :
    (r.put i v).get j tick slot = r.get j tick slot := by
  simp only [Regs.wf, Bool.and_eq_true] at h
  unfold Regs.get
  by_cases hc : v = 0 ∧ r.undef = false
  · rw [show (r.put i v).cells = tdel r.cells i from if_pos hc, tget_tdel_ne h.1 hne]
    rfl
  · rw [show (r.put i v).cells = tset r.cells i v from if_neg hc, tget_tset_ne _ _ hne]
    rfl

end Sys2Proof.Laws
end

