-- ==== Sys2Proof/Laws/State.lean ====
section
/-! SUPPORT. What the updates of a state leave in each of its fields: one lemma for each field and update, true by definition. -/

namespace Sys2Proof.Laws

open Sys2Proof.Machine

/-! ### setCtx -/

section

variable (s : State) (k : Nat) (c : Ctx)

@[simp] theorem setCtx_core : (s.setCtx k c).core = s.core := rfl
@[simp] theorem setCtx_here : (s.setCtx k c).here = s.here := rfl
@[simp] theorem setCtx_cores : (s.setCtx k c).cores = s.cores := rfl
@[simp] theorem setCtx_stores : (s.setCtx k c).stores = s.stores := rfl
@[simp] theorem setCtx_bound : (s.setCtx k c).bound = s.bound := rfl
@[simp] theorem setCtx_ctxs : (s.setCtx k c).ctxs = tset s.ctxs k c := rfl
@[simp] theorem setCtx_instars : (s.setCtx k c).instars = s.instars := rfl
@[simp] theorem setCtx_orders : (s.setCtx k c).orders = s.orders := rfl
@[simp] theorem setCtx_links : (s.setCtx k c).links = s.links := rfl
@[simp] theorem setCtx_mem : (s.setCtx k c).mem = s.mem := rfl
@[simp] theorem setCtx_tlb : (s.setCtx k c).tlb = s.tlb := rfl
@[simp] theorem setCtx_cmds : (s.setCtx k c).cmds = s.cmds := rfl
@[simp] theorem setCtx_nextId : (s.setCtx k c).nextId = s.nextId := rfl
@[simp] theorem setCtx_units : (s.setCtx k c).units = s.units := rfl
@[simp] theorem setCtx_reqs : (s.setCtx k c).reqs = s.reqs := rfl
@[simp] theorem setCtx_openRow : (s.setCtx k c).openRow = s.openRow := rfl
@[simp] theorem setCtx_hbm : (s.setCtx k c).hbm = s.hbm := rfl
@[simp] theorem setCtx_dir : (s.setCtx k c).dir = s.dir := rfl
@[simp] theorem setCtx_leases : (s.setCtx k c).leases = s.leases := rfl
@[simp] theorem setCtx_moves : (s.setCtx k c).moves = s.moves := rfl
@[simp] theorem setCtx_moveQueue : (s.setCtx k c).moveQueue = s.moveQueue := rfl
@[simp] theorem setCtx_fences : (s.setCtx k c).fences = s.fences := rfl
@[simp] theorem setCtx_homes : (s.setCtx k c).homes = s.homes := rfl
@[simp] theorem setCtx_paced : (s.setCtx k c).paced = s.paced := rfl
@[simp] theorem setCtx_doms : (s.setCtx k c).doms = s.doms := rfl
@[simp] theorem setCtx_pkg : (s.setCtx k c).pkg = s.pkg := rfl
@[simp] theorem setCtx_lease : (s.setCtx k c).lease = s.lease := rfl
@[simp] theorem setCtx_res : (s.setCtx k c).res = s.res := rfl
@[simp] theorem setCtx_ports : (s.setCtx k c).ports = s.ports := rfl
@[simp] theorem setCtx_groups : (s.setCtx k c).groups = s.groups := rfl
@[simp] theorem setCtx_ramos : (s.setCtx k c).ramos = s.ramos := rfl
@[simp] theorem setCtx_dedup : (s.setCtx k c).dedup = s.dedup := rfl
@[simp] theorem setCtx_flows : (s.setCtx k c).flows = s.flows := rfl
@[simp] theorem setCtx_flowSeq : (s.setCtx k c).flowSeq = s.flowSeq := rfl
@[simp] theorem setCtx_portDrops : (s.setCtx k c).portDrops = s.portDrops := rfl
@[simp] theorem setCtx_down : (s.setCtx k c).down = s.down := rfl
@[simp] theorem setCtx_scrubTags : (s.setCtx k c).scrubTags = s.scrubTags := rfl
@[simp] theorem setCtx_directed : (s.setCtx k c).directed = s.directed := rfl
@[simp] theorem setCtx_patrol : (s.setCtx k c).patrol = s.patrol := rfl
@[simp] theorem setCtx_pkgRing : (s.setCtx k c).pkgRing = s.pkgRing := rfl
@[simp] theorem setCtx_pkgMonitors : (s.setCtx k c).pkgMonitors = s.pkgMonitors := rfl
@[simp] theorem setCtx_withdrawn : (s.setCtx k c).withdrawn = s.withdrawn := rfl
@[simp] theorem setCtx_flash : (s.setCtx k c).flash = s.flash := rfl
@[simp] theorem setCtx_flashFw : (s.setCtx k c).flashFw = s.flashFw := rfl
@[simp] theorem setCtx_fwDigest : (s.setCtx k c).fwDigest = s.fwDigest := rfl
@[simp] theorem setCtx_counters : (s.setCtx k c).counters = s.counters := rfl
@[simp] theorem setCtx_attests : (s.setCtx k c).attests = s.attests := rfl
@[simp] theorem setCtx_inUse : (s.setCtx k c).inUse = s.inUse := rfl
@[simp] theorem setCtx_plog : (s.setCtx k c).plog = s.plog := rfl
@[simp] theorem setCtx_reply : (s.setCtx k c).reply = s.reply := rfl
@[simp] theorem setCtx_images : (s.setCtx k c).images = s.images := rfl
@[simp] theorem setCtx_quiesced : (s.setCtx k c).quiesced = s.quiesced := rfl
@[simp] theorem setCtx_step : (s.setCtx k c).step = s.step := rfl
@[simp] theorem setCtx_recovery : (s.setCtx k c).recovery = s.recovery := rfl
@[simp] theorem setCtx_ready : (s.setCtx k c).ready = s.ready := rfl
@[simp] theorem setCtx_apbase : (s.setCtx k c).apbase = s.apbase := rfl
@[simp] theorem setCtx_pAsked : (s.setCtx k c).pAsked = s.pAsked := rfl
@[simp] theorem setCtx_pNow : (s.setCtx k c).pNow = s.pNow := rfl
@[simp] theorem setCtx_hot : (s.setCtx k c).hot = s.hot := rfl
@[simp] theorem setCtx_shut : (s.setCtx k c).shut = s.shut := rfl
@[simp] theorem setCtx_synced : (s.setCtx k c).synced = s.synced := rfl
@[simp] theorem setCtx_locked : (s.setCtx k c).locked = s.locked := rfl
@[simp] theorem setCtx_ptp : (s.setCtx k c).ptp = s.ptp := rfl
@[simp] theorem setCtx_cycle : (s.setCtx k c).cycle = s.cycle := rfl
@[simp] theorem setCtx_bankHere : (s.setCtx k c).bankHere = s.bankHere := rfl
@[simp] theorem setCtx_again : (s.setCtx k c).again = s.again := rfl
@[simp] theorem setCtx_tick : (s.setCtx k c).tick = s.tick := rfl
@[simp] theorem setCtx_agenda : (s.setCtx k c).agenda = s.agenda := rfl

end

/-! ### setStore -/

section

variable (s : State) (k : Nat) (t : Store)

@[simp] theorem setStore_core : (s.setStore k t).core = s.core := rfl
@[simp] theorem setStore_here : (s.setStore k t).here = s.here := rfl
@[simp] theorem setStore_cores : (s.setStore k t).cores = s.cores := rfl
@[simp] theorem setStore_stores : (s.setStore k t).stores = tset s.stores k t := rfl
@[simp] theorem setStore_bound : (s.setStore k t).bound = s.bound := rfl
@[simp] theorem setStore_ctxs : (s.setStore k t).ctxs = s.ctxs := rfl
@[simp] theorem setStore_instars : (s.setStore k t).instars = s.instars := rfl
@[simp] theorem setStore_orders : (s.setStore k t).orders = s.orders := rfl
@[simp] theorem setStore_links : (s.setStore k t).links = s.links := rfl
@[simp] theorem setStore_mem : (s.setStore k t).mem = s.mem := rfl
@[simp] theorem setStore_tlb : (s.setStore k t).tlb = s.tlb := rfl
@[simp] theorem setStore_cmds : (s.setStore k t).cmds = s.cmds := rfl
@[simp] theorem setStore_nextId : (s.setStore k t).nextId = s.nextId := rfl
@[simp] theorem setStore_units : (s.setStore k t).units = s.units := rfl
@[simp] theorem setStore_reqs : (s.setStore k t).reqs = s.reqs := rfl
@[simp] theorem setStore_openRow : (s.setStore k t).openRow = s.openRow := rfl
@[simp] theorem setStore_hbm : (s.setStore k t).hbm = s.hbm := rfl
@[simp] theorem setStore_dir : (s.setStore k t).dir = s.dir := rfl
@[simp] theorem setStore_leases : (s.setStore k t).leases = s.leases := rfl
@[simp] theorem setStore_moves : (s.setStore k t).moves = s.moves := rfl
@[simp] theorem setStore_moveQueue : (s.setStore k t).moveQueue = s.moveQueue := rfl
@[simp] theorem setStore_fences : (s.setStore k t).fences = s.fences := rfl
@[simp] theorem setStore_homes : (s.setStore k t).homes = s.homes := rfl
@[simp] theorem setStore_paced : (s.setStore k t).paced = s.paced := rfl
@[simp] theorem setStore_doms : (s.setStore k t).doms = s.doms := rfl
@[simp] theorem setStore_pkg : (s.setStore k t).pkg = s.pkg := rfl
@[simp] theorem setStore_lease : (s.setStore k t).lease = s.lease := rfl
@[simp] theorem setStore_res : (s.setStore k t).res = s.res := rfl
@[simp] theorem setStore_ports : (s.setStore k t).ports = s.ports := rfl
@[simp] theorem setStore_groups : (s.setStore k t).groups = s.groups := rfl
@[simp] theorem setStore_ramos : (s.setStore k t).ramos = s.ramos := rfl
@[simp] theorem setStore_dedup : (s.setStore k t).dedup = s.dedup := rfl
@[simp] theorem setStore_flows : (s.setStore k t).flows = s.flows := rfl
@[simp] theorem setStore_flowSeq : (s.setStore k t).flowSeq = s.flowSeq := rfl
@[simp] theorem setStore_portDrops : (s.setStore k t).portDrops = s.portDrops := rfl
@[simp] theorem setStore_down : (s.setStore k t).down = s.down := rfl
@[simp] theorem setStore_scrubTags : (s.setStore k t).scrubTags = s.scrubTags := rfl
@[simp] theorem setStore_directed : (s.setStore k t).directed = s.directed := rfl
@[simp] theorem setStore_patrol : (s.setStore k t).patrol = s.patrol := rfl
@[simp] theorem setStore_pkgRing : (s.setStore k t).pkgRing = s.pkgRing := rfl
@[simp] theorem setStore_pkgMonitors : (s.setStore k t).pkgMonitors = s.pkgMonitors := rfl
@[simp] theorem setStore_withdrawn : (s.setStore k t).withdrawn = s.withdrawn := rfl
@[simp] theorem setStore_flash : (s.setStore k t).flash = s.flash := rfl
@[simp] theorem setStore_flashFw : (s.setStore k t).flashFw = s.flashFw := rfl
@[simp] theorem setStore_fwDigest : (s.setStore k t).fwDigest = s.fwDigest := rfl
@[simp] theorem setStore_counters : (s.setStore k t).counters = s.counters := rfl
@[simp] theorem setStore_attests : (s.setStore k t).attests = s.attests := rfl
@[simp] theorem setStore_inUse : (s.setStore k t).inUse = s.inUse := rfl
@[simp] theorem setStore_plog : (s.setStore k t).plog = s.plog := rfl
@[simp] theorem setStore_reply : (s.setStore k t).reply = s.reply := rfl
@[simp] theorem setStore_images : (s.setStore k t).images = s.images := rfl
@[simp] theorem setStore_quiesced : (s.setStore k t).quiesced = s.quiesced := rfl
@[simp] theorem setStore_step : (s.setStore k t).step = s.step := rfl
@[simp] theorem setStore_recovery : (s.setStore k t).recovery = s.recovery := rfl
@[simp] theorem setStore_ready : (s.setStore k t).ready = s.ready := rfl
@[simp] theorem setStore_apbase : (s.setStore k t).apbase = s.apbase := rfl
@[simp] theorem setStore_pAsked : (s.setStore k t).pAsked = s.pAsked := rfl
@[simp] theorem setStore_pNow : (s.setStore k t).pNow = s.pNow := rfl
@[simp] theorem setStore_hot : (s.setStore k t).hot = s.hot := rfl
@[simp] theorem setStore_shut : (s.setStore k t).shut = s.shut := rfl
@[simp] theorem setStore_synced : (s.setStore k t).synced = s.synced := rfl
@[simp] theorem setStore_locked : (s.setStore k t).locked = s.locked := rfl
@[simp] theorem setStore_ptp : (s.setStore k t).ptp = s.ptp := rfl
@[simp] theorem setStore_cycle : (s.setStore k t).cycle = s.cycle := rfl
@[simp] theorem setStore_bankHere : (s.setStore k t).bankHere = s.bankHere := rfl
@[simp] theorem setStore_again : (s.setStore k t).again = s.again := rfl
@[simp] theorem setStore_tick : (s.setStore k t).tick = s.tick := rfl
@[simp] theorem setStore_agenda : (s.setStore k t).agenda = s.agenda := rfl

end

/-! ### setOwn -/

section

variable (s : State) (t : Store)

@[simp] theorem setOwn_core : (s.setOwn t).core = s.core := rfl
@[simp] theorem setOwn_here : (s.setOwn t).here = s.here := rfl
@[simp] theorem setOwn_cores : (s.setOwn t).cores = s.cores := rfl
@[simp] theorem setOwn_stores : (s.setOwn t).stores = tset s.stores s.ownKey t := rfl
@[simp] theorem setOwn_bound : (s.setOwn t).bound = s.bound := rfl
@[simp] theorem setOwn_ctxs : (s.setOwn t).ctxs = s.ctxs := rfl
@[simp] theorem setOwn_instars : (s.setOwn t).instars = s.instars := rfl
@[simp] theorem setOwn_orders : (s.setOwn t).orders = s.orders := rfl
@[simp] theorem setOwn_links : (s.setOwn t).links = s.links := rfl
@[simp] theorem setOwn_mem : (s.setOwn t).mem = s.mem := rfl
@[simp] theorem setOwn_tlb : (s.setOwn t).tlb = s.tlb := rfl
@[simp] theorem setOwn_cmds : (s.setOwn t).cmds = s.cmds := rfl
@[simp] theorem setOwn_nextId : (s.setOwn t).nextId = s.nextId := rfl
@[simp] theorem setOwn_units : (s.setOwn t).units = s.units := rfl
@[simp] theorem setOwn_reqs : (s.setOwn t).reqs = s.reqs := rfl
@[simp] theorem setOwn_openRow : (s.setOwn t).openRow = s.openRow := rfl
@[simp] theorem setOwn_hbm : (s.setOwn t).hbm = s.hbm := rfl
@[simp] theorem setOwn_dir : (s.setOwn t).dir = s.dir := rfl
@[simp] theorem setOwn_leases : (s.setOwn t).leases = s.leases := rfl
@[simp] theorem setOwn_moves : (s.setOwn t).moves = s.moves := rfl
@[simp] theorem setOwn_moveQueue : (s.setOwn t).moveQueue = s.moveQueue := rfl
@[simp] theorem setOwn_fences : (s.setOwn t).fences = s.fences := rfl
@[simp] theorem setOwn_homes : (s.setOwn t).homes = s.homes := rfl
@[simp] theorem setOwn_paced : (s.setOwn t).paced = s.paced := rfl
@[simp] theorem setOwn_doms : (s.setOwn t).doms = s.doms := rfl
@[simp] theorem setOwn_pkg : (s.setOwn t).pkg = s.pkg := rfl
@[simp] theorem setOwn_lease : (s.setOwn t).lease = s.lease := rfl
@[simp] theorem setOwn_res : (s.setOwn t).res = s.res := rfl
@[simp] theorem setOwn_ports : (s.setOwn t).ports = s.ports := rfl
@[simp] theorem setOwn_groups : (s.setOwn t).groups = s.groups := rfl
@[simp] theorem setOwn_ramos : (s.setOwn t).ramos = s.ramos := rfl
@[simp] theorem setOwn_dedup : (s.setOwn t).dedup = s.dedup := rfl
@[simp] theorem setOwn_flows : (s.setOwn t).flows = s.flows := rfl
@[simp] theorem setOwn_flowSeq : (s.setOwn t).flowSeq = s.flowSeq := rfl
@[simp] theorem setOwn_portDrops : (s.setOwn t).portDrops = s.portDrops := rfl
@[simp] theorem setOwn_down : (s.setOwn t).down = s.down := rfl
@[simp] theorem setOwn_scrubTags : (s.setOwn t).scrubTags = s.scrubTags := rfl
@[simp] theorem setOwn_directed : (s.setOwn t).directed = s.directed := rfl
@[simp] theorem setOwn_patrol : (s.setOwn t).patrol = s.patrol := rfl
@[simp] theorem setOwn_pkgRing : (s.setOwn t).pkgRing = s.pkgRing := rfl
@[simp] theorem setOwn_pkgMonitors : (s.setOwn t).pkgMonitors = s.pkgMonitors := rfl
@[simp] theorem setOwn_withdrawn : (s.setOwn t).withdrawn = s.withdrawn := rfl
@[simp] theorem setOwn_flash : (s.setOwn t).flash = s.flash := rfl
@[simp] theorem setOwn_flashFw : (s.setOwn t).flashFw = s.flashFw := rfl
@[simp] theorem setOwn_fwDigest : (s.setOwn t).fwDigest = s.fwDigest := rfl
@[simp] theorem setOwn_counters : (s.setOwn t).counters = s.counters := rfl
@[simp] theorem setOwn_attests : (s.setOwn t).attests = s.attests := rfl
@[simp] theorem setOwn_inUse : (s.setOwn t).inUse = s.inUse := rfl
@[simp] theorem setOwn_plog : (s.setOwn t).plog = s.plog := rfl
@[simp] theorem setOwn_reply : (s.setOwn t).reply = s.reply := rfl
@[simp] theorem setOwn_images : (s.setOwn t).images = s.images := rfl
@[simp] theorem setOwn_quiesced : (s.setOwn t).quiesced = s.quiesced := rfl
@[simp] theorem setOwn_step : (s.setOwn t).step = s.step := rfl
@[simp] theorem setOwn_recovery : (s.setOwn t).recovery = s.recovery := rfl
@[simp] theorem setOwn_ready : (s.setOwn t).ready = s.ready := rfl
@[simp] theorem setOwn_apbase : (s.setOwn t).apbase = s.apbase := rfl
@[simp] theorem setOwn_pAsked : (s.setOwn t).pAsked = s.pAsked := rfl
@[simp] theorem setOwn_pNow : (s.setOwn t).pNow = s.pNow := rfl
@[simp] theorem setOwn_hot : (s.setOwn t).hot = s.hot := rfl
@[simp] theorem setOwn_shut : (s.setOwn t).shut = s.shut := rfl
@[simp] theorem setOwn_synced : (s.setOwn t).synced = s.synced := rfl
@[simp] theorem setOwn_locked : (s.setOwn t).locked = s.locked := rfl
@[simp] theorem setOwn_ptp : (s.setOwn t).ptp = s.ptp := rfl
@[simp] theorem setOwn_cycle : (s.setOwn t).cycle = s.cycle := rfl
@[simp] theorem setOwn_bankHere : (s.setOwn t).bankHere = s.bankHere := rfl
@[simp] theorem setOwn_again : (s.setOwn t).again = s.again := rfl
@[simp] theorem setOwn_tick : (s.setOwn t).tick = s.tick := rfl
@[simp] theorem setOwn_agenda : (s.setOwn t).agenda = s.agenda := rfl

end

/-! ### setDom -/

section

variable (s : State) (d : Nat) (x : Dom)

@[simp] theorem setDom_core : (s.setDom d x).core = s.core := rfl
@[simp] theorem setDom_here : (s.setDom d x).here = s.here := rfl
@[simp] theorem setDom_cores : (s.setDom d x).cores = s.cores := rfl
@[simp] theorem setDom_stores : (s.setDom d x).stores = s.stores := rfl
@[simp] theorem setDom_bound : (s.setDom d x).bound = s.bound := rfl
@[simp] theorem setDom_ctxs : (s.setDom d x).ctxs = s.ctxs := rfl
@[simp] theorem setDom_instars : (s.setDom d x).instars = s.instars := rfl
@[simp] theorem setDom_orders : (s.setDom d x).orders = s.orders := rfl
@[simp] theorem setDom_links : (s.setDom d x).links = s.links := rfl
@[simp] theorem setDom_mem : (s.setDom d x).mem = s.mem := rfl
@[simp] theorem setDom_tlb : (s.setDom d x).tlb = s.tlb := rfl
@[simp] theorem setDom_cmds : (s.setDom d x).cmds = s.cmds := rfl
@[simp] theorem setDom_nextId : (s.setDom d x).nextId = s.nextId := rfl
@[simp] theorem setDom_units : (s.setDom d x).units = s.units := rfl
@[simp] theorem setDom_reqs : (s.setDom d x).reqs = s.reqs := rfl
@[simp] theorem setDom_openRow : (s.setDom d x).openRow = s.openRow := rfl
@[simp] theorem setDom_hbm : (s.setDom d x).hbm = s.hbm := rfl
@[simp] theorem setDom_dir : (s.setDom d x).dir = s.dir := rfl
@[simp] theorem setDom_leases : (s.setDom d x).leases = s.leases := rfl
@[simp] theorem setDom_moves : (s.setDom d x).moves = s.moves := rfl
@[simp] theorem setDom_moveQueue : (s.setDom d x).moveQueue = s.moveQueue := rfl
@[simp] theorem setDom_fences : (s.setDom d x).fences = s.fences := rfl
@[simp] theorem setDom_homes : (s.setDom d x).homes = s.homes := rfl
@[simp] theorem setDom_paced : (s.setDom d x).paced = s.paced := rfl
@[simp] theorem setDom_doms : (s.setDom d x).doms = tset s.doms d x := rfl
@[simp] theorem setDom_pkg : (s.setDom d x).pkg = s.pkg := rfl
@[simp] theorem setDom_lease : (s.setDom d x).lease = s.lease := rfl
@[simp] theorem setDom_res : (s.setDom d x).res = s.res := rfl
@[simp] theorem setDom_ports : (s.setDom d x).ports = s.ports := rfl
@[simp] theorem setDom_groups : (s.setDom d x).groups = s.groups := rfl
@[simp] theorem setDom_ramos : (s.setDom d x).ramos = s.ramos := rfl
@[simp] theorem setDom_dedup : (s.setDom d x).dedup = s.dedup := rfl
@[simp] theorem setDom_flows : (s.setDom d x).flows = s.flows := rfl
@[simp] theorem setDom_flowSeq : (s.setDom d x).flowSeq = s.flowSeq := rfl
@[simp] theorem setDom_portDrops : (s.setDom d x).portDrops = s.portDrops := rfl
@[simp] theorem setDom_down : (s.setDom d x).down = s.down := rfl
@[simp] theorem setDom_scrubTags : (s.setDom d x).scrubTags = s.scrubTags := rfl
@[simp] theorem setDom_directed : (s.setDom d x).directed = s.directed := rfl
@[simp] theorem setDom_patrol : (s.setDom d x).patrol = s.patrol := rfl
@[simp] theorem setDom_pkgRing : (s.setDom d x).pkgRing = s.pkgRing := rfl
@[simp] theorem setDom_pkgMonitors : (s.setDom d x).pkgMonitors = s.pkgMonitors := rfl
@[simp] theorem setDom_withdrawn : (s.setDom d x).withdrawn = s.withdrawn := rfl
@[simp] theorem setDom_flash : (s.setDom d x).flash = s.flash := rfl
@[simp] theorem setDom_flashFw : (s.setDom d x).flashFw = s.flashFw := rfl
@[simp] theorem setDom_fwDigest : (s.setDom d x).fwDigest = s.fwDigest := rfl
@[simp] theorem setDom_counters : (s.setDom d x).counters = s.counters := rfl
@[simp] theorem setDom_attests : (s.setDom d x).attests = s.attests := rfl
@[simp] theorem setDom_inUse : (s.setDom d x).inUse = s.inUse := rfl
@[simp] theorem setDom_plog : (s.setDom d x).plog = s.plog := rfl
@[simp] theorem setDom_reply : (s.setDom d x).reply = s.reply := rfl
@[simp] theorem setDom_images : (s.setDom d x).images = s.images := rfl
@[simp] theorem setDom_quiesced : (s.setDom d x).quiesced = s.quiesced := rfl
@[simp] theorem setDom_step : (s.setDom d x).step = s.step := rfl
@[simp] theorem setDom_recovery : (s.setDom d x).recovery = s.recovery := rfl
@[simp] theorem setDom_ready : (s.setDom d x).ready = s.ready := rfl
@[simp] theorem setDom_apbase : (s.setDom d x).apbase = s.apbase := rfl
@[simp] theorem setDom_pAsked : (s.setDom d x).pAsked = s.pAsked := rfl
@[simp] theorem setDom_pNow : (s.setDom d x).pNow = s.pNow := rfl
@[simp] theorem setDom_hot : (s.setDom d x).hot = s.hot := rfl
@[simp] theorem setDom_shut : (s.setDom d x).shut = s.shut := rfl
@[simp] theorem setDom_synced : (s.setDom d x).synced = s.synced := rfl
@[simp] theorem setDom_locked : (s.setDom d x).locked = s.locked := rfl
@[simp] theorem setDom_ptp : (s.setDom d x).ptp = s.ptp := rfl
@[simp] theorem setDom_cycle : (s.setDom d x).cycle = s.cycle := rfl
@[simp] theorem setDom_bankHere : (s.setDom d x).bankHere = s.bankHere := rfl
@[simp] theorem setDom_again : (s.setDom d x).again = s.again := rfl
@[simp] theorem setDom_tick : (s.setDom d x).tick = s.tick := rfl
@[simp] theorem setDom_agenda : (s.setDom d x).agenda = s.agenda := rfl

end

/-! ### landDue -/

section

variable (s : State)

@[simp] theorem landDue_core : (s.landDue).core = s.core.landDue := rfl
@[simp] theorem landDue_here : (s.landDue).here = s.here := rfl
@[simp] theorem landDue_cores : (s.landDue).cores = s.cores := rfl
@[simp] theorem landDue_stores : (s.landDue).stores = s.stores := rfl
@[simp] theorem landDue_bound : (s.landDue).bound = s.bound := rfl
@[simp] theorem landDue_ctxs : (s.landDue).ctxs = s.ctxs := rfl
@[simp] theorem landDue_instars : (s.landDue).instars = s.instars := rfl
@[simp] theorem landDue_orders : (s.landDue).orders = s.orders := rfl
@[simp] theorem landDue_links : (s.landDue).links = s.links := rfl
@[simp] theorem landDue_mem : (s.landDue).mem = s.mem := rfl
@[simp] theorem landDue_tlb : (s.landDue).tlb = s.tlb := rfl
@[simp] theorem landDue_cmds : (s.landDue).cmds = s.cmds := rfl
@[simp] theorem landDue_nextId : (s.landDue).nextId = s.nextId := rfl
@[simp] theorem landDue_units : (s.landDue).units = s.units := rfl
@[simp] theorem landDue_reqs : (s.landDue).reqs = s.reqs := rfl
@[simp] theorem landDue_openRow : (s.landDue).openRow = s.openRow := rfl
@[simp] theorem landDue_hbm : (s.landDue).hbm = s.hbm := rfl
@[simp] theorem landDue_dir : (s.landDue).dir = s.dir := rfl
@[simp] theorem landDue_leases : (s.landDue).leases = s.leases := rfl
@[simp] theorem landDue_moves : (s.landDue).moves = s.moves := rfl
@[simp] theorem landDue_moveQueue : (s.landDue).moveQueue = s.moveQueue := rfl
@[simp] theorem landDue_fences : (s.landDue).fences = s.fences := rfl
@[simp] theorem landDue_homes : (s.landDue).homes = s.homes := rfl
@[simp] theorem landDue_paced : (s.landDue).paced = s.paced := rfl
@[simp] theorem landDue_doms : (s.landDue).doms = s.doms := rfl
@[simp] theorem landDue_pkg : (s.landDue).pkg = s.pkg := rfl
@[simp] theorem landDue_lease : (s.landDue).lease = s.lease := rfl
@[simp] theorem landDue_res : (s.landDue).res = s.res := rfl
@[simp] theorem landDue_ports : (s.landDue).ports = s.ports := rfl
@[simp] theorem landDue_groups : (s.landDue).groups = s.groups := rfl
@[simp] theorem landDue_ramos : (s.landDue).ramos = s.ramos := rfl
@[simp] theorem landDue_dedup : (s.landDue).dedup = s.dedup := rfl
@[simp] theorem landDue_flows : (s.landDue).flows = s.flows := rfl
@[simp] theorem landDue_flowSeq : (s.landDue).flowSeq = s.flowSeq := rfl
@[simp] theorem landDue_portDrops : (s.landDue).portDrops = s.portDrops := rfl
@[simp] theorem landDue_down : (s.landDue).down = s.down := rfl
@[simp] theorem landDue_scrubTags : (s.landDue).scrubTags = s.scrubTags := rfl
@[simp] theorem landDue_directed : (s.landDue).directed = s.directed := rfl
@[simp] theorem landDue_patrol : (s.landDue).patrol = s.patrol := rfl
@[simp] theorem landDue_pkgRing : (s.landDue).pkgRing = s.pkgRing := rfl
@[simp] theorem landDue_pkgMonitors : (s.landDue).pkgMonitors = s.pkgMonitors := rfl
@[simp] theorem landDue_withdrawn : (s.landDue).withdrawn = s.withdrawn := rfl
@[simp] theorem landDue_flash : (s.landDue).flash = s.flash := rfl
@[simp] theorem landDue_flashFw : (s.landDue).flashFw = s.flashFw := rfl
@[simp] theorem landDue_fwDigest : (s.landDue).fwDigest = s.fwDigest := rfl
@[simp] theorem landDue_counters : (s.landDue).counters = s.counters := rfl
@[simp] theorem landDue_attests : (s.landDue).attests = s.attests := rfl
@[simp] theorem landDue_inUse : (s.landDue).inUse = s.inUse := rfl
@[simp] theorem landDue_plog : (s.landDue).plog = s.plog := rfl
@[simp] theorem landDue_reply : (s.landDue).reply = s.reply := rfl
@[simp] theorem landDue_images : (s.landDue).images = s.images := rfl
@[simp] theorem landDue_quiesced : (s.landDue).quiesced = s.quiesced := rfl
@[simp] theorem landDue_step : (s.landDue).step = s.step := rfl
@[simp] theorem landDue_recovery : (s.landDue).recovery = s.recovery := rfl
@[simp] theorem landDue_ready : (s.landDue).ready = s.ready := rfl
@[simp] theorem landDue_apbase : (s.landDue).apbase = s.apbase := rfl
@[simp] theorem landDue_pAsked : (s.landDue).pAsked = s.pAsked := rfl
@[simp] theorem landDue_pNow : (s.landDue).pNow = s.pNow := rfl
@[simp] theorem landDue_hot : (s.landDue).hot = s.hot := rfl
@[simp] theorem landDue_shut : (s.landDue).shut = s.shut := rfl
@[simp] theorem landDue_synced : (s.landDue).synced = s.synced := rfl
@[simp] theorem landDue_locked : (s.landDue).locked = s.locked := rfl
@[simp] theorem landDue_ptp : (s.landDue).ptp = s.ptp := rfl
@[simp] theorem landDue_cycle : (s.landDue).cycle = s.cycle := rfl
@[simp] theorem landDue_bankHere : (s.landDue).bankHere = s.bankHere := rfl
@[simp] theorem landDue_again : (s.landDue).again = s.again := rfl
@[simp] theorem landDue_tick : (s.landDue).tick = s.tick := rfl
@[simp] theorem landDue_agenda : (s.landDue).agenda = s.agenda := rfl

end

/-! ### xJump -/

section

variable (s : State) (p : Word)

@[simp] theorem xJump_core : (s.xJump p).core = { s.core with xpc := p, xcycle := s.core.xcycle + 3, xdoubt := false } := rfl
@[simp] theorem xJump_here : (s.xJump p).here = s.here := rfl
@[simp] theorem xJump_cores : (s.xJump p).cores = s.cores := rfl
@[simp] theorem xJump_stores : (s.xJump p).stores = s.stores := rfl
@[simp] theorem xJump_bound : (s.xJump p).bound = s.bound := rfl
@[simp] theorem xJump_ctxs : (s.xJump p).ctxs = s.ctxs := rfl
@[simp] theorem xJump_instars : (s.xJump p).instars = s.instars := rfl
@[simp] theorem xJump_orders : (s.xJump p).orders = s.orders := rfl
@[simp] theorem xJump_links : (s.xJump p).links = s.links := rfl
@[simp] theorem xJump_mem : (s.xJump p).mem = s.mem := rfl
@[simp] theorem xJump_tlb : (s.xJump p).tlb = s.tlb := rfl
@[simp] theorem xJump_cmds : (s.xJump p).cmds = s.cmds := rfl
@[simp] theorem xJump_nextId : (s.xJump p).nextId = s.nextId := rfl
@[simp] theorem xJump_units : (s.xJump p).units = s.units := rfl
@[simp] theorem xJump_reqs : (s.xJump p).reqs = s.reqs := rfl
@[simp] theorem xJump_openRow : (s.xJump p).openRow = s.openRow := rfl
@[simp] theorem xJump_hbm : (s.xJump p).hbm = s.hbm := rfl
@[simp] theorem xJump_dir : (s.xJump p).dir = s.dir := rfl
@[simp] theorem xJump_leases : (s.xJump p).leases = s.leases := rfl
@[simp] theorem xJump_moves : (s.xJump p).moves = s.moves := rfl
@[simp] theorem xJump_moveQueue : (s.xJump p).moveQueue = s.moveQueue := rfl
@[simp] theorem xJump_fences : (s.xJump p).fences = s.fences := rfl
@[simp] theorem xJump_homes : (s.xJump p).homes = s.homes := rfl
@[simp] theorem xJump_paced : (s.xJump p).paced = s.paced := rfl
@[simp] theorem xJump_doms : (s.xJump p).doms = s.doms := rfl
@[simp] theorem xJump_pkg : (s.xJump p).pkg = s.pkg := rfl
@[simp] theorem xJump_lease : (s.xJump p).lease = s.lease := rfl
@[simp] theorem xJump_res : (s.xJump p).res = s.res := rfl
@[simp] theorem xJump_ports : (s.xJump p).ports = s.ports := rfl
@[simp] theorem xJump_groups : (s.xJump p).groups = s.groups := rfl
@[simp] theorem xJump_ramos : (s.xJump p).ramos = s.ramos := rfl
@[simp] theorem xJump_dedup : (s.xJump p).dedup = s.dedup := rfl
@[simp] theorem xJump_flows : (s.xJump p).flows = s.flows := rfl
@[simp] theorem xJump_flowSeq : (s.xJump p).flowSeq = s.flowSeq := rfl
@[simp] theorem xJump_portDrops : (s.xJump p).portDrops = s.portDrops := rfl
@[simp] theorem xJump_down : (s.xJump p).down = s.down := rfl
@[simp] theorem xJump_scrubTags : (s.xJump p).scrubTags = s.scrubTags := rfl
@[simp] theorem xJump_directed : (s.xJump p).directed = s.directed := rfl
@[simp] theorem xJump_patrol : (s.xJump p).patrol = s.patrol := rfl
@[simp] theorem xJump_pkgRing : (s.xJump p).pkgRing = s.pkgRing := rfl
@[simp] theorem xJump_pkgMonitors : (s.xJump p).pkgMonitors = s.pkgMonitors := rfl
@[simp] theorem xJump_withdrawn : (s.xJump p).withdrawn = s.withdrawn := rfl
@[simp] theorem xJump_flash : (s.xJump p).flash = s.flash := rfl
@[simp] theorem xJump_flashFw : (s.xJump p).flashFw = s.flashFw := rfl
@[simp] theorem xJump_fwDigest : (s.xJump p).fwDigest = s.fwDigest := rfl
@[simp] theorem xJump_counters : (s.xJump p).counters = s.counters := rfl
@[simp] theorem xJump_attests : (s.xJump p).attests = s.attests := rfl
@[simp] theorem xJump_inUse : (s.xJump p).inUse = s.inUse := rfl
@[simp] theorem xJump_plog : (s.xJump p).plog = s.plog := rfl
@[simp] theorem xJump_reply : (s.xJump p).reply = s.reply := rfl
@[simp] theorem xJump_images : (s.xJump p).images = s.images := rfl
@[simp] theorem xJump_quiesced : (s.xJump p).quiesced = s.quiesced := rfl
@[simp] theorem xJump_step : (s.xJump p).step = s.step := rfl
@[simp] theorem xJump_recovery : (s.xJump p).recovery = s.recovery := rfl
@[simp] theorem xJump_ready : (s.xJump p).ready = s.ready := rfl
@[simp] theorem xJump_apbase : (s.xJump p).apbase = s.apbase := rfl
@[simp] theorem xJump_pAsked : (s.xJump p).pAsked = s.pAsked := rfl
@[simp] theorem xJump_pNow : (s.xJump p).pNow = s.pNow := rfl
@[simp] theorem xJump_hot : (s.xJump p).hot = s.hot := rfl
@[simp] theorem xJump_shut : (s.xJump p).shut = s.shut := rfl
@[simp] theorem xJump_synced : (s.xJump p).synced = s.synced := rfl
@[simp] theorem xJump_locked : (s.xJump p).locked = s.locked := rfl
@[simp] theorem xJump_ptp : (s.xJump p).ptp = s.ptp := rfl
@[simp] theorem xJump_cycle : (s.xJump p).cycle = s.cycle := rfl
@[simp] theorem xJump_bankHere : (s.xJump p).bankHere = s.bankHere := rfl
@[simp] theorem xJump_again : (s.xJump p).again = s.again := rfl
@[simp] theorem xJump_tick : (s.xJump p).tick = s.tick := rfl
@[simp] theorem xJump_agenda : (s.xJump p).agenda = s.agenda := rfl

end

/-! ### xWait -/

section

variable (s : State)

@[simp] theorem xWait_core : (s.xWait).core = { s.core with xcycle := s.core.xcycle + 1 } := rfl
@[simp] theorem xWait_here : (s.xWait).here = s.here := rfl
@[simp] theorem xWait_cores : (s.xWait).cores = s.cores := rfl
@[simp] theorem xWait_stores : (s.xWait).stores = s.stores := rfl
@[simp] theorem xWait_bound : (s.xWait).bound = s.bound := rfl
@[simp] theorem xWait_ctxs : (s.xWait).ctxs = s.ctxs := rfl
@[simp] theorem xWait_instars : (s.xWait).instars = s.instars := rfl
@[simp] theorem xWait_orders : (s.xWait).orders = s.orders := rfl
@[simp] theorem xWait_links : (s.xWait).links = s.links := rfl
@[simp] theorem xWait_mem : (s.xWait).mem = s.mem := rfl
@[simp] theorem xWait_tlb : (s.xWait).tlb = s.tlb := rfl
@[simp] theorem xWait_cmds : (s.xWait).cmds = s.cmds := rfl
@[simp] theorem xWait_nextId : (s.xWait).nextId = s.nextId := rfl
@[simp] theorem xWait_units : (s.xWait).units = s.units := rfl
@[simp] theorem xWait_reqs : (s.xWait).reqs = s.reqs := rfl
@[simp] theorem xWait_openRow : (s.xWait).openRow = s.openRow := rfl
@[simp] theorem xWait_hbm : (s.xWait).hbm = s.hbm := rfl
@[simp] theorem xWait_dir : (s.xWait).dir = s.dir := rfl
@[simp] theorem xWait_leases : (s.xWait).leases = s.leases := rfl
@[simp] theorem xWait_moves : (s.xWait).moves = s.moves := rfl
@[simp] theorem xWait_moveQueue : (s.xWait).moveQueue = s.moveQueue := rfl
@[simp] theorem xWait_fences : (s.xWait).fences = s.fences := rfl
@[simp] theorem xWait_homes : (s.xWait).homes = s.homes := rfl
@[simp] theorem xWait_paced : (s.xWait).paced = s.paced := rfl
@[simp] theorem xWait_doms : (s.xWait).doms = s.doms := rfl
@[simp] theorem xWait_pkg : (s.xWait).pkg = s.pkg := rfl
@[simp] theorem xWait_lease : (s.xWait).lease = s.lease := rfl
@[simp] theorem xWait_res : (s.xWait).res = s.res := rfl
@[simp] theorem xWait_ports : (s.xWait).ports = s.ports := rfl
@[simp] theorem xWait_groups : (s.xWait).groups = s.groups := rfl
@[simp] theorem xWait_ramos : (s.xWait).ramos = s.ramos := rfl
@[simp] theorem xWait_dedup : (s.xWait).dedup = s.dedup := rfl
@[simp] theorem xWait_flows : (s.xWait).flows = s.flows := rfl
@[simp] theorem xWait_flowSeq : (s.xWait).flowSeq = s.flowSeq := rfl
@[simp] theorem xWait_portDrops : (s.xWait).portDrops = s.portDrops := rfl
@[simp] theorem xWait_down : (s.xWait).down = s.down := rfl
@[simp] theorem xWait_scrubTags : (s.xWait).scrubTags = s.scrubTags := rfl
@[simp] theorem xWait_directed : (s.xWait).directed = s.directed := rfl
@[simp] theorem xWait_patrol : (s.xWait).patrol = s.patrol := rfl
@[simp] theorem xWait_pkgRing : (s.xWait).pkgRing = s.pkgRing := rfl
@[simp] theorem xWait_pkgMonitors : (s.xWait).pkgMonitors = s.pkgMonitors := rfl
@[simp] theorem xWait_withdrawn : (s.xWait).withdrawn = s.withdrawn := rfl
@[simp] theorem xWait_flash : (s.xWait).flash = s.flash := rfl
@[simp] theorem xWait_flashFw : (s.xWait).flashFw = s.flashFw := rfl
@[simp] theorem xWait_fwDigest : (s.xWait).fwDigest = s.fwDigest := rfl
@[simp] theorem xWait_counters : (s.xWait).counters = s.counters := rfl
@[simp] theorem xWait_attests : (s.xWait).attests = s.attests := rfl
@[simp] theorem xWait_inUse : (s.xWait).inUse = s.inUse := rfl
@[simp] theorem xWait_plog : (s.xWait).plog = s.plog := rfl
@[simp] theorem xWait_reply : (s.xWait).reply = s.reply := rfl
@[simp] theorem xWait_images : (s.xWait).images = s.images := rfl
@[simp] theorem xWait_quiesced : (s.xWait).quiesced = s.quiesced := rfl
@[simp] theorem xWait_step : (s.xWait).step = s.step := rfl
@[simp] theorem xWait_recovery : (s.xWait).recovery = s.recovery := rfl
@[simp] theorem xWait_ready : (s.xWait).ready = s.ready := rfl
@[simp] theorem xWait_apbase : (s.xWait).apbase = s.apbase := rfl
@[simp] theorem xWait_pAsked : (s.xWait).pAsked = s.pAsked := rfl
@[simp] theorem xWait_pNow : (s.xWait).pNow = s.pNow := rfl
@[simp] theorem xWait_hot : (s.xWait).hot = s.hot := rfl
@[simp] theorem xWait_shut : (s.xWait).shut = s.shut := rfl
@[simp] theorem xWait_synced : (s.xWait).synced = s.synced := rfl
@[simp] theorem xWait_locked : (s.xWait).locked = s.locked := rfl
@[simp] theorem xWait_ptp : (s.xWait).ptp = s.ptp := rfl
@[simp] theorem xWait_cycle : (s.xWait).cycle = s.cycle := rfl
@[simp] theorem xWait_bankHere : (s.xWait).bankHere = s.bankHere := rfl
@[simp] theorem xWait_again : (s.xWait).again = s.again := rfl
@[simp] theorem xWait_tick : (s.xWait).tick = s.tick := rfl
@[simp] theorem xWait_agenda : (s.xWait).agenda = s.agenda := rfl

end

/-! ### aDone -/

section

variable (s : State)

@[simp] theorem aDone_here : (s.aDone).here = s.here := rfl
@[simp] theorem aDone_cores : (s.aDone).cores = s.cores := rfl
@[simp] theorem aDone_stores : (s.aDone).stores = s.stores := rfl
@[simp] theorem aDone_bound : (s.aDone).bound = s.bound := rfl
@[simp] theorem aDone_ctxs : (s.aDone).ctxs = s.ctxs := rfl
@[simp] theorem aDone_instars : (s.aDone).instars = s.instars := rfl
@[simp] theorem aDone_orders : (s.aDone).orders = s.orders := rfl
@[simp] theorem aDone_links : (s.aDone).links = s.links := rfl
@[simp] theorem aDone_mem : (s.aDone).mem = s.mem := rfl
@[simp] theorem aDone_tlb : (s.aDone).tlb = s.tlb := rfl
@[simp] theorem aDone_cmds : (s.aDone).cmds = s.cmds := rfl
@[simp] theorem aDone_nextId : (s.aDone).nextId = s.nextId := rfl
@[simp] theorem aDone_units : (s.aDone).units = s.units := rfl
@[simp] theorem aDone_reqs : (s.aDone).reqs = s.reqs := rfl
@[simp] theorem aDone_openRow : (s.aDone).openRow = s.openRow := rfl
@[simp] theorem aDone_hbm : (s.aDone).hbm = s.hbm := rfl
@[simp] theorem aDone_dir : (s.aDone).dir = s.dir := rfl
@[simp] theorem aDone_leases : (s.aDone).leases = s.leases := rfl
@[simp] theorem aDone_moves : (s.aDone).moves = s.moves := rfl
@[simp] theorem aDone_moveQueue : (s.aDone).moveQueue = s.moveQueue := rfl
@[simp] theorem aDone_fences : (s.aDone).fences = s.fences := rfl
@[simp] theorem aDone_homes : (s.aDone).homes = s.homes := rfl
@[simp] theorem aDone_paced : (s.aDone).paced = s.paced := rfl
@[simp] theorem aDone_doms : (s.aDone).doms = s.doms := rfl
@[simp] theorem aDone_pkg : (s.aDone).pkg = s.pkg := rfl
@[simp] theorem aDone_lease : (s.aDone).lease = s.lease := rfl
@[simp] theorem aDone_res : (s.aDone).res = s.res := rfl
@[simp] theorem aDone_ports : (s.aDone).ports = s.ports := rfl
@[simp] theorem aDone_groups : (s.aDone).groups = s.groups := rfl
@[simp] theorem aDone_ramos : (s.aDone).ramos = s.ramos := rfl
@[simp] theorem aDone_dedup : (s.aDone).dedup = s.dedup := rfl
@[simp] theorem aDone_flows : (s.aDone).flows = s.flows := rfl
@[simp] theorem aDone_flowSeq : (s.aDone).flowSeq = s.flowSeq := rfl
@[simp] theorem aDone_portDrops : (s.aDone).portDrops = s.portDrops := rfl
@[simp] theorem aDone_down : (s.aDone).down = s.down := rfl
@[simp] theorem aDone_scrubTags : (s.aDone).scrubTags = s.scrubTags := rfl
@[simp] theorem aDone_directed : (s.aDone).directed = s.directed := rfl
@[simp] theorem aDone_patrol : (s.aDone).patrol = s.patrol := rfl
@[simp] theorem aDone_pkgRing : (s.aDone).pkgRing = s.pkgRing := rfl
@[simp] theorem aDone_pkgMonitors : (s.aDone).pkgMonitors = s.pkgMonitors := rfl
@[simp] theorem aDone_withdrawn : (s.aDone).withdrawn = s.withdrawn := rfl
@[simp] theorem aDone_flash : (s.aDone).flash = s.flash := rfl
@[simp] theorem aDone_flashFw : (s.aDone).flashFw = s.flashFw := rfl
@[simp] theorem aDone_fwDigest : (s.aDone).fwDigest = s.fwDigest := rfl
@[simp] theorem aDone_counters : (s.aDone).counters = s.counters := rfl
@[simp] theorem aDone_attests : (s.aDone).attests = s.attests := rfl
@[simp] theorem aDone_inUse : (s.aDone).inUse = s.inUse := rfl
@[simp] theorem aDone_plog : (s.aDone).plog = s.plog := rfl
@[simp] theorem aDone_reply : (s.aDone).reply = s.reply := rfl
@[simp] theorem aDone_images : (s.aDone).images = s.images := rfl
@[simp] theorem aDone_quiesced : (s.aDone).quiesced = s.quiesced := rfl
@[simp] theorem aDone_step : (s.aDone).step = s.step := rfl
@[simp] theorem aDone_recovery : (s.aDone).recovery = s.recovery := rfl
@[simp] theorem aDone_ready : (s.aDone).ready = s.ready := rfl
@[simp] theorem aDone_apbase : (s.aDone).apbase = s.apbase := rfl
@[simp] theorem aDone_pAsked : (s.aDone).pAsked = s.pAsked := rfl
@[simp] theorem aDone_pNow : (s.aDone).pNow = s.pNow := rfl
@[simp] theorem aDone_hot : (s.aDone).hot = s.hot := rfl
@[simp] theorem aDone_shut : (s.aDone).shut = s.shut := rfl
@[simp] theorem aDone_synced : (s.aDone).synced = s.synced := rfl
@[simp] theorem aDone_locked : (s.aDone).locked = s.locked := rfl
@[simp] theorem aDone_ptp : (s.aDone).ptp = s.ptp := rfl
@[simp] theorem aDone_cycle : (s.aDone).cycle = s.cycle := rfl
@[simp] theorem aDone_bankHere : (s.aDone).bankHere = s.bankHere := rfl
@[simp] theorem aDone_again : (s.aDone).again = s.again := rfl
@[simp] theorem aDone_tick : (s.aDone).tick = s.tick := rfl
@[simp] theorem aDone_agenda : (s.aDone).agenda = s.agenda := rfl

end

/-! ### Counts: only the tallies of a domain change -/

theorem count_frame (s : State) (d i n : Nat) : s.count d i n = { s with doms := (s.count d i n).doms } := by
  unfold State.count
  split
  · rfl
  · split <;> rfl

theorem fixed_frame (s : State) (n : Nat) : s.fixed n = { s with doms := (s.fixed n).doms } := count_frame s s.domHere 9 n
theorem takeX_frame (s : State) (uses : List Nat) : s.takeX uses = { s with doms := (s.takeX uses).doms } := fixed_frame s _

/-- Completing a word touches the core in focus and the tallies. -/
theorem xDone_parts (s : State) (n : Nat) : s.xDone n = { s with core := (s.xDone n).core, doms := (s.xDone n).doms } := by
  unfold State.xDone
  split
  · rfl
  · rw [fixed_frame]

section

variable (s : State) (d i n : Nat)

@[simp] theorem count_core : (s.count d i n).core = s.core := by rw [count_frame]
@[simp] theorem count_here : (s.count d i n).here = s.here := by rw [count_frame]
@[simp] theorem count_cores : (s.count d i n).cores = s.cores := by rw [count_frame]
@[simp] theorem count_stores : (s.count d i n).stores = s.stores := by rw [count_frame]
@[simp] theorem count_bound : (s.count d i n).bound = s.bound := by rw [count_frame]
@[simp] theorem count_ctxs : (s.count d i n).ctxs = s.ctxs := by rw [count_frame]
@[simp] theorem count_instars : (s.count d i n).instars = s.instars := by rw [count_frame]
@[simp] theorem count_orders : (s.count d i n).orders = s.orders := by rw [count_frame]
@[simp] theorem count_links : (s.count d i n).links = s.links := by rw [count_frame]
@[simp] theorem count_mem : (s.count d i n).mem = s.mem := by rw [count_frame]
@[simp] theorem count_tlb : (s.count d i n).tlb = s.tlb := by rw [count_frame]
@[simp] theorem count_cmds : (s.count d i n).cmds = s.cmds := by rw [count_frame]
@[simp] theorem count_nextId : (s.count d i n).nextId = s.nextId := by rw [count_frame]
@[simp] theorem count_units : (s.count d i n).units = s.units := by rw [count_frame]
@[simp] theorem count_reqs : (s.count d i n).reqs = s.reqs := by rw [count_frame]
@[simp] theorem count_openRow : (s.count d i n).openRow = s.openRow := by rw [count_frame]
@[simp] theorem count_hbm : (s.count d i n).hbm = s.hbm := by rw [count_frame]
@[simp] theorem count_dir : (s.count d i n).dir = s.dir := by rw [count_frame]
@[simp] theorem count_leases : (s.count d i n).leases = s.leases := by rw [count_frame]
@[simp] theorem count_moves : (s.count d i n).moves = s.moves := by rw [count_frame]
@[simp] theorem count_moveQueue : (s.count d i n).moveQueue = s.moveQueue := by rw [count_frame]
@[simp] theorem count_fences : (s.count d i n).fences = s.fences := by rw [count_frame]
@[simp] theorem count_homes : (s.count d i n).homes = s.homes := by rw [count_frame]
@[simp] theorem count_paced : (s.count d i n).paced = s.paced := by rw [count_frame]
@[simp] theorem count_pkg : (s.count d i n).pkg = s.pkg := by rw [count_frame]
@[simp] theorem count_lease : (s.count d i n).lease = s.lease := by rw [count_frame]
@[simp] theorem count_res : (s.count d i n).res = s.res := by rw [count_frame]
@[simp] theorem count_ports : (s.count d i n).ports = s.ports := by rw [count_frame]
@[simp] theorem count_groups : (s.count d i n).groups = s.groups := by rw [count_frame]
@[simp] theorem count_ramos : (s.count d i n).ramos = s.ramos := by rw [count_frame]
@[simp] theorem count_dedup : (s.count d i n).dedup = s.dedup := by rw [count_frame]
@[simp] theorem count_flows : (s.count d i n).flows = s.flows := by rw [count_frame]
@[simp] theorem count_flowSeq : (s.count d i n).flowSeq = s.flowSeq := by rw [count_frame]
@[simp] theorem count_portDrops : (s.count d i n).portDrops = s.portDrops := by rw [count_frame]
@[simp] theorem count_down : (s.count d i n).down = s.down := by rw [count_frame]
@[simp] theorem count_scrubTags : (s.count d i n).scrubTags = s.scrubTags := by rw [count_frame]
@[simp] theorem count_directed : (s.count d i n).directed = s.directed := by rw [count_frame]
@[simp] theorem count_patrol : (s.count d i n).patrol = s.patrol := by rw [count_frame]
@[simp] theorem count_pkgRing : (s.count d i n).pkgRing = s.pkgRing := by rw [count_frame]
@[simp] theorem count_pkgMonitors : (s.count d i n).pkgMonitors = s.pkgMonitors := by rw [count_frame]
@[simp] theorem count_withdrawn : (s.count d i n).withdrawn = s.withdrawn := by rw [count_frame]
@[simp] theorem count_flash : (s.count d i n).flash = s.flash := by rw [count_frame]
@[simp] theorem count_flashFw : (s.count d i n).flashFw = s.flashFw := by rw [count_frame]
@[simp] theorem count_fwDigest : (s.count d i n).fwDigest = s.fwDigest := by rw [count_frame]
@[simp] theorem count_counters : (s.count d i n).counters = s.counters := by rw [count_frame]
@[simp] theorem count_attests : (s.count d i n).attests = s.attests := by rw [count_frame]
@[simp] theorem count_inUse : (s.count d i n).inUse = s.inUse := by rw [count_frame]
@[simp] theorem count_plog : (s.count d i n).plog = s.plog := by rw [count_frame]
@[simp] theorem count_reply : (s.count d i n).reply = s.reply := by rw [count_frame]
@[simp] theorem count_images : (s.count d i n).images = s.images := by rw [count_frame]
@[simp] theorem count_quiesced : (s.count d i n).quiesced = s.quiesced := by rw [count_frame]
@[simp] theorem count_step : (s.count d i n).step = s.step := by rw [count_frame]
@[simp] theorem count_recovery : (s.count d i n).recovery = s.recovery := by rw [count_frame]
@[simp] theorem count_ready : (s.count d i n).ready = s.ready := by rw [count_frame]
@[simp] theorem count_apbase : (s.count d i n).apbase = s.apbase := by rw [count_frame]
@[simp] theorem count_pAsked : (s.count d i n).pAsked = s.pAsked := by rw [count_frame]
@[simp] theorem count_pNow : (s.count d i n).pNow = s.pNow := by rw [count_frame]
@[simp] theorem count_hot : (s.count d i n).hot = s.hot := by rw [count_frame]
@[simp] theorem count_shut : (s.count d i n).shut = s.shut := by rw [count_frame]
@[simp] theorem count_synced : (s.count d i n).synced = s.synced := by rw [count_frame]
@[simp] theorem count_locked : (s.count d i n).locked = s.locked := by rw [count_frame]
@[simp] theorem count_ptp : (s.count d i n).ptp = s.ptp := by rw [count_frame]
@[simp] theorem count_cycle : (s.count d i n).cycle = s.cycle := by rw [count_frame]
@[simp] theorem count_bankHere : (s.count d i n).bankHere = s.bankHere := by rw [count_frame]
@[simp] theorem count_again : (s.count d i n).again = s.again := by rw [count_frame]
@[simp] theorem count_tick : (s.count d i n).tick = s.tick := by rw [count_frame]
@[simp] theorem count_agenda : (s.count d i n).agenda = s.agenda := by rw [count_frame]

end

section

variable (s : State) (n : Nat)

@[simp] theorem fixed_core : (s.fixed n).core = s.core := by rw [fixed_frame]
@[simp] theorem fixed_here : (s.fixed n).here = s.here := by rw [fixed_frame]
@[simp] theorem fixed_cores : (s.fixed n).cores = s.cores := by rw [fixed_frame]
@[simp] theorem fixed_stores : (s.fixed n).stores = s.stores := by rw [fixed_frame]
@[simp] theorem fixed_bound : (s.fixed n).bound = s.bound := by rw [fixed_frame]
@[simp] theorem fixed_ctxs : (s.fixed n).ctxs = s.ctxs := by rw [fixed_frame]
@[simp] theorem fixed_instars : (s.fixed n).instars = s.instars := by rw [fixed_frame]
@[simp] theorem fixed_orders : (s.fixed n).orders = s.orders := by rw [fixed_frame]
@[simp] theorem fixed_links : (s.fixed n).links = s.links := by rw [fixed_frame]
@[simp] theorem fixed_mem : (s.fixed n).mem = s.mem := by rw [fixed_frame]
@[simp] theorem fixed_tlb : (s.fixed n).tlb = s.tlb := by rw [fixed_frame]
@[simp] theorem fixed_cmds : (s.fixed n).cmds = s.cmds := by rw [fixed_frame]
@[simp] theorem fixed_nextId : (s.fixed n).nextId = s.nextId := by rw [fixed_frame]
@[simp] theorem fixed_units : (s.fixed n).units = s.units := by rw [fixed_frame]
@[simp] theorem fixed_reqs : (s.fixed n).reqs = s.reqs := by rw [fixed_frame]
@[simp] theorem fixed_openRow : (s.fixed n).openRow = s.openRow := by rw [fixed_frame]
@[simp] theorem fixed_hbm : (s.fixed n).hbm = s.hbm := by rw [fixed_frame]
@[simp] theorem fixed_dir : (s.fixed n).dir = s.dir := by rw [fixed_frame]
@[simp] theorem fixed_leases : (s.fixed n).leases = s.leases := by rw [fixed_frame]
@[simp] theorem fixed_moves : (s.fixed n).moves = s.moves := by rw [fixed_frame]
@[simp] theorem fixed_moveQueue : (s.fixed n).moveQueue = s.moveQueue := by rw [fixed_frame]
@[simp] theorem fixed_fences : (s.fixed n).fences = s.fences := by rw [fixed_frame]
@[simp] theorem fixed_homes : (s.fixed n).homes = s.homes := by rw [fixed_frame]
@[simp] theorem fixed_paced : (s.fixed n).paced = s.paced := by rw [fixed_frame]
@[simp] theorem fixed_pkg : (s.fixed n).pkg = s.pkg := by rw [fixed_frame]
@[simp] theorem fixed_lease : (s.fixed n).lease = s.lease := by rw [fixed_frame]
@[simp] theorem fixed_res : (s.fixed n).res = s.res := by rw [fixed_frame]
@[simp] theorem fixed_ports : (s.fixed n).ports = s.ports := by rw [fixed_frame]
@[simp] theorem fixed_groups : (s.fixed n).groups = s.groups := by rw [fixed_frame]
@[simp] theorem fixed_ramos : (s.fixed n).ramos = s.ramos := by rw [fixed_frame]
@[simp] theorem fixed_dedup : (s.fixed n).dedup = s.dedup := by rw [fixed_frame]
@[simp] theorem fixed_flows : (s.fixed n).flows = s.flows := by rw [fixed_frame]
@[simp] theorem fixed_flowSeq : (s.fixed n).flowSeq = s.flowSeq := by rw [fixed_frame]
@[simp] theorem fixed_portDrops : (s.fixed n).portDrops = s.portDrops := by rw [fixed_frame]
@[simp] theorem fixed_down : (s.fixed n).down = s.down := by rw [fixed_frame]
@[simp] theorem fixed_scrubTags : (s.fixed n).scrubTags = s.scrubTags := by rw [fixed_frame]
@[simp] theorem fixed_directed : (s.fixed n).directed = s.directed := by rw [fixed_frame]
@[simp] theorem fixed_patrol : (s.fixed n).patrol = s.patrol := by rw [fixed_frame]
@[simp] theorem fixed_pkgRing : (s.fixed n).pkgRing = s.pkgRing := by rw [fixed_frame]
@[simp] theorem fixed_pkgMonitors : (s.fixed n).pkgMonitors = s.pkgMonitors := by rw [fixed_frame]
@[simp] theorem fixed_withdrawn : (s.fixed n).withdrawn = s.withdrawn := by rw [fixed_frame]
@[simp] theorem fixed_flash : (s.fixed n).flash = s.flash := by rw [fixed_frame]
@[simp] theorem fixed_flashFw : (s.fixed n).flashFw = s.flashFw := by rw [fixed_frame]
@[simp] theorem fixed_fwDigest : (s.fixed n).fwDigest = s.fwDigest := by rw [fixed_frame]
@[simp] theorem fixed_counters : (s.fixed n).counters = s.counters := by rw [fixed_frame]
@[simp] theorem fixed_attests : (s.fixed n).attests = s.attests := by rw [fixed_frame]
@[simp] theorem fixed_inUse : (s.fixed n).inUse = s.inUse := by rw [fixed_frame]
@[simp] theorem fixed_plog : (s.fixed n).plog = s.plog := by rw [fixed_frame]
@[simp] theorem fixed_reply : (s.fixed n).reply = s.reply := by rw [fixed_frame]
@[simp] theorem fixed_images : (s.fixed n).images = s.images := by rw [fixed_frame]
@[simp] theorem fixed_quiesced : (s.fixed n).quiesced = s.quiesced := by rw [fixed_frame]
@[simp] theorem fixed_step : (s.fixed n).step = s.step := by rw [fixed_frame]
@[simp] theorem fixed_recovery : (s.fixed n).recovery = s.recovery := by rw [fixed_frame]
@[simp] theorem fixed_ready : (s.fixed n).ready = s.ready := by rw [fixed_frame]
@[simp] theorem fixed_apbase : (s.fixed n).apbase = s.apbase := by rw [fixed_frame]
@[simp] theorem fixed_pAsked : (s.fixed n).pAsked = s.pAsked := by rw [fixed_frame]
@[simp] theorem fixed_pNow : (s.fixed n).pNow = s.pNow := by rw [fixed_frame]
@[simp] theorem fixed_hot : (s.fixed n).hot = s.hot := by rw [fixed_frame]
@[simp] theorem fixed_shut : (s.fixed n).shut = s.shut := by rw [fixed_frame]
@[simp] theorem fixed_synced : (s.fixed n).synced = s.synced := by rw [fixed_frame]
@[simp] theorem fixed_locked : (s.fixed n).locked = s.locked := by rw [fixed_frame]
@[simp] theorem fixed_ptp : (s.fixed n).ptp = s.ptp := by rw [fixed_frame]
@[simp] theorem fixed_cycle : (s.fixed n).cycle = s.cycle := by rw [fixed_frame]
@[simp] theorem fixed_bankHere : (s.fixed n).bankHere = s.bankHere := by rw [fixed_frame]
@[simp] theorem fixed_again : (s.fixed n).again = s.again := by rw [fixed_frame]
@[simp] theorem fixed_tick : (s.fixed n).tick = s.tick := by rw [fixed_frame]
@[simp] theorem fixed_agenda : (s.fixed n).agenda = s.agenda := by rw [fixed_frame]

end

section

variable (s : State) (uses : List Nat)

@[simp] theorem takeX_core : (s.takeX uses).core = s.core := by rw [takeX_frame]
@[simp] theorem takeX_here : (s.takeX uses).here = s.here := by rw [takeX_frame]
@[simp] theorem takeX_cores : (s.takeX uses).cores = s.cores := by rw [takeX_frame]
@[simp] theorem takeX_stores : (s.takeX uses).stores = s.stores := by rw [takeX_frame]
@[simp] theorem takeX_bound : (s.takeX uses).bound = s.bound := by rw [takeX_frame]
@[simp] theorem takeX_ctxs : (s.takeX uses).ctxs = s.ctxs := by rw [takeX_frame]
@[simp] theorem takeX_instars : (s.takeX uses).instars = s.instars := by rw [takeX_frame]
@[simp] theorem takeX_orders : (s.takeX uses).orders = s.orders := by rw [takeX_frame]
@[simp] theorem takeX_links : (s.takeX uses).links = s.links := by rw [takeX_frame]
@[simp] theorem takeX_mem : (s.takeX uses).mem = s.mem := by rw [takeX_frame]
@[simp] theorem takeX_tlb : (s.takeX uses).tlb = s.tlb := by rw [takeX_frame]
@[simp] theorem takeX_cmds : (s.takeX uses).cmds = s.cmds := by rw [takeX_frame]
@[simp] theorem takeX_nextId : (s.takeX uses).nextId = s.nextId := by rw [takeX_frame]
@[simp] theorem takeX_units : (s.takeX uses).units = s.units := by rw [takeX_frame]
@[simp] theorem takeX_reqs : (s.takeX uses).reqs = s.reqs := by rw [takeX_frame]
@[simp] theorem takeX_openRow : (s.takeX uses).openRow = s.openRow := by rw [takeX_frame]
@[simp] theorem takeX_hbm : (s.takeX uses).hbm = s.hbm := by rw [takeX_frame]
@[simp] theorem takeX_dir : (s.takeX uses).dir = s.dir := by rw [takeX_frame]
@[simp] theorem takeX_leases : (s.takeX uses).leases = s.leases := by rw [takeX_frame]
@[simp] theorem takeX_moves : (s.takeX uses).moves = s.moves := by rw [takeX_frame]
@[simp] theorem takeX_moveQueue : (s.takeX uses).moveQueue = s.moveQueue := by rw [takeX_frame]
@[simp] theorem takeX_fences : (s.takeX uses).fences = s.fences := by rw [takeX_frame]
@[simp] theorem takeX_homes : (s.takeX uses).homes = s.homes := by rw [takeX_frame]
@[simp] theorem takeX_paced : (s.takeX uses).paced = s.paced := by rw [takeX_frame]
@[simp] theorem takeX_pkg : (s.takeX uses).pkg = s.pkg := by rw [takeX_frame]
@[simp] theorem takeX_lease : (s.takeX uses).lease = s.lease := by rw [takeX_frame]
@[simp] theorem takeX_res : (s.takeX uses).res = s.res := by rw [takeX_frame]
@[simp] theorem takeX_ports : (s.takeX uses).ports = s.ports := by rw [takeX_frame]
@[simp] theorem takeX_groups : (s.takeX uses).groups = s.groups := by rw [takeX_frame]
@[simp] theorem takeX_ramos : (s.takeX uses).ramos = s.ramos := by rw [takeX_frame]
@[simp] theorem takeX_dedup : (s.takeX uses).dedup = s.dedup := by rw [takeX_frame]
@[simp] theorem takeX_flows : (s.takeX uses).flows = s.flows := by rw [takeX_frame]
@[simp] theorem takeX_flowSeq : (s.takeX uses).flowSeq = s.flowSeq := by rw [takeX_frame]
@[simp] theorem takeX_portDrops : (s.takeX uses).portDrops = s.portDrops := by rw [takeX_frame]
@[simp] theorem takeX_down : (s.takeX uses).down = s.down := by rw [takeX_frame]
@[simp] theorem takeX_scrubTags : (s.takeX uses).scrubTags = s.scrubTags := by rw [takeX_frame]
@[simp] theorem takeX_directed : (s.takeX uses).directed = s.directed := by rw [takeX_frame]
@[simp] theorem takeX_patrol : (s.takeX uses).patrol = s.patrol := by rw [takeX_frame]
@[simp] theorem takeX_pkgRing : (s.takeX uses).pkgRing = s.pkgRing := by rw [takeX_frame]
@[simp] theorem takeX_pkgMonitors : (s.takeX uses).pkgMonitors = s.pkgMonitors := by rw [takeX_frame]
@[simp] theorem takeX_withdrawn : (s.takeX uses).withdrawn = s.withdrawn := by rw [takeX_frame]
@[simp] theorem takeX_flash : (s.takeX uses).flash = s.flash := by rw [takeX_frame]
@[simp] theorem takeX_flashFw : (s.takeX uses).flashFw = s.flashFw := by rw [takeX_frame]
@[simp] theorem takeX_fwDigest : (s.takeX uses).fwDigest = s.fwDigest := by rw [takeX_frame]
@[simp] theorem takeX_counters : (s.takeX uses).counters = s.counters := by rw [takeX_frame]
@[simp] theorem takeX_attests : (s.takeX uses).attests = s.attests := by rw [takeX_frame]
@[simp] theorem takeX_inUse : (s.takeX uses).inUse = s.inUse := by rw [takeX_frame]
@[simp] theorem takeX_plog : (s.takeX uses).plog = s.plog := by rw [takeX_frame]
@[simp] theorem takeX_reply : (s.takeX uses).reply = s.reply := by rw [takeX_frame]
@[simp] theorem takeX_images : (s.takeX uses).images = s.images := by rw [takeX_frame]
@[simp] theorem takeX_quiesced : (s.takeX uses).quiesced = s.quiesced := by rw [takeX_frame]
@[simp] theorem takeX_step : (s.takeX uses).step = s.step := by rw [takeX_frame]
@[simp] theorem takeX_recovery : (s.takeX uses).recovery = s.recovery := by rw [takeX_frame]
@[simp] theorem takeX_ready : (s.takeX uses).ready = s.ready := by rw [takeX_frame]
@[simp] theorem takeX_apbase : (s.takeX uses).apbase = s.apbase := by rw [takeX_frame]
@[simp] theorem takeX_pAsked : (s.takeX uses).pAsked = s.pAsked := by rw [takeX_frame]
@[simp] theorem takeX_pNow : (s.takeX uses).pNow = s.pNow := by rw [takeX_frame]
@[simp] theorem takeX_hot : (s.takeX uses).hot = s.hot := by rw [takeX_frame]
@[simp] theorem takeX_shut : (s.takeX uses).shut = s.shut := by rw [takeX_frame]
@[simp] theorem takeX_synced : (s.takeX uses).synced = s.synced := by rw [takeX_frame]
@[simp] theorem takeX_locked : (s.takeX uses).locked = s.locked := by rw [takeX_frame]
@[simp] theorem takeX_ptp : (s.takeX uses).ptp = s.ptp := by rw [takeX_frame]
@[simp] theorem takeX_cycle : (s.takeX uses).cycle = s.cycle := by rw [takeX_frame]
@[simp] theorem takeX_bankHere : (s.takeX uses).bankHere = s.bankHere := by rw [takeX_frame]
@[simp] theorem takeX_again : (s.takeX uses).again = s.again := by rw [takeX_frame]
@[simp] theorem takeX_tick : (s.takeX uses).tick = s.tick := by rw [takeX_frame]
@[simp] theorem takeX_agenda : (s.takeX uses).agenda = s.agenda := by rw [takeX_frame]

end

section

variable (s : State) (n : Nat)

@[simp] theorem xDone_here : (s.xDone n).here = s.here := by rw [xDone_parts]
@[simp] theorem xDone_cores : (s.xDone n).cores = s.cores := by rw [xDone_parts]
@[simp] theorem xDone_stores : (s.xDone n).stores = s.stores := by rw [xDone_parts]
@[simp] theorem xDone_bound : (s.xDone n).bound = s.bound := by rw [xDone_parts]
@[simp] theorem xDone_ctxs : (s.xDone n).ctxs = s.ctxs := by rw [xDone_parts]
@[simp] theorem xDone_instars : (s.xDone n).instars = s.instars := by rw [xDone_parts]
@[simp] theorem xDone_orders : (s.xDone n).orders = s.orders := by rw [xDone_parts]
@[simp] theorem xDone_links : (s.xDone n).links = s.links := by rw [xDone_parts]
@[simp] theorem xDone_mem : (s.xDone n).mem = s.mem := by rw [xDone_parts]
@[simp] theorem xDone_tlb : (s.xDone n).tlb = s.tlb := by rw [xDone_parts]
@[simp] theorem xDone_cmds : (s.xDone n).cmds = s.cmds := by rw [xDone_parts]
@[simp] theorem xDone_nextId : (s.xDone n).nextId = s.nextId := by rw [xDone_parts]
@[simp] theorem xDone_units : (s.xDone n).units = s.units := by rw [xDone_parts]
@[simp] theorem xDone_reqs : (s.xDone n).reqs = s.reqs := by rw [xDone_parts]
@[simp] theorem xDone_openRow : (s.xDone n).openRow = s.openRow := by rw [xDone_parts]
@[simp] theorem xDone_hbm : (s.xDone n).hbm = s.hbm := by rw [xDone_parts]
@[simp] theorem xDone_dir : (s.xDone n).dir = s.dir := by rw [xDone_parts]
@[simp] theorem xDone_leases : (s.xDone n).leases = s.leases := by rw [xDone_parts]
@[simp] theorem xDone_moves : (s.xDone n).moves = s.moves := by rw [xDone_parts]
@[simp] theorem xDone_moveQueue : (s.xDone n).moveQueue = s.moveQueue := by rw [xDone_parts]
@[simp] theorem xDone_fences : (s.xDone n).fences = s.fences := by rw [xDone_parts]
@[simp] theorem xDone_homes : (s.xDone n).homes = s.homes := by rw [xDone_parts]
@[simp] theorem xDone_paced : (s.xDone n).paced = s.paced := by rw [xDone_parts]
@[simp] theorem xDone_pkg : (s.xDone n).pkg = s.pkg := by rw [xDone_parts]
@[simp] theorem xDone_lease : (s.xDone n).lease = s.lease := by rw [xDone_parts]
@[simp] theorem xDone_res : (s.xDone n).res = s.res := by rw [xDone_parts]
@[simp] theorem xDone_ports : (s.xDone n).ports = s.ports := by rw [xDone_parts]
@[simp] theorem xDone_groups : (s.xDone n).groups = s.groups := by rw [xDone_parts]
@[simp] theorem xDone_ramos : (s.xDone n).ramos = s.ramos := by rw [xDone_parts]
@[simp] theorem xDone_dedup : (s.xDone n).dedup = s.dedup := by rw [xDone_parts]
@[simp] theorem xDone_flows : (s.xDone n).flows = s.flows := by rw [xDone_parts]
@[simp] theorem xDone_flowSeq : (s.xDone n).flowSeq = s.flowSeq := by rw [xDone_parts]
@[simp] theorem xDone_portDrops : (s.xDone n).portDrops = s.portDrops := by rw [xDone_parts]
@[simp] theorem xDone_down : (s.xDone n).down = s.down := by rw [xDone_parts]
@[simp] theorem xDone_scrubTags : (s.xDone n).scrubTags = s.scrubTags := by rw [xDone_parts]
@[simp] theorem xDone_directed : (s.xDone n).directed = s.directed := by rw [xDone_parts]
@[simp] theorem xDone_patrol : (s.xDone n).patrol = s.patrol := by rw [xDone_parts]
@[simp] theorem xDone_pkgRing : (s.xDone n).pkgRing = s.pkgRing := by rw [xDone_parts]
@[simp] theorem xDone_pkgMonitors : (s.xDone n).pkgMonitors = s.pkgMonitors := by rw [xDone_parts]
@[simp] theorem xDone_withdrawn : (s.xDone n).withdrawn = s.withdrawn := by rw [xDone_parts]
@[simp] theorem xDone_flash : (s.xDone n).flash = s.flash := by rw [xDone_parts]
@[simp] theorem xDone_flashFw : (s.xDone n).flashFw = s.flashFw := by rw [xDone_parts]
@[simp] theorem xDone_fwDigest : (s.xDone n).fwDigest = s.fwDigest := by rw [xDone_parts]
@[simp] theorem xDone_counters : (s.xDone n).counters = s.counters := by rw [xDone_parts]
@[simp] theorem xDone_attests : (s.xDone n).attests = s.attests := by rw [xDone_parts]
@[simp] theorem xDone_inUse : (s.xDone n).inUse = s.inUse := by rw [xDone_parts]
@[simp] theorem xDone_plog : (s.xDone n).plog = s.plog := by rw [xDone_parts]
@[simp] theorem xDone_reply : (s.xDone n).reply = s.reply := by rw [xDone_parts]
@[simp] theorem xDone_images : (s.xDone n).images = s.images := by rw [xDone_parts]
@[simp] theorem xDone_quiesced : (s.xDone n).quiesced = s.quiesced := by rw [xDone_parts]
@[simp] theorem xDone_step : (s.xDone n).step = s.step := by rw [xDone_parts]
@[simp] theorem xDone_recovery : (s.xDone n).recovery = s.recovery := by rw [xDone_parts]
@[simp] theorem xDone_ready : (s.xDone n).ready = s.ready := by rw [xDone_parts]
@[simp] theorem xDone_apbase : (s.xDone n).apbase = s.apbase := by rw [xDone_parts]
@[simp] theorem xDone_pAsked : (s.xDone n).pAsked = s.pAsked := by rw [xDone_parts]
@[simp] theorem xDone_pNow : (s.xDone n).pNow = s.pNow := by rw [xDone_parts]
@[simp] theorem xDone_hot : (s.xDone n).hot = s.hot := by rw [xDone_parts]
@[simp] theorem xDone_shut : (s.xDone n).shut = s.shut := by rw [xDone_parts]
@[simp] theorem xDone_synced : (s.xDone n).synced = s.synced := by rw [xDone_parts]
@[simp] theorem xDone_locked : (s.xDone n).locked = s.locked := by rw [xDone_parts]
@[simp] theorem xDone_ptp : (s.xDone n).ptp = s.ptp := by rw [xDone_parts]
@[simp] theorem xDone_cycle : (s.xDone n).cycle = s.cycle := by rw [xDone_parts]
@[simp] theorem xDone_bankHere : (s.xDone n).bankHere = s.bankHere := by rw [xDone_parts]
@[simp] theorem xDone_again : (s.xDone n).again = s.again := by rw [xDone_parts]
@[simp] theorem xDone_tick : (s.xDone n).tick = s.tick := by rw [xDone_parts]
@[simp] theorem xDone_agenda : (s.xDone n).agenda = s.agenda := by rw [xDone_parts]

end

/-! ### landDue, on the core -/

@[simp] theorem landDue_core_ctx (c : Core) : c.landDue.ctx = c.ctx := rfl
@[simp] theorem landDue_core_pos (c : Core) : c.landDue.pos = c.pos := rfl
@[simp] theorem landDue_core_xpc (c : Core) : c.landDue.xpc = c.xpc := rfl
@[simp] theorem landDue_core_apc (c : Core) : c.landDue.apc = c.apc := rfl
@[simp] theorem landDue_core_xir (c : Core) : c.landDue.xir = c.xir := rfl
@[simp] theorem landDue_core_air (c : Core) : c.landDue.air = c.air := rfl
@[simp] theorem landDue_core_x (c : Core) : c.landDue.x = c.x := rfl
@[simp] theorem landDue_core_p (c : Core) : c.landDue.p = c.p := rfl
@[simp] theorem landDue_core_sp (c : Core) : c.landDue.sp = c.sp := rfl
@[simp] theorem landDue_core_a (c : Core) : c.landDue.a = c.a := rfl
@[simp] theorem landDue_core_aflags (c : Core) : c.landDue.aflags = c.aflags := rfl
@[simp] theorem landDue_core_xcycle (c : Core) : c.landDue.xcycle = c.xcycle := rfl
@[simp] theorem landDue_core_rstack (c : Core) : c.landDue.rstack = c.rstack := rfl
@[simp] theorem landDue_core_spilled (c : Core) : c.landDue.spilled = c.spilled := rfl
@[simp] theorem landDue_core_spillbase (c : Core) : c.landDue.spillbase = c.spillbase := rfl
@[simp] theorem landDue_core_xhold (c : Core) : c.landDue.xhold = c.xhold := rfl
@[simp] theorem landDue_core_ahold (c : Core) : c.landDue.ahold = c.ahold := rfl
@[simp] theorem landDue_core_xexited (c : Core) : c.landDue.xexited = c.xexited := rfl
@[simp] theorem landDue_core_aexited (c : Core) : c.landDue.aexited = c.aexited := rfl
@[simp] theorem landDue_core_vq (c : Core) : c.landDue.vq = c.vq := rfl
@[simp] theorem landDue_core_mq (c : Core) : c.landDue.mq = c.mq := rfl
@[simp] theorem landDue_core_shadow (c : Core) : c.landDue.shadow = c.shadow := rfl
@[simp] theorem landDue_core_active (c : Core) : c.landDue.active = c.active := rfl
@[simp] theorem landDue_core_redundant (c : Core) : c.landDue.redundant = c.redundant := rfl
@[simp] theorem landDue_core_tfull (c : Core) : c.landDue.tfull = c.tfull := rfl
@[simp] theorem landDue_core_tdata (c : Core) : c.landDue.tdata = c.tdata := rfl
@[simp] theorem landDue_core_adata (c : Core) : c.landDue.adata = c.adata := rfl
@[simp] theorem landDue_core_levels (c : Core) : c.landDue.levels = c.levels := rfl
@[simp] theorem landDue_core_binds (c : Core) : c.landDue.binds = c.binds := rfl
@[simp] theorem landDue_core_nbprog (c : Core) : c.landDue.nbprog = c.nbprog := rfl
@[simp] theorem landDue_core_loads (c : Core) : c.landDue.loads = c.loads := rfl
@[simp] theorem landDue_core_amos (c : Core) : c.landDue.amos = c.amos := rfl
@[simp] theorem landDue_core_xclk (c : Core) : c.landDue.xclk = c.xclk := rfl
@[simp] theorem landDue_core_aclk (c : Core) : c.landDue.aclk = c.aclk := rfl
@[simp] theorem landDue_core_xbad (c : Core) : c.landDue.xbad = c.xbad := rfl
@[simp] theorem landDue_core_strike (c : Core) : c.landDue.strike = c.strike := rfl
@[simp] theorem landDue_core_mstrike (c : Core) : c.landDue.mstrike = c.mstrike := rfl
@[simp] theorem landDue_core_lastGran (c : Core) : c.landDue.lastGran = c.lastGran := rfl
@[simp] theorem landDue_core_syncing (c : Core) : c.landDue.syncing = c.syncing := rfl

/-! ### Reads after a window lands, and after a context or a store changes -/

@[simp] theorem getA_landDue (s : State) (port i : Nat) : s.landDue.getA port i = s.getA port i := rfl
@[simp] theorem here?_landDue (s : State) : s.landDue.here? = s.here? := rfl
@[simp] theorem isSuper_landDue (s : State) : s.landDue.isSuper = s.isSuper := rfl
@[simp] theorem own_landDue (s : State) : s.landDue.own = s.own := rfl
@[simp] theorem spillMem_landDue (s : State) : s.landDue.spillMem = s.spillMem := rfl
@[simp] theorem getX_takeX (s : State) (uses : List Nat) (port i : Nat) : (s.takeX uses).getX port i = s.getX port i := by rw [takeX_frame]; rfl
@[simp] theorem spillMem_takeX (s : State) (uses : List Nat) : (s.takeX uses).spillMem = s.spillMem := by rw [takeX_frame]; rfl
@[simp] theorem here?_takeX (s : State) (uses : List Nat) : (s.takeX uses).here? = s.here? := by rw [takeX_frame]; rfl
@[simp] theorem takeX_nil (s : State) : s.takeX [] = s := rfl
@[simp] theorem getX_zero (s : State) (port : Nat) : s.getX port 0 = 0 := rfl
@[simp] theorem getP_zero (s : State) (port : Nat) : s.getP port 0 = true := rfl
@[simp] theorem getA_zero (s : State) (port : Nat) : s.getA port 0 = 0 := rfl
@[simp] theorem setX_zero (s : State) (v : Word) : s.setX 0 v = s := rfl
@[simp] theorem setA_zero (s : State) (v : Word) : s.setA 0 v = s := rfl

end Sys2Proof.Laws
end

