-- ==== Sys2Proof/Laws/Access.lean ====
section
/-! SUPPORT. What accesses to physical memory without words in error do. -/

namespace Sys2Proof.Laws

open Sys2Proof.Machine

/-- A lane meets no error in a memory without one. -/
theorem lane_clean {m : Memory} (h : m.bad = []) (a n) : m.lane a n = .ok (m.bytes a n) := if_pos h
/-- A lane stores bytes there as they are. -/
theorem store_clean {m : Memory} (h : m.bad = []) (a bs) : m.store a bs = .ok (m.setBytes a bs) := if_pos h
/-- It corrects nothing there. -/
theorem post_clean {s : State} {d} {m : Memory} (h : m.bad = []) (b a n) : s.post d m b a n = s := if_pos h
theorem postMerge_clean {s : State} {d} {m : Memory} (h : m.bad = []) (b a n) : s.postMerge d m b a n = s := if_pos h

theorem foldl_keeps {α β} (g : State → β) (l : List α) (f : State → α → State) (h : ∀ s a, g (f s a) = g s) (s : State) :
    g (l.foldl f s) = g s := by
  induction l generalizing s with
  | nil => rfl
  | cons a l ih => rw [List.foldl_cons, ih, h]

/-- Noting a line touches the memory controllers alone. -/
theorem noteLine_parts (s : State) (pa : Nat) : s.noteLine pa = { s with reqs := (s.noteLine pa).reqs, hbm := (s.noteLine pa).hbm } := by
  simp only [State.noteLine, State.mscAccess]
  split
  · rfl
  · split
    · rfl
    · split <;> rfl
  · rfl

/-- Noting an access touches the memory controllers alone. -/
theorem note_mem (s : State) (pa n) : (s.note pa n).mem = s.mem :=
  foldl_keeps _ _ _ (fun _ _ => by rw [noteLine_parts]) s
theorem note_ctxs (s : State) (pa n) : (s.note pa n).ctxs = s.ctxs :=
  foldl_keeps _ _ _ (fun _ _ => by rw [noteLine_parts]) s
theorem note_core (s : State) (pa n) : (s.note pa n).core = s.core :=
  foldl_keeps _ _ _ (fun _ _ => by rw [noteLine_parts]) s

/-- Posting a correction touches the tallies and the scrubber's list alone. -/
theorem corrected_parts (s : State) (d a : Nat) :
    s.corrected d a = { s with doms := (s.corrected d a).doms, directed := (s.corrected d a).directed } := by
  unfold State.corrected; rw [count_frame]

theorem post_mem (s : State) (d) (m : Memory) (b a n) : (s.post d m b a n).mem = s.mem := by
  simp only [State.post]
  split
  · rfl
  · apply foldl_keeps; intro s a
    split
    · rw [corrected_parts]
    · rfl

theorem walked_mem (s : State) (d l) : (s.walked d l).mem = s.mem :=
  foldl_keeps _ _ _ (fun _ _ => (post_mem ..).trans (note_mem ..)) s

/-- A translation leaves memory alone. -/
theorem translate_mem (s : State) (w need va) : (s.translate w need va).1.mem = s.mem := by
  simp only [State.translate, State.resolve]
  split
  · rfl
  · simp only [State.tlbFill]
    split <;> exact walked_mem ..

theorem translate_keeps_mem {s u : State} {w need va r} (h : s.translate w need va = (u, r)) : u.mem = s.mem := by
  rw [← translate_mem s w need va, h]

/-- An access in one HBM4E page is one piece. -/
theorem translateAll_one {s u : State} {w need va n pa ty} (h : s.translate w need va = (u, .ok pa ty)) (hp : placeOf pa = .hbm) :
    s.translateAll w need [(va, n)] = (u, .ok [(pa, n, ty)]) := by
  simp only [State.translateAll, h, hp]
  rw [if_neg (by simp)]

/-- Forgetting a scrub leaves memory alone. -/
theorem clearScrub_mem (s : State) (pa n) : (s.clearScrub pa n).mem = s.mem := by
  simp only [State.clearScrub]; split <;> rfl

/-- A check word written leaves the bytes outside it alone. -/
theorem byte_setWord_outside (m : Memory) (h : m.wf = true) (a c) (o) (ho : o < a ∨ a + 8 ≤ o) : (m.setWord a c).byte o = m.byte o := by
  have : (m.setWord a c).byte o = (m.setBytes a (toBytes 8 c.v.toNat)).byte o := rfl
  rw [this]
  exact byte_setBytes_outside m h _ _ (by rw [toBytes_length]; exact ho)

/-- A store outside the directory and the control blocks, to a memory without errors, sets its bytes. -/
theorem physStore_clean {s : State} {pa bs} (hd : s.dirAt pa = none) (hc : s.meetsBlock pa bs.length = false) (hb : s.mem.bad = []) :
    s.physStore pa bs = .ok { s.clearScrub pa bs.length with mem := s.mem.setBytes pa bs } := by
  have hx : (s.clearScrub pa bs.length).ctxs = s.ctxs := by simp only [State.clearScrub]; split <;> rfl
  unfold State.physStore
  rw [if_neg (by rw [hd]; simp), store_clean hb]
  simp only [State.cbFilters, State.meetsBlock, hx]
  rw [show (s.ctxs.any _) = false from hc]
  rfl

/-- A check word stored there is written. -/
theorem physSetWords_clean {s : State} {pa c} (hd : s.dirAt pa = none) (hc : s.meetsBlock pa 8 = false) :
    s.physSetWords pa [c] = { s.clearScrub pa 8 with mem := s.mem.setWord pa c } := by
  have hx : (s.clearScrub pa 8).ctxs = s.ctxs := by simp only [State.clearScrub]; split <;> rfl
  unfold State.physSetWords
  rw [if_neg (by rw [hd]; simp)]
  simp only [State.cbFilters, State.meetsBlock, State.physPut, List.length_singleton, Nat.mul_one, hx]
  rw [show (s.ctxs.any _) = false from hc]
  rfl

/-- An atomic there reads, applies its effect and writes. -/
theorem atomicAt_clean {u : State} {d pa op ty b c : Nat} (hd : u.dirAt pa = none) (hc : u.meetsBlock pa (tyWidth ty / 8) = false) (hb : u.mem.bad = []) :
    u.atomicAt d pa op ty b c =
      let o := amoApply op ty (ofBytes (u.mem.bytes pa (tyWidth ty / 8))) (b % 2 ^ tyWidth ty) (c % 2 ^ tyWidth ty)
      let m := match o.new with
        | none => u.mem
        | some x => u.mem.setBytes pa (toBytes (tyWidth ty / 8) x)
      ((({ (if o.new.isSome then u.clearScrub pa (tyWidth ty / 8) else u) with mem := m } : State).note pa (tyWidth ty / 8)), .ok o) := by
  have hph : u.physRead pa (tyWidth ty / 8) = .ok (u.mem.bytes pa (tyWidth ty / 8)) := by
    unfold State.physRead
    rw [hd]
    exact lane_clean hb _ _
  unfold State.atomicAt
  simp only [hph]
  cases hn : (amoApply op ty (ofBytes (u.mem.bytes pa (tyWidth ty / 8))) (b % 2 ^ tyWidth ty) (c % 2 ^ tyWidth ty)).new with
  | none =>
    simp only
    rw [State.postPhys, post_clean (by rw [note_mem]; exact hb)]; rfl
  | some x =>
    simp only
    rw [State.postPhys, post_clean hb, physStore_clean hd (by rw [toBytes_length]; exact hc) hb, toBytes_length]; rfl

/-- The pool device holds every data byte of a segment, and the code of its word in the group's code line (13 R330). -/
theorem poolByte_data (s : State) (g : PoolSeg) (o : Nat) :
    s.poolByte g (poolDataAt o) = BitVec.ofNat 8 (ofBytes (s.mem.bytes (g.base + o) 1)) := by
  have h : poolDataAt o % 576 = o % 512 := by unfold poolDataAt; omega
  have k : poolDataAt o / 576 = o / 512 := by unfold poolDataAt; omega
  have e : g.base + o / 512 * 512 + o % 512 = g.base + o := by omega
  simp only [State.poolByte, h, k, e]
  exact if_pos (by omega)

theorem poolByte_code (s : State) (g : PoolSeg) (o : Nat) :
    s.poolByte g (poolCodeAt o) =
      hsiaoCode (s.mem.word (g.base + o / 8 * 8)).v ^^^ (s.mem.word (g.base + o / 8 * 8)).syn := by
  have h : poolCodeAt o % 576 = 512 + o % 512 / 8 := by unfold poolCodeAt; omega
  have k : poolCodeAt o / 576 = o / 512 := by unfold poolCodeAt; omega
  have e : g.base + o / 512 * 512 + 8 * (512 + o % 512 / 8 - 512) = g.base + o / 8 * 8 := by omega
  simp only [State.poolByte, h, k, e]
  exact if_neg (by omega)

end Sys2Proof.Laws
end

