-- ==== Sys2Proof/Laws/PerInstr.lean ====
section
/-! SUPPORT. Facts about every instruction as syntax, one lemma per constructor. -/

namespace Sys2Proof.Laws

/-- The row and the fields that the decoder reads from an instruction's first word are the instruction's own. -/
def ReadBack.Statement (i : Instr) : Prop :=
  wellFormed i = true → match encode i with
    | .xWords [] => False
    | .xWords (w :: links) => ∀ rest, xCandidate w (links ++ rest) = .ok i
    | .aWord w => aCandidate w = .ok i
    | .micro w => nbuCandidate w = .ok i
    | .step => True

/-- Bits `[8:6]` and `[3:0]` of K. -/
theorem encAn_kHi (op : Nat) (r : An) : (encAn op r).extractLsb' 29 3 = kHi r.k :=
  (sub_above 6 23 _ _).trans <| (sub_above 1 22 _ _).trans <| (sub_above 1 21 _ _).trans <| (sub_above 5 16 _ _).trans <|
    (sub_above 5 11 _ _).trans <| sub_above 5 6 _ _

theorem encAn_kLo (op : Nat) (r : An) : (encAn op r).extractLsb' 23 4 = kLo r.k :=
  (sub_above 6 17 _ _).trans <| (sub_above 1 16 _ _).trans <| (sub_above 1 15 _ _).trans <| (sub_above 5 10 _ _).trans <|
    (sub_above 5 5 _ _).trans <| sub_above 5 0 _ _

theorem bind_high (v : BitVec 3) : (BitVec.ofNat 5 v.toNat).extractLsb' 3 2 = 0 := by revert v; decide

theorem bind_low (v : BitVec 3) : (BitVec.ofNat 5 v.toNat).extractLsb' 0 3 = v := by revert v; decide

/-- A link word reads back (02 R37). -/
theorem decXl_enc (k : Xl) : decXl (encXl k) = k := by
  obtain ⟨fn, rm, t, sx, so⟩ := k
  rw [decXl, Xl.mk.injEq]
  exact ⟨(sub_above 7 11 _ _).trans <| (sub_above 7 4 _ _).trans <| (sub_above 1 3 _ _).trans <| (sub_above 3 0 _ _).trans <| sub_below _ _, (sub_above 7 8 _ _).trans <| (sub_above 7 1 _ _).trans <| (sub_above 1 0 _ _).trans <| sub_below _ _, (sub_above 7 53 _ _).trans <| (sub_above 7 46 _ _).trans <| (sub_above 1 45 _ _).trans <| (sub_above 3 42 _ _).trans <| (sub_above 6 36 _ _).trans <| (sub_above 9 27 _ _).trans <| (sub_above 6 21 _ _).trans <| (sub_above 21 0 _ _).trans <| BitVec.extractLsb'_eq_self, (sub_above 7 26 _ _).trans <| (sub_above 7 19 _ _).trans <| (sub_above 1 18 _ _).trans <| (sub_above 3 15 _ _).trans <| (sub_above 6 9 _ _).trans <| (sub_above 9 0 _ _).trans <| sub_below _ _, (sub_above 7 17 _ _).trans <| (sub_above 7 10 _ _).trans <| (sub_above 1 9 _ _).trans <| (sub_above 3 6 _ _).trans <| (sub_above 6 0 _ _).trans <| sub_below _ _⟩

theorem encXc_op (r : Xc) : (encXc r).extractLsb' 0 7 = 0x50#7 := sub_below _ _

theorem encXc_fn (r : Xc) : (encXc r).extractLsb' 18 6 = 0#6 :=
  (sub_above 7 11 _ _).trans <| (sub_above 7 4 _ _).trans <| (sub_above 1 3 _ _).trans <| (sub_above 3 0 _ _).trans <|
    sub_below _ _

/-- The link count that a header holds (02 R35). -/
theorem encXc_count (r : Xc) (h : 1 ≤ r.links.length ∧ r.links.length ≤ 8) : linkCount (encXc r) = r.links.length := by
  have e : (encXc r).extractLsb' 51 3 = BitVec.ofNat 3 (r.links.length - 1) :=
    (sub_above 7 44 _ _).trans <| (sub_above 7 37 _ _).trans <| (sub_above 1 36 _ _).trans <| (sub_above 3 33 _ _).trans <|
      (sub_above 6 27 _ _).trans <| (sub_above 9 18 _ _).trans <| (sub_above 9 9 _ _).trans <| (sub_above 9 0 _ _).trans <|
        sub_below _ _
  rw [linkCount, e, BitVec.toNat_ofNat]
  omega

theorem decXc_enc (r : Xc) (rest : List (BitVec 64)) :
    decXc (encXc r) ((r.links.map encXl ++ rest).take r.links.length) = r := by
  obtain ⟨g, gn, t, sb, sa, sd, links⟩ := r
  rw [decXc, Xc.mk.injEq]
  refine ⟨(sub_above 7 0 _ _).trans <| sub_below _ _, (bit_above 7 7 _ _).trans <| (bit_above 7 0 _ _).trans <| bit1_below _ _, (sub_above 7 53 _ _).trans <| (sub_above 7 46 _ _).trans <| (sub_above 1 45 _ _).trans <| (sub_above 3 42 _ _).trans <| (sub_above 6 36 _ _).trans <| (sub_above 9 27 _ _).trans <| (sub_above 9 18 _ _).trans <| (sub_above 9 9 _ _).trans <| (sub_above 3 6 _ _).trans <| (sub_above 6 0 _ _).trans <| BitVec.extractLsb'_eq_self, (sub_above 7 35 _ _).trans <| (sub_above 7 28 _ _).trans <| (sub_above 1 27 _ _).trans <| (sub_above 3 24 _ _).trans <| (sub_above 6 18 _ _).trans <| (sub_above 9 9 _ _).trans <| (sub_above 9 0 _ _).trans <| sub_below _ _, (sub_above 7 26 _ _).trans <| (sub_above 7 19 _ _).trans <| (sub_above 1 18 _ _).trans <| (sub_above 3 15 _ _).trans <| (sub_above 6 9 _ _).trans <| (sub_above 9 0 _ _).trans <| sub_below _ _, (sub_above 7 17 _ _).trans <| (sub_above 7 10 _ _).trans <| (sub_above 1 9 _ _).trans <| (sub_above 3 6 _ _).trans <| (sub_above 6 0 _ _).trans <| sub_below _ _, ?_⟩
  rw [List.take_append_of_le_length (by simp), List.take_of_length_le (by simp), List.map_map]
  exact (List.map_congr_left (fun k _ => decXl_enc k)).trans (List.map_id _)

theorem ReadBack.udf (w : BitVec 64) : ReadBack.Statement (.udf w) := by
  intro h rest
  unfold xCandidate
  rw [show w.extractLsb' 0 7 = 0 from of_decide_eq_true h]
  rfl
theorem ReadBack.add (r : Xr) : ReadBack.Statement (.add r) := by
  intro _ rest
  unfold xCandidate
  rw [encXr_op, encXr_fn]
  exact congrArg (fun r => Except.ok (Instr.add r)) (decXr_enc _ _ r)
theorem ReadBack.sub (r : Xr) : ReadBack.Statement (.sub r) := by
  intro _ rest
  unfold xCandidate
  rw [encXr_op, encXr_fn]
  exact congrArg (fun r => Except.ok (Instr.sub r)) (decXr_enc _ _ r)
theorem ReadBack.and (r : Xr) : ReadBack.Statement (.and r) := by
  intro _ rest
  unfold xCandidate
  rw [encXr_op, encXr_fn]
  exact congrArg (fun r => Except.ok (Instr.and r)) (decXr_enc _ _ r)
theorem ReadBack.or (r : Xr) : ReadBack.Statement (.or r) := by
  intro _ rest
  unfold xCandidate
  rw [encXr_op, encXr_fn]
  exact congrArg (fun r => Except.ok (Instr.or r)) (decXr_enc _ _ r)
theorem ReadBack.xor (r : Xr) : ReadBack.Statement (.xor r) := by
  intro _ rest
  unfold xCandidate
  rw [encXr_op, encXr_fn]
  exact congrArg (fun r => Except.ok (Instr.xor r)) (decXr_enc _ _ r)
theorem ReadBack.andn (r : Xr) : ReadBack.Statement (.andn r) := by
  intro _ rest
  unfold xCandidate
  rw [encXr_op, encXr_fn]
  exact congrArg (fun r => Except.ok (Instr.andn r)) (decXr_enc _ _ r)
theorem ReadBack.sll (r : Xr) : ReadBack.Statement (.sll r) := by
  intro _ rest
  unfold xCandidate
  rw [encXr_op, encXr_fn]
  exact congrArg (fun r => Except.ok (Instr.sll r)) (decXr_enc _ _ r)
theorem ReadBack.srl (r : Xr) : ReadBack.Statement (.srl r) := by
  intro _ rest
  unfold xCandidate
  rw [encXr_op, encXr_fn]
  exact congrArg (fun r => Except.ok (Instr.srl r)) (decXr_enc _ _ r)
theorem ReadBack.sra (r : Xr) : ReadBack.Statement (.sra r) := by
  intro _ rest
  unfold xCandidate
  rw [encXr_op, encXr_fn]
  exact congrArg (fun r => Except.ok (Instr.sra r)) (decXr_enc _ _ r)
theorem ReadBack.rol (r : Xr) : ReadBack.Statement (.rol r) := by
  intro _ rest
  unfold xCandidate
  rw [encXr_op, encXr_fn]
  exact congrArg (fun r => Except.ok (Instr.rol r)) (decXr_enc _ _ r)
theorem ReadBack.min (r : Xr) : ReadBack.Statement (.min r) := by
  intro _ rest
  unfold xCandidate
  rw [encXr_op, encXr_fn]
  exact congrArg (fun r => Except.ok (Instr.min r)) (decXr_enc _ _ r)
theorem ReadBack.max (r : Xr) : ReadBack.Statement (.max r) := by
  intro _ rest
  unfold xCandidate
  rw [encXr_op, encXr_fn]
  exact congrArg (fun r => Except.ok (Instr.max r)) (decXr_enc _ _ r)
theorem ReadBack.minu (r : Xr) : ReadBack.Statement (.minu r) := by
  intro _ rest
  unfold xCandidate
  rw [encXr_op, encXr_fn]
  exact congrArg (fun r => Except.ok (Instr.minu r)) (decXr_enc _ _ r)
theorem ReadBack.maxu (r : Xr) : ReadBack.Statement (.maxu r) := by
  intro _ rest
  unfold xCandidate
  rw [encXr_op, encXr_fn]
  exact congrArg (fun r => Except.ok (Instr.maxu r)) (decXr_enc _ _ r)
theorem ReadBack.clz (r : Xr) : ReadBack.Statement (.clz r) := by
  intro _ rest
  unfold xCandidate
  rw [encXr_op, encXr_fn]
  exact congrArg (fun r => Except.ok (Instr.clz r)) (decXr_enc _ _ r)
theorem ReadBack.ctz (r : Xr) : ReadBack.Statement (.ctz r) := by
  intro _ rest
  unfold xCandidate
  rw [encXr_op, encXr_fn]
  exact congrArg (fun r => Except.ok (Instr.ctz r)) (decXr_enc _ _ r)
theorem ReadBack.popc (r : Xr) : ReadBack.Statement (.popc r) := by
  intro _ rest
  unfold xCandidate
  rw [encXr_op, encXr_fn]
  exact congrArg (fun r => Except.ok (Instr.popc r)) (decXr_enc _ _ r)
theorem ReadBack.sext (r : Xr) : ReadBack.Statement (.sext r) := by
  intro _ rest
  unfold xCandidate
  rw [encXr_op, encXr_fn]
  exact congrArg (fun r => Except.ok (Instr.sext r)) (decXr_enc _ _ r)
theorem ReadBack.zext (r : Xr) : ReadBack.Statement (.zext r) := by
  intro _ rest
  unfold xCandidate
  rw [encXr_op, encXr_fn]
  exact congrArg (fun r => Except.ok (Instr.zext r)) (decXr_enc _ _ r)
theorem ReadBack.mov (r : Xr) : ReadBack.Statement (.mov r) := by
  intro _ rest
  unfold xCandidate
  rw [encXr_op, encXr_fn]
  exact congrArg (fun r => Except.ok (Instr.mov r)) (decXr_enc _ _ r)
theorem ReadBack.mul (r : Xr) : ReadBack.Statement (.mul r) := by
  intro _ rest
  unfold xCandidate
  rw [encXr_op, encXr_fn]
  exact congrArg (fun r => Except.ok (Instr.mul r)) (decXr_enc _ _ r)
theorem ReadBack.mulh (r : Xr) : ReadBack.Statement (.mulh r) := by
  intro _ rest
  unfold xCandidate
  rw [encXr_op, encXr_fn]
  exact congrArg (fun r => Except.ok (Instr.mulh r)) (decXr_enc _ _ r)
theorem ReadBack.mulhu (r : Xr) : ReadBack.Statement (.mulhu r) := by
  intro _ rest
  unfold xCandidate
  rw [encXr_op, encXr_fn]
  exact congrArg (fun r => Except.ok (Instr.mulhu r)) (decXr_enc _ _ r)
theorem ReadBack.mulhsu (r : Xr) : ReadBack.Statement (.mulhsu r) := by
  intro _ rest
  unfold xCandidate
  rw [encXr_op, encXr_fn]
  exact congrArg (fun r => Except.ok (Instr.mulhsu r)) (decXr_enc _ _ r)
theorem ReadBack.mad (r : Xr) : ReadBack.Statement (.mad r) := by
  intro _ rest
  unfold xCandidate
  rw [encXr_op, encXr_fn]
  exact congrArg (fun r => Except.ok (Instr.mad r)) (decXr_enc _ _ r)
theorem ReadBack.div (r : Xr) : ReadBack.Statement (.div r) := by
  intro _ rest
  unfold xCandidate
  rw [encXr_op, encXr_fn]
  exact congrArg (fun r => Except.ok (Instr.div r)) (decXr_enc _ _ r)
theorem ReadBack.divu (r : Xr) : ReadBack.Statement (.divu r) := by
  intro _ rest
  unfold xCandidate
  rw [encXr_op, encXr_fn]
  exact congrArg (fun r => Except.ok (Instr.divu r)) (decXr_enc _ _ r)
theorem ReadBack.rem (r : Xr) : ReadBack.Statement (.rem r) := by
  intro _ rest
  unfold xCandidate
  rw [encXr_op, encXr_fn]
  exact congrArg (fun r => Except.ok (Instr.rem r)) (decXr_enc _ _ r)
theorem ReadBack.remu (r : Xr) : ReadBack.Statement (.remu r) := by
  intro _ rest
  unfold xCandidate
  rw [encXr_op, encXr_fn]
  exact congrArg (fun r => Except.ok (Instr.remu r)) (decXr_enc _ _ r)
theorem ReadBack.ceq (r : Xr) : ReadBack.Statement (.ceq r) := by
  intro _ rest
  unfold xCandidate
  rw [encXr_op, encXr_fn]
  exact congrArg (fun r => Except.ok (Instr.ceq r)) (decXr_enc _ _ r)
theorem ReadBack.cne (r : Xr) : ReadBack.Statement (.cne r) := by
  intro _ rest
  unfold xCandidate
  rw [encXr_op, encXr_fn]
  exact congrArg (fun r => Except.ok (Instr.cne r)) (decXr_enc _ _ r)
theorem ReadBack.clt (r : Xr) : ReadBack.Statement (.clt r) := by
  intro _ rest
  unfold xCandidate
  rw [encXr_op, encXr_fn]
  exact congrArg (fun r => Except.ok (Instr.clt r)) (decXr_enc _ _ r)
theorem ReadBack.cle (r : Xr) : ReadBack.Statement (.cle r) := by
  intro _ rest
  unfold xCandidate
  rw [encXr_op, encXr_fn]
  exact congrArg (fun r => Except.ok (Instr.cle r)) (decXr_enc _ _ r)
theorem ReadBack.cltu (r : Xr) : ReadBack.Statement (.cltu r) := by
  intro _ rest
  unfold xCandidate
  rw [encXr_op, encXr_fn]
  exact congrArg (fun r => Except.ok (Instr.cltu r)) (decXr_enc _ _ r)
theorem ReadBack.cleu (r : Xr) : ReadBack.Statement (.cleu r) := by
  intro _ rest
  unfold xCandidate
  rw [encXr_op, encXr_fn]
  exact congrArg (fun r => Except.ok (Instr.cleu r)) (decXr_enc _ _ r)
theorem ReadBack.pand (r : Xr) : ReadBack.Statement (.pand r) := by
  intro _ rest
  unfold xCandidate
  rw [encXr_op, encXr_fn]
  exact congrArg (fun r => Except.ok (Instr.pand r)) (decXr_enc _ _ r)
theorem ReadBack.por (r : Xr) : ReadBack.Statement (.por r) := by
  intro _ rest
  unfold xCandidate
  rw [encXr_op, encXr_fn]
  exact congrArg (fun r => Except.ok (Instr.por r)) (decXr_enc _ _ r)
theorem ReadBack.pxor (r : Xr) : ReadBack.Statement (.pxor r) := by
  intro _ rest
  unfold xCandidate
  rw [encXr_op, encXr_fn]
  exact congrArg (fun r => Except.ok (Instr.pxor r)) (decXr_enc _ _ r)
theorem ReadBack.pandn (r : Xr) : ReadBack.Statement (.pandn r) := by
  intro _ rest
  unfold xCandidate
  rw [encXr_op, encXr_fn]
  exact congrArg (fun r => Except.ok (Instr.pandn r)) (decXr_enc _ _ r)
theorem ReadBack.pnand (r : Xr) : ReadBack.Statement (.pnand r) := by
  intro _ rest
  unfold xCandidate
  rw [encXr_op, encXr_fn]
  exact congrArg (fun r => Except.ok (Instr.pnand r)) (decXr_enc _ _ r)
theorem ReadBack.pnor (r : Xr) : ReadBack.Statement (.pnor r) := by
  intro _ rest
  unfold xCandidate
  rw [encXr_op, encXr_fn]
  exact congrArg (fun r => Except.ok (Instr.pnor r)) (decXr_enc _ _ r)
theorem ReadBack.pget (r : Xr) : ReadBack.Statement (.pget r) := by
  intro _ rest
  unfold xCandidate
  rw [encXr_op, encXr_fn]
  exact congrArg (fun r => Except.ok (Instr.pget r)) (decXr_enc _ _ r)
theorem ReadBack.pput (r : Xr) : ReadBack.Statement (.pput r) := by
  intro _ rest
  unfold xCandidate
  rw [encXr_op, encXr_fn]
  exact congrArg (fun r => Except.ok (Instr.pput r)) (decXr_enc _ _ r)
theorem ReadBack.sel (r : Xr) : ReadBack.Statement (.sel r) := by
  intro _ rest
  unfold xCandidate
  rw [encXr_op, encXr_fn]
  exact congrArg (fun r => Except.ok (Instr.sel r)) (decXr_enc _ _ r)
theorem ReadBack.addi (r : Xi) : ReadBack.Statement (.addi r) := by
  intro _ rest
  unfold xCandidate
  rw [encXi_op, encXi_fn]
  exact congrArg (fun r => Except.ok (Instr.addi r)) (decXi_enc _ _ r)
theorem ReadBack.andi (r : Xi) : ReadBack.Statement (.andi r) := by
  intro _ rest
  unfold xCandidate
  rw [encXi_op, encXi_fn]
  exact congrArg (fun r => Except.ok (Instr.andi r)) (decXi_enc _ _ r)
theorem ReadBack.ori (r : Xi) : ReadBack.Statement (.ori r) := by
  intro _ rest
  unfold xCandidate
  rw [encXi_op, encXi_fn]
  exact congrArg (fun r => Except.ok (Instr.ori r)) (decXi_enc _ _ r)
theorem ReadBack.xori (r : Xi) : ReadBack.Statement (.xori r) := by
  intro _ rest
  unfold xCandidate
  rw [encXi_op, encXi_fn]
  exact congrArg (fun r => Except.ok (Instr.xori r)) (decXi_enc _ _ r)
theorem ReadBack.slli (r : Xi) : ReadBack.Statement (.slli r) := by
  intro _ rest
  unfold xCandidate
  rw [encXi_op, encXi_fn]
  exact congrArg (fun r => Except.ok (Instr.slli r)) (decXi_enc _ _ r)
theorem ReadBack.srli (r : Xi) : ReadBack.Statement (.srli r) := by
  intro _ rest
  unfold xCandidate
  rw [encXi_op, encXi_fn]
  exact congrArg (fun r => Except.ok (Instr.srli r)) (decXi_enc _ _ r)
theorem ReadBack.srai (r : Xi) : ReadBack.Statement (.srai r) := by
  intro _ rest
  unfold xCandidate
  rw [encXi_op, encXi_fn]
  exact congrArg (fun r => Except.ok (Instr.srai r)) (decXi_enc _ _ r)
theorem ReadBack.roli (r : Xi) : ReadBack.Statement (.roli r) := by
  intro _ rest
  unfold xCandidate
  rw [encXi_op, encXi_fn]
  exact congrArg (fun r => Except.ok (Instr.roli r)) (decXi_enc _ _ r)
theorem ReadBack.mini (r : Xi) : ReadBack.Statement (.mini r) := by
  intro _ rest
  unfold xCandidate
  rw [encXi_op, encXi_fn]
  exact congrArg (fun r => Except.ok (Instr.mini r)) (decXi_enc _ _ r)
theorem ReadBack.maxi (r : Xi) : ReadBack.Statement (.maxi r) := by
  intro _ rest
  unfold xCandidate
  rw [encXi_op, encXi_fn]
  exact congrArg (fun r => Except.ok (Instr.maxi r)) (decXi_enc _ _ r)
theorem ReadBack.muli (r : Xi) : ReadBack.Statement (.muli r) := by
  intro _ rest
  unfold xCandidate
  rw [encXi_op, encXi_fn]
  exact congrArg (fun r => Except.ok (Instr.muli r)) (decXi_enc _ _ r)
theorem ReadBack.ceqi (r : Xi) : ReadBack.Statement (.ceqi r) := by
  intro _ rest
  unfold xCandidate
  rw [encXi_op, encXi_fn]
  exact congrArg (fun r => Except.ok (Instr.ceqi r)) (decXi_enc _ _ r)
theorem ReadBack.cnei (r : Xi) : ReadBack.Statement (.cnei r) := by
  intro _ rest
  unfold xCandidate
  rw [encXi_op, encXi_fn]
  exact congrArg (fun r => Except.ok (Instr.cnei r)) (decXi_enc _ _ r)
theorem ReadBack.clti (r : Xi) : ReadBack.Statement (.clti r) := by
  intro _ rest
  unfold xCandidate
  rw [encXi_op, encXi_fn]
  exact congrArg (fun r => Except.ok (Instr.clti r)) (decXi_enc _ _ r)
theorem ReadBack.clei (r : Xi) : ReadBack.Statement (.clei r) := by
  intro _ rest
  unfold xCandidate
  rw [encXi_op, encXi_fn]
  exact congrArg (fun r => Except.ok (Instr.clei r)) (decXi_enc _ _ r)
theorem ReadBack.cltui (r : Xi) : ReadBack.Statement (.cltui r) := by
  intro _ rest
  unfold xCandidate
  rw [encXi_op, encXi_fn]
  exact congrArg (fun r => Except.ok (Instr.cltui r)) (decXi_enc _ _ r)
theorem ReadBack.cleui (r : Xi) : ReadBack.Statement (.cleui r) := by
  intro _ rest
  unfold xCandidate
  rw [encXi_op, encXi_fn]
  exact congrArg (fun r => Except.ok (Instr.cleui r)) (decXi_enc _ _ r)
theorem ReadBack.movi (r : Xk) : ReadBack.Statement (.movi r) := by
  intro _ rest
  unfold xCandidate
  rw [encXk_op, encXk_fn]
  exact congrArg (fun r => Except.ok (Instr.movi r)) (decXk_enc _ _ r)
theorem ReadBack.movu (r : Xk) : ReadBack.Statement (.movu r) := by
  intro _ rest
  unfold xCandidate
  rw [encXk_op, encXk_fn]
  exact congrArg (fun r => Except.ok (Instr.movu r)) (decXk_enc _ _ r)
theorem ReadBack.movh (r : Xk) : ReadBack.Statement (.movh r) := by
  intro _ rest
  unfold xCandidate
  rw [encXk_op, encXk_fn]
  exact congrArg (fun r => Except.ok (Instr.movh r)) (decXk_enc _ _ r)
theorem ReadBack.fadd (r : Xr) : ReadBack.Statement (.fadd r) := by
  intro _ rest
  unfold xCandidate
  rw [encXr_op, encXr_fn]
  exact congrArg (fun r => Except.ok (Instr.fadd r)) (decXr_enc _ _ r)
theorem ReadBack.fsub (r : Xr) : ReadBack.Statement (.fsub r) := by
  intro _ rest
  unfold xCandidate
  rw [encXr_op, encXr_fn]
  exact congrArg (fun r => Except.ok (Instr.fsub r)) (decXr_enc _ _ r)
theorem ReadBack.fmul (r : Xr) : ReadBack.Statement (.fmul r) := by
  intro _ rest
  unfold xCandidate
  rw [encXr_op, encXr_fn]
  exact congrArg (fun r => Except.ok (Instr.fmul r)) (decXr_enc _ _ r)
theorem ReadBack.fdiv (r : Xr) : ReadBack.Statement (.fdiv r) := by
  intro _ rest
  unfold xCandidate
  rw [encXr_op, encXr_fn]
  exact congrArg (fun r => Except.ok (Instr.fdiv r)) (decXr_enc _ _ r)
theorem ReadBack.fsqrt (r : Xr) : ReadBack.Statement (.fsqrt r) := by
  intro _ rest
  unfold xCandidate
  rw [encXr_op, encXr_fn]
  exact congrArg (fun r => Except.ok (Instr.fsqrt r)) (decXr_enc _ _ r)
theorem ReadBack.fmin (r : Xr) : ReadBack.Statement (.fmin r) := by
  intro _ rest
  unfold xCandidate
  rw [encXr_op, encXr_fn]
  exact congrArg (fun r => Except.ok (Instr.fmin r)) (decXr_enc _ _ r)
theorem ReadBack.fmax (r : Xr) : ReadBack.Statement (.fmax r) := by
  intro _ rest
  unfold xCandidate
  rw [encXr_op, encXr_fn]
  exact congrArg (fun r => Except.ok (Instr.fmax r)) (decXr_enc _ _ r)
theorem ReadBack.fma (r : Xr) : ReadBack.Statement (.fma r) := by
  intro _ rest
  unfold xCandidate
  rw [encXr_op, encXr_fn]
  exact congrArg (fun r => Except.ok (Instr.fma r)) (decXr_enc _ _ r)
theorem ReadBack.fms (r : Xr) : ReadBack.Statement (.fms r) := by
  intro _ rest
  unfold xCandidate
  rw [encXr_op, encXr_fn]
  exact congrArg (fun r => Except.ok (Instr.fms r)) (decXr_enc _ _ r)
theorem ReadBack.fnma (r : Xr) : ReadBack.Statement (.fnma r) := by
  intro _ rest
  unfold xCandidate
  rw [encXr_op, encXr_fn]
  exact congrArg (fun r => Except.ok (Instr.fnma r)) (decXr_enc _ _ r)
theorem ReadBack.fabs (r : Xr) : ReadBack.Statement (.fabs r) := by
  intro _ rest
  unfold xCandidate
  rw [encXr_op, encXr_fn]
  exact congrArg (fun r => Except.ok (Instr.fabs r)) (decXr_enc _ _ r)
theorem ReadBack.fneg (r : Xr) : ReadBack.Statement (.fneg r) := by
  intro _ rest
  unfold xCandidate
  rw [encXr_op, encXr_fn]
  exact congrArg (fun r => Except.ok (Instr.fneg r)) (decXr_enc _ _ r)
theorem ReadBack.fsgnj (r : Xr) : ReadBack.Statement (.fsgnj r) := by
  intro _ rest
  unfold xCandidate
  rw [encXr_op, encXr_fn]
  exact congrArg (fun r => Except.ok (Instr.fsgnj r)) (decXr_enc _ _ r)
theorem ReadBack.feq (r : Xr) : ReadBack.Statement (.feq r) := by
  intro _ rest
  unfold xCandidate
  rw [encXr_op, encXr_fn]
  exact congrArg (fun r => Except.ok (Instr.feq r)) (decXr_enc _ _ r)
theorem ReadBack.flt (r : Xr) : ReadBack.Statement (.flt r) := by
  intro _ rest
  unfold xCandidate
  rw [encXr_op, encXr_fn]
  exact congrArg (fun r => Except.ok (Instr.flt r)) (decXr_enc _ _ r)
theorem ReadBack.fle (r : Xr) : ReadBack.Statement (.fle r) := by
  intro _ rest
  unfold xCandidate
  rw [encXr_op, encXr_fn]
  exact congrArg (fun r => Except.ok (Instr.fle r)) (decXr_enc _ _ r)
theorem ReadBack.fun (r : Xr) : ReadBack.Statement (.fun r) := by
  intro _ rest
  unfold xCandidate
  rw [encXr_op, encXr_fn]
  exact congrArg (fun r => Except.ok (Instr.fun r)) (decXr_enc _ _ r)
theorem ReadBack.fclass (r : Xr) : ReadBack.Statement (.fclass r) := by
  intro _ rest
  unfold xCandidate
  rw [encXr_op, encXr_fn]
  exact congrArg (fun r => Except.ok (Instr.fclass r)) (decXr_enc _ _ r)
theorem ReadBack.fcvt (r : Xr) : ReadBack.Statement (.fcvt r) := by
  intro _ rest
  unfold xCandidate
  rw [encXr_op, encXr_fn]
  exact congrArg (fun r => Except.ok (Instr.fcvt r)) (decXr_enc _ _ r)
theorem ReadBack.fcvti (r : Xr) : ReadBack.Statement (.fcvti r) := by
  intro _ rest
  unfold xCandidate
  rw [encXr_op, encXr_fn]
  exact congrArg (fun r => Except.ok (Instr.fcvti r)) (decXr_enc _ _ r)
theorem ReadBack.icvtf (r : Xr) : ReadBack.Statement (.icvtf r) := by
  intro _ rest
  unfold xCandidate
  rw [encXr_op, encXr_fn]
  exact congrArg (fun r => Except.ok (Instr.icvtf r)) (decXr_enc _ _ r)
theorem ReadBack.br (r : Xb) : ReadBack.Statement (.br r) := by
  intro _ rest
  unfold xCandidate
  rw [encXb_op, encXb_fn]
  exact congrArg (fun r => Except.ok (Instr.br r)) (decXb_enc _ _ r)
theorem ReadBack.call (r : Xb) : ReadBack.Statement (.call r) := by
  intro _ rest
  unfold xCandidate
  rw [encXb_op, encXb_fn]
  exact congrArg (fun r => Except.ok (Instr.call r)) (decXb_enc _ _ r)
theorem ReadBack.jr (r : Xr) : ReadBack.Statement (.jr r) := by
  intro _ rest
  unfold xCandidate
  rw [encXr_op, encXr_fn]
  exact congrArg (fun r => Except.ok (Instr.jr r)) (decXr_enc _ _ r)
theorem ReadBack.callr (r : Xr) : ReadBack.Statement (.callr r) := by
  intro _ rest
  unfold xCandidate
  rw [encXr_op, encXr_fn]
  exact congrArg (fun r => Except.ok (Instr.callr r)) (decXr_enc _ _ r)
theorem ReadBack.ret (r : Xr) : ReadBack.Statement (.ret r) := by
  intro _ rest
  unfold xCandidate
  rw [encXr_op, encXr_fn]
  exact congrArg (fun r => Except.ok (Instr.ret r)) (decXr_enc _ _ r)
theorem ReadBack.loop (r : Xi) : ReadBack.Statement (.loop r) := by
  intro _ rest
  unfold xCandidate
  rw [encXi_op, encXi_fn]
  exact congrArg (fun r => Except.ok (Instr.loop r)) (decXi_enc _ _ r)
theorem ReadBack.lds (fn : BitVec 6) (r : Xi) : ReadBack.Statement (.lds fn r) := by
  intro h rest
  have f : BitVec.ofNat 6 fn.toNat = fn := by rw [BitVec.ofNat_toNat, BitVec.setWidth_eq]
  have e : (encXi 0x38 fn.toNat r).getLsbD 21 = false := by
    have e1 := congrArg (fun v => v.getLsbD 3) (encXi_fn 0x38 fn.toNat r)
    simp only [BitVec.getLsbD_extractLsb', BitVec.ofNat_toNat, BitVec.setWidth_eq] at e1
    have h1 : decide (fn.toNat ≤ 3) = true := by
      have h' : (guardOk r.g && lbOk r.lb 6 && decide (fn.toNat ≤ 3)) = true := h
      simp only [Bool.and_eq_true] at h'
      exact h'.2
    exact e1.trans (by clear e1 f h; revert h1; revert fn; decide)
  unfold xCandidate
  rw [encXi_op, encXi_fn, f, e]
  exact congrArg (fun r => Except.ok (Instr.lds fn r)) (decXi_enc _ _ r)
theorem ReadBack.ldsx (fn : BitVec 6) (r : Xi) : ReadBack.Statement (.ldsx fn r) := by
  intro h rest
  have f : BitVec.ofNat 6 fn.toNat = fn := by rw [BitVec.ofNat_toNat, BitVec.setWidth_eq]
  have e : (encXi 0x38 fn.toNat r).getLsbD 21 = true := by
    have e1 := congrArg (fun v => v.getLsbD 3) (encXi_fn 0x38 fn.toNat r)
    simp only [BitVec.getLsbD_extractLsb', BitVec.ofNat_toNat, BitVec.setWidth_eq] at e1
    have h1 : decide (8 ≤ fn.toNat) = true ∧ decide (fn.toNat ≤ 10) = true := by
      have h' : (guardOk r.g && lbOk r.lb 6 && decide (8 ≤ fn.toNat) && decide (fn.toNat ≤ 10)) = true := h
      simp only [Bool.and_eq_true] at h'
      exact ⟨h'.1.2, h'.2⟩
    exact e1.trans (by clear e1 f h; revert h1; revert fn; decide)
  unfold xCandidate
  rw [encXi_op, encXi_fn, f, e]
  exact congrArg (fun r => Except.ok (Instr.ldsx fn r)) (decXi_enc _ _ r)
theorem ReadBack.sts (fn : BitVec 6) (r : Xi) : ReadBack.Statement (.sts fn r) := by
  intro h rest
  have f : BitVec.ofNat 6 fn.toNat = fn := by rw [BitVec.ofNat_toNat, BitVec.setWidth_eq]
  unfold xCandidate
  rw [encXi_op, encXi_fn, f]
  exact congrArg (fun r => Except.ok (Instr.sts fn r)) (decXi_enc _ _ r)
theorem ReadBack.ldg (fn : BitVec 6) (r : Xr) : ReadBack.Statement (.ldg fn r) := by
  intro h rest
  have f : BitVec.ofNat 6 fn.toNat = fn := by rw [BitVec.ofNat_toNat, BitVec.setWidth_eq]
  unfold xCandidate
  rw [encXr_op, encXr_fn, f]
  exact congrArg (fun r => Except.ok (Instr.ldg fn r)) (decXr_enc _ _ r)
theorem ReadBack.stg (fn : BitVec 6) (r : Xr) : ReadBack.Statement (.stg fn r) := by
  intro h rest
  have f : BitVec.ofNat 6 fn.toNat = fn := by rw [BitVec.ofNat_toNat, BitVec.setWidth_eq]
  unfold xCandidate
  rw [encXr_op, encXr_fn, f]
  exact congrArg (fun r => Except.ok (Instr.stg fn r)) (decXr_enc _ _ r)
theorem ReadBack.amoAdd (r : Xr) : ReadBack.Statement (.amoAdd r) := by
  intro _ rest
  unfold xCandidate
  rw [encXr_op, encXr_fn]
  exact congrArg (fun r => Except.ok (Instr.amoAdd r)) (decXr_enc _ _ r)
theorem ReadBack.amoAnd (r : Xr) : ReadBack.Statement (.amoAnd r) := by
  intro _ rest
  unfold xCandidate
  rw [encXr_op, encXr_fn]
  exact congrArg (fun r => Except.ok (Instr.amoAnd r)) (decXr_enc _ _ r)
theorem ReadBack.amoOr (r : Xr) : ReadBack.Statement (.amoOr r) := by
  intro _ rest
  unfold xCandidate
  rw [encXr_op, encXr_fn]
  exact congrArg (fun r => Except.ok (Instr.amoOr r)) (decXr_enc _ _ r)
theorem ReadBack.amoXor (r : Xr) : ReadBack.Statement (.amoXor r) := by
  intro _ rest
  unfold xCandidate
  rw [encXr_op, encXr_fn]
  exact congrArg (fun r => Except.ok (Instr.amoXor r)) (decXr_enc _ _ r)
theorem ReadBack.amoMin (r : Xr) : ReadBack.Statement (.amoMin r) := by
  intro _ rest
  unfold xCandidate
  rw [encXr_op, encXr_fn]
  exact congrArg (fun r => Except.ok (Instr.amoMin r)) (decXr_enc _ _ r)
theorem ReadBack.amoMax (r : Xr) : ReadBack.Statement (.amoMax r) := by
  intro _ rest
  unfold xCandidate
  rw [encXr_op, encXr_fn]
  exact congrArg (fun r => Except.ok (Instr.amoMax r)) (decXr_enc _ _ r)
theorem ReadBack.amoSwap (r : Xr) : ReadBack.Statement (.amoSwap r) := by
  intro _ rest
  unfold xCandidate
  rw [encXr_op, encXr_fn]
  exact congrArg (fun r => Except.ok (Instr.amoSwap r)) (decXr_enc _ _ r)
theorem ReadBack.amoCas (r : Xr) : ReadBack.Statement (.amoCas r) := by
  intro _ rest
  unfold xCandidate
  rw [encXr_op, encXr_fn]
  exact congrArg (fun r => Except.ok (Instr.amoCas r)) (decXr_enc _ _ r)
theorem ReadBack.amoFadd (r : Xr) : ReadBack.Statement (.amoFadd r) := by
  intro _ rest
  unfold xCandidate
  rw [encXr_op, encXr_fn]
  exact congrArg (fun r => Except.ok (Instr.amoFadd r)) (decXr_enc _ _ r)
theorem ReadBack.amoFmax (r : Xr) : ReadBack.Statement (.amoFmax r) := by
  intro _ rest
  unfold xCandidate
  rw [encXr_op, encXr_fn]
  exact congrArg (fun r => Except.ok (Instr.amoFmax r)) (decXr_enc _ _ r)
theorem ReadBack.amoMaxx (r : Xr) : ReadBack.Statement (.amoMaxx r) := by
  intro _ rest
  unfold xCandidate
  rw [encXr_op, encXr_fn]
  exact congrArg (fun r => Except.ok (Instr.amoMaxx r)) (decXr_enc _ _ r)
theorem ReadBack.pop (r : Xr) : ReadBack.Statement (.pop r) := by
  intro _ rest
  unfold xCandidate
  rw [encXr_op, encXr_fn]
  exact congrArg (fun r => Except.ok (Instr.pop r)) (decXr_enc _ _ r)
theorem ReadBack.push (r : Xr) : ReadBack.Statement (.push r) := by
  intro _ rest
  unfold xCandidate
  rw [encXr_op, encXr_fn]
  exact congrArg (fun r => Except.ok (Instr.push r)) (decXr_enc _ _ r)
theorem ReadBack.fence (r : Xr) : ReadBack.Statement (.fence r) := by
  intro _ rest
  unfold xCandidate
  rw [encXr_op, encXr_fn]
  exact congrArg (fun r => Except.ok (Instr.fence r)) (decXr_enc _ _ r)
theorem ReadBack.bankMode (r : Xi) : ReadBack.Statement (.bankMode r) := by
  intro _ rest
  unfold xCandidate
  rw [encXi_op, encXi_fn]
  exact congrArg (fun r => Except.ok (Instr.bankMode r)) (decXi_enc _ _ r)
theorem ReadBack.vadd (r : Xs) : ReadBack.Statement (.vadd r) := by
  intro _ rest
  unfold xCandidate
  rw [encXs_op, encXs_fn]
  exact congrArg (fun r => Except.ok (Instr.vadd r)) (decXs_enc _ _ r)
theorem ReadBack.vsub (r : Xs) : ReadBack.Statement (.vsub r) := by
  intro _ rest
  unfold xCandidate
  rw [encXs_op, encXs_fn]
  exact congrArg (fun r => Except.ok (Instr.vsub r)) (decXs_enc _ _ r)
theorem ReadBack.vmul (r : Xs) : ReadBack.Statement (.vmul r) := by
  intro _ rest
  unfold xCandidate
  rw [encXs_op, encXs_fn]
  exact congrArg (fun r => Except.ok (Instr.vmul r)) (decXs_enc _ _ r)
theorem ReadBack.vdiv (r : Xs) : ReadBack.Statement (.vdiv r) := by
  intro _ rest
  unfold xCandidate
  rw [encXs_op, encXs_fn]
  exact congrArg (fun r => Except.ok (Instr.vdiv r)) (decXs_enc _ _ r)
theorem ReadBack.vmin (r : Xs) : ReadBack.Statement (.vmin r) := by
  intro _ rest
  unfold xCandidate
  rw [encXs_op, encXs_fn]
  exact congrArg (fun r => Except.ok (Instr.vmin r)) (decXs_enc _ _ r)
theorem ReadBack.vmax (r : Xs) : ReadBack.Statement (.vmax r) := by
  intro _ rest
  unfold xCandidate
  rw [encXs_op, encXs_fn]
  exact congrArg (fun r => Except.ok (Instr.vmax r)) (decXs_enc _ _ r)
theorem ReadBack.vfma (r : Xs) : ReadBack.Statement (.vfma r) := by
  intro _ rest
  unfold xCandidate
  rw [encXs_op, encXs_fn]
  exact congrArg (fun r => Except.ok (Instr.vfma r)) (decXs_enc _ _ r)
theorem ReadBack.vfms (r : Xs) : ReadBack.Statement (.vfms r) := by
  intro _ rest
  unfold xCandidate
  rw [encXs_op, encXs_fn]
  exact congrArg (fun r => Except.ok (Instr.vfms r)) (decXs_enc _ _ r)
theorem ReadBack.vfnma (r : Xs) : ReadBack.Statement (.vfnma r) := by
  intro _ rest
  unfold xCandidate
  rw [encXs_op, encXs_fn]
  exact congrArg (fun r => Except.ok (Instr.vfnma r)) (decXs_enc _ _ r)
theorem ReadBack.vand (r : Xs) : ReadBack.Statement (.vand r) := by
  intro _ rest
  unfold xCandidate
  rw [encXs_op, encXs_fn]
  exact congrArg (fun r => Except.ok (Instr.vand r)) (decXs_enc _ _ r)
theorem ReadBack.vor (r : Xs) : ReadBack.Statement (.vor r) := by
  intro _ rest
  unfold xCandidate
  rw [encXs_op, encXs_fn]
  exact congrArg (fun r => Except.ok (Instr.vor r)) (decXs_enc _ _ r)
theorem ReadBack.vxor (r : Xs) : ReadBack.Statement (.vxor r) := by
  intro _ rest
  unfold xCandidate
  rw [encXs_op, encXs_fn]
  exact congrArg (fun r => Except.ok (Instr.vxor r)) (decXs_enc _ _ r)
theorem ReadBack.vsll (r : Xs) : ReadBack.Statement (.vsll r) := by
  intro _ rest
  unfold xCandidate
  rw [encXs_op, encXs_fn]
  exact congrArg (fun r => Except.ok (Instr.vsll r)) (decXs_enc _ _ r)
theorem ReadBack.vsrl (r : Xs) : ReadBack.Statement (.vsrl r) := by
  intro _ rest
  unfold xCandidate
  rw [encXs_op, encXs_fn]
  exact congrArg (fun r => Except.ok (Instr.vsrl r)) (decXs_enc _ _ r)
theorem ReadBack.vsra (r : Xs) : ReadBack.Statement (.vsra r) := by
  intro _ rest
  unfold xCandidate
  rw [encXs_op, encXs_fn]
  exact congrArg (fun r => Except.ok (Instr.vsra r)) (decXs_enc _ _ r)
theorem ReadBack.vabd (r : Xs) : ReadBack.Statement (.vabd r) := by
  intro _ rest
  unfold xCandidate
  rw [encXs_op, encXs_fn]
  exact congrArg (fun r => Except.ok (Instr.vabd r)) (decXs_enc _ _ r)
theorem ReadBack.vmov (r : Xs) : ReadBack.Statement (.vmov r) := by
  intro _ rest
  unfold xCandidate
  rw [encXs_op, encXs_fn]
  exact congrArg (fun r => Except.ok (Instr.vmov r)) (decXs_enc _ _ r)
theorem ReadBack.vneg (r : Xs) : ReadBack.Statement (.vneg r) := by
  intro _ rest
  unfold xCandidate
  rw [encXs_op, encXs_fn]
  exact congrArg (fun r => Except.ok (Instr.vneg r)) (decXs_enc _ _ r)
theorem ReadBack.vabs (r : Xs) : ReadBack.Statement (.vabs r) := by
  intro _ rest
  unfold xCandidate
  rw [encXs_op, encXs_fn]
  exact congrArg (fun r => Except.ok (Instr.vabs r)) (decXs_enc _ _ r)
theorem ReadBack.vrcp (r : Xs) : ReadBack.Statement (.vrcp r) := by
  intro _ rest
  unfold xCandidate
  rw [encXs_op, encXs_fn]
  exact congrArg (fun r => Except.ok (Instr.vrcp r)) (decXs_enc _ _ r)
theorem ReadBack.vsqrt (r : Xs) : ReadBack.Statement (.vsqrt r) := by
  intro _ rest
  unfold xCandidate
  rw [encXs_op, encXs_fn]
  exact congrArg (fun r => Except.ok (Instr.vsqrt r)) (decXs_enc _ _ r)
theorem ReadBack.vrsqrt (r : Xs) : ReadBack.Statement (.vrsqrt r) := by
  intro _ rest
  unfold xCandidate
  rw [encXs_op, encXs_fn]
  exact congrArg (fun r => Except.ok (Instr.vrsqrt r)) (decXs_enc _ _ r)
theorem ReadBack.vexp (r : Xs) : ReadBack.Statement (.vexp r) := by
  intro _ rest
  unfold xCandidate
  rw [encXs_op, encXs_fn]
  exact congrArg (fun r => Except.ok (Instr.vexp r)) (decXs_enc _ _ r)
theorem ReadBack.vexp2 (r : Xs) : ReadBack.Statement (.vexp2 r) := by
  intro _ rest
  unfold xCandidate
  rw [encXs_op, encXs_fn]
  exact congrArg (fun r => Except.ok (Instr.vexp2 r)) (decXs_enc _ _ r)
theorem ReadBack.vlog2 (r : Xs) : ReadBack.Statement (.vlog2 r) := by
  intro _ rest
  unfold xCandidate
  rw [encXs_op, encXs_fn]
  exact congrArg (fun r => Except.ok (Instr.vlog2 r)) (decXs_enc _ _ r)
theorem ReadBack.vtanh (r : Xs) : ReadBack.Statement (.vtanh r) := by
  intro _ rest
  unfold xCandidate
  rw [encXs_op, encXs_fn]
  exact congrArg (fun r => Except.ok (Instr.vtanh r)) (decXs_enc _ _ r)
theorem ReadBack.vsigm (r : Xs) : ReadBack.Statement (.vsigm r) := by
  intro _ rest
  unfold xCandidate
  rw [encXs_op, encXs_fn]
  exact congrArg (fun r => Except.ok (Instr.vsigm r)) (decXs_enc _ _ r)
theorem ReadBack.vadds (r : Xs) : ReadBack.Statement (.vadds r) := by
  intro _ rest
  unfold xCandidate
  rw [encXs_op, encXs_fn]
  exact congrArg (fun r => Except.ok (Instr.vadds r)) (decXs_enc _ _ r)
theorem ReadBack.vsubs (r : Xs) : ReadBack.Statement (.vsubs r) := by
  intro _ rest
  unfold xCandidate
  rw [encXs_op, encXs_fn]
  exact congrArg (fun r => Except.ok (Instr.vsubs r)) (decXs_enc _ _ r)
theorem ReadBack.vmuls (r : Xs) : ReadBack.Statement (.vmuls r) := by
  intro _ rest
  unfold xCandidate
  rw [encXs_op, encXs_fn]
  exact congrArg (fun r => Except.ok (Instr.vmuls r)) (decXs_enc _ _ r)
theorem ReadBack.vmins (r : Xs) : ReadBack.Statement (.vmins r) := by
  intro _ rest
  unfold xCandidate
  rw [encXs_op, encXs_fn]
  exact congrArg (fun r => Except.ok (Instr.vmins r)) (decXs_enc _ _ r)
theorem ReadBack.vmaxs (r : Xs) : ReadBack.Statement (.vmaxs r) := by
  intro _ rest
  unfold xCandidate
  rw [encXs_op, encXs_fn]
  exact congrArg (fun r => Except.ok (Instr.vmaxs r)) (decXs_enc _ _ r)
theorem ReadBack.vfmas (r : Xs) : ReadBack.Statement (.vfmas r) := by
  intro _ rest
  unfold xCandidate
  rw [encXs_op, encXs_fn]
  exact congrArg (fun r => Except.ok (Instr.vfmas r)) (decXs_enc _ _ r)
theorem ReadBack.vfill (r : Xs) : ReadBack.Statement (.vfill r) := by
  intro _ rest
  unfold xCandidate
  rw [encXs_op, encXs_fn]
  exact congrArg (fun r => Except.ok (Instr.vfill r)) (decXs_enc _ _ r)
theorem ReadBack.vceq (r : Xs) : ReadBack.Statement (.vceq r) := by
  intro _ rest
  unfold xCandidate
  rw [encXs_op, encXs_fn]
  exact congrArg (fun r => Except.ok (Instr.vceq r)) (decXs_enc _ _ r)
theorem ReadBack.vcne (r : Xs) : ReadBack.Statement (.vcne r) := by
  intro _ rest
  unfold xCandidate
  rw [encXs_op, encXs_fn]
  exact congrArg (fun r => Except.ok (Instr.vcne r)) (decXs_enc _ _ r)
theorem ReadBack.vclt (r : Xs) : ReadBack.Statement (.vclt r) := by
  intro _ rest
  unfold xCandidate
  rw [encXs_op, encXs_fn]
  exact congrArg (fun r => Except.ok (Instr.vclt r)) (decXs_enc _ _ r)
theorem ReadBack.vcle (r : Xs) : ReadBack.Statement (.vcle r) := by
  intro _ rest
  unfold xCandidate
  rw [encXs_op, encXs_fn]
  exact congrArg (fun r => Except.ok (Instr.vcle r)) (decXs_enc _ _ r)
theorem ReadBack.vsel (r : Xs) : ReadBack.Statement (.vsel r) := by
  intro _ rest
  unfold xCandidate
  rw [encXs_op, encXs_fn]
  exact congrArg (fun r => Except.ok (Instr.vsel r)) (decXs_enc _ _ r)
theorem ReadBack.vcvt (r : Xs) : ReadBack.Statement (.vcvt r) := by
  intro _ rest
  unfold xCandidate
  rw [encXs_op, encXs_fn]
  exact congrArg (fun r => Except.ok (Instr.vcvt r)) (decXs_enc _ _ r)
theorem ReadBack.vqJ4 (r : Xs) : ReadBack.Statement (.vqJ4 r) := by
  intro _ rest
  unfold xCandidate
  rw [encXs_op, encXs_fn]
  exact congrArg (fun r => Except.ok (Instr.vqJ4 r)) (decXs_enc _ _ r)
theorem ReadBack.vdqJ4 (r : Xs) : ReadBack.Statement (.vdqJ4 r) := by
  intro _ rest
  unfold xCandidate
  rw [encXs_op, encXs_fn]
  exact congrArg (fun r => Except.ok (Instr.vdqJ4 r)) (decXs_enc _ _ r)
theorem ReadBack.vsum (r : Xs) : ReadBack.Statement (.vsum r) := by
  intro _ rest
  unfold xCandidate
  rw [encXs_op, encXs_fn]
  exact congrArg (fun r => Except.ok (Instr.vsum r)) (decXs_enc _ _ r)
theorem ReadBack.vmaxr (r : Xs) : ReadBack.Statement (.vmaxr r) := by
  intro _ rest
  unfold xCandidate
  rw [encXs_op, encXs_fn]
  exact congrArg (fun r => Except.ok (Instr.vmaxr r)) (decXs_enc _ _ r)
theorem ReadBack.vminr (r : Xs) : ReadBack.Statement (.vminr r) := by
  intro _ rest
  unfold xCandidate
  rw [encXs_op, encXs_fn]
  exact congrArg (fun r => Except.ok (Instr.vminr r)) (decXs_enc _ _ r)
theorem ReadBack.vamax (r : Xs) : ReadBack.Statement (.vamax r) := by
  intro _ rest
  unfold xCandidate
  rw [encXs_op, encXs_fn]
  exact congrArg (fun r => Except.ok (Instr.vamax r)) (decXs_enc _ _ r)
theorem ReadBack.vdot (r : Xs) : ReadBack.Statement (.vdot r) := by
  intro _ rest
  unfold xCandidate
  rw [encXs_op, encXs_fn]
  exact congrArg (fun r => Except.ok (Instr.vdot r)) (decXs_enc _ _ r)
theorem ReadBack.vrev (r : Xs) : ReadBack.Statement (.vrev r) := by
  intro _ rest
  unfold xCandidate
  rw [encXs_op, encXs_fn]
  exact congrArg (fun r => Except.ok (Instr.vrev r)) (decXs_enc _ _ r)
theorem ReadBack.vbcast (r : Xs) : ReadBack.Statement (.vbcast r) := by
  intro _ rest
  unfold xCandidate
  rw [encXs_op, encXs_fn]
  exact congrArg (fun r => Except.ok (Instr.vbcast r)) (decXs_enc _ _ r)
theorem ReadBack.vscan (r : Xs) : ReadBack.Statement (.vscan r) := by
  intro _ rest
  unfold xCandidate
  rw [encXs_op, encXs_fn]
  exact congrArg (fun r => Except.ok (Instr.vscan r)) (decXs_enc _ _ r)
theorem ReadBack.vidx (r : Xs) : ReadBack.Statement (.vidx r) := by
  intro _ rest
  unfold xCandidate
  rw [encXs_op, encXs_fn]
  exact congrArg (fun r => Except.ok (Instr.vidx r)) (decXs_enc _ _ r)
theorem ReadBack.vperm (r : Xs) : ReadBack.Statement (.vperm r) := by
  intro _ rest
  unfold xCandidate
  rw [encXs_op, encXs_fn]
  exact congrArg (fun r => Except.ok (Instr.vperm r)) (decXs_enc _ _ r)
theorem ReadBack.vtrans (r : Xs) : ReadBack.Statement (.vtrans r) := by
  intro _ rest
  unfold xCandidate
  rw [encXs_op, encXs_fn]
  exact congrArg (fun r => Except.ok (Instr.vtrans r)) (decXs_enc _ _ r)
theorem ReadBack.vsetb (r : Xs) : ReadBack.Statement (.vsetb r) := by
  intro _ rest
  unfold xCandidate
  rw [encXs_op, encXs_fn]
  exact congrArg (fun r => Except.ok (Instr.vsetb r)) (decXs_enc _ _ r)
theorem ReadBack.vsets (r : Xs) : ReadBack.Statement (.vsets r) := by
  intro _ rest
  unfold xCandidate
  rw [encXs_op, encXs_fn]
  exact congrArg (fun r => Except.ok (Instr.vsets r)) (decXs_enc _ _ r)
theorem ReadBack.vsetn (r : Xs) : ReadBack.Statement (.vsetn r) := by
  intro _ rest
  unfold xCandidate
  rw [encXs_op, encXs_fn]
  exact congrArg (fun r => Except.ok (Instr.vsetn r)) (decXs_enc _ _ r)
theorem ReadBack.vsett (r : Xs) : ReadBack.Statement (.vsett r) := by
  intro _ rest
  unfold xCandidate
  rw [encXs_op, encXs_fn]
  exact congrArg (fun r => Except.ok (Instr.vsett r)) (decXs_enc _ _ r)
theorem ReadBack.vgetb (r : Xs) : ReadBack.Statement (.vgetb r) := by
  intro _ rest
  unfold xCandidate
  rw [encXs_op, encXs_fn]
  exact congrArg (fun r => Except.ok (Instr.vgetb r)) (decXs_enc _ _ r)
theorem ReadBack.vgetn (r : Xs) : ReadBack.Statement (.vgetn r) := by
  intro _ rest
  unfold xCandidate
  rw [encXs_op, encXs_fn]
  exact congrArg (fun r => Except.ok (Instr.vgetn r)) (decXs_enc _ _ r)
theorem ReadBack.vchain (r : Xc) : ReadBack.Statement (.vchain r) := by
  intro h rest
  have hl : 1 ≤ r.links.length ∧ r.links.length ≤ 8 := by
    have h' : wfChain r = true := h
    simp only [wfChain, Bool.and_eq_true, decide_eq_true_eq] at h'
    omega
  unfold xCandidate
  rw [encXc_op, encXc_fn, encXc_count r hl]
  exact congrArg (fun r => Except.ok (Instr.vchain r)) (decXc_enc r rest)
theorem ReadBack.vdefer (r : Xs) : ReadBack.Statement (.vdefer r) := by
  intro _ rest
  unfold xCandidate
  rw [encXs_op, encXs_fn]
  exact congrArg (fun r => Except.ok (Instr.vdefer r)) (decXs_enc _ _ r)
theorem ReadBack.vdrain (r : Xs) : ReadBack.Statement (.vdrain r) := by
  intro _ rest
  unfold xCandidate
  rw [encXs_op, encXs_fn]
  exact congrArg (fun r => Except.ok (Instr.vdrain r)) (decXs_enc _ _ r)
theorem ReadBack.rowSm (r : Xs) : ReadBack.Statement (.rowSm r) := by
  intro _ rest
  unfold xCandidate
  rw [encXs_op, encXs_fn]
  exact congrArg (fun r => Except.ok (Instr.rowSm r)) (decXs_enc _ _ r)
theorem ReadBack.rowNorm (r : Xs) : ReadBack.Statement (.rowNorm r) := by
  intro _ rest
  unfold xCandidate
  rw [encXs_op, encXs_fn]
  exact congrArg (fun r => Except.ok (Instr.rowNorm r)) (decXs_enc _ _ r)
theorem ReadBack.rowLse (r : Xs) : ReadBack.Statement (.rowLse r) := by
  intro _ rest
  unfold xCandidate
  rw [encXs_op, encXs_fn]
  exact congrArg (fun r => Except.ok (Instr.rowLse r)) (decXs_enc _ _ r)
theorem ReadBack.mmNest (r : Xm) : ReadBack.Statement (.mmNest r) := by
  intro _ rest
  unfold xCandidate
  rw [encXm_op, encXm_fn]
  exact congrArg (fun r => Except.ok (Instr.mmNest r)) (decXm_enc _ _ r)
theorem ReadBack.mmGo (r : Xr) : ReadBack.Statement (.mmGo r) := by
  intro _ rest
  unfold xCandidate
  rw [encXr_op, encXr_fn]
  exact congrArg (fun r => Except.ok (Instr.mmGo r)) (decXr_enc _ _ r)
theorem ReadBack.mmSwap (r : Xr) : ReadBack.Statement (.mmSwap r) := by
  intro _ rest
  unfold xCandidate
  rw [encXr_op, encXr_fn]
  exact congrArg (fun r => Except.ok (Instr.mmSwap r)) (decXr_enc _ _ r)
theorem ReadBack.mmZero (r : Xr) : ReadBack.Statement (.mmZero r) := by
  intro _ rest
  unfold xCandidate
  rw [encXr_op, encXr_fn]
  exact congrArg (fun r => Except.ok (Instr.mmZero r)) (decXr_enc _ _ r)
theorem ReadBack.mmDrain (r : Xr) : ReadBack.Statement (.mmDrain r) := by
  intro _ rest
  unfold xCandidate
  rw [encXr_op, encXr_fn]
  exact congrArg (fun r => Except.ok (Instr.mmDrain r)) (decXr_enc _ _ r)
theorem ReadBack.mmCfg (r : Xi) : ReadBack.Statement (.mmCfg r) := by
  intro _ rest
  unfold xCandidate
  rw [encXi_op, encXi_fn]
  exact congrArg (fun r => Except.ok (Instr.mmCfg r)) (decXi_enc _ _ r)
theorem ReadBack.tset (r : Xr) : ReadBack.Statement (.tset r) := by
  intro _ rest
  unfold xCandidate
  rw [encXr_op, encXr_fn]
  exact congrArg (fun r => Except.ok (Instr.tset r)) (decXr_enc _ _ r)
theorem ReadBack.tclr (r : Xr) : ReadBack.Statement (.tclr r) := by
  intro _ rest
  unfold xCandidate
  rw [encXr_op, encXr_fn]
  exact congrArg (fun r => Except.ok (Instr.tclr r)) (decXr_enc _ _ r)
theorem ReadBack.barInit (r : Xk) : ReadBack.Statement (.barInit r) := by
  intro _ rest
  unfold xCandidate
  rw [encXk_op, encXk_fn]
  exact congrArg (fun r => Except.ok (Instr.barInit r)) (decXk_enc _ _ r)
theorem ReadBack.barArr (r : Xk) : ReadBack.Statement (.barArr r) := by
  intro _ rest
  unfold xCandidate
  rw [encXk_op, encXk_fn]
  exact congrArg (fun r => Except.ok (Instr.barArr r)) (decXk_enc _ _ r)
theorem ReadBack.barWait (r : Xk) : ReadBack.Statement (.barWait r) := by
  intro _ rest
  unfold xCandidate
  rw [encXk_op, encXk_fn]
  exact congrArg (fun r => Except.ok (Instr.barWait r)) (decXk_enc _ _ r)
theorem ReadBack.barSync (r : Xk) : ReadBack.Statement (.barSync r) := by
  intro _ rest
  unfold xCandidate
  rw [encXk_op, encXk_fn]
  exact congrArg (fun r => Except.ok (Instr.barSync r)) (decXk_enc _ _ r)
theorem ReadBack.evSet (r : Xi) : ReadBack.Statement (.evSet r) := by
  intro _ rest
  unfold xCandidate
  rw [encXi_op, encXi_fn]
  exact congrArg (fun r => Except.ok (Instr.evSet r)) (decXi_enc _ _ r)
theorem ReadBack.evClr (r : Xi) : ReadBack.Statement (.evClr r) := by
  intro _ rest
  unfold xCandidate
  rw [encXi_op, encXi_fn]
  exact congrArg (fun r => Except.ok (Instr.evClr r)) (decXi_enc _ _ r)
theorem ReadBack.evWait (r : Xi) : ReadBack.Statement (.evWait r) := by
  intro _ rest
  unfold xCandidate
  rw [encXi_op, encXi_fn]
  exact congrArg (fun r => Except.ok (Instr.evWait r)) (decXi_enc _ _ r)
theorem ReadBack.ctxYield (r : Xr) : ReadBack.Statement (.ctxYield r) := by
  intro _ rest
  unfold xCandidate
  rw [encXr_op, encXr_fn]
  exact congrArg (fun r => Except.ok (Instr.ctxYield r)) (decXr_enc _ _ r)
theorem ReadBack.ctxXfer (r : Xr) : ReadBack.Statement (.ctxXfer r) := by
  intro _ rest
  unfold xCandidate
  rw [encXr_op, encXr_fn]
  exact congrArg (fun r => Except.ok (Instr.ctxXfer r)) (decXr_enc _ _ r)
theorem ReadBack.launch (r : Xr) : ReadBack.Statement (.launch r) := by
  intro _ rest
  unfold xCandidate
  rw [encXr_op, encXr_fn]
  exact congrArg (fun r => Except.ok (Instr.launch r)) (decXr_enc _ _ r)
theorem ReadBack.exit (r : Xr) : ReadBack.Statement (.exit r) := by
  intro _ rest
  unfold xCandidate
  rw [encXr_op, encXr_fn]
  exact congrArg (fun r => Except.ok (Instr.exit r)) (decXr_enc _ _ r)
theorem ReadBack.trap (r : Xk) : ReadBack.Statement (.trap r) := by
  intro _ rest
  unfold xCandidate
  rw [encXk_op, encXk_fn]
  exact congrArg (fun r => Except.ok (Instr.trap r)) (decXk_enc _ _ r)
theorem ReadBack.id (r : Xr) : ReadBack.Statement (.id r) := by
  intro _ rest
  unfold xCandidate
  rw [encXr_op, encXr_fn]
  exact congrArg (fun r => Except.ok (Instr.id r)) (decXr_enc _ _ r)
theorem ReadBack.time (r : Xr) : ReadBack.Statement (.time r) := by
  intro _ rest
  unfold xCandidate
  rw [encXr_op, encXr_fn]
  exact congrArg (fun r => Except.ok (Instr.time r)) (decXr_enc _ _ r)
theorem ReadBack.pause (r : Xk) : ReadBack.Statement (.pause r) := by
  intro _ rest
  unfold xCandidate
  rw [encXk_op, encXk_fn]
  exact congrArg (fun r => Except.ok (Instr.pause r)) (decXk_enc _ _ r)
theorem ReadBack.pauseExpiry (aStream : Bool) : ReadBack.Statement (.pauseExpiry aStream) := fun _ => trivial
theorem ReadBack.tw (r : Xk) : ReadBack.Statement (.tw r) := by
  intro _ rest
  unfold xCandidate
  rw [encXk_op, encXk_fn]
  exact congrArg (fun r => Except.ok (Instr.tw r)) (decXk_enc _ _ r)
theorem ReadBack.twa (r : Xk) : ReadBack.Statement (.twa r) := by
  intro _ rest
  unfold xCandidate
  rw [encXk_op, encXk_fn]
  exact congrArg (fun r => Except.ok (Instr.twa r)) (decXk_enc _ _ r)
theorem ReadBack.sysRd (r : Xk) : ReadBack.Statement (.sysRd r) := by
  intro h rest
  have h' : (wfSys r && r.imm != 0x13) = true := h
  simp only [Bool.and_eq_true, bne_iff_ne, ne_eq] at h'
  unfold xCandidate
  rw [encXk_op, encXk_fn]
  change (match xOp70 0 _ with | some i => Except.ok i | none => _) = _
  simp only [xOp70, decXk_enc, h', if_false]
theorem ReadBack.sysWr (r : Xk) : ReadBack.Statement (.sysWr r) := by
  intro h rest
  have h' : (wfSys r && r.imm != 0x13 && r.imm != 0x15) = true := h
  simp only [Bool.and_eq_true, bne_iff_ne, ne_eq] at h'
  unfold xCandidate
  rw [encXk_op, encXk_fn]
  change (match xOp70 1 _ with | some i => Except.ok i | none => _) = _
  simp only [xOp70, decXk_enc, h', if_false]
theorem ReadBack.fdataRead (r : Xk) : ReadBack.Statement (.fdataRead r) := by
  intro h rest
  have h' : (wfSys r && r.imm == 0x13) = true := h
  simp only [Bool.and_eq_true, beq_iff_eq] at h'
  unfold xCandidate
  rw [encXk_op, encXk_fn]
  change (match xOp70 0 _ with | some i => Except.ok i | none => _) = _
  simp only [xOp70, decXk_enc, h', if_true]
theorem ReadBack.fdataWrite (r : Xk) : ReadBack.Statement (.fdataWrite r) := by
  intro h rest
  have h' : (wfSys r && r.imm == 0x13) = true := h
  simp only [Bool.and_eq_true, beq_iff_eq] at h'
  unfold xCandidate
  rw [encXk_op, encXk_fn]
  change (match xOp70 1 _ with | some i => Except.ok i | none => _) = _
  simp only [xOp70, decXk_enc, h', if_true]
theorem ReadBack.evmsg (r : Xk) : ReadBack.Statement (.evmsg r) := by
  intro h rest
  have h' : (wfSys r && r.imm == 0x15) = true := h
  simp only [Bool.and_eq_true, beq_iff_eq] at h'
  unfold xCandidate
  rw [encXk_op, encXk_fn]
  change (match xOp70 1 _ with | some i => Except.ok i | none => _) = _
  simp only [xOp70, decXk_enc, h', if_true]
  rfl
theorem ReadBack.ctxNew (r : Xr) : ReadBack.Statement (.ctxNew r) := by
  intro _ rest
  unfold xCandidate
  rw [encXr_op, encXr_fn]
  exact congrArg (fun r => Except.ok (Instr.ctxNew r)) (decXr_enc _ _ r)
theorem ReadBack.ctxDel (r : Xr) : ReadBack.Statement (.ctxDel r) := by
  intro _ rest
  unfold xCandidate
  rw [encXr_op, encXr_fn]
  exact congrArg (fun r => Except.ok (Instr.ctxDel r)) (decXr_enc _ _ r)
theorem ReadBack.ctxSev (r : Xr) : ReadBack.Statement (.ctxSev r) := by
  intro _ rest
  unfold xCandidate
  rw [encXr_op, encXr_fn]
  exact congrArg (fun r => Except.ok (Instr.ctxSev r)) (decXr_enc _ _ r)
theorem ReadBack.tlbInv (r : Xr) : ReadBack.Statement (.tlbInv r) := by
  intro _ rest
  unfold xCandidate
  rw [encXr_op, encXr_fn]
  exact congrArg (fun r => Except.ok (Instr.tlbInv r)) (decXr_enc _ _ r)
theorem ReadBack.tlbAsid (r : Xr) : ReadBack.Statement (.tlbAsid r) := by
  intro _ rest
  unfold xCandidate
  rw [encXr_op, encXr_fn]
  exact congrArg (fun r => Except.ok (Instr.tlbAsid r)) (decXr_enc _ _ r)
theorem ReadBack.tlbAll (r : Xr) : ReadBack.Statement (.tlbAll r) := by
  intro _ rest
  unfold xCandidate
  rw [encXr_op, encXr_fn]
  exact congrArg (fun r => Except.ok (Instr.tlbAll r)) (decXr_enc _ _ r)
theorem ReadBack.coreOut (r : Xr) : ReadBack.Statement (.coreOut r) := by
  intro _ rest
  unfold xCandidate
  rw [encXr_op, encXr_fn]
  exact congrArg (fun r => Except.ok (Instr.coreOut r)) (decXr_enc _ _ r)
theorem ReadBack.coreIn (r : Xr) : ReadBack.Statement (.coreIn r) := by
  intro _ rest
  unfold xCandidate
  rw [encXr_op, encXr_fn]
  exact congrArg (fun r => Except.ok (Instr.coreIn r)) (decXr_enc _ _ r)
theorem ReadBack.aUdf (u : BitVec 26) : ReadBack.Statement (.aUdf u) := by
  intro _
  change aCandidate (u ++ BitVec.ofNat 6 0) = _
  unfold aCandidate
  rw [sub_below]
  exact congrArg (fun u => Except.ok (Instr.aUdf u)) ((sub_above 6 0 _ _).trans BitVec.extractLsb'_eq_self)
theorem ReadBack.aUdf3f (u : BitVec 26) : ReadBack.Statement (.aUdf3f u) := by
  intro _
  change aCandidate (u ++ BitVec.ofNat 6 0x3f) = _
  unfold aCandidate
  rw [sub_below]
  exact congrArg (fun u => Except.ok (Instr.aUdf3f u)) ((sub_above 6 0 _ _).trans BitVec.extractLsb'_eq_self)
theorem ReadBack.aAdd (r : Ar) : ReadBack.Statement (.aAdd r) := by
  intro _
  change aCandidate (encAr 0x01 0 r) = _
  unfold aCandidate
  rw [encAr_op, encAr_fn]
  exact congrArg (fun r => Except.ok (Instr.aAdd r)) (decAr_enc _ _ r)
theorem ReadBack.aSub (r : Ar) : ReadBack.Statement (.aSub r) := by
  intro _
  change aCandidate (encAr 0x01 1 r) = _
  unfold aCandidate
  rw [encAr_op, encAr_fn]
  exact congrArg (fun r => Except.ok (Instr.aSub r)) (decAr_enc _ _ r)
theorem ReadBack.aAnd (r : Ar) : ReadBack.Statement (.aAnd r) := by
  intro _
  change aCandidate (encAr 0x01 2 r) = _
  unfold aCandidate
  rw [encAr_op, encAr_fn]
  exact congrArg (fun r => Except.ok (Instr.aAnd r)) (decAr_enc _ _ r)
theorem ReadBack.aOr (r : Ar) : ReadBack.Statement (.aOr r) := by
  intro _
  change aCandidate (encAr 0x01 3 r) = _
  unfold aCandidate
  rw [encAr_op, encAr_fn]
  exact congrArg (fun r => Except.ok (Instr.aOr r)) (decAr_enc _ _ r)
theorem ReadBack.aXor (r : Ar) : ReadBack.Statement (.aXor r) := by
  intro _
  change aCandidate (encAr 0x01 4 r) = _
  unfold aCandidate
  rw [encAr_op, encAr_fn]
  exact congrArg (fun r => Except.ok (Instr.aXor r)) (decAr_enc _ _ r)
theorem ReadBack.aSll (r : Ar) : ReadBack.Statement (.aSll r) := by
  intro _
  change aCandidate (encAr 0x01 5 r) = _
  unfold aCandidate
  rw [encAr_op, encAr_fn]
  exact congrArg (fun r => Except.ok (Instr.aSll r)) (decAr_enc _ _ r)
theorem ReadBack.aSrl (r : Ar) : ReadBack.Statement (.aSrl r) := by
  intro _
  change aCandidate (encAr 0x01 6 r) = _
  unfold aCandidate
  rw [encAr_op, encAr_fn]
  exact congrArg (fun r => Except.ok (Instr.aSrl r)) (decAr_enc _ _ r)
theorem ReadBack.aSra (r : Ar) : ReadBack.Statement (.aSra r) := by
  intro _
  change aCandidate (encAr 0x01 7 r) = _
  unfold aCandidate
  rw [encAr_op, encAr_fn]
  exact congrArg (fun r => Except.ok (Instr.aSra r)) (decAr_enc _ _ r)
theorem ReadBack.aMul (r : Ar) : ReadBack.Statement (.aMul r) := by
  intro _
  change aCandidate (encAr 0x01 8 r) = _
  unfold aCandidate
  rw [encAr_op, encAr_fn]
  exact congrArg (fun r => Except.ok (Instr.aMul r)) (decAr_enc _ _ r)
theorem ReadBack.aMin (r : Ar) : ReadBack.Statement (.aMin r) := by
  intro _
  change aCandidate (encAr 0x01 9 r) = _
  unfold aCandidate
  rw [encAr_op, encAr_fn]
  exact congrArg (fun r => Except.ok (Instr.aMin r)) (decAr_enc _ _ r)
theorem ReadBack.aMax (r : Ar) : ReadBack.Statement (.aMax r) := by
  intro _
  change aCandidate (encAr 0x01 10 r) = _
  unfold aCandidate
  rw [encAr_op, encAr_fn]
  exact congrArg (fun r => Except.ok (Instr.aMax r)) (decAr_enc _ _ r)
theorem ReadBack.aMinu (r : Ar) : ReadBack.Statement (.aMinu r) := by
  intro _
  change aCandidate (encAr 0x01 11 r) = _
  unfold aCandidate
  rw [encAr_op, encAr_fn]
  exact congrArg (fun r => Except.ok (Instr.aMinu r)) (decAr_enc _ _ r)
theorem ReadBack.aMaxu (r : Ar) : ReadBack.Statement (.aMaxu r) := by
  intro _
  change aCandidate (encAr 0x01 12 r) = _
  unfold aCandidate
  rw [encAr_op, encAr_fn]
  exact congrArg (fun r => Except.ok (Instr.aMaxu r)) (decAr_enc _ _ r)
theorem ReadBack.aAddi (r : Ai) : ReadBack.Statement (.aAddi r) := by
  intro _
  change aCandidate (encAi 0x02 r) = _
  unfold aCandidate
  rw [encAi_op]
  exact congrArg (fun r => Except.ok (Instr.aAddi r)) (decAi_enc _ r)
theorem ReadBack.aAddhi (r : Ai) : ReadBack.Statement (.aAddhi r) := by
  intro _
  change aCandidate (encAi 0x03 r) = _
  unfold aCandidate
  rw [encAi_op]
  exact congrArg (fun r => Except.ok (Instr.aAddhi r)) (decAi_enc _ r)
theorem ReadBack.aSlli (r : Ai) : ReadBack.Statement (.aSlli r) := by
  intro _
  change aCandidate (encAi 0x04 r) = _
  unfold aCandidate
  rw [encAi_op]
  exact congrArg (fun r => Except.ok (Instr.aSlli r)) (decAi_enc _ r)
theorem ReadBack.aAndi (r : Ai) : ReadBack.Statement (.aAndi r) := by
  intro _
  change aCandidate (encAi 0x05 r) = _
  unfold aCandidate
  rw [encAi_op]
  exact congrArg (fun r => Except.ok (Instr.aAndi r)) (decAi_enc _ r)
theorem ReadBack.b (r : Ab) : ReadBack.Statement (.b r) := by
  intro _
  change aCandidate (encAb 0x08 r) = _
  unfold aCandidate
  rw [encAb_op]
  exact congrArg (fun r => Except.ok (Instr.b r)) (decAb_enc _ r)
theorem ReadBack.bz (r : Ab) : ReadBack.Statement (.bz r) := by
  intro _
  change aCandidate (encAb 0x09 r) = _
  unfold aCandidate
  rw [encAb_op]
  exact congrArg (fun r => Except.ok (Instr.bz r)) (decAb_enc _ r)
theorem ReadBack.bnz (r : Ab) : ReadBack.Statement (.bnz r) := by
  intro _
  change aCandidate (encAb 0x0a r) = _
  unfold aCandidate
  rw [encAb_op]
  exact congrArg (fun r => Except.ok (Instr.bnz r)) (decAb_enc _ r)
theorem ReadBack.aExit (r : Ab) : ReadBack.Statement (.aExit r) := by
  intro _
  change aCandidate (encAb 0x0b r) = _
  unfold aCandidate
  rw [encAb_op]
  exact congrArg (fun r => Except.ok (Instr.aExit r)) (decAb_enc _ r)
theorem ReadBack.nest (r : An) : ReadBack.Statement (.nest r) := by
  intro _
  change aCandidate (encAn 0x0c r) = _
  unfold aCandidate
  rw [encAn_op]
  exact congrArg (fun r => Except.ok (Instr.nest r)) (decAn_enc _ r)
theorem ReadBack.bind (v : BitVec 3) (r : Ar) : ReadBack.Statement (.bind v r) := by
  intro _
  change aCandidate (encAr 0x0d v.toNat r) = _
  have hi : (encAr 0x0d v.toNat r).extractLsb' 26 2 = 0 :=
    (sub_above 6 20 _ _).trans <| (sub_above 1 19 _ _).trans <| (sub_above 1 18 _ _).trans <| (sub_above 5 13 _ _).trans <|
      (sub_above 5 8 _ _).trans <| (sub_above 5 3 _ _).trans <| (sub_within 3 2 (by decide) _ _).trans (bind_high v)
  have lo : (encAr 0x0d v.toNat r).extractLsb' 23 3 = v :=
    (sub_above 6 17 _ _).trans <| (sub_above 1 16 _ _).trans <| (sub_above 1 15 _ _).trans <| (sub_above 5 10 _ _).trans <|
      (sub_above 5 5 _ _).trans <| (sub_above 5 0 _ _).trans <| (sub_within 0 3 (by decide) _ _).trans (bind_low v)
  unfold aCandidate
  rw [encAr_op, hi, lo]
  exact congrArg (fun r => Except.ok (Instr.bind v r)) (decAr_enc _ _ r)
theorem ReadBack.ldq (r : Am) : ReadBack.Statement (.ldq r) := by
  intro _
  change aCandidate (encAm 0x10 r) = _
  unfold aCandidate
  rw [encAm_op]
  exact congrArg (fun r => Except.ok (Instr.ldq r)) (decAm_enc _ r)
theorem ReadBack.stq (r : Am) : ReadBack.Statement (.stq r) := by
  intro _
  change aCandidate (encAm 0x11 r) = _
  unfold aCandidate
  rw [encAm_op]
  exact congrArg (fun r => Except.ok (Instr.stq r)) (decAm_enc _ r)
theorem ReadBack.ldt (r : Am) : ReadBack.Statement (.ldt r) := by
  intro _
  change aCandidate (encAm 0x12 r) = _
  unfold aCandidate
  rw [encAm_op]
  exact congrArg (fun r => Except.ok (Instr.ldt r)) (decAm_enc _ r)
theorem ReadBack.stt (r : Am) : ReadBack.Statement (.stt r) := by
  intro _
  change aCandidate (encAm 0x13 r) = _
  unfold aCandidate
  rw [encAm_op]
  exact congrArg (fun r => Except.ok (Instr.stt r)) (decAm_enc _ r)
theorem ReadBack.lda (r : Am) : ReadBack.Statement (.lda r) := by
  intro _
  change aCandidate (encAm 0x14 r) = _
  unfold aCandidate
  rw [encAm_op]
  exact congrArg (fun r => Except.ok (Instr.lda r)) (decAm_enc _ r)
theorem ReadBack.sta (r : Am) : ReadBack.Statement (.sta r) := by
  intro _
  change aCandidate (encAm 0x15 r) = _
  unfold aCandidate
  rw [encAm_op]
  exact congrArg (fun r => Except.ok (Instr.sta r)) (decAm_enc _ r)
theorem ReadBack.cp (r : An) : ReadBack.Statement (.cp r) := by
  intro _
  change aCandidate (encAn 0x18 r) = _
  unfold aCandidate
  rw [encAn_op]
  exact congrArg (fun r => Except.ok (Instr.cp r)) (decAn_enc _ r)
theorem ReadBack.mcast (r : An) : ReadBack.Statement (.mcast r) := by
  intro _
  change aCandidate (encAn 0x19 r) = _
  unfold aCandidate
  rw [encAn_op]
  exact congrArg (fun r => Except.ok (Instr.mcast r)) (decAn_enc _ r)
theorem ReadBack.gat (r : An) : ReadBack.Statement (.gat r) := by
  intro _
  change aCandidate (encAn 0x1a r) = _
  unfold aCandidate
  rw [encAn_op]
  exact congrArg (fun r => Except.ok (Instr.gat r)) (decAn_enc _ r)
theorem ReadBack.sct (r : An) : ReadBack.Statement (.sct r) := by
  intro _
  change aCandidate (encAn 0x1b r) = _
  unfold aCandidate
  rw [encAn_op]
  exact congrArg (fun r => Except.ok (Instr.sct r)) (decAn_enc _ r)
theorem ReadBack.kvg (r : An) : ReadBack.Statement (.kvg r) := by
  intro _
  change aCandidate (encAn 0x1c r) = _
  unfold aCandidate
  rw [encAn_op]
  exact congrArg (fun r => Except.ok (Instr.kvg r)) (decAn_enc _ r)
theorem ReadBack.kva (r : An) : ReadBack.Statement (.kva r) := by
  intro _
  change aCandidate (encAn 0x1d r) = _
  unfold aCandidate
  rw [encAn_op]
  exact congrArg (fun r => Except.ok (Instr.kva r)) (decAn_enc _ r)
theorem ReadBack.kvc (r : An) : ReadBack.Statement (.kvc r) := by
  intro _
  change aCandidate (encAn 0x1e r) = _
  unfold aCandidate
  rw [encAn_op]
  exact congrArg (fun r => Except.ok (Instr.kvc r)) (decAn_enc _ r)
theorem ReadBack.aTw (r : An) : ReadBack.Statement (.aTw r) := by
  intro _
  change aCandidate (encAn 0x20 r) = _
  unfold aCandidate
  rw [encAn_op]
  exact congrArg (fun r => Except.ok (Instr.aTw r)) (decAn_enc _ r)
theorem ReadBack.aTwa (r : An) : ReadBack.Statement (.aTwa r) := by
  intro _
  change aCandidate (encAn 0x21 r) = _
  unfold aCandidate
  rw [encAn_op]
  exact congrArg (fun r => Except.ok (Instr.aTwa r)) (decAn_enc _ r)
theorem ReadBack.aTclr (r : An) : ReadBack.Statement (.aTclr r) := by
  intro _
  change aCandidate (encAn 0x22 r) = _
  unfold aCandidate
  rw [encAn_op]
  exact congrArg (fun r => Except.ok (Instr.aTclr r)) (decAn_enc _ r)
theorem ReadBack.aAmoAdd (r : Ar) : ReadBack.Statement (.aAmoAdd r) := by
  intro _
  change aCandidate (encAr 0x24 0 r) = _
  unfold aCandidate
  rw [encAr_op, encAr_fn]
  exact congrArg (fun r => Except.ok (Instr.aAmoAdd r)) (decAr_enc _ _ r)
theorem ReadBack.aAmoAnd (r : Ar) : ReadBack.Statement (.aAmoAnd r) := by
  intro _
  change aCandidate (encAr 0x24 1 r) = _
  unfold aCandidate
  rw [encAr_op, encAr_fn]
  exact congrArg (fun r => Except.ok (Instr.aAmoAnd r)) (decAr_enc _ _ r)
theorem ReadBack.aAmoOr (r : Ar) : ReadBack.Statement (.aAmoOr r) := by
  intro _
  change aCandidate (encAr 0x24 2 r) = _
  unfold aCandidate
  rw [encAr_op, encAr_fn]
  exact congrArg (fun r => Except.ok (Instr.aAmoOr r)) (decAr_enc _ _ r)
theorem ReadBack.aAmoXor (r : Ar) : ReadBack.Statement (.aAmoXor r) := by
  intro _
  change aCandidate (encAr 0x24 3 r) = _
  unfold aCandidate
  rw [encAr_op, encAr_fn]
  exact congrArg (fun r => Except.ok (Instr.aAmoXor r)) (decAr_enc _ _ r)
theorem ReadBack.aAmoMin (r : Ar) : ReadBack.Statement (.aAmoMin r) := by
  intro _
  change aCandidate (encAr 0x24 4 r) = _
  unfold aCandidate
  rw [encAr_op, encAr_fn]
  exact congrArg (fun r => Except.ok (Instr.aAmoMin r)) (decAr_enc _ _ r)
theorem ReadBack.aAmoMax (r : Ar) : ReadBack.Statement (.aAmoMax r) := by
  intro _
  change aCandidate (encAr 0x24 5 r) = _
  unfold aCandidate
  rw [encAr_op, encAr_fn]
  exact congrArg (fun r => Except.ok (Instr.aAmoMax r)) (decAr_enc _ _ r)
theorem ReadBack.aAmoSwap (r : Ar) : ReadBack.Statement (.aAmoSwap r) := by
  intro _
  change aCandidate (encAr 0x24 6 r) = _
  unfold aCandidate
  rw [encAr_op, encAr_fn]
  exact congrArg (fun r => Except.ok (Instr.aAmoSwap r)) (decAr_enc _ _ r)
theorem ReadBack.aAmoCas (r : Ar) : ReadBack.Statement (.aAmoCas r) := by
  intro _
  change aCandidate (encAr 0x24 7 r) = _
  unfold aCandidate
  rw [encAr_op, encAr_fn]
  exact congrArg (fun r => Except.ok (Instr.aAmoCas r)) (decAr_enc _ _ r)
theorem ReadBack.aAmoFadd (r : Ar) : ReadBack.Statement (.aAmoFadd r) := by
  intro _
  change aCandidate (encAr 0x24 8 r) = _
  unfold aCandidate
  rw [encAr_op, encAr_fn]
  exact congrArg (fun r => Except.ok (Instr.aAmoFadd r)) (decAr_enc _ _ r)
theorem ReadBack.aAmoFmax (r : Ar) : ReadBack.Statement (.aAmoFmax r) := by
  intro _
  change aCandidate (encAr 0x24 9 r) = _
  unfold aCandidate
  rw [encAr_op, encAr_fn]
  exact congrArg (fun r => Except.ok (Instr.aAmoFmax r)) (decAr_enc _ _ r)
theorem ReadBack.aAmoMaxx (r : Ar) : ReadBack.Statement (.aAmoMaxx r) := by
  intro _
  change aCandidate (encAr 0x24 10 r) = _
  unfold aCandidate
  rw [encAr_op, encAr_fn]
  exact congrArg (fun r => Except.ok (Instr.aAmoMaxx r)) (decAr_enc _ _ r)
theorem ReadBack.ramoAdd (r : Ar) : ReadBack.Statement (.ramoAdd r) := by
  intro _
  change aCandidate (encAr 0x25 0 r) = _
  unfold aCandidate
  rw [encAr_op, encAr_fn]
  exact congrArg (fun r => Except.ok (Instr.ramoAdd r)) (decAr_enc _ _ r)
theorem ReadBack.ramoAnd (r : Ar) : ReadBack.Statement (.ramoAnd r) := by
  intro _
  change aCandidate (encAr 0x25 1 r) = _
  unfold aCandidate
  rw [encAr_op, encAr_fn]
  exact congrArg (fun r => Except.ok (Instr.ramoAnd r)) (decAr_enc _ _ r)
theorem ReadBack.ramoOr (r : Ar) : ReadBack.Statement (.ramoOr r) := by
  intro _
  change aCandidate (encAr 0x25 2 r) = _
  unfold aCandidate
  rw [encAr_op, encAr_fn]
  exact congrArg (fun r => Except.ok (Instr.ramoOr r)) (decAr_enc _ _ r)
theorem ReadBack.ramoXor (r : Ar) : ReadBack.Statement (.ramoXor r) := by
  intro _
  change aCandidate (encAr 0x25 3 r) = _
  unfold aCandidate
  rw [encAr_op, encAr_fn]
  exact congrArg (fun r => Except.ok (Instr.ramoXor r)) (decAr_enc _ _ r)
theorem ReadBack.ramoMin (r : Ar) : ReadBack.Statement (.ramoMin r) := by
  intro _
  change aCandidate (encAr 0x25 4 r) = _
  unfold aCandidate
  rw [encAr_op, encAr_fn]
  exact congrArg (fun r => Except.ok (Instr.ramoMin r)) (decAr_enc _ _ r)
theorem ReadBack.ramoMax (r : Ar) : ReadBack.Statement (.ramoMax r) := by
  intro _
  change aCandidate (encAr 0x25 5 r) = _
  unfold aCandidate
  rw [encAr_op, encAr_fn]
  exact congrArg (fun r => Except.ok (Instr.ramoMax r)) (decAr_enc _ _ r)
theorem ReadBack.ramoSwap (r : Ar) : ReadBack.Statement (.ramoSwap r) := by
  intro _
  change aCandidate (encAr 0x25 6 r) = _
  unfold aCandidate
  rw [encAr_op, encAr_fn]
  exact congrArg (fun r => Except.ok (Instr.ramoSwap r)) (decAr_enc _ _ r)
theorem ReadBack.ramoFadd (r : Ar) : ReadBack.Statement (.ramoFadd r) := by
  intro _
  change aCandidate (encAr 0x25 8 r) = _
  unfold aCandidate
  rw [encAr_op, encAr_fn]
  exact congrArg (fun r => Except.ok (Instr.ramoFadd r)) (decAr_enc _ _ r)
theorem ReadBack.ramoFmax (r : Ar) : ReadBack.Statement (.ramoFmax r) := by
  intro _
  change aCandidate (encAr 0x25 9 r) = _
  unfold aCandidate
  rw [encAr_op, encAr_fn]
  exact congrArg (fun r => Except.ok (Instr.ramoFmax r)) (decAr_enc _ _ r)
theorem ReadBack.aFence (r : An) : ReadBack.Statement (.aFence r) := by
  intro _
  change aCandidate (encAn 0x26 r) = _
  unfold aCandidate
  rw [encAn_op]
  exact congrArg (fun r => Except.ok (Instr.aFence r)) (decAn_enc _ r)
theorem ReadBack.nbCopy (r : An) : ReadBack.Statement (.nbCopy r) := by
  intro _
  change aCandidate (encAn 0x28 r) = _
  unfold aCandidate
  rw [encAn_op]
  exact congrArg (fun r => Except.ok (Instr.nbCopy r)) (decAn_enc _ r)
theorem ReadBack.nbZero (r : An) : ReadBack.Statement (.nbZero r) := by
  intro _
  change aCandidate (encAn 0x29 r) = _
  unfold aCandidate
  rw [encAn_op]
  exact congrArg (fun r => Except.ok (Instr.nbZero r)) (decAn_enc _ r)
theorem ReadBack.nbAxpy (r : An) : ReadBack.Statement (.nbAxpy r) := by
  intro _
  change aCandidate (encAn 0x2a r) = _
  unfold aCandidate
  rw [encAn_op]
  exact congrArg (fun r => Except.ok (Instr.nbAxpy r)) (decAn_enc _ r)
theorem ReadBack.nbRun (r : An) : ReadBack.Statement (.nbRun r) := by
  intro _
  change aCandidate (encAn 0x2b r) = _
  unfold aCandidate
  rw [encAn_op]
  exact congrArg (fun r => Except.ok (Instr.nbRun r)) (decAn_enc _ r)
theorem ReadBack.nbAmoAdd (r : An) : ReadBack.Statement (.nbAmoAdd r) := by
  intro h
  have k : kHi r.k = 0 := by
    have h' : (kHi r.k == 0 && r.d == 0) = true := h
    simp only [Bool.and_eq_true, beq_iff_eq] at h'
    exact h'.1
  change aCandidate (encAn 0x2c r) = _
  unfold aCandidate
  rw [encAn_op, encAn_kHi, k]
  exact congrArg (fun r => Except.ok (Instr.nbAmoAdd r)) (decAn_enc _ r)
theorem ReadBack.nbAmoAnd (r : An) : ReadBack.Statement (.nbAmoAnd r) := by
  intro h
  have k : kHi r.k = 1 := by
    have h' : (kHi r.k == 1 && r.d == 0) = true := h
    simp only [Bool.and_eq_true, beq_iff_eq] at h'
    exact h'.1
  change aCandidate (encAn 0x2c r) = _
  unfold aCandidate
  rw [encAn_op, encAn_kHi, k]
  exact congrArg (fun r => Except.ok (Instr.nbAmoAnd r)) (decAn_enc _ r)
theorem ReadBack.nbAmoOr (r : An) : ReadBack.Statement (.nbAmoOr r) := by
  intro h
  have k : kHi r.k = 2 := by
    have h' : (kHi r.k == 2 && r.d == 0) = true := h
    simp only [Bool.and_eq_true, beq_iff_eq] at h'
    exact h'.1
  change aCandidate (encAn 0x2c r) = _
  unfold aCandidate
  rw [encAn_op, encAn_kHi, k]
  exact congrArg (fun r => Except.ok (Instr.nbAmoOr r)) (decAn_enc _ r)
theorem ReadBack.nbAmoXor (r : An) : ReadBack.Statement (.nbAmoXor r) := by
  intro h
  have k : kHi r.k = 3 := by
    have h' : (kHi r.k == 3 && r.d == 0) = true := h
    simp only [Bool.and_eq_true, beq_iff_eq] at h'
    exact h'.1
  change aCandidate (encAn 0x2c r) = _
  unfold aCandidate
  rw [encAn_op, encAn_kHi, k]
  exact congrArg (fun r => Except.ok (Instr.nbAmoXor r)) (decAn_enc _ r)
theorem ReadBack.nbAmoMin (r : An) : ReadBack.Statement (.nbAmoMin r) := by
  intro h
  have k : kHi r.k = 4 := by
    have h' : (kHi r.k == 4 && r.d == 0) = true := h
    simp only [Bool.and_eq_true, beq_iff_eq] at h'
    exact h'.1
  change aCandidate (encAn 0x2c r) = _
  unfold aCandidate
  rw [encAn_op, encAn_kHi, k]
  exact congrArg (fun r => Except.ok (Instr.nbAmoMin r)) (decAn_enc _ r)
theorem ReadBack.nbAmoMax (r : An) : ReadBack.Statement (.nbAmoMax r) := by
  intro h
  have k : kHi r.k = 5 := by
    have h' : (kHi r.k == 5 && r.d == 0) = true := h
    simp only [Bool.and_eq_true, beq_iff_eq] at h'
    exact h'.1
  change aCandidate (encAn 0x2c r) = _
  unfold aCandidate
  rw [encAn_op, encAn_kHi, k]
  exact congrArg (fun r => Except.ok (Instr.nbAmoMax r)) (decAn_enc _ r)
theorem ReadBack.nbAmoFadd (r : An) : ReadBack.Statement (.nbAmoFadd r) := by
  intro h
  have k : kHi r.k = 6 := by
    have h' : (kHi r.k == 6 && r.d == 0) = true := h
    simp only [Bool.and_eq_true, beq_iff_eq] at h'
    exact h'.1
  change aCandidate (encAn 0x2c r) = _
  unfold aCandidate
  rw [encAn_op, encAn_kHi, k]
  exact congrArg (fun r => Except.ok (Instr.nbAmoFadd r)) (decAn_enc _ r)
theorem ReadBack.nbAmoFmax (r : An) : ReadBack.Statement (.nbAmoFmax r) := by
  intro h
  have k : kHi r.k = 7 := by
    have h' : (kHi r.k == 7 && r.d == 0) = true := h
    simp only [Bool.and_eq_true, beq_iff_eq] at h'
    exact h'.1
  change aCandidate (encAn 0x2c r) = _
  unfold aCandidate
  rw [encAn_op, encAn_kHi, k]
  exact congrArg (fun r => Except.ok (Instr.nbAmoFmax r)) (decAn_enc _ r)
theorem ReadBack.nbFence (r : An) : ReadBack.Statement (.nbFence r) := by
  intro _
  change aCandidate (encAn 0x2d r) = _
  unfold aCandidate
  rw [encAn_op]
  exact congrArg (fun r => Except.ok (Instr.nbFence r)) (decAn_enc _ r)
theorem ReadBack.nbStat (r : An) : ReadBack.Statement (.nbStat r) := by
  intro _
  change aCandidate (encAn 0x2e r) = _
  unfold aCandidate
  rw [encAn_op]
  exact congrArg (fun r => Except.ok (Instr.nbStat r)) (decAn_enc _ r)
theorem ReadBack.nbProg (r : An) : ReadBack.Statement (.nbProg r) := by
  intro _
  change aCandidate (encAn 0x2f r) = _
  unfold aCandidate
  rw [encAn_op]
  exact congrArg (fun r => Except.ok (Instr.nbProg r)) (decAn_enc _ r)
theorem ReadBack.collAllReduceSum (r : An) : ReadBack.Statement (.collAllReduceSum r) := by
  intro h
  have k : kLo r.k = 0 := by
    have h' : (kLo r.k == 0 && collRedType r.k) = true := h
    simp only [Bool.and_eq_true, beq_iff_eq] at h'
    exact h'.1
  change aCandidate (encAn 0x30 r) = _
  unfold aCandidate
  rw [encAn_op, encAn_kLo, k]
  exact congrArg (fun r => Except.ok (Instr.collAllReduceSum r)) (decAn_enc _ r)
theorem ReadBack.collAllReduceMax (r : An) : ReadBack.Statement (.collAllReduceMax r) := by
  intro h
  have k : kLo r.k = 1 := by
    have h' : (kLo r.k == 1 && collRedType r.k) = true := h
    simp only [Bool.and_eq_true, beq_iff_eq] at h'
    exact h'.1
  change aCandidate (encAn 0x30 r) = _
  unfold aCandidate
  rw [encAn_op, encAn_kLo, k]
  exact congrArg (fun r => Except.ok (Instr.collAllReduceMax r)) (decAn_enc _ r)
theorem ReadBack.collAllReduceMin (r : An) : ReadBack.Statement (.collAllReduceMin r) := by
  intro h
  have k : kLo r.k = 2 := by
    have h' : (kLo r.k == 2 && collRedType r.k) = true := h
    simp only [Bool.and_eq_true, beq_iff_eq] at h'
    exact h'.1
  change aCandidate (encAn 0x30 r) = _
  unfold aCandidate
  rw [encAn_op, encAn_kLo, k]
  exact congrArg (fun r => Except.ok (Instr.collAllReduceMin r)) (decAn_enc _ r)
theorem ReadBack.collReduceScatterSum (r : An) : ReadBack.Statement (.collReduceScatterSum r) := by
  intro h
  have k : kLo r.k = 3 := by
    have h' : (kLo r.k == 3 && collRedType r.k) = true := h
    simp only [Bool.and_eq_true, beq_iff_eq] at h'
    exact h'.1
  change aCandidate (encAn 0x30 r) = _
  unfold aCandidate
  rw [encAn_op, encAn_kLo, k]
  exact congrArg (fun r => Except.ok (Instr.collReduceScatterSum r)) (decAn_enc _ r)
theorem ReadBack.collAllGather (r : An) : ReadBack.Statement (.collAllGather r) := by
  intro h
  have k : kLo r.k = 4 := by
    have h' : (kLo r.k == 4 && collAnyType r.k) = true := h
    simp only [Bool.and_eq_true, beq_iff_eq] at h'
    exact h'.1
  change aCandidate (encAn 0x30 r) = _
  unfold aCandidate
  rw [encAn_op, encAn_kLo, k]
  exact congrArg (fun r => Except.ok (Instr.collAllGather r)) (decAn_enc _ r)
theorem ReadBack.collBroadcast (r : An) : ReadBack.Statement (.collBroadcast r) := by
  intro h
  have k : kLo r.k = 5 := by
    have h' : (kLo r.k == 5 && collAnyType r.k) = true := h
    simp only [Bool.and_eq_true, beq_iff_eq] at h'
    exact h'.1
  change aCandidate (encAn 0x30 r) = _
  unfold aCandidate
  rw [encAn_op, encAn_kLo, k]
  exact congrArg (fun r => Except.ok (Instr.collBroadcast r)) (decAn_enc _ r)
theorem ReadBack.collAbort (r : An) : ReadBack.Statement (.collAbort r) := by
  intro _
  change aCandidate (encAn 0x31 r) = _
  unfold aCandidate
  rw [encAn_op]
  exact congrArg (fun r => Except.ok (Instr.collAbort r)) (decAn_enc _ r)
theorem ReadBack.collAtt (r : An) : ReadBack.Statement (.collAtt r) := by
  intro _
  change aCandidate (encAn 0x32 r) = _
  unfold aCandidate
  rw [encAn_op]
  exact congrArg (fun r => Except.ok (Instr.collAtt r)) (decAn_enc _ r)
theorem ReadBack.pf (r : Am) : ReadBack.Statement (.pf r) := by
  intro _
  change aCandidate (encAm 0x34 r) = _
  unfold aCandidate
  rw [encAm_op]
  exact congrArg (fun r => Except.ok (Instr.pf r)) (decAm_enc _ r)
theorem ReadBack.aPause (r : Ai) : ReadBack.Statement (.aPause r) := by
  intro _
  change aCandidate (encAi 0x35 r) = _
  unfold aCandidate
  rw [encAi_op]
  exact congrArg (fun r => Except.ok (Instr.aPause r)) (decAi_enc _ r)
theorem ReadBack.nbuEnd : ReadBack.Statement (.nbuEnd) := fun _ => rfl
theorem ReadBack.nbuLdx (d : Bool) : ReadBack.Statement (.nbuLdx d) := by cases d <;> exact fun _ => rfl
theorem ReadBack.nbuLdy (d : Bool) : ReadBack.Statement (.nbuLdy d) := by cases d <;> exact fun _ => rfl
theorem ReadBack.nbuSty (s : Bool) : ReadBack.Statement (.nbuSty s) := by cases s <;> exact fun _ => rfl
theorem ReadBack.nbuAdd (d : Bool) (s : Bool) : ReadBack.Statement (.nbuAdd d s) := by cases d <;> cases s <;> exact fun _ => rfl
theorem ReadBack.nbuMul (d : Bool) (s : Bool) : ReadBack.Statement (.nbuMul d s) := by cases d <;> cases s <;> exact fun _ => rfl
theorem ReadBack.nbuMax (d : Bool) (s : Bool) : ReadBack.Statement (.nbuMax d s) := by cases d <;> cases s <;> exact fun _ => rfl
theorem ReadBack.nbuScl (d : Bool) : ReadBack.Statement (.nbuScl d) := by cases d <;> exact fun _ => rfl
theorem ReadBack.nbuFill (d : Bool) : ReadBack.Statement (.nbuFill d) := by cases d <;> exact fun _ => rfl
theorem ReadBack.nbuFma (d : Bool) (s : Bool) : ReadBack.Statement (.nbuFma d s) := by cases d <;> cases s <;> exact fun _ => rfl
theorem ReadBack.nbuAccy (s : Bool) : ReadBack.Statement (.nbuAccy s) := by cases s <;> exact fun _ => rfl
theorem ReadBack.nbuAxpy (s : Bool) : ReadBack.Statement (.nbuAxpy s) := by cases s <;> exact fun _ => rfl
theorem ReadBack.resultLand (slot : Nat) : ReadBack.Statement (.resultLand slot) := fun _ => trivial
theorem ReadBack.loadCommit : ReadBack.Statement (.loadCommit) := fun _ => trivial
theorem ReadBack.globalAccessComplete (answer : Answer) : ReadBack.Statement (.globalAccessComplete answer) := fun _ => trivial
theorem ReadBack.aAmoComplete : ReadBack.Statement (.aAmoComplete) := fun _ => trivial
theorem ReadBack.queueWordProceed (aStream : Bool) : ReadBack.Statement (.queueWordProceed aStream) := fun _ => trivial
theorem ReadBack.vectorCommandStart : ReadBack.Statement (.vectorCommandStart) := fun _ => trivial
theorem ReadBack.vectorCommandComplete : ReadBack.Statement (.vectorCommandComplete) := fun _ => trivial
theorem ReadBack.matrixCommandStart : ReadBack.Statement (.matrixCommandStart) := fun _ => trivial
theorem ReadBack.matrixGranuleEnd (twin : Twin) : ReadBack.Statement (.matrixGranuleEnd twin) := fun _ => trivial
theorem ReadBack.matrixCommandComplete : ReadBack.Statement (.matrixCommandComplete) := fun _ => trivial
theorem ReadBack.engineSegment (cmd seg : Nat) : ReadBack.Statement (.engineSegment cmd seg) := fun _ => trivial
theorem ReadBack.fixupReplay (cmd ent : Nat) : ReadBack.Statement (.fixupReplay cmd ent) := fun _ => trivial
theorem ReadBack.fixupFail (cmd ent : Nat) : ReadBack.Statement (.fixupFail cmd ent) := fun _ => trivial
theorem ReadBack.engineCommandComplete (cmd : Nat) : ReadBack.Statement (.engineCommandComplete cmd) := fun _ => trivial
theorem ReadBack.nbItemForward (cmd : Nat) : ReadBack.Statement (.nbItemForward cmd) := fun _ => trivial
theorem ReadBack.nbRowStep (bank : Nat) : ReadBack.Statement (.nbRowStep bank) := fun _ => trivial
theorem ReadBack.nbSuspend (bank : Nat) : ReadBack.Statement (.nbSuspend bank) := fun _ => trivial
theorem ReadBack.nbResume (bank : Nat) : ReadBack.Statement (.nbResume bank) := fun _ => trivial
theorem ReadBack.nbInvalidationDone (cmd : Nat) : ReadBack.Statement (.nbInvalidationDone cmd) := fun _ => trivial
theorem ReadBack.bankRequestIssue (bank : Nat) : ReadBack.Statement (.bankRequestIssue bank) := fun _ => trivial
theorem ReadBack.skintExpiry (stack : Nat) : ReadBack.Statement (.skintExpiry stack) := fun _ => trivial
theorem ReadBack.mscFilterClear (slice : Nat) : ReadBack.Statement (.mscFilterClear slice) := fun _ => trivial
theorem ReadBack.leaveAccept (slot : Nat) : ReadBack.Statement (.leaveAccept slot) := fun _ => trivial
theorem ReadBack.preemption (slot : Nat) : ReadBack.Statement (.preemption slot) := fun _ => trivial
theorem ReadBack.frameSave (slot : Nat) : ReadBack.Statement (.frameSave slot) := fun _ => trivial
theorem ReadBack.placement (slot origin : Nat) : ReadBack.Statement (.placement slot origin) := fun _ => trivial
theorem ReadBack.swapOut (slot : Nat) : ReadBack.Statement (.swapOut slot) := fun _ => trivial
theorem ReadBack.swapIn (slot : Nat) : ReadBack.Statement (.swapIn slot) := fun _ => trivial
theorem ReadBack.bankReclaim (slot pos : Nat) : ReadBack.Statement (.bankReclaim slot pos) := fun _ => trivial
theorem ReadBack.quantumExpiry (slot : Nat) : ReadBack.Statement (.quantumExpiry slot) := fun _ => trivial
theorem ReadBack.contextReady (slot : Nat) : ReadBack.Statement (.contextReady slot) := fun _ => trivial
theorem ReadBack.wakeTimerExpiry (slot : Nat) : ReadBack.Statement (.wakeTimerExpiry slot) := fun _ => trivial
theorem ReadBack.controlNodeEval (node : Nat) : ReadBack.Statement (.controlNodeEval node) := fun _ => trivial
theorem ReadBack.demotionStart (kvpn : Nat) : ReadBack.Statement (.demotionStart kvpn) := fun _ => trivial
theorem ReadBack.promotionStart (kvpn : Nat) : ReadBack.Statement (.promotionStart kvpn) := fun _ => trivial
theorem ReadBack.moveInstall (kvpn : Nat) : ReadBack.Statement (.moveInstall kvpn) := fun _ => trivial
theorem ReadBack.oldLocationRelease (fence : Nat) : ReadBack.Statement (.oldLocationRelease fence) := fun _ => trivial
theorem ReadBack.directoryLeaseExpiry (die kvpn : Nat) : ReadBack.Statement (.directoryLeaseExpiry die kvpn) := fun _ => trivial
theorem ReadBack.frameArrival (port : Nat) (frame : Frame) : ReadBack.Statement (.frameArrival port frame) := fun _ => trivial
theorem ReadBack.ptpLock (now : Nat) : ReadBack.Statement (.ptpLock now) := fun _ => trivial
theorem ReadBack.ptpLockLoss : ReadBack.Statement (.ptpLockLoss) := fun _ => trivial
theorem ReadBack.hostWrite (addr : Nat) (bytes : List Byte) : ReadBack.Statement (.hostWrite addr bytes) := fun _ => trivial
theorem ReadBack.hostRead (addr n : Nat) : ReadBack.Statement (.hostRead addr n) := fun _ => trivial
theorem ReadBack.raddr (dom : Nat) (value : BitVec 64) : ReadBack.Statement (.raddr dom value) := fun _ => trivial
theorem ReadBack.hostLaunchArm (dom : Nat) : ReadBack.Statement (.hostLaunchArm dom) := fun _ => trivial
theorem ReadBack.setPin (dom kvpn : Nat) : ReadBack.Statement (.setPin dom kvpn) := fun _ => trivial
theorem ReadBack.clearPin (dom kvpn : Nat) : ReadBack.Statement (.clearPin dom kvpn) := fun _ => trivial
theorem ReadBack.setPref (dom kvpn : Nat) (pref : BitVec 2) : ReadBack.Statement (.setPref dom kvpn pref) := fun _ => trivial
theorem ReadBack.freePage (dom kvpn : Nat) : ReadBack.Statement (.freePage dom kvpn) := fun _ => trivial
theorem ReadBack.moveToStoreTier (dom kvpn : Nat) (loc : BitVec 36) : ReadBack.Statement (.moveToStoreTier dom kvpn loc) := fun _ => trivial
theorem ReadBack.pstate (target : BitVec 2) : ReadBack.Statement (.pstate target) := fun _ => trivial
theorem ReadBack.monitorClear (dom index : Nat) : ReadBack.Statement (.monitorClear dom index) := fun _ => trivial
theorem ReadBack.monitorInterval (dom index sample : Nat) : ReadBack.Statement (.monitorInterval dom index sample) := fun _ => trivial
theorem ReadBack.flowEntryWrite (port index : Nat) (entry : BitVec 256) : ReadBack.Statement (.flowEntryWrite port index entry) := fun _ => trivial
theorem ReadBack.flashRecoveryWrite (record : FlashRecord) : ReadBack.Statement (.flashRecoveryWrite record) := fun _ => trivial
theorem ReadBack.registerWrite (offset : Nat) (value : BitVec 64) : ReadBack.Statement (.registerWrite offset value) := fun _ => trivial
theorem ReadBack.attestationRequest (nonce : BitVec 256) : ReadBack.Statement (.attestationRequest nonce) := fun _ => trivial
theorem ReadBack.checkpointRequest (base : Nat) : ReadBack.Statement (.checkpointRequest base) := fun _ => trivial
theorem ReadBack.checkpointRestore (base : Nat) : ReadBack.Statement (.checkpointRestore base) := fun _ => trivial
theorem ReadBack.remoteRequest (src : Nat) (req : RemoteReq) : ReadBack.Statement (.remoteRequest src req) := fun _ => trivial
theorem ReadBack.ramoRequest (src : Nat) (req : RamoReq) : ReadBack.Statement (.ramoRequest src req) := fun _ => trivial
theorem ReadBack.ramoResponse (req : Nat) (answer : RamoAnswer) : ReadBack.Statement (.ramoResponse req answer) := fun _ => trivial
theorem ReadBack.ramoRetryTimeout (req : Nat) : ReadBack.Statement (.ramoRetryTimeout req) := fun _ => trivial
theorem ReadBack.busyRetryTimer (req : Nat) : ReadBack.Statement (.busyRetryTimer req) := fun _ => trivial
theorem ReadBack.dedupRecordExpiry (ent : Nat) : ReadBack.Statement (.dedupRecordExpiry ent) := fun _ => trivial
theorem ReadBack.poolLinkTimeout (port : Nat) : ReadBack.Statement (.poolLinkTimeout port) := fun _ => trivial
theorem ReadBack.contributionToken (cmd rank attempt : Nat) (data : List CodedWord) : ReadBack.Statement (.contributionToken cmd rank attempt data) := fun _ => trivial
theorem ReadBack.closeToken (cmd attempt : Nat) : ReadBack.Statement (.closeToken cmd attempt) := fun _ => trivial
theorem ReadBack.abortToken (group attempt : Nat) : ReadBack.Statement (.abortToken group attempt) := fun _ => trivial
theorem ReadBack.colltoExpiry (cmd : Nat) : ReadBack.Statement (.colltoExpiry cmd) := fun _ => trivial
theorem ReadBack.patrolScrub (word : Nat) : ReadBack.Statement (.patrolScrub word) := fun _ => trivial
theorem ReadBack.directedScrub : ReadBack.Statement (.directedScrub) := fun _ => trivial
theorem ReadBack.scrubWriteBack (word : Nat) : ReadBack.Statement (.scrubWriteBack word) := fun _ => trivial
theorem ReadBack.windowReplay (engine : LaneEngine) : ReadBack.Statement (.windowReplay engine) := fun _ => trivial
theorem ReadBack.checkerMismatch (aStream second : Bool) : ReadBack.Statement (.checkerMismatch aStream second) := fun _ => trivial
theorem ReadBack.watchdogFiring (what : Watchdog) (second : Bool) : ReadBack.Statement (.watchdogFiring what second) := fun _ => trivial
theorem ReadBack.thermalThrottle : ReadBack.Statement (.thermalThrottle) := fun _ => trivial
theorem ReadBack.thermalRecover : ReadBack.Statement (.thermalRecover) := fun _ => trivial
theorem ReadBack.thermalShutdown : ReadBack.Statement (.thermalShutdown) := fun _ => trivial
theorem ReadBack.powerOnReset (boot : Boot) : ReadBack.Statement (.powerOnReset boot) := fun _ => trivial
theorem ReadBack.linkDown (port : Nat) : ReadBack.Statement (.linkDown port) := fun _ => trivial
theorem ReadBack.linkRetrain (port : Nat) : ReadBack.Statement (.linkRetrain port) := fun _ => trivial
theorem ReadBack.refresh (bank : Nat) : ReadBack.Statement (.refresh bank) := fun _ => trivial

end Sys2Proof.Laws
end

