-- ==== Sys2Proof/Laws/Decoding.lean ====
section
/-! SUPPORT. What the decoders answer: an instruction they accept has the word as its encoding and is well-formed, and a
well-formed instruction's words are accepted. -/

namespace Sys2Proof.Laws

/-- The link words that a decoded instruction takes besides its first. -/
def linksOf (i : Instr) (following : List (BitVec 64)) : List (BitVec 64) :=
  match i with
  | .vchain r => following.take r.links.length
  | _ => []

theorem decodeX_ok {w : BitVec 64} {ws : List (BitVec 64)} {i : Instr} (h : decodeX w ws = .ok i) :
    xCandidate w ws = .ok i ∧ wellFormed i = true ∧ encode i = .xWords (w :: linksOf i ws) := by
  unfold decodeX at h
  cases hc : xCandidate w ws with
  | error e => rw [hc] at h; cases h
  | ok j =>
    rw [hc] at h
    change (if encode j = .xWords (w :: linksOf j ws) then (if wellFormed j = true then _ else _) else _) = _ at h
    by_cases he : encode j = .xWords (w :: linksOf j ws)
    · rw [if_pos he] at h
      by_cases hw : wellFormed j = true
      · rw [if_pos hw] at h
        cases h
        exact ⟨rfl, hw, he⟩
      · rw [if_neg hw] at h
        cases h
    · rw [if_neg he] at h
      cases h

theorem decodeX_of {w : BitVec 64} {ws : List (BitVec 64)} {i : Instr} (hc : xCandidate w ws = .ok i)
    (hw : wellFormed i = true) (he : encode i = .xWords (w :: linksOf i ws)) : decodeX w ws = .ok i := by
  unfold decodeX
  rw [hc]
  change (if encode i = .xWords (w :: linksOf i ws) then (if wellFormed i = true then _ else _) else _) = _
  rw [if_pos he, if_pos hw]

theorem decodeA_ok {w : BitVec 32} {i : Instr} (h : decodeA w = .ok i) :
    aCandidate w = .ok i ∧ wellFormed i = true ∧ encode i = .aWord w := by
  unfold decodeA at h
  cases hc : aCandidate w with
  | error e => rw [hc] at h; cases h
  | ok j =>
    rw [hc] at h
    change (if encode j = .aWord w ∧ wellFormed j = true then _ else _) = _ at h
    by_cases he : encode j = .aWord w ∧ wellFormed j = true
    · rw [if_pos he] at h
      cases h
      exact ⟨rfl, he.2, he.1⟩
    · rw [if_neg he] at h
      cases h

theorem decodeA_of {w : BitVec 32} {i : Instr} (hc : aCandidate w = .ok i) (hw : wellFormed i = true)
    (he : encode i = .aWord w) : decodeA w = .ok i := by
  unfold decodeA
  rw [hc]
  exact if_pos ⟨he, hw⟩

theorem decodeMicro_ok {w : BitVec 16} {i : Instr} (h : decodeMicro w = .ok i) : nbuCandidate w = .ok i ∧ encode i = .micro w := by
  unfold decodeMicro at h
  cases hc : nbuCandidate w with
  | error e => rw [hc] at h; cases h
  | ok j =>
    rw [hc] at h
    change (if encode j = .micro w then _ else _) = _ at h
    by_cases he : encode j = .micro w
    · rw [if_pos he] at h
      cases h
      exact ⟨rfl, he⟩
    · rw [if_neg he] at h
      cases h

theorem decodeMicro_of {w : BitVec 16} {i : Instr} (hc : nbuCandidate w = .ok i) (he : encode i = .micro w) :
    decodeMicro w = .ok i := by
  unfold decodeMicro
  rw [hc]
  exact if_pos he

/-! ### Bytes -/

theorem leBytes_length (n v : Nat) : (leBytes n v).length = n := by
  induction n generalizing v with
  | zero => rfl
  | succ n ih => simp [leBytes, ih]

theorem leNat_leBytes (n v : Nat) : leNat (leBytes n v) = v % 2 ^ (8 * n) := by
  induction n generalizing v with
  | zero => simp [leBytes, leNat, Nat.mod_one]
  | succ n ih =>
    rw [leBytes, leNat, ih, BitVec.toNat_ofNat, Nat.mul_add, Nat.pow_add, Nat.mul_comm (2 ^ (8 * n)) (2 ^ (8 * 1)), Nat.mod_mul]

/-- A number of `8 n` bits reads back from its bytes, whatever follows them. -/
theorem ofNat_leBytes {m n : Nat} (hm : m = 8 * n) (w : BitVec m) (rest : List Byte) :
    BitVec.ofNat m (leNat ((leBytes n w.toNat ++ rest).take n)) = w := by
  subst hm
  rw [List.take_append_of_le_length (Nat.le_of_eq (leBytes_length n _).symm),
    List.take_of_length_le (Nat.le_of_eq (leBytes_length n _)), leNat_leBytes, Nat.mod_eq_of_lt w.isLt, BitVec.ofNat_toNat,
    BitVec.setWidth_eq]

theorem drop_leBytes (n v : Nat) (rest : List Byte) : (leBytes n v ++ rest).drop n = rest := by
  rw [List.drop_append_of_le_length (Nat.le_of_eq (leBytes_length n v).symm), List.drop_of_length_le (Nat.le_of_eq (leBytes_length n v)),
    List.nil_append]

/-- Words laid out as bytes are cut into the same words, as many as are asked for. -/
theorem wordsOf_flat (ws : List (BitVec 64)) (rest : List Byte) (n : Nat) (h : ws.length ≤ n) :
    ∃ more, wordsOf n (ws.flatMap (fun w => leBytes 8 w.toNat) ++ rest) = ws ++ more := by
  induction ws generalizing n with
  | nil => exact ⟨_, rfl⟩
  | cons w r ih =>
    obtain ⟨k, rfl⟩ : ∃ k, n = k + 1 := ⟨n - 1, by simp only [List.length_cons] at h; omega⟩
    obtain ⟨more, hm⟩ := ih k (by simp only [List.length_cons] at h; omega)
    refine ⟨more, ?_⟩
    rw [List.flatMap_cons, List.append_assoc, wordsOf, if_pos (by rw [List.length_append, leBytes_length]; omega),
      ofNat_leBytes (by decide), drop_leBytes, hm, List.cons_append]

end Sys2Proof.Laws
end

