-- ==== Sys2Proof/Laws/Settings.lean ====
section
/-! SUPPORT. Settings of the signed records: what leaves them, in words, outcomes and folds. -/

open Sys2Proof.Machine

namespace Sys2Proof.Laws

/-- Only these fields of a state hold its settings. -/
@[simp] theorem settings_mk (s : State) (n_core : Core) (n_here n_orders n_nextId n_patrol n_step n_apbase n_ptp n_cycle
      n_bankHere n_tick : Nat) (n_cores : Table Core) (n_stores : Table Store) (n_bound n_instars n_openRow n_paced
      n_flowSeq n_portDrops n_down : Table Nat) (n_ctxs : Table Ctx) (n_links : List Link) (n_mem : Memory) (n_tlb : Table (List Tlb)) (n_cmds : List
      EngCmd) (n_units : Table NbUnit) (n_reqs : Table (List BankReq)) (n_hbm : Table Stack) (n_dir : Table Word)
      (n_leases : List DirLease) (n_moves n_moveQueue : List Move) (n_fences : List Fence) (n_homes : Table Home) (n_groups : List
      CollGroup) (n_ramos : List RamoOut) (n_dedup : List Dedup) (n_flows : Table (BitVec 256)) (n_scrubTags : Table
      (CWord × Bool)) (n_directed n_withdrawn : List Nat) (n_pkgRing : Ring) (n_pkgMonitors : Table Monitor) (n_flash :
      List FlashRecord) (n_attests : List Attest) (n_plog : List (BitVec 256)) (n_reply : Option Reply) (n_images : Table
      Image) (n_quiesced n_recovery n_hot n_shut n_synced n_locked n_again : Bool) (n_pAsked n_pNow : BitVec 2) (n_agenda
      : List Turn) :
    (State.mk n_core n_here n_cores n_stores n_bound n_ctxs n_instars n_orders n_links n_mem n_tlb n_cmds n_nextId n_units
      n_reqs n_openRow n_hbm n_dir n_leases n_moves n_moveQueue n_fences n_homes n_paced s.doms s.pkg s.lease s.res s.ports n_groups
      n_ramos n_dedup n_flows n_flowSeq n_portDrops n_down n_scrubTags n_directed n_patrol n_pkgRing n_pkgMonitors
      n_withdrawn n_flash s.flashFw s.fwDigest s.counters n_attests s.inUse n_plog n_reply n_images n_quiesced n_step n_recovery
      s.ready n_apbase n_pAsked n_pNow n_hot n_shut n_synced n_locked n_ptp n_cycle n_bankHere n_again n_tick
      n_agenda).settings = s.settings := rfl

theorem moves_settings (s : State) (ms : List Move) : ({ s with moves := ms } : State).settings = s.settings := rfl

theorem map_tset {α β : Type} (g : α → β) (t : Table α) (k : Nat) (v : α) :
    (tset t k v).map (fun d => (d.1, g d.2)) = tset (t.map (fun d => (d.1, g d.2))) k (g v) := by
  induction t with
  | nil => rfl
  | cons a r ih =>
    simp only [tset, List.map_cons]
    split
    · rfl
    · split
      · rfl
      · simp only [List.map_cons, ih]

theorem map_tget {α β : Type} (g : α → β) (t : Table α) (k : Nat) :
    tget (t.map (fun d => (d.1, g d.2))) k = (tget t k).map g := by
  induction t with
  | nil => rfl
  | cons a r ih =>
    simp only [tget, List.map_cons]
    split
    · rfl
    · split
      · rfl
      · exact ih

/-- Setting what a table holds already changes nothing. -/
theorem tset_self {α : Type} {t : Table α} {k : Nat} {v : α} (h : tget t k = some v) : tset t k v = t := by
  induction t with
  | nil => cases h
  | cons a r ih =>
    obtain ⟨j, u⟩ := a
    simp only [tget] at h
    simp only [tset]
    split at h
    · rename_i e
      cases h
      rw [if_pos e, beq_iff_eq.mp e]
    · rename_i e
      rw [if_neg e]
      split at h
      · cases h
      · rename_i e2
        rw [if_neg e2, ih h]

/-- The dies and the scheduler's parameters of a domain: what of it belongs to the settings. -/
def domSettings (x : Dom) : BitVec 4 × SchedCfg := (x.dies, x.sched)

theorem dom_of_settings {s t : State} (h : t.settings = s.settings) (d : Nat) : (t.dom d).map domSettings = (s.dom d).map domSettings :=
  (map_tget domSettings t.doms d).symm.trans ((congrArg (fun c => tget c.domains d) h).trans (map_tget domSettings s.doms d))

/-- A domain rewritten with its dies and its scheduler's parameters leaves the settings. -/
theorem setDom_settings_of {s : State} {d : Nat} {y : Dom} (h : (s.dom d).map domSettings = some (domSettings y)) :
    (s.setDom d y).settings = s.settings := by
  have k : (tset s.doms d y).map (fun d => (d.1, domSettings d.2)) = s.doms.map (fun d => (d.1, domSettings d.2)) := by
    rw [map_tset domSettings, tset_self]
    rw [map_tget domSettings]
    exact h
  show Settings.mk s.inUse s.counters s.flashFw s.fwDigest s.ready s.pkg s.lease s.res s.ports ((tset s.doms d y).map (fun d => (d.1, domSettings d.2))) = _
  rw [k]
  rfl

theorem setDom_settings {s : State} {d : Nat} {x y : Dom} (h : s.dom d = some x) (e : domSettings y = domSettings x) :
    (s.setDom d y).settings = s.settings := setDom_settings_of (by rw [h, e]; rfl)

/-- A word's end that leaves the settings `c`. -/
def EndKeeps (c : Settings) : WordEnd → Prop
  | .done t => t.settings = c
  | .jump t _ => t.settings = c
  | .wait t => t.settings = c
  | _ => True

@[simp] theorem endKeeps_done {c : Settings} {t : State} : EndKeeps c (.done t) = (t.settings = c) := rfl

@[simp] theorem endKeeps_jump {c : Settings} {t : State} {p : Word} : EndKeeps c (.jump t p) = (t.settings = c) := rfl

@[simp] theorem endKeeps_wait {c : Settings} {t : State} : EndKeeps c (.wait t) = (t.settings = c) := rfl

@[simp] theorem endKeeps_trap {c : Settings} {t : Nat} {p : Word} : EndKeeps c (.trap t p) = True := rfl

@[simp] theorem endKeeps_leave {c : Settings} {k : AskKind} {p : Word} {q : BitVec 32} : EndKeeps c (.leave k p q) = True := rfl

/-- An outcome that leaves the settings `c`. -/
def OutKeeps (c : Settings) : Out → Prop
  | .next t => t.settings = c
  | _ => True

@[simp] theorem ite_settings (p : Prop) [Decidable p] (a b : State) :
    (if p then a else b).settings = if p then a.settings else b.settings := apply_ite _ _ _ _

theorem foldl_settings {α : Type} {f : State → α → State} (h : ∀ s x, (f s x).settings = s.settings) (l : List α) (s : State) :
    (l.foldl f s).settings = s.settings := by
  induction l generalizing s with
  | nil => rfl
  | cons a r ih => exact (ih _).trans (h s a)

theorem foldl_pair_settings {α β : Type} {f : State × β → α → State × β} (h : ∀ s x, (f s x).1.settings = s.1.settings) (l : List α)
    (s : State × β) : (l.foldl f s).1.settings = s.1.settings := by
  induction l generalizing s with
  | nil => rfl
  | cons a r ih => exact (ih _).trans (h s a)

/-- An attempt followed by another comes through if both do. -/
theorem andThen_ok {α β : Type} {a : Attempt α} {f : α → Attempt β} {v : β} (h : a.andThen f = .ok v) : ∃ u, a = .ok u ∧ f u = .ok v := by
  cases a <;> first | exact ⟨_, rfl, h⟩ | cases h

end Sys2Proof.Laws
end

