-- ==== Sys2Proof/Laws/SettingsOps.lean ====
section
/-! SUPPORT. The shared operations leave the settings of the signed records. -/

open Sys2Proof.Machine

namespace Sys2Proof.Laws

@[simp] theorem setCtx_settings (s : State) (k : Nat) (c : Ctx) : (s.setCtx k c).settings = s.settings :=
  rfl

@[simp] theorem setCoreAt_settings (s : State) (i : Nat) (c : Core) : (s.setCoreAt i c).settings = s.settings := by
  unfold State.setCoreAt
  split <;> rfl

@[simp] theorem focus_settings (s : State) (i : Nat) : (s.focus i).settings = s.settings := by
  unfold State.focus
  split <;> rfl

@[simp] theorem setStore_settings (s : State) (key : Nat) (t : Store) : (s.setStore key t).settings = s.settings :=
  rfl

@[simp] theorem setOwn_settings (s : State) (t : Store) : (s.setOwn t).settings = s.settings :=
  rfl

@[simp] theorem count_settings (s : State) (d i n : Nat) : (s.count d i n).settings = s.settings := by
  unfold State.count
  split
  · rfl
  · split
    · rfl
    · rename_i x h
      exact setDom_settings h rfl

@[simp] theorem fixed_settings (s : State) (n : Nat) : (s.fixed n).settings = s.settings :=
  count_settings _ _ _ _

@[simp] theorem setX_settings (s : State) (d : Nat) (v : Word) : (s.setX d v).settings = s.settings := by
  unfold State.setX
  split <;> rfl

@[simp] theorem setRawX_settings (s : State) (d : Nat) (w : CWord) : (s.setRawX d w).settings = s.settings := by
  unfold State.setRawX
  split <;> rfl

@[simp] theorem putX_settings (s : State) (d : Nat) (v : Word) (lb : BitVec 3) (fl : BitVec 5) : (s.putX d v lb fl).settings = s.settings :=
  setX_settings _ _ _

@[simp] theorem putP_settings (s : State) (d : Nat) (v : Bool) (lb : BitVec 3) (fl : BitVec 5) : (s.putP d v lb fl).settings = s.settings := by
  unfold State.putP
  split <;> rfl

@[simp] theorem raiseLeave_settings (s : State) (aStream : Bool) (kind : AskKind) (data : Word) (tcode : BitVec 32) : (s.raiseLeave aStream kind data tcode).settings = s.settings := by
  unfold State.raiseLeave
  split <;> rfl

@[simp] theorem xDone_settings (s : State) (len : Nat) : (s.xDone len).settings = s.settings := by
  unfold State.xDone
  split <;> simp

@[simp] theorem xJump_settings (s : State) (pc : Word) : (s.xJump pc).settings = s.settings :=
  rfl

@[simp] theorem xWait_settings (s : State) : (s.xWait).settings = s.settings :=
  rfl

@[simp] theorem landDue_settings (s : State) : (s.landDue).settings = s.settings :=
  rfl

@[simp] theorem takeX_settings (s : State) (uses : List Nat) : (s.takeX uses).settings = s.settings :=
  fixed_settings _ _

@[simp] theorem xContained_settings (s : State) (z : BitVec 8) : (s.xContained z).settings = s.settings :=
  raiseLeave_settings _ _ _ _ _

theorem xEnd_settings {s : State} {len : Nat} {e : WordEnd} (h : EndKeeps s.settings e) : (s.xEnd len e).settings = s.settings := by
  unfold State.xEnd
  split
  · split
    · exact xContained_settings _ _
    · exact (xDone_settings _ _).trans h
  · exact (xJump_settings _ _).trans h
  · exact raiseLeave_settings _ _ _ _ _
  · split
    · exact xContained_settings _ _
    · exact raiseLeave_settings _ _ _ _ _
  · exact (xWait_settings _).trans h

theorem xWordN_settings {s : State} {len : Nat} {g : BitVec 7} {gn : Bool} {uses : List Nat} {f : State → WordEnd}
    (h : ∀ t : State, EndKeeps t.settings (f t)) : (s.xWordN len g gn uses f).settings = s.settings := by
  unfold State.xWordN
  dsimp only
  split
  · split
    · simp
    · split
      · simp
      · exact (xEnd_settings (h _)).trans (by simp)
  · exact (xEnd_settings (e := .done _) rfl).trans (landDue_settings s)

theorem xWord_settings {s : State} {g : BitVec 7} {gn : Bool} {uses : List Nat} {f : State → WordEnd}
    (h : ∀ t : State, EndKeeps t.settings (f t)) : (s.xWord g gn uses f).settings = s.settings := xWordN_settings h

theorem xPriv_settings {s : State} {g : BitVec 7} {gn : Bool} {uses : List Nat} {f : State → WordEnd}
    (h : ∀ t : State, EndKeeps t.settings (f t)) : (s.xPriv g gn uses f).settings = s.settings := by
  unfold State.xPriv
  split
  · exact xWord_settings h
  · simp

@[simp] theorem xIllegal_settings (s : State) : (s.xIllegal).settings = s.settings :=
  raiseLeave_settings _ _ _ _ _

@[simp] theorem setA_settings (s : State) (d : Nat) (v : Word) : (s.setA d v).settings = s.settings := by
  unfold State.setA
  split <;> rfl

@[simp] theorem aDone_settings (s : State) : (s.aDone).settings = s.settings :=
  rfl

theorem aEnd_settings {s : State} {e : WordEnd} (h : EndKeeps s.settings e) : (s.aEnd e).settings = s.settings := by
  cases e with
  | done t => exact (aDone_settings t).trans h
  | jump t pc => exact h
  | trap c d => exact raiseLeave_settings s _ _ _ _
  | leave k d c => exact raiseLeave_settings s _ _ _ _
  | wait t => exact h

theorem aWord_settings {s : State} {l f : Bool} {reads : List Nat} {commits : Bool} {fn : State → WordEnd}
    (h : ∀ t : State, EndKeeps t.settings (fn t)) : (s.aWord l f reads commits fn).settings = s.settings := by
  unfold State.aWord
  (repeat' split) <;> first | rfl | simp | exact aEnd_settings (h _)

@[simp] theorem aIllegal_settings (s : State) : (s.aIllegal).settings = s.settings :=
  raiseLeave_settings _ _ _ _ _

@[simp] theorem orFlags_settings (s : State) (aStream : Bool) (fl : Flags) : (s.orFlags aStream fl).settings = s.settings :=
  rfl

@[simp] theorem setDir_settings (s : State) (k : Nat) (e : Word) : (s.setDir k e).settings = s.settings :=
  rfl

@[simp] theorem clearScrub_settings (s : State) (pa n : Nat) : (s.clearScrub pa n).settings = s.settings := by
  unfold State.clearScrub
  split <;> rfl

@[simp] theorem physPut_settings (s : State) (pa : Nat) (ws : List CWord) : (s.physPut pa ws).settings = s.settings :=
  clearScrub_settings _ _ _

@[simp] theorem cbFilter_settings (s : State) (old : CWord) (pa : Nat) : (s.cbFilter old pa).settings = s.settings := by
  unfold State.cbFilter
  split <;> simp

@[simp] theorem cbFilters_settings (s : State) (old : Memory) (pa n : Nat) : (s.cbFilters old pa n).settings = s.settings := by
  unfold State.cbFilters
  split
  · exact foldl_settings (fun s x => by simp) _ _
  · rfl

theorem physStore_settings {s : State} {pa : Nat} {bs : List Byte} {v'} (h' : (s.physStore pa bs) = .ok v') : v'.settings = s.settings := by
  unfold State.physStore at h'
  (repeat' split at h') <;> first | (cases h'; done) | (cases h'; first | rfl | exact clearScrub_settings _ _ _ | exact cbFilters_settings _ _ _ _ | simp)

@[simp] theorem physSetWords_settings (s : State) (pa : Nat) (ws : List CWord) : (s.physSetWords pa ws).settings = s.settings := by
  unfold State.physSetWords
  simp

@[simp] theorem corrected_settings (s : State) (d a : Nat) : (s.corrected d a).settings = s.settings :=
  count_settings _ _ _ _

@[simp] theorem post_settings (s : State) (d : Nat) (m : Memory) (base a n : Nat) : (s.post d m base a n).settings = s.settings := by
  unfold State.post
  split
  · rfl
  · exact foldl_settings (fun s k => by split <;> simp) _ _

@[simp] theorem postMerge_settings (s : State) (d : Nat) (m : Memory) (base a n : Nat) : (s.postMerge d m base a n).settings = s.settings := by
  unfold State.postMerge
  split
  · rfl
  · exact foldl_settings (fun s x => by split <;> simp) _ _

@[simp] theorem postPhys_settings (s : State) (d pa n : Nat) : (s.postPhys d pa n).settings = s.settings :=
  post_settings _ _ _ _ _ _

@[simp] theorem postBank_settings (s : State) (d key b off n : Nat) : (s.postBank d key b off n).settings = s.settings :=
  post_settings _ _ _ _ _ _

@[simp] theorem mscAccess_settings (s : State) (pa : Nat) : (s.mscAccess pa).settings = s.settings := by
  unfold State.mscAccess
  simp only
  split <;> simp

@[simp] theorem noteLine_settings (s : State) (pa : Nat) : (s.noteLine pa).settings = s.settings := by
  unfold State.noteLine
  split <;> simp

@[simp] theorem note_settings (s : State) (pa n : Nat) : (s.note pa n).settings = s.settings :=
  foldl_settings noteLine_settings _ _

@[simp] theorem walked_settings (s : State) (d : Nat) (l : List WalkStep) : (s.walked d l).settings = s.settings :=
  foldl_settings (fun s x => by simp) _ _

@[simp] theorem tlbFill_settings (s : State) (w : Who) (va : Nat) (l : List WalkStep) : (s.tlbFill w va l).settings = s.settings := by
  unfold State.tlbFill
  split <;> rfl

@[simp] theorem resolve_settings (s : State) (w : Who) (va : Nat) : (s.resolve w va).1.settings = s.settings := by
  unfold State.resolve
  dsimp only
  split <;> simp

theorem resolve_settings' {s : State} {w : Who} {va : Nat} {t' r'} (h' : (s.resolve w va) = (t', r')) : t'.settings = s.settings := by
  have e := resolve_settings s w va
  rw [h'] at e
  exact e

@[simp] theorem translate_settings (s : State) (w : Who) (need : Need) (va : Nat) : (s.translate w need va).1.settings = s.settings :=
  resolve_settings _ _ _

theorem translate_settings' {s : State} {w : Who} {need : Need} {va : Nat} {t' r'} (h' : (s.translate w need va) = (t', r')) : t'.settings = s.settings := by
  have e := translate_settings s w need va
  rw [h'] at e
  exact e

@[simp] theorem translateAll_settings (s : State) (w : Who) (need : Need) (l : List (Nat × Nat)) : (s.translateAll w need l).1.settings = s.settings := by
  induction l generalizing s with
  | nil => rfl
  | cons a r ih =>
    obtain ⟨va, n⟩ := a
    unfold State.translateAll
    have ht := translate_settings s w need va
    rcases ht' : s.translate w need va with ⟨t, x⟩
    rw [ht'] at ht
    cases x with
    | ok pa ty =>
      simp only
      split
      · exact ht
      · exact ht
      · split
        · exact ht
        · have h2 := ih t
          rcases h2' : t.translateAll w need r with ⟨u, y⟩
          rw [h2'] at h2
          cases y <;> exact h2.trans ht
    | fault => exact ht
    | viol a => exact ht
    | data a => exact ht

theorem translateAll_settings' {s : State} {w : Who} {need : Need} {a3 : List (Nat × Nat)} {t' r'} (h' : (s.translateAll w need a3) = (t', r')) : t'.settings = s.settings := by
  have e := translateAll_settings s w need a3
  rw [h'] at e
  exact e

@[simp] theorem readPieces_settings (s : State) (d : Nat) (l : List (Nat × Nat × Nat)) : (s.readPieces d l).1.settings = s.settings := by
  induction l generalizing s with
  | nil => rfl
  | cons a r ih =>
    obtain ⟨pa, n, m⟩ := a
    unfold State.readPieces
    split
    · rfl
    · have h2 := ih ((s.note pa n).postPhys d pa n)
      rcases h2' : ((s.note pa n).postPhys d pa n).readPieces d r with ⟨u, y⟩
      rw [h2'] at h2
      cases y <;> exact h2.trans (by simp)

theorem readPieces_settings' {s : State} {d : Nat} {a2 : List (Nat × Nat × Nat)} {t' r'} (h' : (s.readPieces d a2) = (t', r')) : t'.settings = s.settings := by
  have e := readPieces_settings s d a2
  rw [h'] at e
  exact e

@[simp] theorem gRead_settings (s : State) (w : Who) (need : Need) (va n : Nat) : (s.gRead w need va n).1.settings = s.settings := by
  unfold State.gRead
  (repeat' split)
  all_goals (try have k0 := translateAll_settings' ‹_›)
  all_goals (try have k1 := readPieces_settings' ‹_›)
  all_goals first | trivial | rfl | assumption | simp only [translateAll_settings, readPieces_settings, *]

theorem gRead_settings' {s : State} {w : Who} {need : Need} {va n : Nat} {t' r'} (h' : (s.gRead w need va n) = (t', r')) : t'.settings = s.settings := by
  have e := gRead_settings s w need va n
  rw [h'] at e
  exact e

@[simp] theorem writePieces_settings (s : State) (d : Nat) (bs : List Byte) (l : List (Nat × Nat × Nat)) : (s.writePieces d bs l).1.settings = s.settings := by
  induction l generalizing s bs with
  | nil => rfl
  | cons a r ih =>
    obtain ⟨pa, n, m⟩ := a
    unfold State.writePieces
    split
    · rfl
    · rename_i t h
      exact (ih _ _).trans ((note_settings t pa n).trans ((physStore_settings h).trans (postMerge_settings _ _ _ _ _ _)))

theorem writePieces_settings' {s : State} {d : Nat} {bs : List Byte} {a3 : List (Nat × Nat × Nat)} {t' r'} (h' : (s.writePieces d bs a3) = (t', r')) : t'.settings = s.settings := by
  have e := writePieces_settings s d bs a3
  rw [h'] at e
  exact e

@[simp] theorem gWrite_settings (s : State) (w : Who) (va : Nat) (bs : List Byte) : (s.gWrite w va bs).1.settings = s.settings := by
  unfold State.gWrite
  repeat' split
  all_goals (try have k0 := translateAll_settings' ‹_›)
  all_goals (try have k1 := writePieces_settings' ‹_›)
  all_goals first | trivial | rfl | assumption | exact translateAll_settings _ _ _ _ | exact writePieces_settings _ _ _ _ | simp [*]

theorem gWrite_settings' {s : State} {w : Who} {va : Nat} {bs : List Byte} {t' r'} (h' : (s.gWrite w va bs) = (t', r')) : t'.settings = s.settings := by
  have e := gWrite_settings s w va bs
  rw [h'] at e
  exact e

@[simp] theorem gReadWords_settings (s : State) (w : Who) (va n : Nat) : (s.gReadWords w va n).1.settings = s.settings := by
  induction n generalizing s va with
  | zero => rfl
  | succ n ih =>
    unfold State.gReadWords
    have ht := translateAll_settings s w needR [(va, 8)]
    rcases ht' : s.translateAll w needR [(va, 8)] with ⟨t, x⟩
    rw [ht'] at ht
    cases x with
    | ok l =>
      dsimp only
      generalize hu : (if (l.head?.map (fun x => x.1)).getD 0 % 64 = 0 then t.note ((l.head?.map (fun x => x.1)).getD 0) 64 else t) = u
      have hu : u.settings = t.settings := by rw [← hu]; split <;> simp
      have h2 := ih u (va + 8)
      rcases h2' : u.gReadWords w (va + 8) n with ⟨u, y⟩
      rw [h2'] at h2
      cases y <;> exact h2.trans (hu.trans ht)
    | _ => exact ht

theorem gReadWords_settings' {s : State} {w : Who} {va a3 : Nat} {t' r'} (h' : (s.gReadWords w va a3) = (t', r')) : t'.settings = s.settings := by
  have e := gReadWords_settings s w va a3
  rw [h'] at e
  exact e

@[simp] theorem gWordAddrs_settings (s : State) (w : Who) (va n : Nat) : (s.gWordAddrs w va n).1.settings = s.settings := by
  induction n generalizing s va with
  | zero => rfl
  | succ n ih =>
    unfold State.gWordAddrs
    have ht := translateAll_settings s w needW [(va, 8)]
    rcases ht' : s.translateAll w needW [(va, 8)] with ⟨t, x⟩
    rw [ht'] at ht
    cases x with
    | ok l =>
      simp only
      have h2 := ih t (va + 8)
      rcases h2' : t.gWordAddrs w (va + 8) n with ⟨u, y⟩
      rw [h2'] at h2
      cases y <;> exact h2.trans ht
    | _ => exact ht

theorem gWordAddrs_settings' {s : State} {w : Who} {va a3 : Nat} {t' r'} (h' : (s.gWordAddrs w va a3) = (t', r')) : t'.settings = s.settings := by
  have e := gWordAddrs_settings s w va a3
  rw [h'] at e
  exact e

@[simp] theorem gWriteWords_settings (s : State) (w : Who) (va : Nat) (ws : List CWord) : (s.gWriteWords w va ws).1.settings = s.settings := by
  unfold State.gWriteWords
  have ht := gWordAddrs_settings s w va ws.length
  rcases ht' : s.gWordAddrs w va ws.length with ⟨t, x⟩
  rw [ht'] at ht
  cases x with
  | ok l => exact (foldl_settings (fun s x => by dsimp only; split <;> simp) _ _).trans ht
  | _ => exact ht

theorem gWriteWords_settings' {s : State} {w : Who} {va : Nat} {ws : List CWord} {t' r'} (h' : (s.gWriteWords w va ws) = (t', r')) : t'.settings = s.settings := by
  have e := gWriteWords_settings s w va ws
  rw [h'] at e
  exact e

@[simp] theorem updCore_settings (s : State) (slot pos : Nat) (f : Core → Core) : (s.updCore slot pos f).settings = s.settings := by
  unfold State.updCore
  (repeat' split) <;> first | rfl | exact setCtx_settings _ _ _ | exact setCoreAt_settings _ _ _

@[simp] theorem postStore_settings (s : State) (w : Who) (addr n : Nat) : (s.postStore w addr n).settings = s.settings := by
  unfold State.postStore
  (repeat' split) <;> first | rfl | exact postBank_settings _ _ _ _ _ _

@[simp] theorem setBankData_settings (s : State) (key b : Nat) (m : Memory) : (s.setBankData key b m).settings = s.settings :=
  rfl

@[simp] theorem sWrite_settings (s : State) (w : Who) (addr : Nat) (bs : List Byte) : (s.sWrite w addr bs).1.settings = s.settings := by
  unfold State.sWrite
  (repeat' split) <;> simp

theorem sWrite_settings' {s : State} {w : Who} {addr : Nat} {bs : List Byte} {t' r'} (h' : (s.sWrite w addr bs) = (t', r')) : t'.settings = s.settings := by
  have e := sWrite_settings s w addr bs
  rw [h'] at e
  exact e

@[simp] theorem sWriteWords_settings (s : State) (w : Who) (addr : Nat) (ws : List CWord) : (s.sWriteWords w addr ws).1.settings = s.settings := by
  unfold State.sWriteWords
  split
  · rfl
  · exact foldl_settings (fun s x => by split <;> simp) _ _

theorem sWriteWords_settings' {s : State} {w : Who} {addr : Nat} {ws : List CWord} {t' r'} (h' : (s.sWriteWords w addr ws) = (t', r')) : t'.settings = s.settings := by
  have e := sWriteWords_settings s w addr ws
  rw [h'] at e
  exact e

@[simp] theorem domRecord_settings (s : State) (d addr handle core syn tier kind : Nat) : (s.domRecord d addr handle core syn tier kind).settings = s.settings := by
  unfold State.domRecord
  split
  · rfl
  · rename_i x h
    exact setDom_settings h rfl

@[simp] theorem setCb_settings (s : State) (c : Ctx) (off : Nat) (v : Word) : (s.setCb c off v).settings = s.settings :=
  physPut_settings _ _ _

@[simp] theorem setCbBits_settings (s : State) (c : Ctx) (off hi lo v : Nat) : (s.setCbBits c off hi lo v).settings = s.settings := by
  unfold State.setCbBits
  dsimp only
  (repeat' split) <;> simp

@[simp] theorem completeAt_settings (s : State) (slot pos : Nat) : (s.completeAt slot pos).settings = s.settings := by
  unfold State.completeAt
  (repeat' split) <;> simp

@[simp] theorem observeWait_settings (s : State) (slot : Nat) : (s.observeWait slot).settings = s.settings := by
  unfold State.observeWait
  (repeat' split) <;> first | rfl | exact setCtx_settings _ _ _ | exact completeAt_settings _ _ _

@[simp] theorem observeAll_settings (s : State) (slot : Nat) (m : BitVec 256) : (s.observeAll slot m).settings = s.settings := by
  unfold State.observeAll
  split <;> rfl

@[simp] theorem setEvents_settings (s : State) (slot : Nat) (m : BitVec 256) : (s.setEvents slot m).settings = s.settings := by
  unfold State.setEvents
  (repeat' split) <;> simp only [setCtx_settings, observeWait_settings, observeAll_settings]

@[simp] theorem setEvent_settings (s : State) (slot bit : Nat) : (s.setEvent slot bit).settings = s.settings :=
  setEvents_settings _ _ _

@[simp] theorem tellSuper_settings (s : State) (d : Nat) : (s.tellSuper d).settings = s.settings := by
  unfold State.tellSuper
  (repeat' split) <;> first | rfl | exact setEvent_settings _ _ _

@[simp] theorem pkgRecord_settings (s : State) (addr syn tier kind : Nat) : (s.pkgRecord addr syn tier kind).settings = s.settings :=
  rfl

@[simp] theorem wordRecord_settings (s : State) (d slot core a kind : Nat) (reg : BitVec 8) : (s.wordRecord d slot core a kind reg).settings = s.settings :=
  (domRecord_settings _ _ _ _ _ _ _ _).trans (count_settings _ _ _ _)

@[simp] theorem sample_settings (s : State) (d i v : Nat) : (s.sample d i v).settings = s.settings := by
  unfold State.sample
  split
  · rfl
  · rename_i x h
    exact setDom_settings h rfl

@[simp] theorem kvSetWords_settings (s : State) (k tier loc off : Nat) (ws : List CWord) : (s.kvSetWords k tier loc off ws).settings = s.settings := by
  unfold State.kvSetWords
  (repeat' split) <;> first | rfl | exact physSetWords_settings _ _ _

@[simp] theorem kvCopy_settings (s : State) (k t0 l0 t1 l1 : Nat) : (s.kvCopy k t0 l0 t1 l1).settings = s.settings := by
  unfold State.kvCopy
  simp

theorem setDirMoves_settings (s : State) (k : Nat) (w : Word) (ms : List Move) : ({ s.setDir k w with moves := ms } : State).settings = s.settings := rfl

theorem setDirFences_settings (s : State) (k : Nat) (w : Word) (ms : List Move) (fs : List Fence) :
    ({ s.setDir k w with moves := ms, fences := fs } : State).settings = s.settings := rfl

@[simp] theorem begin_settings (s : State) (m : Move) : (s.begin m).settings = s.settings :=
  setDirMoves_settings _ _ _ _

@[simp] theorem startMove_settings (s : State) (k tier loc : Nat) (demotion fault : Bool) : (s.startMove k tier loc demotion fault).settings = s.settings := by
  unfold State.startMove
  split <;> simp

@[simp] theorem wantMove_settings (s : State) (m : Move) : (s.wantMove m).settings = s.settings := by
  unfold State.wantMove
  split
  · simp
  · rfl

@[simp] theorem startQueued_settings (s : State) : s.startQueued.settings = s.settings :=
  (foldl_settings (fun s x => by dsimp only; (repeat' split) <;> first | rfl | exact wantMove_settings _ _) _ _).trans rfl

@[simp] theorem startFrameMove_settings (s : State) (d k tier : Nat) (demotion fault : Bool) : (s.startFrameMove d k tier demotion fault).settings = s.settings := by
  unfold State.startFrameMove
  split <;> simp

@[simp] theorem cancelDemotions_settings (s : State) (d asid : Nat) : (s.cancelDemotions d asid).settings = s.settings := by
  unfold State.cancelDemotions
  dsimp only
  refine (startQueued_settings _).trans ?_
  exact foldl_settings (fun s m => by simp) _ _

@[simp] theorem pagePresent_settings (s : State) (k : Nat) : (s.pagePresent k).settings = s.settings := by
  unfold State.pagePresent
  exact foldl_settings (fun s m => by split <;> simp) _ _

@[simp] theorem moveInstall_settings (s : State) (k : Nat) : (s.moveInstall k).settings = s.settings := by
  unfold State.moveInstall
  split <;> simp

@[simp] theorem releaseOld_settings (s : State) (i : Nat) : (s.releaseOld i).settings = s.settings := by
  unfold State.releaseOld
  split <;> simp

@[simp] theorem leaseExpiry_settings (s : State) (die k : Nat) : (s.leaseExpiry die k).settings = s.settings :=
  rfl

theorem kvLookup_settings {s : State} {die k : Nat} {v} (h : s.kvLookup die k = some v) : v.1.settings = s.settings := by
  unfold State.kvLookup at h
  dsimp only at h
  split at h
  · cases h
  · split at h <;> cases h <;> rfl

@[simp] theorem demotionStart_settings (s : State) (k : Nat) : (s.demotionStart k).settings = s.settings := by
  unfold State.demotionStart
  dsimp only
  (repeat' split) <;> first | rfl | exact startFrameMove_settings _ _ _ _ _ _

@[simp] theorem promotionStart_settings (s : State) (k : Nat) : (s.promotionStart k).settings = s.settings := by
  unfold State.promotionStart
  dsimp only
  split
  · rfl
  · (repeat' split) <;> simp

@[simp] theorem markPair_settings (s : State) (key b : Nat) (page : Option Nat) : (s.markPair key b page).settings = s.settings :=
  rfl

@[simp] theorem dropHome_settings (s : State) (k : Nat) : (s.dropHome k).settings = s.settings := by
  unfold State.dropHome
  split <;> rfl

theorem dropHomeBound_settings (s : State) (b : Table Nat) : ({ s with bound := b } : State).settings = s.settings := rfl

@[simp] theorem reclaim_settings (s : State) (key : Nat) : (s.reclaim key).settings = s.settings := by
  unfold State.reclaim
  dsimp only
  split
  · split
    · rfl
    · exact (dropHomeBound_settings _ _).trans (foldl_settings dropHome_settings _ _)
  · refine foldl_settings (fun s k => ?_) _ _
    (repeat' split) <;> first | rfl | exact startFrameMove_settings _ _ _ _ _ _

@[simp] theorem bankReclaim_settings (s : State) (slot pos : Nat) : (s.bankReclaim slot pos).settings = s.settings := by
  unfold State.bankReclaim
  simp

@[simp] theorem resAnswer_settings (s : State) (d status : Nat) : (s.resAnswer d status).settings = s.settings := by
  unfold State.resAnswer
  split
  · rfl
  · rename_i x h
    exact setDom_settings h rfl

theorem resOp_settings {s : State} {d k : Nat} {f : State → Word → State × Nat} (h : ∀ s e, (f s e).1.settings = s.settings) :
    (s.resOp d k f).settings = s.settings := by
  unfold State.resOp
  simp only
  split
  · simp
  · split
    · simp
    · simp [h]

@[simp] theorem resEntry_settings (s : State) (d k : Nat) (f : Nat → Nat) : (s.resEntry d k f).settings = s.settings :=
  resOp_settings (fun t e => wantMove_settings _ _)

@[simp] theorem resPin_settings (s : State) (d k : Nat) (on : Bool) : (s.resPin d k on).settings = s.settings :=
  resEntry_settings _ _ _ _

@[simp] theorem resPref_settings (s : State) (d k pref : Nat) : (s.resPref d k pref).settings = s.settings := by
  unfold State.resPref
  simp

@[simp] theorem pageLost_settings (s : State) (k : Nat) : (s.pageLost k).settings = s.settings := by
  refine foldl_settings (fun s x => ?_) _ _
  split
  · rfl
  · simp

@[simp] theorem resFree_settings (s : State) (d k : Nat) : (s.resFree d k).settings = s.settings := resOp_settings (fun s e => by simp)

@[simp] theorem resToStore_settings (s : State) (d k loc : Nat) : (s.resToStore d k loc).settings = s.settings := resOp_settings (fun s e => by
  simp only
  split
  · rfl
  · (repeat' split) <;> simp)

@[simp] theorem resRequest_settings (s : State) (d v : Nat) : (s.resRequest d v).settings = s.settings := by
  unfold State.resRequest
  dsimp only
  (repeat' split) <;> first | rfl | exact resAnswer_settings _ _ _ | exact resPin_settings _ _ _ _ | exact resPref_settings _ _ _ _ | exact resFree_settings _ _ _ | exact resToStore_settings _ _ _ _

@[simp] theorem spaceAt_settings (s : State) (sp : Space) (va : Nat) : (s.spaceAt sp va).1.settings = s.settings := by
  unfold State.spaceAt
  repeat' split
  all_goals (try have k0 := translate_settings' ‹_›)
  all_goals first | trivial | rfl | assumption | exact translate_settings _ _ _ _ | exact wordRecord_settings _ _ _ _ _ _ _ | simp [*]

theorem spaceAt_settings' {s : State} {sp : Space} {va : Nat} {t' r'} (h' : (s.spaceAt sp va) = (t', r')) : t'.settings = s.settings := by
  have e := spaceAt_settings s sp va
  rw [h'] at e
  exact e

@[simp] theorem spaceWord_settings (s : State) (d pa i : Nat) : (s.spaceWord d pa i).1.settings = s.settings := by
  unfold State.spaceWord
  (repeat' split) <;> simp

theorem spaceWord_settings' {s : State} {d pa i : Nat} {t' r'} (h' : (s.spaceWord d pa i) = (t', r')) : t'.settings = s.settings := by
  have e := spaceWord_settings s d pa i
  rw [h'] at e
  exact e

@[simp] theorem readWords_settings (s : State) (sp : Space) (va n : Nat) : (s.readWords sp va n).1.settings = s.settings := by
  induction n generalizing s va with
  | zero => rfl
  | succ n ih =>
    unfold State.readWords
    have ht := spaceAt_settings s sp va
    rcases ht' : s.spaceAt sp va with ⟨t, x⟩
    rw [ht'] at ht
    cases x with
    | ok pa =>
      dsimp only
      have hw := spaceWord_settings t sp.domOf pa va
      rcases hw' : t.spaceWord sp.domOf pa va with ⟨u, y⟩
      rw [hw'] at hw
      have hw := hw.trans ht
      cases y with
      | ok v =>
        dsimp only
        have h2 := ih u (va + 8)
        rcases h2' : u.readWords sp (va + 8) n with ⟨x, y⟩
        rw [h2'] at h2
        cases y <;> exact h2.trans hw
      | _ => exact hw
    | _ => exact ht

theorem readWords_settings' {s : State} {sp : Space} {va a3 : Nat} {t' r'} (h' : (s.readWords sp va a3) = (t', r')) : t'.settings = s.settings := by
  have e := readWords_settings s sp va a3
  rw [h'] at e
  exact e

@[simp] theorem readDescriptor_settings (s : State) (sp : Space) (l : Nat) : (s.readDescriptor sp l).1.settings = s.settings := by
  unfold State.readDescriptor
  split
  · rfl
  · have ht := readWords_settings s sp l 2
    split
    · rename_i u a b h
      rw [h] at ht
      split
      · exact ht
      · have h2 := (readWords_settings u sp (l + 16) (4 * b)).trans ht
        split <;> (rename_i h; rw [h] at h2; exact h2)
    all_goals (rename_i h; rw [h] at ht; exact ht)

theorem readDescriptor_settings' {s : State} {sp : Space} {ldesc : Nat} {t' r'} (h' : (s.readDescriptor sp ldesc) = (t', r')) : t'.settings = s.settings := by
  have e := readDescriptor_settings s sp ldesc
  rw [h'] at e
  exact e

@[simp] theorem armWords_settings (s : State) (by_ : Armer) (sp : Space) (va pa : Nat) (w : List Nat) : (s.armWords by_ sp va pa w).1.settings = s.settings := by
  unfold State.armWords
  dsimp only
  repeat' split
  all_goals (try have k0 := readDescriptor_settings' ‹_›)
  all_goals first | trivial | rfl | assumption | exact setCtx_settings _ _ _ | exact observeAll_settings _ _ _ | exact readDescriptor_settings _ _ _ | simp [*]

theorem armWords_settings' {s : State} {by_ : Armer} {sp : Space} {va pa : Nat} {w : List Nat} {t' r'} (h' : (s.armWords by_ sp va pa w) = (t', r')) : t'.settings = s.settings := by
  have e := armWords_settings s by_ sp va pa w
  rw [h'] at e
  exact e

@[simp] theorem armRecord_settings (s : State) (by_ : Armer) (sp : Space) (va : Nat) : (s.armRecord by_ sp va).1.settings = s.settings := by
  unfold State.armRecord
  repeat' split
  all_goals (try have k0 := spaceAt_settings' ‹_›)
  all_goals (try have k1 := readWords_settings' ‹_›)
  all_goals (try have k2 := armWords_settings' ‹_›)
  all_goals first | trivial | rfl | assumption | exact tellSuper_settings _ _ | exact spaceAt_settings _ _ _ | exact readWords_settings _ _ _ _ | exact armWords_settings _ _ _ _ _ _ | simp [*]

theorem armRecord_settings' {s : State} {by_ : Armer} {sp : Space} {va : Nat} {t' r'} (h' : (s.armRecord by_ sp va) = (t', r')) : t'.settings = s.settings := by
  have e := armRecord_settings s by_ sp va
  rw [h'] at e
  exact e

@[simp] theorem armAt_settings (s : State) (l : Link) : (s.armAt l).settings = s.settings := by
  unfold State.armAt
  repeat' split
  all_goals (try have k0 := armRecord_settings' ‹_›)
  all_goals first | trivial | rfl | assumption | exact tellSuper_settings _ _ | exact armRecord_settings _ _ _ _ | simp [*]

@[simp] theorem armLink_settings (s : State) (dom : Nat) (sp : Space) (va : Nat) (off : Int) : (s.armLink dom sp va off).settings = s.settings :=
  armAt_settings _ _

@[simp] theorem armSucc_settings (s : State) (dom : Nat) (sp : Space) (va : Nat) (succ : BitVec 32) : (s.armSucc dom sp va succ).settings = s.settings := by
  unfold State.armSucc
  split <;> simp

@[simp] theorem armWaiting_settings (s : State) : s.armWaiting.settings = s.settings :=
  (foldl_settings armAt_settings _ _).trans rfl

@[simp] theorem chargeVtime_settings (s : State) (c : Ctx) (l : Launch) : (s.chargeVtime c l).settings = s.settings := by
  unfold State.chargeVtime
  (repeat' split) <;> first | rfl | exact setCb_settings _ _ _ _

@[simp] theorem floorVtime_settings (s : State) (c : Ctx) : (s.floorVtime c).settings = s.settings := by
  unfold State.floorVtime
  split <;> simp

@[simp] theorem freeCores_settings (s : State) (slot : Nat) : (s.freeCores slot).settings = s.settings := by
  unfold State.freeCores
  (repeat' (first | split | dsimp only)) <;> first | trivial

@[simp] theorem parkRecord_settings (s : State) (c : Ctx) (a : Ask) (cause : Nat) : (s.parkRecord c a cause).settings = s.settings := by
  unfold State.parkRecord
  simp only [setCb_settings, setCbBits_settings, ite_settings, ite_self]

@[simp] theorem dataRecord_settings (s : State) (slot : Nat) (c : Ctx) (a : Ask) (cause : Nat) : (s.dataRecord slot c a cause).settings = s.settings := by
  unfold State.dataRecord
  (repeat' split) <;> first | rfl | exact wordRecord_settings _ _ _ _ _ _ _

@[simp] theorem countFault_settings (s : State) (c : Ctx) : (s.countFault c).settings = s.settings :=
  setCbBits_settings _ _ _ _ _ _

@[simp] theorem parkNow_settings (s : State) (slot : Nat) (c : Ctx) (a : Ask) (cause : Nat) : (s.parkNow slot c a cause).settings = s.settings := by
  unfold State.parkNow
  simp

@[simp] theorem lateFault_settings (s : State) (slot : Nat) (a : Ask) (cause : Nat) : (s.lateFault slot a cause).settings = s.settings := by
  unfold State.lateFault
  split <;> simp

@[simp] theorem endNow_settings (s : State) (slot : Nat) (normal : Bool) : (s.endNow slot normal).settings = s.settings := by
  unfold State.endNow
  split
  · rfl
  · split
    · rfl
    · extract_lets fl s1 s2 s3 s4 node s5 ns s6 s7 s8
      have e1 : s1.settings = s.settings := setCbBits_settings _ _ _ _ _ _
      have e2 : s2.settings = s.settings := by
        show (if _ then _ else _ : State).settings = _
        split <;> simp [e1]
      have e3 : s4.settings = s.settings := by
        show (if _ then _ else _ : State).settings = _
        (repeat' split) <;> first | exact e2 | (simp only [s3, setCbBits_settings, setCb_settings]; exact e2)
      have e5 : s5.settings = s.settings := (freeCores_settings _ _).trans e3
      have e6 : s6.settings = s.settings := (setCtx_settings _ _ _).trans e5
      have e7 : s7.settings = s.settings := by
        show (if _ then _ else _ : State).settings = _
        split <;> simp [e6]
      have e8 : s8.settings = s.settings := by
        dsimp only [s8]
        generalize node = nd
        cases nd
        · exact e7
        dsimp only
        split <;> first | exact e7 | exact (armSucc_settings _ _ _ _ _).trans ((armSucc_settings _ _ _ _ _).trans e7)
      clear_value s8
      (repeat' split) <;> simp [e8]

@[simp] theorem endLaunch_settings (s : State) (slot : Nat) (normal : Bool) : (s.endLaunch slot normal).settings = s.settings :=
  (foldl_settings (fun s a => by split <;> first | rfl | exact lateFault_settings _ _ _ _) _ _).trans (endNow_settings _ _ _)

@[simp] theorem checkEnd_settings (s : State) (slot : Nat) : (s.checkEnd slot).settings = s.settings := by
  unfold State.checkEnd
  (repeat' split) <;> first | rfl | exact endLaunch_settings _ _ _

@[simp] theorem bindStore_settings (s : State) (slot pos phys : Nat) : (s.bindStore slot pos phys).settings = s.settings :=
  rfl

@[simp] theorem putCore_settings (s : State) (slot : Nat) (l : Launch) (sb : BitVec 32) (pos : Nat) : (s.putCore slot l sb pos).settings = s.settings := by
  unfold State.putCore
  split <;> simp

@[simp] theorem placeAt_settings (s : State) (slot : Nat) (c : Ctx) (pa : Nat) (r : LaunchRec) (origin : Nat) : (s.placeAt slot c pa r origin).settings = s.settings := by
  unfold State.placeAt
  dsimp only
  exact (setCtx_settings _ _ _).trans (foldl_settings (fun s x => by simp) _ _)

@[simp] theorem place_settings (s : State) (slot origin : Nat) : (s.place slot origin).settings = s.settings := by
  unfold State.place
  (repeat' split) <;> first | rfl | exact tellSuper_settings _ _ | exact placeAt_settings _ _ _ _ _ _

@[simp] theorem xferEnd_settings (s : State) (slot : Nat) (a : Ask) (d n : Nat) : (s.xferEnd slot a d n).settings = s.settings := by
  unfold State.xferEnd
  simp

@[simp] theorem lateAsk_settings (s : State) (slot : Nat) (a : Ask) : (s.lateAsk slot a).settings = s.settings := by
  unfold State.lateAsk
  dsimp only
  (repeat' split) <;> simp

@[simp] theorem acceptAsk_settings (s : State) (slot : Nat) (c : Ctx) (a : Ask) : (s.acceptAsk slot c a).settings = s.settings := by
  unfold State.acceptAsk
  split <;> simp

@[simp] theorem leaveAccept_settings (s : State) (slot : Nat) : (s.leaveAccept slot).settings = s.settings := by
  unfold State.leaveAccept
  (repeat' split) <;> first | rfl | exact setCtx_settings _ _ _ | exact lateAsk_settings _ _ _ | exact acceptAsk_settings _ _ _ _

@[simp] theorem askPreempt_settings (s : State) (slot : Nat) (deadline : Bool) : (s.askPreempt slot deadline).settings = s.settings := by
  unfold State.askPreempt
  split <;> simp

@[simp] theorem pageSettled_settings (s : State) (k : Nat) : (s.pageSettled k).settings = s.settings := by
  unfold State.pageSettled
  simp

@[simp] theorem saveNow_settings (s : State) (slot : Nat) : (s.saveNow slot).settings = s.settings := by
  unfold State.saveNow
  dsimp only
  (repeat' split) <;> simp

@[simp] theorem answerAll_settings (s : State) (slot : Nat) (c : Ctx) : (s.answerAll slot c).settings = s.settings :=
  (foldl_settings (fun s a => lateAsk_settings _ _ _) _ _).trans (setCtx_settings _ _ _)

@[simp] theorem frameSave_settings (s : State) (slot : Nat) : (s.frameSave slot).settings = s.settings := by
  unfold State.frameSave
  (repeat' split) <;> simp

@[simp] theorem transfer_settings (s : State) (slot : Nat) (c : Ctx) (l : Launch) (a : Ask) (y d : Nat) : (s.transfer slot c l a y d).settings = s.settings := by
  unfold State.transfer
  dsimp only
  (repeat' split) <;> first | (simp; done) | exact foldl_settings reclaim_settings _ _

@[simp] theorem frameSaveXfer_settings (s : State) (slot : Nat) : (s.frameSaveXfer slot).settings = s.settings := by
  unfold State.frameSaveXfer
  (repeat' split) <;> simp

@[simp] theorem makeReady_settings (s : State) (slot : Nat) : (s.makeReady slot).settings = s.settings := by
  unfold State.makeReady
  split <;> simp

@[simp] theorem contextReady_settings (s : State) (slot : Nat) : (s.contextReady slot).settings = s.settings := by
  unfold State.contextReady
  split <;> simp

@[simp] theorem preempt_settings (s : State) (slot : Nat) : (s.preempt slot).settings = s.settings := by
  unfold State.preempt
  dsimp only
  (repeat' split) <;> first | rfl | exact askPreempt_settings _ _ _

@[simp] theorem quantumExpiry_settings (s : State) (slot : Nat) : (s.quantumExpiry slot).settings = s.settings := by
  unfold State.quantumExpiry
  dsimp only
  (repeat' split) <;> first | rfl | exact askPreempt_settings _ _ _

@[simp] theorem swapOut_settings (s : State) (slot : Nat) : (s.swapOut slot).settings = s.settings := by
  unfold State.swapOut
  (repeat' split) <;> rfl

@[simp] theorem swapIn_settings (s : State) (slot : Nat) : (s.swapIn slot).settings = s.settings := by
  unfold State.swapIn
  dsimp only
  (repeat' split) <;> first | rfl

@[simp] theorem timerExpiry_settings (s : State) (slot : Nat) : (s.timerExpiry slot).settings = s.settings := by
  unfold State.timerExpiry
  (repeat' split) <;> first | rfl | exact setCtx_settings _ _ _ | exact setEvent_settings _ _ _

@[simp] theorem settleNode_settings (s : State) (slot pa : Nat) (stay : Bool) : (s.settleNode slot pa stay).settings = s.settings := by
  unfold State.settleNode
  (repeat' split) <;> rfl

@[simp] theorem evalNode_settings (s : State) (pa : Nat) : (s.evalNode pa).settings = s.settings := by
  unfold State.evalNode
  dsimp only
  repeat' split
  all_goals (try have k0 := readWords_settings' ‹_›)
  all_goals first | trivial | rfl | assumption | exact setEvents_settings _ _ _ | exact tellSuper_settings _ _ | exact readWords_settings _ _ _ _ | exact armLink_settings _ _ _ _ _ | exact armSucc_settings _ _ _ _ _ | exact settleNode_settings _ _ _ _ | simp [*]

@[simp] theorem amRead_settings (s : State) (r : Am) (n : Nat) : (s.amRead r n).1.settings = s.settings := by
  unfold State.amRead
  (repeat' split) <;> first | rfl | exact postStore_settings _ _ _ _ | exact gRead_settings _ _ _ _ _

theorem amRead_settings' {s : State} {r : Am} {n : Nat} {t' r'} (h' : (s.amRead r n) = (t', r')) : t'.settings = s.settings := by
  have e := amRead_settings s r n
  rw [h'] at e
  exact e

@[simp] theorem amWrite_settings (s : State) (r : Am) (bs : List Byte) : (s.amWrite r bs).1.settings = s.settings := by
  unfold State.amWrite
  (repeat' split) <;> first | rfl | exact gWrite_settings _ _ _ _ | exact sWrite_settings _ _ _ _

theorem amWrite_settings' {s : State} {r : Am} {bs : List Byte} {t' r'} (h' : (s.amWrite r bs) = (t', r')) : t'.settings = s.settings := by
  have e := amWrite_settings s r bs
  rw [h'] at e
  exact e

@[simp] theorem looseRead_settings (s : State) (store : Bool) (a n : Nat) : (s.looseRead store a n).1.settings = s.settings := by
  induction n generalizing s a with
  | zero => rfl
  | succ n ih =>
    unfold State.looseRead
    have ht : (if store then (s.postStore s.who a 8, s.sRead s.who a 8) else s.gRead s.who needR a 8).1.settings = s.settings := by split <;> simp
    rcases ht' : (if store then (s.postStore s.who a 8, s.sRead s.who a 8) else s.gRead s.who needR a 8) with ⟨t, x⟩
    rw [ht'] at ht
    cases x with
    | ok bs =>
      simp only
      have h2 := ih t (a + 8)
      rcases h2' : t.looseRead store (a + 8) n with ⟨u, y⟩
      rw [h2'] at h2
      cases y <;> exact h2.trans ht
    | _ => exact ht

theorem looseRead_settings' {s : State} {store : Bool} {a a3 : Nat} {t' r'} (h' : (s.looseRead store a a3) = (t', r')) : t'.settings = s.settings := by
  have e := looseRead_settings s store a a3
  rw [h'] at e
  exact e

@[simp] theorem amReadWords_settings (s : State) (r : Am) (n : Nat) : (s.amReadWords r n).1.settings = s.settings := by
  unfold State.amReadWords
  dsimp only
  (repeat' split) <;> first | rfl | exact gReadWords_settings _ _ _ _ | exact looseRead_settings _ _ _ _

theorem amReadWords_settings' {s : State} {r : Am} {n : Nat} {t' r'} (h' : (s.amReadWords r n) = (t', r')) : t'.settings = s.settings := by
  have e := amReadWords_settings s r n
  rw [h'] at e
  exact e

@[simp] theorem looseWrite_settings (s : State) (store : Bool) (a : Nat) (ws : List CWord) : (s.looseWrite store a ws).1.settings = s.settings := by
  induction ws generalizing s a with
  | nil => rfl
  | cons w ws ih =>
    unfold State.looseWrite
    split
    · rfl
    · rename_i v _
      have ht : (if store then s.sWrite s.who a (toBytes 8 v.toNat) else s.gWrite s.who a (toBytes 8 v.toNat)).1.settings = s.settings := by
        split <;> simp
      split
      · rename_i t h
        rw [h] at ht
        exact (ih _ _).trans ht
      · exact ht

theorem looseWrite_settings' {s : State} {store : Bool} {a : Nat} {a3 : List CWord} {t' r'} (h' : (s.looseWrite store a a3) = (t', r')) : t'.settings = s.settings := by
  have e := looseWrite_settings s store a a3
  rw [h'] at e
  exact e

@[simp] theorem amWriteWords_settings (s : State) (r : Am) (ws : List CWord) : (s.amWriteWords r ws).1.settings = s.settings := by
  unfold State.amWriteWords
  dsimp only
  (repeat' split) <;> first | rfl | exact gWriteWords_settings _ _ _ _ | exact sWriteWords_settings _ _ _ _ | exact looseWrite_settings _ _ _ _

theorem amWriteWords_settings' {s : State} {r : Am} {ws : List CWord} {t' r'} (h' : (s.amWriteWords r ws) = (t', r')) : t'.settings = s.settings := by
  have e := amWriteWords_settings s r ws
  rw [h'] at e
  exact e

@[simp] theorem qTake_settings (s : State) (q n : Nat) : (s.qTake q n).settings = s.settings :=
  rfl

@[simp] theorem qPush_settings (s : State) (q : Nat) (ws : List CWord) : (s.qPush q ws).settings = s.settings :=
  rfl

@[simp] theorem raddrWrite_settings (s : State) (d : Nat) (v : Word) : (s.raddrWrite d v).settings = s.settings := by
  unfold State.raddrWrite
  split
  · rfl
  · rename_i x h
    split <;> exact setDom_settings h rfl

@[simp] theorem flowWrite_settings (s : State) (port i : Nat) (e : BitVec 256) : (s.flowWrite port i e).settings = s.settings := by
  unfold State.flowWrite
  split <;> rfl

@[simp] theorem askPower_settings (s : State) (p : BitVec 2) : (s.askPower p).settings = s.settings :=
  rfl

@[simp] theorem mgmtSet_settings (s : State) (off : Nat) (v : Word) : (s.mgmtSet off v).settings = s.settings := by
  unfold State.mgmtSet
  split
  · rfl
  · split
    · simp
    · split
      · split <;> simp
      · split
        · dsimp only
          split
          · rfl
          · rename_i x h
            split
            · exact setDom_settings h rfl
            · split
              · exact (resRequest_settings _ _ _).trans (setDom_settings h rfl)
              · rfl
        · split
          · dsimp only
            split
            · rfl
            · rename_i x h
              split
              · exact setDom_settings h rfl
              · rfl
          · dsimp only
            (repeat' split) <;> simp

@[simp] theorem mgmtWrite_settings (s : State) (off : Nat) (bs : List Byte) : (s.mgmtWrite off bs).settings = s.settings :=
  mgmtSet_settings _ _ _

@[simp] theorem spill_settings (s : State) : (s.spill).settings = s.settings :=
  rfl

@[simp] theorem pushEntry_settings (s : State) (w : Word) : (s.pushEntry w).settings = s.settings := by
  unfold State.pushEntry
  split <;> rfl

@[simp] theorem jumpWith_settings (s : State) (r : Stacked) (pc : Word) : EndKeeps s.settings (s.jumpWith r pc) := by
  unfold State.jumpWith
  split <;> simp

@[simp] theorem branchTo_settings (s : State) (pc : Word) : EndKeeps s.settings (s.branchTo pc) :=
  jumpWith_settings _ _ _

@[simp] theorem callTo_settings (s : State) (pc : Word) : EndKeeps s.settings (s.callTo pc) := by
  unfold State.callTo
  (repeat' (first | split | dsimp only)) <;> first | trivial | rfl | exact pushEntry_settings _ _

theorem execBr_settings (r : Xb) (s : State) : OutKeeps s.settings (execBr r s) := by
  unfold execBr
  show State.settings _ = _
  (repeat' (first | refine xWord_settings (fun t => ?_) | split)) <;> first | trivial | rfl | simp

theorem execCall_settings (r : Xb) (s : State) : OutKeeps s.settings (execCall r s) :=
  xWord_settings (fun t => callTo_settings _ _)

theorem execJr_settings (r : Xr) (s : State) : OutKeeps s.settings (execJr r s) := by
  unfold execJr
  show State.settings _ = _
  (repeat' (first | refine xWord_settings (fun t => ?_) | split | dsimp only)) <;> first | trivial | rfl | simp

theorem execCallr_settings (r : Xr) (s : State) : OutKeeps s.settings (execCallr r s) :=
  xWord_settings (fun t => by
    dsimp only
    (repeat' split) <;> first | trivial | rfl | exact callTo_settings _ _)

theorem execRet_settings (r : Xr) (s : State) : OutKeeps s.settings (execRet r s) := by
  unfold execRet
  show State.settings _ = _
  (repeat' (first | refine xWord_settings (fun t => ?_) | split)) <;> first | trivial | rfl | simp

theorem execLoop_settings (r : Xi) (s : State) : OutKeeps s.settings (execLoop r s) := by
  unfold execLoop
  show State.settings _ = _
  (repeat' (first | refine xWord_settings (fun t => ?_) | split | dsimp only)) <;> first | trivial | rfl | exact fixed_settings _ _ | exact (fixed_settings _ _).trans (fixed_settings _ _) | simp

end Sys2Proof.Laws
end

