-- ==== Sys2Proof/Laws/SettingsX.lean ====
section
/-! SUPPORT. The X stream and its engines leave the settings of the signed records. -/

open Sys2Proof.Machine

namespace Sys2Proof.Laws

@[simp] theorem xBinary_settings (f : Word → Word → Word) (r : Xr) (s : State) : (xBinary f r s).settings = s.settings :=
  xWord_settings (fun t => putX_settings _ _ _ _ _)

@[simp] theorem xUnary_settings (f : Word → Word) (r : Xr) (s : State) : (xUnary f r s).settings = s.settings :=
  xWord_settings (fun t => putX_settings _ _ _ _ _)

@[simp] theorem xImmediate_settings (f : Word → Word → Word) (r : Xi) (s : State) : (xImmediate f r s).settings = s.settings :=
  xWord_settings (fun t => putX_settings _ _ _ _ _)

@[simp] theorem xCompare_settings (f : Word → Word → Bool) (r : Xr) (s : State) : (xCompare f r s).settings = s.settings :=
  xWord_settings (fun t => putP_settings _ _ _ _ _)

@[simp] theorem xCompareImm_settings (f : Word → Word → Bool) (r : Xi) (s : State) : (xCompareImm f r s).settings = s.settings :=
  xWord_settings (fun t => putP_settings _ _ _ _ _)

@[simp] theorem xPredicate_settings (f : Bool → Bool → Bool) (r : Xr) (s : State) : (xPredicate f r s).settings = s.settings :=
  xWord_settings (fun t => putP_settings _ _ _ _ _)

theorem execAdd_settings (r : Xr) (s : State) : OutKeeps s.settings (execAdd r s) :=
  xBinary_settings _ _ _

theorem execSub_settings (r : Xr) (s : State) : OutKeeps s.settings (execSub r s) :=
  xBinary_settings _ _ _

theorem execAnd_settings (r : Xr) (s : State) : OutKeeps s.settings (execAnd r s) :=
  xBinary_settings _ _ _

theorem execOr_settings (r : Xr) (s : State) : OutKeeps s.settings (execOr r s) :=
  xBinary_settings _ _ _

theorem execXor_settings (r : Xr) (s : State) : OutKeeps s.settings (execXor r s) :=
  xBinary_settings _ _ _

theorem execAndn_settings (r : Xr) (s : State) : OutKeeps s.settings (execAndn r s) :=
  xBinary_settings _ _ _

theorem execSll_settings (r : Xr) (s : State) : OutKeeps s.settings (execSll r s) :=
  xBinary_settings _ _ _

theorem execSrl_settings (r : Xr) (s : State) : OutKeeps s.settings (execSrl r s) :=
  xBinary_settings _ _ _

theorem execSra_settings (r : Xr) (s : State) : OutKeeps s.settings (execSra r s) :=
  xBinary_settings _ _ _

theorem execRol_settings (r : Xr) (s : State) : OutKeeps s.settings (execRol r s) :=
  xBinary_settings _ _ _

theorem execMin_settings (r : Xr) (s : State) : OutKeeps s.settings (execMin r s) :=
  xBinary_settings _ _ _

theorem execMax_settings (r : Xr) (s : State) : OutKeeps s.settings (execMax r s) :=
  xBinary_settings _ _ _

theorem execMinu_settings (r : Xr) (s : State) : OutKeeps s.settings (execMinu r s) :=
  xBinary_settings _ _ _

theorem execMaxu_settings (r : Xr) (s : State) : OutKeeps s.settings (execMaxu r s) :=
  xBinary_settings _ _ _

theorem execClz_settings (r : Xr) (s : State) : OutKeeps s.settings (execClz r s) :=
  xUnary_settings _ _ _

theorem execCtz_settings (r : Xr) (s : State) : OutKeeps s.settings (execCtz r s) :=
  xUnary_settings _ _ _

theorem execPopc_settings (r : Xr) (s : State) : OutKeeps s.settings (execPopc r s) :=
  xUnary_settings _ _ _

theorem execSext_settings (r : Xr) (s : State) : OutKeeps s.settings (execSext r s) :=
  xUnary_settings _ _ _

theorem execZext_settings (r : Xr) (s : State) : OutKeeps s.settings (execZext r s) :=
  xUnary_settings _ _ _

theorem execMov_settings (r : Xr) (s : State) : OutKeeps s.settings (execMov r s) :=
  xUnary_settings _ _ _

theorem execMul_settings (r : Xr) (s : State) : OutKeeps s.settings (execMul r s) :=
  xBinary_settings _ _ _

theorem execMulh_settings (r : Xr) (s : State) : OutKeeps s.settings (execMulh r s) :=
  xBinary_settings _ _ _

theorem execMulhu_settings (r : Xr) (s : State) : OutKeeps s.settings (execMulhu r s) :=
  xBinary_settings _ _ _

theorem execMulhsu_settings (r : Xr) (s : State) : OutKeeps s.settings (execMulhsu r s) :=
  xBinary_settings _ _ _

theorem execMad_settings (r : Xr) (s : State) : OutKeeps s.settings (execMad r s) :=
  xWord_settings (fun t => putX_settings _ _ _ _ _)

theorem execDiv_settings (r : Xr) (s : State) : OutKeeps s.settings (execDiv r s) :=
  xBinary_settings _ _ _

theorem execDivu_settings (r : Xr) (s : State) : OutKeeps s.settings (execDivu r s) :=
  xBinary_settings _ _ _

theorem execRem_settings (r : Xr) (s : State) : OutKeeps s.settings (execRem r s) :=
  xBinary_settings _ _ _

theorem execRemu_settings (r : Xr) (s : State) : OutKeeps s.settings (execRemu r s) :=
  xBinary_settings _ _ _

theorem execCeq_settings (r : Xr) (s : State) : OutKeeps s.settings (execCeq r s) :=
  xCompare_settings _ _ _

theorem execCne_settings (r : Xr) (s : State) : OutKeeps s.settings (execCne r s) :=
  xCompare_settings _ _ _

theorem execClt_settings (r : Xr) (s : State) : OutKeeps s.settings (execClt r s) :=
  xCompare_settings _ _ _

theorem execCle_settings (r : Xr) (s : State) : OutKeeps s.settings (execCle r s) :=
  xCompare_settings _ _ _

theorem execCltu_settings (r : Xr) (s : State) : OutKeeps s.settings (execCltu r s) :=
  xCompare_settings _ _ _

theorem execCleu_settings (r : Xr) (s : State) : OutKeeps s.settings (execCleu r s) :=
  xCompare_settings _ _ _

theorem execPand_settings (r : Xr) (s : State) : OutKeeps s.settings (execPand r s) :=
  xPredicate_settings _ _ _

theorem execPor_settings (r : Xr) (s : State) : OutKeeps s.settings (execPor r s) :=
  xPredicate_settings _ _ _

theorem execPxor_settings (r : Xr) (s : State) : OutKeeps s.settings (execPxor r s) :=
  xPredicate_settings _ _ _

theorem execPandn_settings (r : Xr) (s : State) : OutKeeps s.settings (execPandn r s) :=
  xPredicate_settings _ _ _

theorem execPnand_settings (r : Xr) (s : State) : OutKeeps s.settings (execPnand r s) :=
  xPredicate_settings _ _ _

theorem execPnor_settings (r : Xr) (s : State) : OutKeeps s.settings (execPnor r s) :=
  xPredicate_settings _ _ _

theorem execPget_settings (r : Xr) (s : State) : OutKeeps s.settings (execPget r s) :=
  xWord_settings (fun t => putX_settings _ _ _ _ _)

theorem execPput_settings (r : Xr) (s : State) : OutKeeps s.settings (execPput r s) :=
  xWord_settings (fun t => putP_settings _ _ _ _ _)

theorem execSel_settings (r : Xr) (s : State) : OutKeeps s.settings (execSel r s) :=
  xWord_settings (fun t => putX_settings _ _ _ _ _)

theorem execAddi_settings (r : Xi) (s : State) : OutKeeps s.settings (execAddi r s) :=
  xImmediate_settings _ _ _

theorem execAndi_settings (r : Xi) (s : State) : OutKeeps s.settings (execAndi r s) :=
  xImmediate_settings _ _ _

theorem execOri_settings (r : Xi) (s : State) : OutKeeps s.settings (execOri r s) :=
  xImmediate_settings _ _ _

theorem execXori_settings (r : Xi) (s : State) : OutKeeps s.settings (execXori r s) :=
  xImmediate_settings _ _ _

theorem execSlli_settings (r : Xi) (s : State) : OutKeeps s.settings (execSlli r s) :=
  xImmediate_settings _ _ _

theorem execSrli_settings (r : Xi) (s : State) : OutKeeps s.settings (execSrli r s) :=
  xImmediate_settings _ _ _

theorem execSrai_settings (r : Xi) (s : State) : OutKeeps s.settings (execSrai r s) :=
  xImmediate_settings _ _ _

theorem execRoli_settings (r : Xi) (s : State) : OutKeeps s.settings (execRoli r s) :=
  xImmediate_settings _ _ _

theorem execMini_settings (r : Xi) (s : State) : OutKeeps s.settings (execMini r s) :=
  xImmediate_settings _ _ _

theorem execMaxi_settings (r : Xi) (s : State) : OutKeeps s.settings (execMaxi r s) :=
  xImmediate_settings _ _ _

theorem execMuli_settings (r : Xi) (s : State) : OutKeeps s.settings (execMuli r s) :=
  xImmediate_settings _ _ _

theorem execCeqi_settings (r : Xi) (s : State) : OutKeeps s.settings (execCeqi r s) :=
  xCompareImm_settings _ _ _

theorem execCnei_settings (r : Xi) (s : State) : OutKeeps s.settings (execCnei r s) :=
  xCompareImm_settings _ _ _

theorem execClti_settings (r : Xi) (s : State) : OutKeeps s.settings (execClti r s) :=
  xCompareImm_settings _ _ _

theorem execClei_settings (r : Xi) (s : State) : OutKeeps s.settings (execClei r s) :=
  xCompareImm_settings _ _ _

theorem execCltui_settings (r : Xi) (s : State) : OutKeeps s.settings (execCltui r s) :=
  xCompareImm_settings _ _ _

theorem execCleui_settings (r : Xi) (s : State) : OutKeeps s.settings (execCleui r s) :=
  xCompareImm_settings _ _ _

@[simp] theorem xConst_settings (use : Nat) (f : BitVec 32 → Word → Word) (r : Xk) (s : State) : (xConst use f r s).settings = s.settings :=
  xWord_settings (fun t => putX_settings _ _ _ _ _)

theorem execMovi_settings (r : Xk) (s : State) : OutKeeps s.settings (execMovi r s) :=
  xConst_settings _ _ _ _

theorem execMovu_settings (r : Xk) (s : State) : OutKeeps s.settings (execMovu r s) :=
  xConst_settings _ _ _ _

theorem execMovh_settings (r : Xk) (s : State) : OutKeeps s.settings (execMovh r s) :=
  xConst_settings _ _ _ _

@[simp] theorem xFloat_settings (f : Nat → Nat → Nat → Nat × Flags) (r : Xr) (s : State) : (xFloat f r s).settings = s.settings :=
  xWord_settings (fun t => putX_settings _ _ _ _ _)

@[simp] theorem xFloatCmp_settings (f : FV → FV → Bool × Flags) (r : Xr) (s : State) : (xFloatCmp f r s).settings = s.settings :=
  xWord_settings (fun t => putP_settings _ _ _ _ _)

theorem execFadd_settings (r : Xr) (s : State) : OutKeeps s.settings (execFadd r s) :=
  xFloat_settings _ _ _

theorem execFsub_settings (r : Xr) (s : State) : OutKeeps s.settings (execFsub r s) :=
  xFloat_settings _ _ _

theorem execFmul_settings (r : Xr) (s : State) : OutKeeps s.settings (execFmul r s) :=
  xFloat_settings _ _ _

theorem execFdiv_settings (r : Xr) (s : State) : OutKeeps s.settings (execFdiv r s) :=
  xFloat_settings _ _ _

theorem execFsqrt_settings (r : Xr) (s : State) : OutKeeps s.settings (execFsqrt r s) :=
  xFloat_settings _ _ _

theorem execFmin_settings (r : Xr) (s : State) : OutKeeps s.settings (execFmin r s) :=
  xFloat_settings _ _ _

theorem execFmax_settings (r : Xr) (s : State) : OutKeeps s.settings (execFmax r s) :=
  xFloat_settings _ _ _

theorem execFma_settings (r : Xr) (s : State) : OutKeeps s.settings (execFma r s) :=
  xFloat_settings _ _ _

theorem execFms_settings (r : Xr) (s : State) : OutKeeps s.settings (execFms r s) :=
  xFloat_settings _ _ _

theorem execFnma_settings (r : Xr) (s : State) : OutKeeps s.settings (execFnma r s) :=
  xFloat_settings _ _ _

theorem execFabs_settings (r : Xr) (s : State) : OutKeeps s.settings (execFabs r s) :=
  xFloat_settings _ _ _

theorem execFneg_settings (r : Xr) (s : State) : OutKeeps s.settings (execFneg r s) :=
  xFloat_settings _ _ _

theorem execFsgnj_settings (r : Xr) (s : State) : OutKeeps s.settings (execFsgnj r s) :=
  xFloat_settings _ _ _

theorem execFeq_settings (r : Xr) (s : State) : OutKeeps s.settings (execFeq r s) :=
  xFloatCmp_settings _ _ _

theorem execFlt_settings (r : Xr) (s : State) : OutKeeps s.settings (execFlt r s) :=
  xFloatCmp_settings _ _ _

theorem execFle_settings (r : Xr) (s : State) : OutKeeps s.settings (execFle r s) :=
  xFloatCmp_settings _ _ _

theorem execFun_settings (r : Xr) (s : State) : OutKeeps s.settings (execFun r s) :=
  xFloatCmp_settings _ _ _

theorem execFclass_settings (r : Xr) (s : State) : OutKeeps s.settings (execFclass r s) :=
  xFloat_settings _ _ _

@[simp] theorem xConvert_settings (f : Nat → Nat × Flags) (ext : Nat → Word) (r : Xr) (s : State) : (xConvert f ext r s).settings = s.settings :=
  xWord_settings (fun t => putX_settings _ _ _ _ _)

theorem execFcvt_settings (r : Xr) (s : State) : OutKeeps s.settings (execFcvt r s) :=
  xConvert_settings _ _ _ _

theorem execFcvti_settings (r : Xr) (s : State) : OutKeeps s.settings (execFcvti r s) :=
  xConvert_settings _ _ _ _

theorem execIcvtf_settings (r : Xr) (s : State) : OutKeeps s.settings (execIcvtf r s) :=
  xConvert_settings _ _ _ _

theorem xOrdered_settings {s : State} {f : State → WordEnd} (h : EndKeeps s.settings (f s)) : EndKeeps s.settings (s.xOrdered f) := by
  unfold State.xOrdered
  split
  · exact h
  · rfl

@[simp] theorem xFar_settings (s : State) (kind : GlobalKind) (va pa size : Nat) : EndKeeps s.settings (s.xFar kind va pa size) :=
  rfl

@[simp] theorem xLoadStore_settings (s : State) (n : Nat) (sext : Bool) (r : Xi) : EndKeeps s.settings (s.xLoadStore n sext r) := by
  unfold State.xLoadStore
  (repeat' split) <;> first | trivial | exact (putX_settings _ _ _ _ _).trans (postStore_settings _ _ _ _)

@[simp] theorem xStoreStore_settings (s : State) (n : Nat) (r : Xi) : EndKeeps s.settings (s.xStoreStore n r) := by
  unfold State.xStoreStore
  split
  · trivial
  · rename_i a _
    dsimp only
    have h : (if n = 8 ∧ a % 8 = 0 then s.sWriteWords s.who a [s.rawX 1 r.d.toNat] else s.sWrite s.who a (toBytes n (s.getX 1 r.d.toNat).toNat)).1.settings = s.settings := by
      split <;> simp
    split <;> rename_i e <;> first | trivial | (rw [e] at h; exact h)

theorem execLds_settings (fn : BitVec 6) (r : Xi) (s : State) : OutKeeps s.settings (execLds fn r s) := by
  unfold execLds
  show State.settings _ = _
  (repeat' (first | refine xWord_settings (fun t => ?_) | refine xOrdered_settings ?_ | split | dsimp only)) <;> first | trivial | rfl | exact xLoadStore_settings _ _ _ _

theorem execLdsx_settings (fn : BitVec 6) (r : Xi) (s : State) : OutKeeps s.settings (execLdsx fn r s) := by
  unfold execLdsx
  show State.settings _ = _
  (repeat' (first | refine xWord_settings (fun t => ?_) | refine xOrdered_settings ?_ | split | dsimp only)) <;> first | trivial | rfl | exact xLoadStore_settings _ _ _ _

theorem execSts_settings (fn : BitVec 6) (r : Xi) (s : State) : OutKeeps s.settings (execSts fn r s) := by
  unfold execSts
  show State.settings _ = _
  (repeat' (first | refine xWord_settings (fun t => ?_) | refine xOrdered_settings ?_ | split | dsimp only)) <;> first | trivial | rfl | exact xStoreStore_settings _ _ _

@[simp] theorem xLoadGlobal_settings (s : State) (n : Nat) (r : Xr) : EndKeeps s.settings (s.xLoadGlobal n r) := by
  unfold State.xLoadGlobal
  dsimp only
  (repeat' split)
  all_goals (try have k0 := gRead_settings' ‹_›)
  all_goals first | trivial | rfl | assumption | exact setX_settings _ _ _ | exact xFar_settings _ _ _ _ _ | exact gRead_settings _ _ _ _ _ | exact (setX_settings _ _ _).trans ‹_›

@[simp] theorem xStoreGlobal_settings (s : State) (n : Nat) (r : Xr) : EndKeeps s.settings (s.xStoreGlobal n r) := by
  unfold State.xStoreGlobal
  extract_lets a bs whole
  have h : (if whole then s.gWriteWords s.who a [s.rawX 2 r.d.toNat] else s.gWrite s.who a bs).1.settings = s.settings := by
    split <;> simp
  split <;> rename_i e <;> first | trivial | rw [e] at h
  · exact h
  · split
    · exact (mgmtWrite_settings _ _ _).trans h
    · trivial
  · exact h ▸ xFar_settings _ _ _ _ _

theorem execLdg_settings (fn : BitVec 6) (r : Xr) (s : State) : OutKeeps s.settings (execLdg fn r s) := by
  unfold execLdg
  show State.settings _ = _
  (repeat' (first | refine xWord_settings (fun t => ?_) | refine xOrdered_settings ?_ | split | dsimp only)) <;> first | trivial | rfl | exact xLoadGlobal_settings _ _ _

theorem execStg_settings (fn : BitVec 6) (r : Xr) (s : State) : OutKeeps s.settings (execStg fn r s) := by
  unfold execStg
  show State.settings _ = _
  (repeat' (first | refine xWord_settings (fun t => ?_) | refine xOrdered_settings ?_ | split | dsimp only)) <;> first | trivial | rfl | exact xStoreGlobal_settings _ _ _

@[simp] theorem atomicAt_settings (s : State) (d pa op ty b c : Nat) : (s.atomicAt d pa op ty b c).1.settings = s.settings := by
  unfold State.atomicAt
  dsimp only
  (repeat' split)
  all_goals (try have k0 := physStore_settings ‹_›)
  all_goals first | trivial | rfl | assumption | simp only [postPhys_settings, note_settings, *]

theorem atomicAt_settings' {s : State} {d pa op ty b c : Nat} {t' r'} (h' : (s.atomicAt d pa op ty b c) = (t', r')) : t'.settings = s.settings := by
  have e := atomicAt_settings s d pa op ty b c
  rw [h'] at e
  exact e

@[simp] theorem atomic_settings (s : State) (w : Who) (va op ty b c : Nat) : (s.atomic w va op ty b c).1.settings = s.settings := by
  unfold State.atomic
  have h := translateAll_settings s w needRW [(va, tyWidth ty / 8)]
  split <;> rename_i e <;> rw [e] at h <;> first | exact h | exact (atomicAt_settings _ _ _ _ _ _ _).trans h

theorem atomic_settings' {s : State} {w : Who} {va op ty b c : Nat} {t' r'} (h' : (s.atomic w va op ty b c) = (t', r')) : t'.settings = s.settings := by
  have e := atomic_settings s w va op ty b c
  rw [h'] at e
  exact e

@[simp] theorem xAmoAt_settings (s : State) (op : Nat) (r : Xr) : EndKeeps s.settings (s.xAmoAt op r) := by
  have h : ∀ (u : State) d v f, ((u.setX d v).orFlags false f).settings = u.settings := fun u d v f => (orFlags_settings _ _ _).trans (setX_settings _ _ _)
  unfold State.xAmoAt
  dsimp only
  split
  · trivial
  · split <;> first | trivial | (rename_i e; have k := atomic_settings' e)
    · exact (h _ _ _ _).trans k
    · split
      · refine (h _ _ _ _).trans ?_
        split
        · exact k
        · exact (mgmtWrite_settings _ _ _).trans k
      · trivial
    · split
      · exact k
      · trivial

@[simp] theorem xAmo_settings (op : Nat) (r : Xr) (s : State) : (xAmo op r s).settings = s.settings := by
  unfold xAmo
  (repeat' (first | refine xWord_settings (fun t => ?_) | refine xOrdered_settings ?_ | split | dsimp only)) <;> first | trivial | rfl | exact xAmoAt_settings _ _ _

theorem execAmoAdd_settings (r : Xr) (s : State) : OutKeeps s.settings (execAmoAdd r s) :=
  xAmo_settings _ _ _

theorem execAmoAnd_settings (r : Xr) (s : State) : OutKeeps s.settings (execAmoAnd r s) :=
  xAmo_settings _ _ _

theorem execAmoOr_settings (r : Xr) (s : State) : OutKeeps s.settings (execAmoOr r s) :=
  xAmo_settings _ _ _

theorem execAmoXor_settings (r : Xr) (s : State) : OutKeeps s.settings (execAmoXor r s) :=
  xAmo_settings _ _ _

theorem execAmoMin_settings (r : Xr) (s : State) : OutKeeps s.settings (execAmoMin r s) :=
  xAmo_settings _ _ _

theorem execAmoMax_settings (r : Xr) (s : State) : OutKeeps s.settings (execAmoMax r s) :=
  xAmo_settings _ _ _

theorem execAmoSwap_settings (r : Xr) (s : State) : OutKeeps s.settings (execAmoSwap r s) :=
  xAmo_settings _ _ _

theorem execAmoCas_settings (r : Xr) (s : State) : OutKeeps s.settings (execAmoCas r s) :=
  xAmo_settings _ _ _

theorem execAmoFadd_settings (r : Xr) (s : State) : OutKeeps s.settings (execAmoFadd r s) :=
  xAmo_settings _ _ _

theorem execAmoFmax_settings (r : Xr) (s : State) : OutKeeps s.settings (execAmoFmax r s) :=
  xAmo_settings _ _ _

theorem execAmoMaxx_settings (r : Xr) (s : State) : OutKeeps s.settings (execAmoMaxx r s) :=
  xAmo_settings _ _ _

theorem execPop_settings (r : Xr) (s : State) : OutKeeps s.settings (execPop r s) :=
  xWord_settings (fun t => by
    dsimp only
    (repeat' split) <;> first | trivial | rfl | exact setRawX_settings _ _ _)

theorem execPush_settings (r : Xr) (s : State) : OutKeeps s.settings (execPush r s) :=
  xWord_settings (fun t => by
    dsimp only
    (repeat' split) <;> first | trivial)

theorem execFence_settings (r : Xr) (s : State) : OutKeeps s.settings (execFence r s) := by
  unfold execFence
  show State.settings _ = _
  (repeat' (first | refine xWord_settings (fun t => ?_) | refine xOrdered_settings ?_ | split | dsimp only)) <;> first | trivial

@[simp] theorem bankSwitch_settings (s : State) (k : Nat) (mode : BankMode) (use shape : Nat) : (s.bankSwitch k mode use shape).settings = s.settings := by
  unfold State.bankSwitch
  dsimp only
  (repeat' split) <;> first | rfl

theorem execBankMode_settings (r : Xi) (s : State) : OutKeeps s.settings (execBankMode r s) :=
  xWord_settings (fun t => by
    dsimp only
    (repeat' split) <;> first | trivial | rfl | exact bankSwitch_settings _ _ _ _ _)

@[simp] theorem putS_settings (s : State) (d hi lo v : Nat) : (s.putS d hi lo v).settings = s.settings :=
  rfl

@[simp] theorem xVset_settings (r : Xs) (use hi lo : Nat) (f : State → Nat) (s : State) : (xVset r use hi lo f s).settings = s.settings :=
  xWord_settings (fun t => putS_settings t _ _ _ _)

theorem execVsetb_settings (r : Xs) (s : State) : OutKeeps s.settings (execVsetb r s) :=
  xVset_settings _ _ _ _ _ _

theorem execVsets_settings (r : Xs) (s : State) : OutKeeps s.settings (execVsets r s) :=
  xVset_settings _ _ _ _ _ _

theorem execVsetn_settings (r : Xs) (s : State) : OutKeeps s.settings (execVsetn r s) :=
  xVset_settings _ _ _ _ _ _

theorem execVsett_settings (r : Xs) (s : State) : OutKeeps s.settings (execVsett r s) :=
  xVset_settings _ _ _ _ _ _

@[simp] theorem xVget_settings (r : Xs) (f : Desc → Nat) (s : State) : (xVget r f s).settings = s.settings :=
  xWord_settings (fun t => putX_settings _ _ _ _ _)

theorem execVgetb_settings (r : Xs) (s : State) : OutKeeps s.settings (execVgetb r s) :=
  xVget_settings _ _ _

theorem execVgetn_settings (r : Xs) (s : State) : OutKeeps s.settings (execVgetn r s) :=
  xVget_settings _ _ _

@[simp] theorem vPush_settings (s : State) (v : VCmd) : (s.vPush v).settings = s.settings :=
  rfl

@[simp] theorem vIssue_settings (s : State) (ok : State → VCmd → Bool) (extra : State → VCmd → Option Nat) (v : VCmd) : EndKeeps s.settings (s.vIssue ok extra v) := by
  unfold State.vIssue
  (repeat' split) <;> first | trivial

@[simp] theorem xVector_settings (op fn : Nat) (r : Xs) (s : State) : (xVector op fn r s).settings = s.settings :=
  xWord_settings (fun t => vIssue_settings _ _ _ _)

theorem execVadd_settings (r : Xs) (s : State) : OutKeeps s.settings (execVadd r s) :=
  xVector_settings _ _ _ _

theorem execVsub_settings (r : Xs) (s : State) : OutKeeps s.settings (execVsub r s) :=
  xVector_settings _ _ _ _

theorem execVmul_settings (r : Xs) (s : State) : OutKeeps s.settings (execVmul r s) :=
  xVector_settings _ _ _ _

theorem execVdiv_settings (r : Xs) (s : State) : OutKeeps s.settings (execVdiv r s) :=
  xVector_settings _ _ _ _

theorem execVmin_settings (r : Xs) (s : State) : OutKeeps s.settings (execVmin r s) :=
  xVector_settings _ _ _ _

theorem execVmax_settings (r : Xs) (s : State) : OutKeeps s.settings (execVmax r s) :=
  xVector_settings _ _ _ _

theorem execVfma_settings (r : Xs) (s : State) : OutKeeps s.settings (execVfma r s) :=
  xVector_settings _ _ _ _

theorem execVfms_settings (r : Xs) (s : State) : OutKeeps s.settings (execVfms r s) :=
  xVector_settings _ _ _ _

theorem execVfnma_settings (r : Xs) (s : State) : OutKeeps s.settings (execVfnma r s) :=
  xVector_settings _ _ _ _

theorem execVand_settings (r : Xs) (s : State) : OutKeeps s.settings (execVand r s) :=
  xVector_settings _ _ _ _

theorem execVor_settings (r : Xs) (s : State) : OutKeeps s.settings (execVor r s) :=
  xVector_settings _ _ _ _

theorem execVxor_settings (r : Xs) (s : State) : OutKeeps s.settings (execVxor r s) :=
  xVector_settings _ _ _ _

theorem execVsll_settings (r : Xs) (s : State) : OutKeeps s.settings (execVsll r s) :=
  xVector_settings _ _ _ _

theorem execVsrl_settings (r : Xs) (s : State) : OutKeeps s.settings (execVsrl r s) :=
  xVector_settings _ _ _ _

theorem execVsra_settings (r : Xs) (s : State) : OutKeeps s.settings (execVsra r s) :=
  xVector_settings _ _ _ _

theorem execVabd_settings (r : Xs) (s : State) : OutKeeps s.settings (execVabd r s) :=
  xVector_settings _ _ _ _

theorem execVmov_settings (r : Xs) (s : State) : OutKeeps s.settings (execVmov r s) :=
  xVector_settings _ _ _ _

theorem execVneg_settings (r : Xs) (s : State) : OutKeeps s.settings (execVneg r s) :=
  xVector_settings _ _ _ _

theorem execVabs_settings (r : Xs) (s : State) : OutKeeps s.settings (execVabs r s) :=
  xVector_settings _ _ _ _

theorem execVrcp_settings (r : Xs) (s : State) : OutKeeps s.settings (execVrcp r s) :=
  xVector_settings _ _ _ _

theorem execVsqrt_settings (r : Xs) (s : State) : OutKeeps s.settings (execVsqrt r s) :=
  xVector_settings _ _ _ _

theorem execVrsqrt_settings (r : Xs) (s : State) : OutKeeps s.settings (execVrsqrt r s) :=
  xVector_settings _ _ _ _

theorem execVexp_settings (r : Xs) (s : State) : OutKeeps s.settings (execVexp r s) :=
  xVector_settings _ _ _ _

theorem execVexp2_settings (r : Xs) (s : State) : OutKeeps s.settings (execVexp2 r s) :=
  xVector_settings _ _ _ _

theorem execVlog2_settings (r : Xs) (s : State) : OutKeeps s.settings (execVlog2 r s) :=
  xVector_settings _ _ _ _

theorem execVtanh_settings (r : Xs) (s : State) : OutKeeps s.settings (execVtanh r s) :=
  xVector_settings _ _ _ _

theorem execVsigm_settings (r : Xs) (s : State) : OutKeeps s.settings (execVsigm r s) :=
  xVector_settings _ _ _ _

theorem execVadds_settings (r : Xs) (s : State) : OutKeeps s.settings (execVadds r s) :=
  xVector_settings _ _ _ _

theorem execVsubs_settings (r : Xs) (s : State) : OutKeeps s.settings (execVsubs r s) :=
  xVector_settings _ _ _ _

theorem execVmuls_settings (r : Xs) (s : State) : OutKeeps s.settings (execVmuls r s) :=
  xVector_settings _ _ _ _

theorem execVmins_settings (r : Xs) (s : State) : OutKeeps s.settings (execVmins r s) :=
  xVector_settings _ _ _ _

theorem execVmaxs_settings (r : Xs) (s : State) : OutKeeps s.settings (execVmaxs r s) :=
  xVector_settings _ _ _ _

theorem execVfmas_settings (r : Xs) (s : State) : OutKeeps s.settings (execVfmas r s) :=
  xVector_settings _ _ _ _

theorem execVfill_settings (r : Xs) (s : State) : OutKeeps s.settings (execVfill r s) :=
  xVector_settings _ _ _ _

theorem execVceq_settings (r : Xs) (s : State) : OutKeeps s.settings (execVceq r s) :=
  xVector_settings _ _ _ _

theorem execVcne_settings (r : Xs) (s : State) : OutKeeps s.settings (execVcne r s) :=
  xVector_settings _ _ _ _

theorem execVclt_settings (r : Xs) (s : State) : OutKeeps s.settings (execVclt r s) :=
  xVector_settings _ _ _ _

theorem execVcle_settings (r : Xs) (s : State) : OutKeeps s.settings (execVcle r s) :=
  xVector_settings _ _ _ _

theorem execVsel_settings (r : Xs) (s : State) : OutKeeps s.settings (execVsel r s) :=
  xVector_settings _ _ _ _

theorem execVcvt_settings (r : Xs) (s : State) : OutKeeps s.settings (execVcvt r s) :=
  xVector_settings _ _ _ _

theorem execVqJ4_settings (r : Xs) (s : State) : OutKeeps s.settings (execVqJ4 r s) :=
  xVector_settings _ _ _ _

theorem execVdqJ4_settings (r : Xs) (s : State) : OutKeeps s.settings (execVdqJ4 r s) :=
  xVector_settings _ _ _ _

theorem execVsum_settings (r : Xs) (s : State) : OutKeeps s.settings (execVsum r s) :=
  xVector_settings _ _ _ _

theorem execVmaxr_settings (r : Xs) (s : State) : OutKeeps s.settings (execVmaxr r s) :=
  xVector_settings _ _ _ _

theorem execVminr_settings (r : Xs) (s : State) : OutKeeps s.settings (execVminr r s) :=
  xVector_settings _ _ _ _

theorem execVamax_settings (r : Xs) (s : State) : OutKeeps s.settings (execVamax r s) :=
  xVector_settings _ _ _ _

theorem execVdot_settings (r : Xs) (s : State) : OutKeeps s.settings (execVdot r s) :=
  xVector_settings _ _ _ _

theorem execVrev_settings (r : Xs) (s : State) : OutKeeps s.settings (execVrev r s) :=
  xVector_settings _ _ _ _

theorem execVbcast_settings (r : Xs) (s : State) : OutKeeps s.settings (execVbcast r s) :=
  xVector_settings _ _ _ _

theorem execVscan_settings (r : Xs) (s : State) : OutKeeps s.settings (execVscan r s) :=
  xVector_settings _ _ _ _

theorem execVidx_settings (r : Xs) (s : State) : OutKeeps s.settings (execVidx r s) :=
  xVector_settings _ _ _ _

theorem execVperm_settings (r : Xs) (s : State) : OutKeeps s.settings (execVperm r s) :=
  xVector_settings _ _ _ _

theorem execVtrans_settings (r : Xs) (s : State) : OutKeeps s.settings (execVtrans r s) :=
  xVector_settings _ _ _ _

theorem execVdefer_settings (r : Xs) (s : State) : OutKeeps s.settings (execVdefer r s) :=
  xVector_settings _ _ _ _

theorem execVdrain_settings (r : Xs) (s : State) : OutKeeps s.settings (execVdrain r s) :=
  xVector_settings _ _ _ _

theorem execVchain_settings (r : Xc) (s : State) : OutKeeps s.settings (execVchain r s) :=
  xWordN_settings (fun t => vIssue_settings _ _ _ _)

@[simp] theorem engineAsk_settings (s : State) (word addr : Word) (cause data : Nat) (syn : BitVec 8) : (s.engineAsk word addr cause data syn).settings = s.settings := by
  unfold State.engineAsk
  split <;> rfl

@[simp] theorem transients_settings (s : State) (l : List (Nat × BitVec 8)) : (s.transients l).settings = s.settings :=
  foldl_settings (fun s x => by simp) _ _

theorem storeAttempt_settings {r : State × Got Unit} {v} (h : storeAttempt r = .ok v) : v.settings = r.1.settings := by
  obtain ⟨u, _, h⟩ := andThen_ok h
  cases h
  rfl

theorem elemWrite_settings {s : State} {d : Desc} {ty j p : Nat} {v'} (h' : (s.elemWrite d ty j p) = .ok v') : v'.settings = s.settings := by
  unfold State.elemWrite at h'
  dsimp only at h'
  split at h'
  · cases h'
  · split at h'
    · obtain ⟨u, _, h'⟩ := andThen_ok h'
      exact (storeAttempt_settings h').trans (sWrite_settings _ _ _ _)
    · exact (storeAttempt_settings h').trans (sWrite_settings _ _ _ _)

theorem elemsWrite_settings {s : State} {d : Desc} {ty : Nat} {l : List (Nat × Nat)} {v} (h : s.elemsWrite d ty l = .ok v) : v.settings = s.settings := by
  induction l generalizing s with
  | nil => cases h; rfl
  | cons a r ih =>
    obtain ⟨j, p⟩ := a
    unfold State.elemsWrite at h
    obtain ⟨u, e, h⟩ := andThen_ok h
    exact (ih h).trans (elemWrite_settings e)

@[simp] theorem postElems_settings (s : State) (d : Desc) (ty : Nat) (js : List Nat) : (s.postElems d ty js).settings = s.settings := by
  unfold State.postElems
  exact foldl_settings (fun s j => by
    dsimp only
    split <;> simp) _ _

@[simp] theorem gather_settings (s : State) (v : VCmd) : (s.gather v).1.settings = s.settings := by
  unfold State.gather
  exact foldl_pair_settings (fun s o => by dsimp only; split <;> first | rfl | exact qTake_settings _ _ _) _ _

theorem gather_settings' {s : State} {v : VCmd} {t' r'} (h' : (s.gather v) = (t', r')) : t'.settings = s.settings := by
  have e := gather_settings s v
  rw [h'] at e
  exact e

@[simp] theorem spend_settings (s : State) (v : VCmd) (m : Nat) : (s.spend v m).1.settings = s.settings := by
  unfold State.spend
  exact foldl_pair_settings (fun s o => fixed_settings _ _) _ _

theorem spend_settings' {s : State} {v : VCmd} {m : Nat} {t' r'} (h' : (s.spend v m) = (t', r')) : t'.settings = s.settings := by
  have e := spend_settings s v m
  rw [h'] at e
  exact e

theorem srcElems_settings {s : State} {v : VCmd} {o : Operand} {j m : Nat} {v'} (h' : (s.srcElems v o j m) = .ok v') : v'.1.settings = s.settings := by
  unfold State.srcElems at h'
  dsimp only at h'
  split at h'
  · obtain ⟨u, _, h'⟩ := andThen_ok h'
    cases h'
    exact postElems_settings _ _ _ _
  · split at h' <;> cases h'
    rfl

theorem srcsElems_settings {s : State} {v : VCmd} {j m : Nat} {l : List Operand} {v'} (h' : (s.srcsElems v j m l) = .ok v') : v'.1.settings = s.settings := by
  induction l generalizing s v' with
  | nil => cases h'; rfl
  | cons o r ih =>
    unfold State.srcsElems at h'
    obtain ⟨x, e, h'⟩ := andThen_ok h'
    obtain ⟨y, e2, h'⟩ := andThen_ok h'
    cases h'
    exact (ih e2).trans (srcElems_settings e)

theorem deferApply_settings {s : State} {v'} (h' : (s.deferApply) = .ok v') : v'.1.settings = s.settings := by
  unfold State.deferApply at h'
  dsimp only at h'
  split at h'
  · cases h'; rfl
  · split at h'
    · cases h'
    · split at h'
      · cases h'
        simp
      · obtain ⟨x, _, h'⟩ := andThen_ok h'
        obtain ⟨y, e, h'⟩ := andThen_ok h'
        cases h'
        exact (setOwn_settings _ _).trans ((elemWrite_settings e).trans (by simp))

theorem granuleWrite_settings {s : State} {w : VCmd} {l : List (Operand × Nat × List Nat)} {v} (h : s.granuleWrite w l = .ok v) :
    v.1.settings = s.settings := by
  induction l generalizing s w with
  | nil => cases h; rfl
  | cons a r ih =>
    obtain ⟨o, j, ps⟩ := a
    unfold State.granuleWrite at h
    split at h
    · obtain ⟨x, e, h⟩ := andThen_ok h
      exact (ih h).trans (elemsWrite_settings e)
    · exact ih h

@[simp] theorem pushHeld_settings (s : State) (v : VCmd) : (s.pushHeld v).1.settings = s.settings := by
  unfold State.pushHeld
  exact foldl_pair_settings (fun s o => by exact qPush_settings _ _ _) _ _

theorem pushHeld_settings' {s : State} {v : VCmd} {t' r'} (h' : (s.pushHeld v) = (t', r')) : t'.settings = s.settings := by
  have e := pushHeld_settings s v
  rw [h'] at e
  exact e

@[simp] theorem windowEnd_settings (s : State) (v : VCmd) (m : Nat) : (s.windowEnd v m).1.settings = s.settings := by
  unfold State.windowEnd
  simp

theorem windowEnd_settings' {s : State} {v : VCmd} {m : Nat} {t' r'} (h' : (s.windowEnd v m) = (t', r')) : t'.settings = s.settings := by
  have e := windowEnd_settings s v m
  rw [h'] at e
  exact e

theorem columns_settings {s : State} {v : VCmd} {ops : List Operand} {j m : Nat} {v'} (h' : (s.columns v ops j m) = .ok v') : v'.1.settings = s.settings := by
  unfold State.columns at h'
  split at h'
  · rename_i e
    cases h'
    exact srcsElems_settings e
  · rename_i a ha
    rcases e : ((from' j m).map (fun i => s.srcsElems v i 1 ops)).find? (fun b => !b.came) with _ | b
    · rw [e] at h'
      exact absurd h' (ha v')
    · rw [e] at h'
      cases h'
      have := List.find?_some e
      simp [Attempt.came] at this

theorem spanGranule_settings {s : State} {v : VCmd} {j m : Nat} {g} (h : s.spanGranule v j m = .ok g) : g.s.settings = s.settings := by
  unfold State.spanGranule at h
  dsimp only at h
  split at h
  · obtain ⟨x, e, h⟩ := andThen_ok h
    cases h
    have k := srcElems_settings e
    exact k
  · split at h
    · obtain ⟨x, e, h⟩ := andThen_ok h
      cases h
      have k := srcsElems_settings e
      exact k
    · split at h
      · split at h
        · obtain ⟨x, e, h⟩ := andThen_ok h
          cases h
          exact postElems_settings _ _ _ _
        · obtain ⟨x, e, h⟩ := andThen_ok h
          cases h
          exact postElems_settings _ _ _ _
        · obtain ⟨x, e, h⟩ := andThen_ok h
          cases h
          have k := srcElems_settings e
          exact k
        · cases h
          rfl
        · obtain ⟨x, e, h⟩ := andThen_ok h
          obtain ⟨y, _, h⟩ := andThen_ok h
          cases h
          have k := srcElems_settings e
          exact (postElems_settings _ _ _ _).trans k
        · obtain ⟨x, e, h⟩ := andThen_ok h
          cases h
          exact postElems_settings _ _ _ _
      · obtain ⟨x, e, h⟩ := andThen_ok h
        cases h
        have k := srcsElems_settings e
        exact k

theorem spanAttempt_settings {s : State} {w : VCmd} {m : Nat} {v} (h : s.spanAttempt w m = .ok v) : v.1.settings = s.settings := by
  unfold State.spanAttempt at h
  dsimp only at h
  split at h
  · obtain ⟨x, e, h⟩ := andThen_ok h
    cases h
    have k := deferApply_settings e
    exact k
  · split at h
    · split at h
      · obtain ⟨x, e, h⟩ := andThen_ok h
        cases h
        have k := deferApply_settings e
        exact k
      · obtain ⟨x, e, h⟩ := andThen_ok h
        cases h
        have k := columns_settings e
        exact (windowEnd_settings _ _ _).trans ((setOwn_settings _ _).trans k)
    · split at h
      · obtain ⟨x, e, h⟩ := andThen_ok h
        have k := columns_settings e
        split at h <;> cases h <;> exact (windowEnd_settings _ _ _).trans k
      · obtain ⟨g, e, h⟩ := andThen_ok h
        obtain ⟨x, e2, h⟩ := andThen_ok h
        have k := granuleWrite_settings e2
        have k2 := spanGranule_settings e
        cases h
        exact (windowEnd_settings _ _ _).trans (k.trans k2)

@[simp] theorem xRow_settings (fn : Nat) (r : Xs) (s : State) : (xRow fn r s).settings = s.settings :=
  xWord_settings (fun t => vIssue_settings _ _ _ _)

theorem execRowSm_settings (r : Xs) (s : State) : OutKeeps s.settings (execRowSm r s) :=
  xRow_settings _ _ _

theorem execRowNorm_settings (r : Xs) (s : State) : OutKeeps s.settings (execRowNorm r s) :=
  xRow_settings _ _ _

theorem execRowLse_settings (r : Xs) (s : State) : OutKeeps s.settings (execRowLse r s) :=
  xRow_settings _ _ _

theorem rowAttempt_settings {s : State} {v : VCmd} {v'} (h' : (s.rowAttempt v) = .ok v') : v'.1.settings = s.settings := by
  unfold State.rowAttempt at h'
  dsimp only at h'
  obtain ⟨x, _, h'⟩ := andThen_ok h'
  obtain ⟨y, _, h'⟩ := andThen_ok h'
  obtain ⟨t, e, h'⟩ := andThen_ok h'
  cases h'
  exact (elemsWrite_settings e).trans (by simp)

theorem execMmNest_settings (r : Xm) (s : State) : OutKeeps s.settings (execMmNest r s) :=
  xWord_settings (fun t => rfl)

theorem execMmSwap_settings (r : Xr) (s : State) : OutKeeps s.settings (execMmSwap r s) :=
  xWord_settings (fun t => rfl)

@[simp] theorem mIssue_settings (s : State) (m : MCmd) : EndKeeps s.settings (s.mIssue m) := by
  unfold State.mIssue
  split <;> rfl

@[simp] theorem xMatrix_settings (kind : MKind) (r : Xr) (s : State) : (xMatrix kind r s).settings = s.settings :=
  xWord_settings (fun t => by
    dsimp only
    (repeat' split) <;> first | trivial | rfl | exact mIssue_settings _ _)

theorem execMmGo_settings (r : Xr) (s : State) : OutKeeps s.settings (execMmGo r s) :=
  xMatrix_settings _ _ _

theorem execMmZero_settings (r : Xr) (s : State) : OutKeeps s.settings (execMmZero r s) :=
  xMatrix_settings _ _ _

theorem execMmDrain_settings (r : Xr) (s : State) : OutKeeps s.settings (execMmDrain r s) :=
  xWord_settings (fun t => mIssue_settings _ _)

theorem execMmCfg_settings (r : Xi) (s : State) : OutKeeps s.settings (execMmCfg r s) :=
  xWord_settings (fun t => mIssue_settings _ _)

theorem execTset_settings (r : Xr) (s : State) : OutKeeps s.settings (execTset r s) :=
  xWord_settings (fun t => mIssue_settings _ _)

theorem execTclr_settings (r : Xr) (s : State) : OutKeeps s.settings (execTclr r s) :=
  xWord_settings (fun t => mIssue_settings _ _)

theorem fetchWord_settings {s : State} {o : MOp} {f : Table (Nat × CWord)} {a : Int} {v'} (h' : (s.fetchWord o f a) = .ok v') : v'.1.settings = s.settings := by
  unfold State.fetchWord at h'
  dsimp only at h'
  split at h'
  · cases h'; rfl
  · split at h'
    · obtain ⟨x, _, h'⟩ := andThen_ok h'
      cases h'
      simp
    · have k := translateAll_settings s s.who needR [(o.key a, 8)]
      split at h'
      · rename_i e
        rw [e] at k
        cases h'
        refine Eq.trans ?_ k
        dsimp only
        split <;> simp
      · rename_i e
        rw [e] at k
        (repeat' split at h') <;> first | (cases h'; done) | (cases h'; exact k)
      · obtain ⟨x, _, h'⟩ := andThen_ok h'
        cases h'

theorem fetchWords_settings {s : State} {o : MOp} {f : Table (Nat × CWord)} {l : List Int} {v'} (h' : (s.fetchWords o f l) = .ok v') : v'.1.settings = s.settings := by
  induction l generalizing s f with
  | nil => cases h'; rfl
  | cons a r ih =>
    unfold State.fetchWords at h'
    obtain ⟨x, e, h'⟩ := andThen_ok h'
    exact (ih h').trans (fetchWord_settings e)

theorem fetchOperand_settings {s : State} {o : MOp} {f : Table (Nat × CWord)} {ds : List Nat} {v'} (h' : (s.fetchOperand o f ds) = .ok v') : v'.1.settings = s.settings := by
  unfold State.fetchOperand at h'
  split at h'
  · cases h'; rfl
  · obtain ⟨_, _, h'⟩ := andThen_ok h'
    obtain ⟨x, e, h'⟩ := andThen_ok h'
    obtain ⟨_, _, h'⟩ := andThen_ok h'
    exact (fetchWords_settings h').trans (fetchWords_settings e)

theorem mStep_settings {s : State} {m : MCmd} {k : Nat} {v'} (h' : (s.mStep m k) = .ok v') : v'.1.settings = s.settings := by
  unfold State.mStep at h'
  obtain ⟨_, _, h'⟩ := andThen_ok h'
  obtain ⟨_, _, h'⟩ := andThen_ok h'
  obtain ⟨_, _, h'⟩ := andThen_ok h'
  cases h'
  exact fixed_settings _ _

theorem granuleFetch_settings {s : State} {m : MCmd} {l : List Nat} {v'} (h' : (s.granuleFetch m l) = .ok v') : v'.1.settings = s.settings := by
  induction l generalizing s m with
  | nil => cases h'; rfl
  | cons k r ih =>
    unfold State.granuleFetch at h'
    obtain ⟨x, e, h'⟩ := andThen_ok h'
    obtain ⟨y, e2, h'⟩ := andThen_ok h'
    exact (ih h').trans ((fetchOperand_settings e2).trans (fetchOperand_settings e))

theorem granuleSteps_settings {s : State} {m : MCmd} {b : Bool} {n : Nat} {v} (h : s.granuleSteps m b n = .ok v) : v.1.settings = s.settings := by
  induction n generalizing s m with
  | zero => cases h; rfl
  | succ n ih =>
    unfold State.granuleSteps at h
    dsimp only at h
    split at h
    · obtain ⟨x, e, h⟩ := andThen_ok h
      exact (ih h).trans (mStep_settings e)
    · cases h
      rfl

theorem granuleBegin_settings {s : State} {m : MCmd} {v'} (h' : (s.granuleBegin m) = .ok v') : v'.1.settings = s.settings := by
  unfold State.granuleBegin at h'
  obtain ⟨x, e, h'⟩ := andThen_ok h'
  have k := granuleFetch_settings e
  cases h'
  exact k

theorem granuleAttempt_settings {s : State} {m : MCmd} {v} (h : s.granuleAttempt m = .ok v) : v.1.settings = s.settings := by
  unfold State.granuleAttempt at h
  obtain ⟨x, e, h⟩ := andThen_ok h
  refine (granuleSteps_settings h).trans ?_
  split at e
  · cases e
    rfl
  · exact granuleBegin_settings e

@[simp] theorem drainRun_settings (s : State) (m : MCmd) : (s.drainRun m).1.settings = s.settings :=
  fixed_settings _ _

theorem drainRun_settings' {s : State} {m : MCmd} {t' r'} (h' : (s.drainRun m) = (t', r')) : t'.settings = s.settings := by
  have e := drainRun_settings s m
  rw [h'] at e
  exact e

theorem replayLast_settings {s : State} {q : Nat} {t} (h : s.replayLast q = some t) : t.settings = s.settings := by
  unfold State.replayLast at h
  split at h
  · cases h
  · split at h
    · cases h
    · dsimp only at h
      split at h
      · split at h
        · rename_i e
          cases h
          obtain ⟨x, e1, e2⟩ := andThen_ok e
          have k1 := granuleFetch_settings e1
          have k2 := granuleSteps_settings e2
          exact k2.trans (k1.trans (settings_mk _ ..))
        · cases h
      · cases h

@[simp] theorem setMHead_settings (s : State) (m : MCmd) : (s.setMHead m).settings = s.settings :=
  rfl

@[simp] theorem granuleFail_settings (s : State) (m : MCmd) (a : Attempt (State × MCmd)) : (s.granuleFail m a).settings = s.settings := by
  unfold State.granuleFail
  dsimp only
  (repeat' split) <;> first | rfl | exact (engineAsk_settings _ _ _ _ _ _).trans ((transients_settings _ _).trans (setMHead_settings _ _)) | (simp; done)

@[simp] theorem granulePass_settings (s : State) (m : MCmd) : (s.granulePass m).settings = s.settings :=
  (transients_settings _ _).trans (setMHead_settings _ _)

@[simp] theorem drainNow_settings (s : State) (m : MCmd) : (s.drainNow m).settings = s.settings := by
  unfold State.drainNow
  extract_lets done
  have hd : ∀ t, (done t).settings = t.settings := fun t => (setMHead_settings _ _).trans (drainRun_settings _ _)
  clear_value done
  split
  · exact hd s
  · split
    · rename_i t e
      refine (hd _).trans ((transients_settings _ _).trans ?_)
      rcases e1 : s.replayLast (m.r.a.toNat % 4) with _ | u
      · rw [e1] at e; cases e
      · rw [e1] at e
        dsimp only [Option.bind] at e
        split at e <;> cases e
        exact replayLast_settings e1
    · exact (engineAsk_settings _ _ _ _ _ _).trans (hd s)

@[simp] theorem matrixRun_settings (s : State) (m : MCmd) : (s.matrixRun m).settings = s.settings := by
  unfold State.matrixRun
  split
  · exact setMHead_settings s { m with started := true, cursor := 1 }
  · exact setMHead_settings s { m with started := true, cursor := 1 }
  · exact setMHead_settings s { m with started := true, cursor := 1 }
  · split
    · exact setMHead_settings s { m with started := true }
    · exact drainNow_settings _ _
  · split
    · rename_i e
      exact (granulePass_settings _ _).trans (granuleAttempt_settings e)
    · rfl
    · exact granuleFail_settings _ _ _

theorem execMatrixCommandStart_settings (s : State) : OutKeeps s.settings (execMatrixCommandStart s) := by
  unfold execMatrixCommandStart
  show State.settings _ = _
  (repeat' split) <;> first | rfl | exact matrixRun_settings _ _

@[simp] theorem granuleKeep_settings (s : State) (m : MCmd) : (s.granuleKeep m).settings = s.settings :=
  rfl

theorem withdrawn_settings (s : State) (l : List Nat) : ({ s with withdrawn := l } : State).settings = s.settings := rfl

/-- The domain's list of unresolved faults does not belong to the settings. -/
theorem setUnresolved_settings (s : State) (d : Nat) (f : Dom → List (Nat × List Nat × Nat)) :
    (match s.dom d with
      | some x => s.setDom d { x with unresolved := f x }
      | none => s).settings = s.settings := by
  split
  · rename_i h
    exact setDom_settings h rfl
  · rfl

theorem execMatrixGranuleEnd_settings (twin : Twin) (s : State) : OutKeeps s.settings (execMatrixGranuleEnd twin s) := by
  unfold execMatrixGranuleEnd
  show State.settings _ = _
  split
  · rfl
  · split
    · extract_lets dom slot
      split
      · exact granuleKeep_settings _ _
      · split
        · exact granuleKeep_settings _ _
        · exact (domRecord_settings _ _ _ _ _ _ _ _).trans (granuleKeep_settings _ _)
        · exact (withdrawn_settings _ _).trans ((setUnresolved_settings _ _ _).trans (by simp))
    · rfl

theorem execMatrixCommandComplete_settings (s : State) : OutKeeps s.settings (execMatrixCommandComplete s) := by
  unfold execMatrixCommandComplete
  show State.settings _ = _
  (repeat' split) <;> first | rfl | exact setX_settings _ _ _

theorem vectorAttempt_settings {s : State} {w : VCmd} {m : Nat} {v} (h : s.vectorAttempt w m = .ok v) : v.1.settings = s.settings := by
  unfold State.vectorAttempt at h
  split at h
  · exact rowAttempt_settings h
  · exact spanAttempt_settings h

@[simp] theorem setVHead_settings (s : State) (v : VCmd) : (s.setVHead v).settings = s.settings :=
  rfl

@[simp] theorem partialWrites_settings (s : State) (v : VCmd) (step n j : Nat) : (s.partialWrites v step n j).1.settings = s.settings := by
  induction n generalizing s v j with
  | zero => rfl
  | succ n ih =>
    unfold State.partialWrites
    split
    · rename_i g e
      split
      · rename_i t _ e2
        refine (ih _ _ _).trans ?_
        split
        · exact (granuleWrite_settings e2).trans (spanGranule_settings e)
        · rfl
      all_goals rfl
    all_goals rfl

theorem partialWrites_settings' {s : State} {v : VCmd} {step a3 a4 : Nat} {t' r'} (h' : (s.partialWrites v step a3 a4) = (t', r')) : t'.settings = s.settings := by
  have e := partialWrites_settings s v step a3 a4
  rw [h'] at e
  exact e

@[simp] theorem granuleRemains_settings (s : State) (v : VCmd) (m : Nat) (a : Attempt (State × VCmd)) : (s.granuleRemains v m a).1.settings = s.settings := by
  unfold State.granuleRemains
  dsimp only
  split
  · rfl
  · split <;> exact partialWrites_settings' ‹_›

theorem granuleRemains_settings' {s : State} {v : VCmd} {m : Nat} {a : Attempt (State × VCmd)} {t' r'} (h' : (s.granuleRemains v m a) = (t', r')) : t'.settings = s.settings := by
  have e := granuleRemains_settings s v m a
  rw [h'] at e
  exact e

@[simp] theorem vectorFail_settings (s : State) (v : VCmd) (m : Nat) (a : Attempt (State × VCmd)) : (s.vectorFail v m a).settings = s.settings := by
  unfold State.vectorFail
  extract_lets strikes freeze
  have hf : ∀ t c x z, (freeze t c x z).settings = t.settings := fun t c x z =>
    (engineAsk_settings _ _ _ _ _ _).trans ((transients_settings _ _).trans (setVHead_settings _ _))
  clear_value freeze
  split
  · split
    · exact hf _ _ _ _
    · exact (settings_mk _ ..).trans (setVHead_settings _ _)
  · generalize hp : (if a.faults then s.granuleRemains v m a else (s, a)) = p
    have hp : p.1.settings = s.settings := by
      rw [← hp]; split
      · exact granuleRemains_settings _ _ _ _
      · rfl
    dsimp only
    split
    · exact (hf _ _ _ _).trans hp
    · exact (hf _ _ _ _).trans hp
    · exact (setVHead_settings _ _).trans hp

@[simp] theorem vectorRun_settings (s : State) (v : VCmd) : (s.vectorRun v).settings = s.settings := by
  unfold State.vectorRun
  split
  · simp
  · split
    · exact (setVHead_settings _ _).trans (pushHeld_settings _ _)
    · extract_lets row drain
      generalize hp : (if row || drain then (s, v) else s.gather { v with started := true }) = p
      have hp : p.1.settings = s.settings := by
        rw [← hp]; split
        · rfl
        · exact gather_settings _ _
      dsimp only
      generalize (if row || drain then 0 else p.2.ready) = k
      split
      · split
        · rename_i e
          have k := vectorAttempt_settings e
          exact (settings_mk _ ..).trans ((transients_settings _ _).trans ((setVHead_settings _ _).trans (k.trans ((setVHead_settings _ _).trans hp))))
        · exact (vectorFail_settings _ _ _ _).trans ((setVHead_settings _ _).trans hp)
      · exact (setVHead_settings _ _).trans hp

theorem execVectorCommandStart_settings (s : State) : OutKeeps s.settings (execVectorCommandStart s) := by
  unfold execVectorCommandStart
  show State.settings _ = _
  (repeat' split) <;> first | rfl | exact vectorRun_settings _ _

theorem execVectorCommandComplete_settings (s : State) : OutKeeps s.settings (execVectorCommandComplete s) := by
  unfold execVectorCommandComplete
  show State.settings _ = _
  (repeat' split) <;> first | rfl | exact setX_settings _ _ _

theorem execWindowReplay_settings (engine : LaneEngine) (s : State) : OutKeeps s.settings (execWindowReplay engine s) := by
  unfold execWindowReplay
  show State.settings _ = _
  (repeat' split) <;> first | rfl | exact matrixRun_settings _ _ | exact vectorRun_settings _ _

theorem execBarInit_settings (r : Xk) (s : State) : OutKeeps s.settings (execBarInit r s) :=
  xWord_settings (fun t => by
    dsimp only
    (repeat' split) <;> first | trivial)

@[simp] theorem barArrive_settings (s : State) (slot : Nat) (c : Ctx) (k : Nat) (d : Word) : (s.barArrive slot c k d).settings = s.settings :=
  rfl

theorem xBarrier_settings {r : Xk} {f : State → Nat → Ctx → Option (Word × Barrier) → WordEnd} {s : State}
    (h : ∀ (t : State) n c b, EndKeeps t.settings (f t n c b)) : (xBarrier r f s).settings = s.settings :=
  xWord_settings (fun t => by
    split
    · trivial
    · exact h _ _ _ _)

theorem execBarArr_settings (r : Xk) (s : State) : OutKeeps s.settings (execBarArr r s) := by
  unfold execBarArr
  show State.settings _ = _
  refine xBarrier_settings (fun t x1 x2 x3 => ?_)
  split
  · trivial
  · split
    · rfl
    · exact xOrdered_settings (barArrive_settings _ _ _ _ _)

theorem execBarWait_settings (r : Xk) (s : State) : OutKeeps s.settings (execBarWait r s) := by
  unfold execBarWait
  show State.settings _ = _
  (repeat' (first | refine xBarrier_settings (fun t x1 x2 x3 => ?_) | split | dsimp only)) <;> first | trivial

theorem execBarSync_settings (r : Xk) (s : State) : OutKeeps s.settings (execBarSync r s) := by
  unfold execBarSync
  show State.settings _ = _
  refine xBarrier_settings (fun t x1 x2 x3 => ?_)
  dsimp only
  split
  · trivial
  · split
    · rfl
    · split
      · rfl
      · refine xOrdered_settings ?_
        split
        · exact (settings_mk _ ..).trans (barArrive_settings _ _ _ _ _)
        · exact (settings_mk _ ..).trans (barArrive_settings _ _ _ _ _)

theorem execEvSet_settings (r : Xi) (s : State) : OutKeeps s.settings (execEvSet r s) := by
  unfold execEvSet
  show State.settings _ = _
  (repeat' (first | refine xWord_settings (fun t => ?_) | refine xOrdered_settings ?_ | split | dsimp only)) <;> first | trivial | rfl | exact setEvent_settings _ _ _

theorem execEvClr_settings (r : Xi) (s : State) : OutKeeps s.settings (execEvClr r s) :=
  xWord_settings (fun t => by (repeat' split) <;> first | trivial)

theorem execEvWait_settings (r : Xi) (s : State) : OutKeeps s.settings (execEvWait r s) :=
  xWord_settings (fun t => by
    dsimp only
    (repeat' split) <;> first | trivial)

theorem execCtxYield_settings (r : Xr) (s : State) : OutKeeps s.settings (execCtxYield r s) :=
  xWord_settings (fun t => trivial)

theorem execCtxXfer_settings (r : Xr) (s : State) : OutKeeps s.settings (execCtxXfer r s) :=
  xWord_settings (fun t => by
    dsimp only
    (repeat' split) <;> first | trivial | rfl | exact setX_settings _ _ _)

theorem execLaunch_settings (r : Xr) (s : State) : OutKeeps s.settings (execLaunch r s) := by
  unfold execLaunch
  show State.settings _ = _
  (repeat' (first | refine xWord_settings (fun t => ?_) | refine xOrdered_settings ?_ | split | dsimp only)) <;> first | trivial | rfl | exact setX_settings _ _ _ | exact armRecord_settings _ _ _ _ | exact armRecord_settings' ‹_› | exact (setX_settings _ _ _).trans (armRecord_settings' ‹_›)

theorem execExit_settings (r : Xr) (s : State) : OutKeeps s.settings (execExit r s) := by
  unfold execExit
  dsimp only
  have h : (s.xWord r.g r.gn [] fun s => if s.core.vq.isEmpty && s.core.mq.isEmpty then .done { s with core := { s.core.landAll with xexited := true } } else .wait s).settings = s.settings :=
    xWord_settings (fun t => by split <;> rfl)
  generalize (s.xWord r.g r.gn [] fun s => if s.core.vq.isEmpty && s.core.mq.isEmpty then .done { s with core := { s.core.landAll with xexited := true } } else .wait s) = t at h
  show State.settings _ = _
  split
  · exact (checkEnd_settings _ _).trans h
  · exact h

theorem execTrap_settings (r : Xk) (s : State) : OutKeeps s.settings (execTrap r s) :=
  xWord_settings (fun t => trivial)

theorem execUdf_settings (w : BitVec 64) (s : State) : OutKeeps s.settings (execUdf w s) :=
  xIllegal_settings _

theorem execId_settings (r : Xr) (s : State) : OutKeeps s.settings (execId r s) :=
  xWord_settings (fun t => putX_settings _ _ _ _ _)

theorem execTime_settings (r : Xr) (s : State) : OutKeeps s.settings (execTime r s) :=
  xWord_settings (fun t => putX_settings _ _ _ _ _)

theorem execPause_settings (r : Xk) (s : State) : OutKeeps s.settings (execPause r s) :=
  xWord_settings (fun t => rfl)

theorem execPauseExpiry_settings (aStream : Bool) (s : State) : OutKeeps s.settings (execPauseExpiry aStream s) :=
  rfl

theorem tagWait_settings {s : State} {ts : List Nat} {f : State → WordEnd} (h : EndKeeps s.settings (f s)) : EndKeeps s.settings (s.tagWait ts f) := by
  unfold State.tagWait
  (repeat' split) <;> first | exact h | trivial

theorem execTw_settings (r : Xk) (s : State) : OutKeeps s.settings (execTw r s) := by
  unfold execTw
  show State.settings _ = _
  (repeat' (first | refine tagWait_settings ?_ | refine xWord_settings (fun t => ?_) | split | dsimp only)) <;> first | trivial | rfl | exact setX_settings _ _ _

theorem execTwa_settings (r : Xk) (s : State) : OutKeeps s.settings (execTwa r s) := by
  unfold execTwa
  show State.settings _ = _
  (repeat' (first | refine tagWait_settings ?_ | refine xWord_settings (fun t => ?_) | split | dsimp only)) <;> first | trivial | rfl | exact setX_settings _ _ _

theorem execResultLand_settings (slot : Nat) (s : State) : OutKeeps s.settings (execResultLand slot s) := by
  unfold execResultLand
  show State.settings _ = _
  split <;> rfl

@[simp] theorem setSpillbase_settings (s : State) (v : BitVec 32) : (s.setSpillbase v).settings = s.settings :=
  rfl

theorem myDom_dom {s : State} {dn : Nat} {d : Dom} (h : s.myDom = some (dn, d)) : s.dom dn = some d := by
  unfold State.myDom at h
  split at h
  · cases h
  · rename_i k c _
    rcases e : s.dom c.tdom with _ | x <;> rw [e] at h <;> cases h
    exact e

@[simp] theorem sysSet_settings (s : State) (n : Nat) (v : Word) : (s.sysSet n v).settings = s.settings := by
  unfold State.sysSet
  split
  · rfl
  · rename_i e
    split <;> first | rfl | exact setDom_settings (myDom_dom e) rfl

theorem execSysRd_settings (r : Xk) (s : State) : OutKeeps s.settings (execSysRd r s) :=
  xPriv_settings (fun t => by split <;> first | trivial | rfl | exact setX_settings _ _ _)

theorem execSysWr_settings (r : Xk) (s : State) : OutKeeps s.settings (execSysWr r s) :=
  xPriv_settings (fun t => by split <;> first | trivial | rfl | exact sysSet_settings _ _ _)

theorem execFdataRead_settings (r : Xk) (s : State) : OutKeeps s.settings (execFdataRead r s) := by
  show State.settings _ = _
  refine xPriv_settings (fun t => ?_)
  split
  · trivial
  · rename_i e
    extract_lets go
    have h : ∀ st v, EndKeeps t.settings (go st v) := fun st v => (setX_settings _ _ _).trans (setDom_settings (myDom_dom e) rfl)
    clear_value go
    split <;> exact h _ _

theorem execFdataWrite_settings (r : Xk) (s : State) : OutKeeps s.settings (execFdataWrite r s) := by
  show State.settings _ = _
  refine xPriv_settings (fun t => ?_)
  split
  · trivial
  · rename_i dn d e
    extract_lets go
    have h : ∀ st u, u.settings = t.settings → u.doms = t.doms → EndKeeps t.settings (go st u) := fun st u e1 e2 =>
      (setDom_settings (x := d) (y := { d with fstat := st, foff := nextFoff d.foff }) (by rw [State.dom, e2]; exact myDom_dom e) rfl).trans e1
    clear_value go
    split
    · exact h _ _ rfl rfl
    · exact h _ _ (setCtx_settings _ _ _) rfl

theorem execEvmsg_settings (r : Xk) (s : State) : OutKeeps s.settings (execEvmsg r s) := by
  show State.settings _ = _
  refine xPriv_settings (fun t => xOrdered_settings ?_)
  split
  · trivial
  · rename_i dn d e
    have h : ∀ st, (t.setDom dn { d with fstat := st }).settings = t.settings := fun st => setDom_settings (myDom_dom e) rfl
    split
    · exact h _
    · split
      · exact (setEvent_settings _ _ _).trans (h _)
      · exact h _

@[simp] theorem ctxNew_settings (s : State) (tdom : Nat) (super : Bool) (pa : Nat) : (s.ctxNew tdom super pa).1.settings = s.settings := by
  unfold State.ctxNew
  split <;> first | rfl | exact physPut_settings _ _ _

theorem ctxNew_settings' {s : State} {tdom : Nat} {super : Bool} {pa : Nat} {t' r'} (h' : (s.ctxNew tdom super pa) = (t', r')) : t'.settings = s.settings := by
  have e := ctxNew_settings s tdom super pa
  rw [h'] at e
  exact e

theorem execCtxNew_settings (r : Xr) (s : State) : OutKeeps s.settings (execCtxNew r s) := by
  unfold execCtxNew
  refine xPriv_settings (fun t => ?_)
  split
  · trivial
  · dsimp only
    split
    · trivial
    · split <;> first | trivial | (rename_i e; have k := translate_settings' e)
      split
      · exact (setX_settings _ _ _).trans ((ctxNew_settings _ _ _ _).trans k)
      · trivial

theorem dropHomeMoves_settings (s : State) (ms qs : List Move) : ({ s with moves := ms, moveQueue := qs } : State).settings = s.settings := rfl

@[simp] theorem evacuate_settings (s : State) (slot : Nat) : (s.evacuate slot).settings = s.settings := by
  unfold State.evacuate
  exact foldl_settings (fun s k => by
    dsimp only
    refine (dropHomeMoves_settings _ _ _).trans ((dropHome_settings _ _).trans ?_)
    (repeat' split) <;> first | rfl | exact (setDir_settings _ _ _).trans (kvCopy_settings _ _ _ _ _ _)) _ _

@[simp] theorem ctxDel_settings (s : State) (y : Nat) : (s.ctxDel y).settings = s.settings :=
  evacuate_settings _ _

theorem named_settings {s : State} {a d : Nat} {f : State → Nat → Ctx → State × Nat} (h : ∀ y c, (f s y c).1.settings = s.settings) :
    EndKeeps s.settings (s.named a d f) := by
  unfold State.named
  extract_lets answer hh
  have ha : ∀ (t : State) n, t.settings = s.settings → EndKeeps s.settings (answer t n) := fun t n e => (setX_settings t d _).trans e
  clear_value answer
  split
  · exact ha _ _ rfl
  · split
    · exact ha _ _ rfl
    · split
      · exact ha _ _ (h _ _)
      · exact ha _ _ rfl

theorem execCtxDel_settings (r : Xr) (s : State) : OutKeeps s.settings (execCtxDel r s) := by
  unfold execCtxDel
  show State.settings _ = _
  (repeat' (first | refine xPriv_settings (fun t => ?_) | refine named_settings (fun y c => ?_) | split | dsimp only)) <;> first | trivial | rfl | exact ctxDel_settings _ _

@[simp] theorem mapFrames_settings (s : State) (y : Nat) (f : Nat → Core → Core) : (s.mapFrames y f).settings = s.settings := by
  unfold State.mapFrames
  split <;> rfl

@[simp] theorem settleCmds_settings (s : State) (y : Nat) (fail : Bool) : (s.settleCmds y fail).settings = s.settings :=
  rfl

@[simp] theorem skipWord_settings (s : State) (y : Nat) (c : Ctx) : (s.skipWord y c).settings = s.settings := by
  unfold State.skipWord
  dsimp only
  (repeat' split) <;> first | rfl | exact mapFrames_settings _ _ _

@[simp] theorem resume_settings (s : State) (y : Nat) : (s.resume y).settings = s.settings := by
  unfold State.resume
  (repeat' split) <;> simp only [setCtx_settings, setCbBits_settings, makeReady_settings]

@[simp] theorem settle_settings (s : State) (y : Nat) (c : Ctx) (act : Nat) : (s.settle y c act).settings = s.settings := by
  unfold State.settle
  (repeat' split) <;> simp only [setCbBits_settings, endLaunch_settings, mapFrames_settings, settleCmds_settings, skipWord_settings, resume_settings]

theorem execCtxSev_settings (r : Xr) (s : State) : OutKeeps s.settings (execCtxSev r s) := by
  unfold execCtxSev
  show State.settings _ = _
  (repeat' (first | refine xPriv_settings (fun t => ?_) | refine named_settings (fun y c => ?_) | split | dsimp only)) <;> first | trivial | rfl | exact settle_settings _ _ _ _

@[simp] theorem tlbDrop_settings (s : State) (f : Tlb → Bool) : (s.tlbDrop f).settings = s.settings :=
  rfl

@[simp] theorem tlbRemove_settings (s : State) (f : Tlb → Bool) : EndKeeps s.settings (s.tlbRemove f) := by
  unfold State.tlbRemove
  (repeat' (first | refine xOrdered_settings ?_ | split)) <;> first | trivial | rfl | simp

theorem execTlbInv_settings (r : Xr) (s : State) : OutKeeps s.settings (execTlbInv r s) := by
  unfold execTlbInv
  show State.settings _ = _
  (repeat' (first | refine xPriv_settings (fun t => ?_) | refine xOrdered_settings ?_ | split | dsimp only)) <;> first | trivial

theorem execTlbAsid_settings (r : Xr) (s : State) : OutKeeps s.settings (execTlbAsid r s) := by
  unfold execTlbAsid
  show State.settings _ = _
  (repeat' (first | refine xPriv_settings (fun t => ?_) | refine xOrdered_settings ?_ | split | dsimp only)) <;> first | trivial

theorem execTlbAll_settings (r : Xr) (s : State) : OutKeeps s.settings (execTlbAll r s) := by
  unfold execTlbAll
  show State.settings _ = _
  (repeat' (first | refine xPriv_settings (fun t => ?_) | refine xOrdered_settings ?_ | split | dsimp only)) <;> first | trivial

theorem xCore_settings {r : Xr} {f : State → Nat → State} {s : State} (h : ∀ t i, (f t i).settings = t.settings) : (xCore r f s).settings = s.settings :=
  xPriv_settings (fun t => by
    dsimp only
    (repeat' split) <;> first | trivial | exact (setX_settings _ _ _).trans (h _ _) | exact setX_settings _ _ _)

theorem execCoreOut_settings (r : Xr) (s : State) : OutKeeps s.settings (execCoreOut r s) := by
  unfold execCoreOut
  show State.settings _ = _
  refine xCore_settings (fun t i => ?_)
  dsimp only
  split
  · exact askPreempt_settings _ _ _
  · rfl

theorem execCoreIn_settings (r : Xr) (s : State) : OutKeeps s.settings (execCoreIn r s) := by
  unfold execCoreIn
  show State.settings _ = _
  (repeat' (first | refine xCore_settings (fun t i => ?_) | split | dsimp only)) <;> first | trivial

end Sys2Proof.Laws
end

