-- ==== Sys2Proof/Laws/SettingsA.lean ====
section
/-! SUPPORT. The A stream and its engines leave the settings of the signed records. -/

open Sys2Proof.Machine

namespace Sys2Proof.Laws

@[simp] theorem aAlu_settings (f : Word → Word → Word) (r : Ar) (s : State) : (aAlu f r s).settings = s.settings :=
  aWord_settings (fun t => setA_settings _ _ _)

theorem execAAdd_settings (r : Ar) (s : State) : OutKeeps s.settings (execAAdd r s) :=
  aAlu_settings _ _ _

theorem execASub_settings (r : Ar) (s : State) : OutKeeps s.settings (execASub r s) :=
  aAlu_settings _ _ _

theorem execAAnd_settings (r : Ar) (s : State) : OutKeeps s.settings (execAAnd r s) :=
  aAlu_settings _ _ _

theorem execAOr_settings (r : Ar) (s : State) : OutKeeps s.settings (execAOr r s) :=
  aAlu_settings _ _ _

theorem execAXor_settings (r : Ar) (s : State) : OutKeeps s.settings (execAXor r s) :=
  aAlu_settings _ _ _

theorem execASll_settings (r : Ar) (s : State) : OutKeeps s.settings (execASll r s) :=
  aAlu_settings _ _ _

theorem execASrl_settings (r : Ar) (s : State) : OutKeeps s.settings (execASrl r s) :=
  aAlu_settings _ _ _

theorem execASra_settings (r : Ar) (s : State) : OutKeeps s.settings (execASra r s) :=
  aAlu_settings _ _ _

theorem execAMul_settings (r : Ar) (s : State) : OutKeeps s.settings (execAMul r s) :=
  aAlu_settings _ _ _

theorem execAMin_settings (r : Ar) (s : State) : OutKeeps s.settings (execAMin r s) :=
  aAlu_settings _ _ _

theorem execAMax_settings (r : Ar) (s : State) : OutKeeps s.settings (execAMax r s) :=
  aAlu_settings _ _ _

theorem execAMinu_settings (r : Ar) (s : State) : OutKeeps s.settings (execAMinu r s) :=
  aAlu_settings _ _ _

theorem execAMaxu_settings (r : Ar) (s : State) : OutKeeps s.settings (execAMaxu r s) :=
  aAlu_settings _ _ _

@[simp] theorem aImm_settings (f : Word → BitVec 14 → Word) (r : Ai) (s : State) : (aImm f r s).settings = s.settings :=
  aWord_settings (fun t => setA_settings _ _ _)

theorem execAAddi_settings (r : Ai) (s : State) : OutKeeps s.settings (execAAddi r s) :=
  aImm_settings _ _ _

theorem execAAddhi_settings (r : Ai) (s : State) : OutKeeps s.settings (execAAddhi r s) :=
  aImm_settings _ _ _

theorem execASlli_settings (r : Ai) (s : State) : OutKeeps s.settings (execASlli r s) :=
  aImm_settings _ _ _

theorem execAAndi_settings (r : Ai) (s : State) : OutKeeps s.settings (execAAndi r s) :=
  aImm_settings _ _ _

@[simp] theorem aBranch_settings (taken : Word → Bool) (r : Ab) (s : State) : (aBranch taken r s).settings = s.settings :=
  aWord_settings (fun t => by split <;> rfl)

theorem execB_settings (r : Ab) (s : State) : OutKeeps s.settings (execB r s) :=
  aBranch_settings _ _ _

theorem execBz_settings (r : Ab) (s : State) : OutKeeps s.settings (execBz r s) :=
  aBranch_settings _ _ _

theorem execBnz_settings (r : Ab) (s : State) : OutKeeps s.settings (execBnz r s) :=
  aBranch_settings _ _ _

theorem execAExit_settings (r : Ab) (s : State) : OutKeeps s.settings (execAExit r s) := by
  unfold execAExit
  dsimp only
  have h : (s.aWord false false [] true fun s => if s.aBusy then .wait s else .done { s with core := { s.core with aexited := true } }).settings = s.settings :=
    aWord_settings (fun t => by split <;> rfl)
  generalize (s.aWord false false [] true fun s => if s.aBusy then .wait s else .done { s with core := { s.core with aexited := true } }) = t at h
  show State.settings _ = _
  split
  · exact (checkEnd_settings _ _).trans h
  · exact h

theorem execNest_settings (r : An) (s : State) : OutKeeps s.settings (execNest r s) :=
  aWord_settings (fun t => by
    dsimp only
    (repeat' split) <;> first | trivial)

theorem execBind_settings (v : BitVec 3) (r : Ar) (s : State) : OutKeeps s.settings (execBind v r s) :=
  aWord_settings (fun t => by
    dsimp only
    (repeat' split) <;> first | trivial)

theorem execATw_settings (r : An) (s : State) : OutKeeps s.settings (execATw r s) := by
  unfold execATw
  show State.settings _ = _
  (repeat' (first | refine tagWait_settings ?_ | refine aWord_settings (fun t => ?_) | split | dsimp only)) <;> first | trivial

theorem execATwa_settings (r : An) (s : State) : OutKeeps s.settings (execATwa r s) := by
  unfold execATwa
  show State.settings _ = _
  (repeat' (first | refine tagWait_settings ?_ | refine aWord_settings (fun t => ?_) | split | dsimp only)) <;> first | trivial | rfl | exact setA_settings _ _ _

theorem execATclr_settings (r : An) (s : State) : OutKeeps s.settings (execATclr r s) :=
  aWord_settings (fun t => by
    dsimp only
    (repeat' split) <;> rfl)

theorem execAFence_settings (r : An) (s : State) : OutKeeps s.settings (execAFence r s) :=
  aWord_settings (fun t => by split <;> rfl)

theorem execPf_settings (r : Am) (s : State) : OutKeeps s.settings (execPf r s) :=
  aWord_settings (fun t => rfl)

theorem execAPause_settings (r : Ai) (s : State) : OutKeeps s.settings (execAPause r s) :=
  aWord_settings (fun t => rfl)

theorem execAUdf_settings (u : BitVec 26) (s : State) : OutKeeps s.settings (execAUdf u s) :=
  aIllegal_settings _

theorem execAUdf3f_settings (u : BitVec 26) (s : State) : OutKeeps s.settings (execAUdf3f u s) :=
  aIllegal_settings _

theorem aGot_settings {α : Type} {c} {r : State × Got α} {va size : Nat} {kind : State → GlobalKind} {dev : State → Nat → WordEnd}
    {ok : State → α → WordEnd} (e : r.1.settings = c) (hd : ∀ t n, t.settings = c → EndKeeps c (dev t n)) (ho : ∀ t v, t.settings = c → EndKeeps c (ok t v)) :
    EndKeeps c (State.aGot r va size kind dev ok) := by
  obtain ⟨t, v⟩ := r
  cases v with
  | ok v => exact ho t v e
  | dev pa =>
    unfold State.aGot
    dsimp only
    split
    · exact hd t _ e
    · trivial
  | far pa => exact e
  | _ => trivial

@[simp] theorem pend_settings (s : State) (dest : LoadDest) : (s.pend dest).settings = s.settings :=
  rfl

@[simp] theorem pendTile_settings (s : State) (t : Nat) (ws : List CWord) : (s.pendTile t ws).settings = s.settings :=
  rfl

@[simp] theorem aQueueWait_settings (s : State) : EndKeeps s.settings (s.aQueueWait) :=
  rfl

theorem execLdq_settings (r : Am) (s : State) : OutKeeps s.settings (execLdq r s) := by
  unfold execLdq
  show State.settings _ = _
  (repeat' (first | refine aWord_settings (fun t => ?_) | refine aGot_settings ?_ (fun t n e => ?_) (fun t v e => ?_) | split | dsimp only))
  all_goals (try have k0 := amRead_settings' ‹_›)
  all_goals (try have k1 := amReadWords_settings' ‹_›)
  all_goals first | trivial | rfl | assumption | exact pend_settings _ _ | exact aQueueWait_settings _ | exact amRead_settings _ _ _ | exact amReadWords_settings _ _ _

theorem execLdt_settings (r : Am) (s : State) : OutKeeps s.settings (execLdt r s) := by
  unfold execLdt
  show State.settings _ = _
  refine aWord_settings (fun t => ?_)
  extract_lets k a
  split
  · rfl
  · exact aGot_settings (amReadWords_settings _ _ _) (fun u n e => (pendTile_settings _ _ _).trans e) (fun u n e => (pendTile_settings _ _ _).trans e)

@[simp] theorem commitLoad_settings (s : State) : (s.commitLoad).settings = s.settings := by
  unfold State.commitLoad
  (repeat' split) <;> rfl

theorem execLoadCommit_settings (s : State) : OutKeeps s.settings (execLoadCommit s) :=
  commitLoad_settings _

theorem execStq_settings (r : Am) (s : State) : OutKeeps s.settings (execStq r s) := by
  unfold execStq
  show State.settings _ = _
  repeat' (first | refine aWord_settings (fun t => ?_) | refine aGot_settings ?_ (fun t n e => ?_) (fun t v e => ?_) | split | dsimp only)
  all_goals (try have k0 := gWriteWords_settings' ‹_›)
  all_goals (try have k1 := sWriteWords_settings' ‹_›)
  all_goals (try have k2 := amWrite_settings' ‹_›)
  all_goals (try have k3 := amWriteWords_settings' ‹_›)
  all_goals first | trivial | rfl | assumption | exact fixed_settings _ _ | exact gWriteWords_settings _ _ _ _ | exact sWriteWords_settings _ _ _ _ | exact amWrite_settings _ _ _ | exact amWriteWords_settings _ _ _ | exact qTake_settings _ _ _ | exact mgmtWrite_settings _ _ _ | exact aQueueWait_settings _ | simp [*]

theorem execStt_settings (r : Am) (s : State) : OutKeeps s.settings (execStt r s) := by
  unfold execStt
  show State.settings _ = _
  (repeat' (first | refine aWord_settings (fun t => ?_) | refine aGot_settings ?_ (fun t n e => ?_) (fun t v e => ?_) | split | dsimp only))
  all_goals (try have k0 := amWriteWords_settings' ‹_›)
  all_goals first | trivial | rfl | assumption | exact mgmtWrite_settings _ _ _ | exact amWriteWords_settings _ _ _ | exact (mgmtWrite_settings _ _ _).trans ‹_›

theorem execLda_settings (r : Am) (s : State) : OutKeeps s.settings (execLda r s) := by
  unfold execLda
  show State.settings _ = _
  (repeat' (first | refine aWord_settings (fun t => ?_) | refine aGot_settings ?_ (fun t n e => ?_) (fun t v e => ?_) | split | dsimp only))
  all_goals (try have k0 := amRead_settings' ‹_›)
  all_goals first | trivial | rfl | assumption | exact setA_settings _ _ _ | exact amRead_settings _ _ _ | exact (setA_settings _ _ _).trans ‹_›

theorem execSta_settings (r : Am) (s : State) : OutKeeps s.settings (execSta r s) := by
  unfold execSta
  show State.settings _ = _
  (repeat' (first | refine aWord_settings (fun t => ?_) | refine aGot_settings ?_ (fun t n e => ?_) (fun t v e => ?_) | split | dsimp only))
  all_goals (try have k0 := amWrite_settings' ‹_›)
  all_goals first | trivial | rfl | assumption | exact mgmtWrite_settings _ _ _ | exact amWrite_settings _ _ _ | exact (mgmtWrite_settings _ _ _).trans ‹_›

@[simp] theorem pendAmo_settings (s : State) (d : Nat) (v : Word) (status : Option (BitVec 2)) (fl : Flags) : (s.pendAmo d v status fl).settings = s.settings :=
  rfl

theorem aAtomic_settings {s : State} {op : Nat} {r : Ar} {status : Option (BitVec 2)} {remote : State → Nat → WordEnd}
    (h : ∀ t n, t.settings = s.settings → EndKeeps s.settings (remote t n)) : EndKeeps s.settings (s.aAtomic op r status remote) := by
  unfold State.aAtomic
  dsimp only
  split
  · trivial
  · have ht := atomic_settings s s.who (s.getA 0 r.a.toNat).toNat op (aAmoType op r.x) (s.getA 1 r.b.toNat).toNat (s.getA 2 r.d.toNat).toNat
    split <;> rename_i e
    · rw [e] at ht
      exact (pendAmo_settings _ _ _ _ _).trans ht
    · trivial
    · trivial
    · rw [e] at ht
      split
      · trivial
      · split
        · trivial
        · exact (pendAmo_settings _ _ _ _ _).trans ((wordRecord_settings _ _ _ _ _ _ _).trans ht)
    · rw [e] at ht
      split
      · refine (pendAmo_settings _ _ _ _ _).trans ?_
        split
        · exact ht
        · exact (mgmtWrite_settings _ _ _).trans ht
      · trivial
    · rw [e] at ht
      split
      · exact ht
      · exact h _ _ ht

@[simp] theorem aAmo_settings (op : Nat) (r : Ar) (s : State) : (aAmo op r s).settings = s.settings := by
  unfold aAmo
  (repeat' (first | refine aWord_settings (fun t => ?_) | refine aAtomic_settings (fun t n e => ?_) | split | dsimp only)) <;> first | trivial

theorem execAAmoAdd_settings (r : Ar) (s : State) : OutKeeps s.settings (execAAmoAdd r s) :=
  aAmo_settings _ _ _

theorem execAAmoAnd_settings (r : Ar) (s : State) : OutKeeps s.settings (execAAmoAnd r s) :=
  aAmo_settings _ _ _

theorem execAAmoOr_settings (r : Ar) (s : State) : OutKeeps s.settings (execAAmoOr r s) :=
  aAmo_settings _ _ _

theorem execAAmoXor_settings (r : Ar) (s : State) : OutKeeps s.settings (execAAmoXor r s) :=
  aAmo_settings _ _ _

theorem execAAmoMin_settings (r : Ar) (s : State) : OutKeeps s.settings (execAAmoMin r s) :=
  aAmo_settings _ _ _

theorem execAAmoMax_settings (r : Ar) (s : State) : OutKeeps s.settings (execAAmoMax r s) :=
  aAmo_settings _ _ _

theorem execAAmoSwap_settings (r : Ar) (s : State) : OutKeeps s.settings (execAAmoSwap r s) :=
  aAmo_settings _ _ _

theorem execAAmoCas_settings (r : Ar) (s : State) : OutKeeps s.settings (execAAmoCas r s) :=
  aAmo_settings _ _ _

theorem execAAmoFadd_settings (r : Ar) (s : State) : OutKeeps s.settings (execAAmoFadd r s) :=
  aAmo_settings _ _ _

theorem execAAmoFmax_settings (r : Ar) (s : State) : OutKeeps s.settings (execAAmoFmax r s) :=
  aAmo_settings _ _ _

theorem execAAmoMaxx_settings (r : Ar) (s : State) : OutKeeps s.settings (execAAmoMaxx r s) :=
  aAmo_settings _ _ _

theorem execAAmoComplete_settings (s : State) : OutKeeps s.settings (execAAmoComplete s) := by
  unfold execAAmoComplete
  show State.settings _ = _
  split <;> rfl

@[simp] theorem ramoSend_settings (s : State) (op : Nat) (r : Ar) (pa : Nat) : (s.ramoSend op r pa).settings = s.settings :=
  rfl

@[simp] theorem aRamo_settings (op : Nat) (r : Ar) (s : State) : (aRamo op r s).settings = s.settings := by
  unfold aRamo
  (repeat' (first | refine aWord_settings (fun t => ?_) | refine aAtomic_settings (fun t n e => ?_) | split | dsimp only)) <;> first | trivial

theorem execRamoAdd_settings (r : Ar) (s : State) : OutKeeps s.settings (execRamoAdd r s) :=
  aRamo_settings _ _ _

theorem execRamoAnd_settings (r : Ar) (s : State) : OutKeeps s.settings (execRamoAnd r s) :=
  aRamo_settings _ _ _

theorem execRamoOr_settings (r : Ar) (s : State) : OutKeeps s.settings (execRamoOr r s) :=
  aRamo_settings _ _ _

theorem execRamoXor_settings (r : Ar) (s : State) : OutKeeps s.settings (execRamoXor r s) :=
  aRamo_settings _ _ _

theorem execRamoMin_settings (r : Ar) (s : State) : OutKeeps s.settings (execRamoMin r s) :=
  aRamo_settings _ _ _

theorem execRamoMax_settings (r : Ar) (s : State) : OutKeeps s.settings (execRamoMax r s) :=
  aRamo_settings _ _ _

theorem execRamoSwap_settings (r : Ar) (s : State) : OutKeeps s.settings (execRamoSwap r s) :=
  aRamo_settings _ _ _

theorem execRamoFadd_settings (r : Ar) (s : State) : OutKeeps s.settings (execRamoFadd r s) :=
  aRamo_settings _ _ _

theorem execRamoFmax_settings (r : Ar) (s : State) : OutKeeps s.settings (execRamoFmax r s) :=
  aRamo_settings _ _ _

@[simp] theorem takeProg_settings (s : State) (n : Nat) (bs : List Byte) : EndKeeps s.settings (s.takeProg n bs) := by
  unfold State.takeProg
  (repeat' (first | split | dsimp only)) <;> first | trivial

theorem farEnd_settings {s : State} {g : GlobalAccess} {ws : List CWord} {e} (h : s.farEnd g ws = some e) : EndKeeps s.settings e := by
  unfold State.farEnd at h
  dsimp only at h
  (repeat' split at h) <;> first
    | (cases h; done)
    | (cases h; rfl)
    | (cases h; first | exact setX_settings _ _ _ | exact setA_settings _ _ _ | exact qTake_settings _ _ _ | exact takeProg_settings _ _ _)

theorem poisonEnd_settings {s : State} {g : GlobalAccess} {ws : List CWord} {e} (h : s.poisonEnd g ws = some e) : EndKeeps s.settings e := by
  unfold State.poisonEnd at h
  (repeat' split at h) <;> first
    | (cases h; done)
    | exact farEnd_settings h
    | (cases h; first | trivial | rfl | simp)

theorem answerEnd_settings {s : State} {g : GlobalAccess} {a : Answer} {e} (h : s.answerEnd g a = some e) : EndKeeps s.settings e := by
  unfold State.answerEnd at h
  (repeat' split at h) <;> first
    | (cases h; done)
    | (cases h; first | trivial | rfl)
    | exact farEnd_settings h
    | exact poisonEnd_settings h

@[simp] theorem answerX_settings (s : State) (ans : Answer) : (s.answerX ans).settings = s.settings := by
  unfold State.answerX
  split
  · split
    · rfl
    · rename_i h
      exact (xEnd_settings (answerEnd_settings h)).trans (settings_mk _ ..)
  · rfl

@[simp] theorem answerA_settings (s : State) (ans : Answer) : (s.answerA ans).settings = s.settings := by
  unfold State.answerA
  split
  · split
    · rfl
    · rename_i h
      exact (aEnd_settings (answerEnd_settings h)).trans (settings_mk _ ..)
  · rfl

@[simp] theorem answer_settings (s : State) (ans : Answer) : (s.answer ans).settings = s.settings := by
  unfold State.answer
  split <;> simp

theorem execGlobalAccessComplete_settings (ans : Answer) (s : State) : OutKeeps s.settings (execGlobalAccessComplete ans s) :=
  answer_settings _ _

theorem execQueueWordProceed_settings (aStream : Bool) (s : State) : OutKeeps s.settings (execQueueWordProceed aStream s) :=
  rfl

@[simp] theorem globalLoc_settings (s : State) (w : Who) (need : Need) (va n : Nat) : (s.globalLoc w need va n).1.settings = s.settings := by
  unfold State.globalLoc
  repeat' split
  all_goals (try have k0 := translate_settings' ‹_›)
  all_goals first | trivial | rfl | assumption | exact note_settings _ _ _ | exact translate_settings _ _ _ _ | simp [*]

theorem globalLoc_settings' {s : State} {w : Who} {need : Need} {va n : Nat} {t' r'} (h' : (s.globalLoc w need va n) = (t', r')) : t'.settings = s.settings := by
  have e := globalLoc_settings s w need va n
  rw [h'] at e
  exact e

theorem locsOf_settings {s : State} {f : State → Nat → Nat → State × Got Loc} (h : ∀ t a n, (f t a n).1.settings = t.settings) (l : List (Nat × Nat)) :
    (s.locsOf f l).1.settings = s.settings := by
  induction l generalizing s with
  | nil => rfl
  | cons a r ih =>
    obtain ⟨a, n⟩ := a
    unfold State.locsOf
    have h1 := h s a n
    split <;> rename_i t _ e <;> rw [e] at h1 <;> try exact h1
    have h2 := @ih t
    split <;> rename_i e2 <;> first | (rw [e2] at h2; exact h2.trans h1) | exact h2.trans h1

@[simp] theorem runs_settings (s : State) (w : Who) (need : Need) (op : Word) (n : Nat) : (s.runs w need op n).1.settings = s.settings := by
  unfold State.runs
  split
  · rfl
  · exact locsOf_settings (fun t a n => rfl) _
  · exact locsOf_settings (fun t a n => globalLoc_settings _ _ _ _ _) _

theorem runs_settings' {s : State} {w : Who} {need : Need} {op : Word} {n : Nat} {t' r'} (h' : (s.runs w need op n) = (t', r')) : t'.settings = s.settings := by
  have e := runs_settings s w need op n
  rw [h'] at e
  exact e

@[simp] theorem setRunWords_settings (s : State) (l : Loc) (ws : List CWord) : (s.setRunWords l ws).settings = s.settings := by
  unfold State.setRunWords
  (repeat' split) <;> first | rfl | exact physSetWords_settings _ _ _

@[simp] theorem putWords_settings (s : State) (l : List (Loc × Nat)) (ws : List CWord) : (s.putWords l ws).settings = s.settings := by
  induction l generalizing s ws with
  | nil => rfl
  | cons a r ih => exact (ih _ _).trans (setRunWords_settings _ _ _)

@[simp] theorem setRunBytes_settings (s : State) (d : Nat) (l : Loc) (bs : List (Option Byte)) : (s.setRunBytes d l bs).1.settings = s.settings := by
  unfold State.setRunBytes
  (repeat' split) <;> simp

theorem setRunBytes_settings' {s : State} {d : Nat} {l : Loc} {bs : List (Option Byte)} {t' r'} (h' : (s.setRunBytes d l bs) = (t', r')) : t'.settings = s.settings := by
  have e := setRunBytes_settings s d l bs
  rw [h'] at e
  exact e

@[simp] theorem putBytes_settings (s : State) (d : Nat) (l : List (Loc × Nat)) (bs : List (Option Byte)) : (s.putBytes d l bs).1.settings = s.settings := by
  induction l generalizing s bs with
  | nil => rfl
  | cons a r ih => exact (ih _ _).trans (setRunBytes_settings _ _ _ _)

theorem putBytes_settings' {s : State} {d : Nat} {a2 : List (Loc × Nat)} {a3 : List (Option Byte)} {t' r'} (h' : (s.putBytes d a2 a3) = (t', r')) : t'.settings = s.settings := by
  have e := putBytes_settings s d a2 a3
  rw [h'] at e
  exact e

@[simp] theorem postRuns_settings (s : State) (d : Nat) (rs : List (Loc × Nat)) : (s.postRuns d rs).settings = s.settings := by
  unfold State.postRuns
  exact foldl_settings (fun s r => by split <;> simp) _ _

@[simp] theorem moveRuns_settings (s : State) (d : Nat) (rd rs : List (Loc × Nat)) (n pad : Nat) (whole undef : Bool) : (s.moveRuns d rd rs n pad whole undef).1.settings = s.settings := by
  unfold State.moveRuns
  (repeat' split) <;> simp

theorem moveRuns_settings' {s : State} {d : Nat} {rd rs : List (Loc × Nat)} {n pad : Nat} {whole undef : Bool} {t' r'} (h' : (s.moveRuns d rd rs n pad whole undef) = (t', r')) : t'.settings = s.settings := by
  have e := moveRuns_settings s d rd rs n pad whole undef
  rw [h'] at e
  exact e

@[simp] theorem move_settings (s : State) (ws wd : Who) (dst src : Word) (n pad : Nat) (whole undef : Bool) : (s.move ws wd dst src n pad whole undef).1.settings = s.settings := by
  unfold State.move
  have h1 := runs_settings s ws needR src n
  split <;> rename_i e <;> rw [e] at h1 <;> try exact h1
  rename_i t _
  have h2 := runs_settings t wd needW dst (n + pad)
  split <;> rename_i e2 <;> rw [e2] at h2 <;> try exact h2.trans h1
  refine (moveRuns_settings _ _ _ _ _ _ _ _).trans ?_
  split
  · exact h2.trans h1
  · exact (postRuns_settings _ _ _).trans (h2.trans h1)

theorem move_settings' {s : State} {ws wd : Who} {dst src : Word} {n pad : Nat} {whole undef : Bool} {t' r'} (h' : (s.move ws wd dst src n pad whole undef) = (t', r')) : t'.settings = s.settings := by
  have e := move_settings s ws wd dst src n pad whole undef
  rw [h'] at e
  exact e

@[simp] theorem laneWord_settings (s : State) (w : Who) (op : Word) : (s.laneWord w op).1.settings = s.settings := by
  unfold State.laneWord
  (repeat' (first | split | dsimp only)) <;> first | trivial | rfl | exact postRuns_settings _ _ _ | exact runs_settings _ _ _ _ _ | exact runs_settings' ‹_› | exact (postRuns_settings _ _ _).trans (runs_settings' ‹_›)

theorem laneWord_settings' {s : State} {w : Who} {op : Word} {t' r'} (h' : (s.laneWord w op) = (t', r')) : t'.settings = s.settings := by
  have e := laneWord_settings s w op
  rw [h'] at e
  exact e

@[simp] theorem updCmd_settings (s : State) (id : Nat) (f : EngCmd → EngCmd) : (s.updCmd id f).settings = s.settings :=
  rfl

@[simp] theorem elemSeg_settings (s : State) (c : EngCmd) (g : Seg) : (s.elemSeg c g).1.settings = s.settings := by
  unfold State.elemSeg
  dsimp only
  (repeat' split)
  all_goals (try have k0 := move_settings' ‹_›)
  all_goals (try have k1 := laneWord_settings' ‹_›)
  all_goals first | trivial | rfl | assumption | simp only [place_settings, move_settings, laneWord_settings, *]

theorem elemSeg_settings' {s : State} {c : EngCmd} {g : Seg} {t' r'} (h' : (s.elemSeg c g) = (t', r')) : t'.settings = s.settings := by
  have e := elemSeg_settings s c g
  rw [h'] at e
  exact e

@[simp] theorem copySeg_settings (s : State) (c : EngCmd) (g : Seg) : (s.copySeg c g).1.settings = s.settings := by
  unfold State.copySeg
  (repeat' split) <;> simp

theorem copySeg_settings' {s : State} {c : EngCmd} {g : Seg} {t' r'} (h' : (s.copySeg c g) = (t', r')) : t'.settings = s.settings := by
  have e := copySeg_settings s c g
  rw [h'] at e
  exact e

@[simp] theorem cmdViol_settings (s : State) (c : EngCmd) (pdata : Nat) : (s.cmdViol c pdata).settings = s.settings :=
  lateFault_settings _ _ _ _

@[simp] theorem cmdRecords_settings (s : State) (c : EngCmd) (l : List (Seg × Nat)) : (s.cmdRecords c l).settings = s.settings :=
  foldl_settings (fun s x => by simp) _ _

@[simp] theorem cmdData_settings (s : State) (c : EngCmd) (addr : Nat) : (s.cmdData c addr).settings = s.settings := by
  unfold State.cmdData
  simp

@[simp] theorem segEnd_settings (s : State) (c : EngCmd) (i : Nat) (g : Seg) (a4 : EngRes) : (s.segEnd c i g a4).settings = s.settings := by
  unfold State.segEnd
  split <;> simp

theorem execFixupFail_settings (cmd ent : Nat) (s : State) : OutKeeps s.settings (execFixupFail cmd ent s) := by
  unfold execFixupFail
  show State.settings _ = _
  (repeat' split) <;> rfl

@[simp] theorem pushCmd_settings (s : State) (c : EngCmd) : EndKeeps s.settings (s.pushCmd c) := by
  unfold State.pushCmd
  split <;> rfl

@[simp] theorem finishCmd_settings (s : State) (c : EngCmd) : (s.finishCmd c).settings = s.settings :=
  rfl

theorem aPush_settings {r : An} {f : State → Word → Word → Word → WordEnd} {s : State} (h : ∀ (t : State) a b c, EndKeeps t.settings (f t a b c)) :
    (aPush r f s).settings = s.settings := aWord_settings (fun t => h t _ _ _)

theorem execCp_settings (r : An) (s : State) : OutKeeps s.settings (execCp r s) := by
  unfold execCp
  show State.settings _ = _
  (repeat' (first | refine aPush_settings (fun t x1 x2 x3 => ?_) | split | dsimp only)) <;> first | trivial | rfl | exact pend_settings _ _ | exact pushCmd_settings _ _

theorem execMcast_settings (r : An) (s : State) : OutKeeps s.settings (execMcast r s) := by
  unfold execMcast
  show State.settings _ = _
  (repeat' (first | refine aPush_settings (fun t x1 x2 x3 => ?_) | split | dsimp only)) <;> first | trivial | rfl | exact pushCmd_settings _ _

@[simp] theorem aGather_settings (kind : EngKind) (r : An) (s : State) : (aGather kind r s).settings = s.settings := by
  unfold aGather
  (repeat' (first | refine aPush_settings (fun t x1 x2 x3 => ?_) | split | dsimp only)) <;> first | trivial | rfl | exact pushCmd_settings _ _

theorem execGat_settings (r : An) (s : State) : OutKeeps s.settings (execGat r s) :=
  aGather_settings _ _ _

theorem execSct_settings (r : An) (s : State) : OutKeeps s.settings (execSct r s) :=
  aGather_settings _ _ _

theorem eThen_settings {α β : Type} {c} {r : State × Except EngRes α} {f : State → α → State × Except EngRes β} (h : r.1.settings = c)
    (hf : ∀ t v, t.settings = c → (f t v).1.settings = c) : (eThen r f).1.settings = c := by
  obtain ⟨t, v⟩ := r
  cases v with
  | ok v => exact hf t v h
  | error e => exact h

theorem eEnd_settings {α : Type} {c} {r : State × Except EngRes α} {f : State → α → State × EngRes} (h : r.1.settings = c)
    (hf : ∀ t v, t.settings = c → (f t v).1.settings = c) : (eEnd r f).1.settings = c := by
  obtain ⟨t, v⟩ := r
  cases v with
  | ok v => exact hf t v h
  | error e => exact h

@[simp] theorem tableRead_settings (s : State) (w : Who) (va n : Nat) : (s.tableRead w va n).1.settings = s.settings := by
  unfold State.tableRead
  (repeat' (first | split | dsimp only)) <;> first | trivial | rfl | exact gRead_settings _ _ _ _ _ | exact gRead_settings' ‹_›

theorem tableRead_settings' {s : State} {w : Who} {va n : Nat} {t' r'} (h' : (s.tableRead w va n) = (t', r')) : t'.settings = s.settings := by
  have e := tableRead_settings s w va n
  rw [h'] at e
  exact e

@[simp] theorem tableWrite_settings (s : State) (w : Who) (va n v : Nat) : (s.tableWrite w va n v).1.settings = s.settings := by
  unfold State.tableWrite
  (repeat' (first | split | dsimp only)) <;> first | trivial | rfl | exact gWrite_settings _ _ _ _ | exact gWrite_settings' ‹_›

theorem tableWrite_settings' {s : State} {w : Who} {va n v : Nat} {t' r'} (h' : (s.tableWrite w va n v) = (t', r')) : t'.settings = s.settings := by
  have e := tableWrite_settings s w va n v
  rw [h'] at e
  exact e

@[simp] theorem readTable_settings (s : State) (w : Who) (t : Nat) : (s.readTable w t).1.settings = s.settings := by
  unfold State.readTable
  (repeat' (first | refine eThen_settings ?_ (fun t v e => ?_) | split | dsimp only)) <;> first | trivial | rfl | exact tableRead_settings _ _ _ _

theorem readTable_settings' {s : State} {w : Who} {t : Nat} {t' r'} (h' : (s.readTable w t) = (t', r')) : t'.settings = s.settings := by
  have e := readTable_settings s w t
  rw [h'] at e
  exact e

@[simp] theorem lookup_settings (s : State) (w : Who) (first : SeqTable) (l i n : Nat) (h : SeqTable) : (s.lookup w first l i n h).1.settings = s.settings := by
  induction n generalizing s h with
  | zero => rfl
  | succ n ih =>
    unfold State.lookup
    split
    · rfl
    · have h1 := tableRead_settings s w (h.entryAt l i) 4
      split <;> rename_i e <;> rw [e] at h1 <;> try exact h1
      rename_i t _
      split
      · exact h1
      · split
        · exact h1
        · split
          · exact h1
          · have h2 := readTable_settings t w (h.parent * 2 ^ 12)
            split <;> rename_i e2 <;> rw [e2] at h2
            · exact h2.trans h1
            · exact (ih _ _).trans (h2.trans h1)

theorem lookup_settings' {s : State} {w : Who} {first : SeqTable} {l i a5 : Nat} {a6 : SeqTable} {t' r'} (h' : (s.lookup w first l i a5 a6) = (t', r')) : t'.settings = s.settings := by
  have e := lookup_settings s w first l i a5 a6
  rw [h'] at e
  exact e

@[simp] theorem kvAlloc_settings (s : State) (c : EngCmd) (w : Who) (ea : Nat) : (s.kvAlloc c w ea).1.settings = s.settings := by
  unfold State.kvAlloc
  split
  · rfl
  · have h := translate_settings s w needW ea
    split <;> rename_i e <;> rw [e] at h <;> try exact h
    rename_i d _ _ t _ _
    have h : (t.note d.kvfree 8).settings = s.settings := (note_settings _ _ _).trans h
    dsimp only
    generalize t.note d.kvfree 8 = t at h
    split
    · exact h
    · split
      · exact (tellSuper_settings _ _).trans h
      · split
        · exact (tellSuper_settings _ _).trans h
        · split
          · exact h
          · have hp : ∀ (u : State) a b x, (((u.note x 4).postPhys w.dom a 4).postPhys w.dom b 4).settings = u.settings := fun u a b x =>
              (postPhys_settings _ _ _ _).trans ((postPhys_settings _ _ _ _).trans (note_settings _ _ _))
            split
            · exact (hp _ _ _ _).trans h
            · rename_i e2
              have h2 := (physStore_settings e2).trans ((hp _ _ _ _).trans h)
              have ht : ∀ (u : State) k f ws e a b, ((u.physSetWords f ws).setDir k e).settings = u.settings ∧
                  (((u.physSetWords f ws).setDir k e).tableWrite w a 4 b).1.settings = u.settings := fun u k f ws e a b =>
                ⟨(setDir_settings _ _ _).trans (physSetWords_settings _ _ _),
                  (tableWrite_settings _ _ _ _ _).trans ((setDir_settings _ _ _).trans (physSetWords_settings _ _ _))⟩
              split <;> rename_i e3
              · exact ((congrArg (fun x => x.1.settings) e3).symm.trans (ht _ _ _ _ _ _ _).2).trans h2
              · exact ((congrArg (fun x => x.1.settings) e3).symm.trans (ht _ _ _ _ _ _ _).2).trans h2

theorem kvAlloc_settings' {s : State} {c : EngCmd} {w : Who} {ea : Nat} {t' r'} (h' : (s.kvAlloc c w ea) = (t', r')) : t'.settings = s.settings := by
  have e := kvAlloc_settings s c w ea
  rw [h'] at e
  exact e

@[simp] theorem kvPage_settings (s : State) (c : EngCmd) (w : Who) (i : Nat) : (s.kvPage c w i).1.settings = s.settings := by
  unfold State.kvPage
  refine eThen_settings (readTable_settings _ _ _) (fun t h e => eThen_settings ((lookup_settings _ _ _ _ _ _ _).trans e) (fun u k e2 => ?_))
  split
  · exact e2
  · split
    · exact (kvAlloc_settings _ _ _ _).trans e2
    · exact e2

theorem kvPage_settings' {s : State} {c : EngCmd} {w : Who} {i : Nat} {t' r'} (h' : (s.kvPage c w i) = (t', r')) : t'.settings = s.settings := by
  have e := kvPage_settings s c w i
  rw [h'] at e
  exact e

@[simp] theorem kvLoc_settings (s : State) (c : EngCmd) (w : Who) (k off n : Nat) : (s.kvLoc c w k off n).1.settings = s.settings := by
  unfold State.kvLoc
  dsimp only
  split
  · rfl
  · split
    · rfl
    · rename_i e
      have h := kvLookup_settings e
      (repeat' split) <;> first | exact h | exact (note_settings _ _ _).trans h

theorem kvLoc_settings' {s : State} {c : EngCmd} {w : Who} {k off n : Nat} {t' r'} (h' : (s.kvLoc c w k off n) = (t', r')) : t'.settings = s.settings := by
  have e := kvLoc_settings s c w k off n
  rw [h'] at e
  exact e

@[simp] theorem kvRow_settings (s : State) (c : EngCmd) (g : Seg) : (s.kvRow c g).1.settings = s.settings := by
  unfold State.kvRow
  extract_lets w whole
  split
  · rfl
  · split
    · have h := runs_settings s w needW g.dst g.len
      split <;> rename_i e <;> rw [e] at h
      · exact (putBytes_settings _ _ _ _).trans h
      · exact h
    · refine eEnd_settings (eThen_settings (kvPage_settings _ _ _ _) (fun t k e => (kvLoc_settings _ _ _ _ _ _).trans e)) (fun t rk e => ?_)
      have h := (runs_settings t w (if c.kind = .kva then needR else needW) g.dst g.len).trans e
      split <;> rename_i e2 <;> rw [e2] at h
      · split <;> exact (moveRuns_settings _ _ _ _ _ _ _ _).trans h
      · exact h

theorem kvRow_settings' {s : State} {c : EngCmd} {g : Seg} {t' r'} (h' : (s.kvRow c g) = (t', r')) : t'.settings = s.settings := by
  have e := kvRow_settings s c g
  rw [h'] at e
  exact e

@[simp] theorem cursorsReach_settings (s : State) (w : Who) (h : SeqTable) (n f l : Nat) : (s.cursorsReach w h n f l).1.settings = s.settings := by
  induction f generalizing s l with
  | zero => rfl
  | succ f ih =>
    unfold State.cursorsReach
    have h1 := tableRead_settings s w (h.cursorAt l) 4
    split <;> rename_i e <;> rw [e] at h1
    · exact h1
    · split
      · exact h1
      · exact (ih _ _).trans h1

theorem cursorsReach_settings' {s : State} {w : Who} {h : SeqTable} {n a4 a5 : Nat} {t' r'} (h' : (s.cursorsReach w h n a4 a5) = (t', r')) : t'.settings = s.settings := by
  have e := cursorsReach_settings s w h n a4 a5
  rw [h'] at e
  exact e

@[simp] theorem kvStart_settings (s : State) (c : EngCmd) : (s.kvStart c).1.settings = s.settings := by
  unfold State.kvStart
  refine eEnd_settings (readTable_settings _ _ _) (fun t h e => ?_)
  split
  · exact e
  · split
    · exact (updCmd_settings _ _ _).trans e
    · exact eEnd_settings ((tableRead_settings _ _ _ _).trans e) (fun u v e2 => (updCmd_settings _ _ _).trans e2)
    · refine eEnd_settings ((cursorsReach_settings _ _ _ _ _ _).trans e) (fun u v e2 => ?_)
      split
      · exact eEnd_settings ((tableWrite_settings _ _ _ _ _).trans e2) (fun u v e3 => e3)
      · exact e2

theorem kvStart_settings' {s : State} {c : EngCmd} {t' r'} (h' : (s.kvStart c) = (t', r')) : t'.settings = s.settings := by
  have e := kvStart_settings s c
  rw [h'] at e
  exact e

@[simp] theorem aKv_settings (kind : EngKind) (bad : Word → Bool) (r : An) (s : State) : (aKv kind bad r s).settings = s.settings := by
  unfold aKv
  (repeat' (first | refine aPush_settings (fun t x1 x2 x3 => ?_) | split | dsimp only)) <;> first | trivial | rfl | exact pushCmd_settings _ _

theorem execKvg_settings (r : An) (s : State) : OutKeeps s.settings (execKvg r s) :=
  aKv_settings _ _ _ _

theorem execKva_settings (r : An) (s : State) : OutKeeps s.settings (execKva r s) :=
  aKv_settings _ _ _ _

theorem execKvc_settings (r : An) (s : State) : OutKeeps s.settings (execKvc r s) :=
  aKv_settings _ _ _ _

@[simp] theorem segment_settings (s : State) (c : EngCmd) (i : Nat) : (s.segment c i).settings = s.settings := by
  unfold State.segment
  split
  · rfl
  · refine (segEnd_settings _ _ _ _ _).trans ?_
    (repeat' split) <;> simp only [copySeg_settings, elemSeg_settings, kvStart_settings, kvRow_settings]

theorem execEngineSegment_settings (cmd seg : Nat) (s : State) : OutKeeps s.settings (execEngineSegment cmd seg s) := by
  unfold execEngineSegment
  show State.settings _ = _
  (repeat' split) <;> first | rfl | exact segment_settings _ _ _

theorem execFixupReplay_settings (cmd ent : Nat) (s : State) : OutKeeps s.settings (execFixupReplay cmd ent s) := by
  unfold execFixupReplay
  show State.settings _ = _
  (repeat' split) <;> first | rfl | exact updCmd_settings _ _ _ | exact segment_settings _ _ _

@[simp] theorem lastAct_settings (s : State) (c : EngCmd) : (s.lastAct c).1.settings = s.settings := by
  unfold State.lastAct
  split
  · exact eEnd_settings (tableWrite_settings _ _ _ _ _) (fun u v e3 => e3)
  · rfl

theorem lastAct_settings' {s : State} {c : EngCmd} {t' r'} (h' : (s.lastAct c) = (t', r')) : t'.settings = s.settings := by
  have e := lastAct_settings s c
  rw [h'] at e
  exact e

@[simp] theorem postFlags_settings (s : State) (c : EngCmd) : (s.postFlags c).settings = s.settings := by
  unfold State.postFlags
  (repeat' split) <;> first | rfl | exact orFlags_settings _ _ _ | exact updCore_settings _ _ _ _ | exact setCbBits_settings _ _ _ _ _ _

theorem execEngineCommandComplete_settings (cmd : Nat) (s : State) : OutKeeps s.settings (execEngineCommandComplete cmd s) := by
  unfold execEngineCommandComplete
  show State.settings _ = _
  (repeat' split)
  all_goals (try have k0 := lastAct_settings' ‹_›)
  all_goals first | trivial | rfl | assumption | simp only [setEvent_settings, segEnd_settings, finishCmd_settings, postFlags_settings, lastAct_settings, *]

@[simp] theorem setUnit_settings (s : State) (bank : Nat) (u : NbUnit) : (s.setUnit bank u).settings = s.settings :=
  rfl

@[simp] theorem setHead_settings (s : State) (bank : Nat) (it : NbItem) : (s.setHead bank it).settings = s.settings :=
  rfl

@[simp] theorem laneRow_settings (s : State) (c : EngCmd) (pa : Nat) (ws : List CWord) : (s.laneRow c pa ws).1.settings = s.settings := by
  unfold State.laneRow
  dsimp only
  (repeat' split) <;> simp

theorem laneRow_settings' {s : State} {c : EngCmd} {pa : Nat} {ws : List CWord} {t' r'} (h' : (s.laneRow c pa ws) = (t', r')) : t'.settings = s.settings := by
  have e := laneRow_settings s c pa ws
  rw [h'] at e
  exact e

@[simp] theorem postWords_settings (s : State) (d pa : Nat) (ws : List CWord) : (s.postWords d pa ws).settings = s.settings :=
  foldl_settings (fun s x => by split <;> simp) _ _

@[simp] theorem rowIn_settings (s : State) (c : EngCmd) (pa : Nat) : (s.rowIn c pa).1.settings = s.settings := by
  unfold State.rowIn
  simp

theorem rowIn_settings' {s : State} {c : EngCmd} {pa : Nat} {t' r'} (h' : (s.rowIn c pa) = (t', r')) : t'.settings = s.settings := by
  have e := rowIn_settings s c pa
  rw [h'] at e
  exact e

@[simp] theorem rowOut_settings (s : State) (pa : Nat) (row : List (Option Word)) : (s.rowOut pa row).settings = s.settings :=
  physSetWords_settings _ _ _

@[simp] theorem cmdFlags_settings (s : State) (c : EngCmd) (fl : Flags) : (s.cmdFlags c fl).settings = s.settings :=
  rfl

@[simp] theorem nbFinish_settings (s : State) (bank : Nat) (c : EngCmd) (err : Bool) : (s.nbFinish bank c err).settings = s.settings :=
  rfl

@[simp] theorem stepped_settings (s : State) (bank place : Nat) (holds : Bool) : (s.stepped bank place holds).settings = s.settings := by
  unfold State.stepped
  simp

@[simp] theorem microStep_settings (s : State) (bank : Nat) (it : NbItem) (c : EngCmd) (op : Nat) (d b : Bool) : (s.microStep bank it c op d b).settings = s.settings := by
  unfold State.microStep
  dsimp only
  (repeat' split) <;> first | rfl | simp only [setUnit_settings, rowOut_settings, cmdFlags_settings, rowIn_settings, settings_mk]

@[simp] theorem micro_settings (s : State) (bank op : Nat) (d b : Bool) : (s.micro bank op d b).settings = s.settings := by
  unfold State.micro
  split <;> simp

theorem execNbuEnd_settings (s : State) : OutKeeps s.settings (execNbuEnd s) :=
  micro_settings _ _ _ _ _

theorem execNbuLdx_settings (d : Bool) (s : State) : OutKeeps s.settings (execNbuLdx d s) :=
  micro_settings _ _ _ _ _

theorem execNbuLdy_settings (d : Bool) (s : State) : OutKeeps s.settings (execNbuLdy d s) :=
  micro_settings _ _ _ _ _

theorem execNbuSty_settings (b : Bool) (s : State) : OutKeeps s.settings (execNbuSty b s) :=
  micro_settings _ _ _ _ _

theorem execNbuAdd_settings (d b : Bool) (s : State) : OutKeeps s.settings (execNbuAdd d b s) :=
  micro_settings _ _ _ _ _

theorem execNbuMul_settings (d b : Bool) (s : State) : OutKeeps s.settings (execNbuMul d b s) :=
  micro_settings _ _ _ _ _

theorem execNbuMax_settings (d b : Bool) (s : State) : OutKeeps s.settings (execNbuMax d b s) :=
  micro_settings _ _ _ _ _

theorem execNbuScl_settings (d : Bool) (s : State) : OutKeeps s.settings (execNbuScl d s) :=
  micro_settings _ _ _ _ _

theorem execNbuFill_settings (d : Bool) (s : State) : OutKeeps s.settings (execNbuFill d s) :=
  micro_settings _ _ _ _ _

theorem execNbuFma_settings (d b : Bool) (s : State) : OutKeeps s.settings (execNbuFma d b s) :=
  micro_settings _ _ _ _ _

theorem execNbuAccy_settings (b : Bool) (s : State) : OutKeeps s.settings (execNbuAccy b s) :=
  micro_settings _ _ _ _ _

theorem execNbuAxpy_settings (b : Bool) (s : State) : OutKeeps s.settings (execNbuAxpy b s) :=
  micro_settings _ _ _ _ _

@[simp] theorem runStart_settings (s : State) (bank : Nat) (it : NbItem) (c : EngCmd) : (s.runStart bank it c).settings = s.settings := by
  unfold State.runStart
  split <;> rfl

@[simp] theorem bufferStep_settings (s : State) (bank : Nat) (it : NbItem) : (s.bufferStep bank it).settings = s.settings := by
  unfold State.bufferStep
  split <;> simp

theorem lastStep_settings {s : State} {bank : Nat} {c : EngCmd} {f : State → State} (h : ∀ t, (f t).settings = t.settings) :
    (s.lastStep bank c f).settings = s.settings := by
  unfold State.lastStep
  split
  · exact (nbFinish_settings _ _ _ _).trans ((stepped_settings _ _ _ _).trans (h s))
  · rfl

@[simp] theorem copyStep_settings (s : State) (bank : Nat) (it : NbItem) (c : EngCmd) : (s.copyStep bank it c).settings = s.settings := by
  unfold State.copyStep
  split
  · exact lastStep_settings (fun t => physSetWords_settings _ _ _)
  · split
    · exact lastStep_settings (fun t => physSetWords_settings _ _ _)
    · exact bufferStep_settings _ _ _

@[simp] theorem axpyStep_settings (s : State) (bank : Nat) (it : NbItem) (c : EngCmd) : (s.axpyStep bank it c).settings = s.settings := by
  unfold State.axpyStep
  dsimp only
  split
  · exact lastStep_settings (fun t => microStep_settings _ _ _ _ _ _ _)
  · split
    · split
      · simp
      · rfl
    · split
      · split
        · simp
        · rfl
      · exact bufferStep_settings _ _ _

@[simp] theorem amoEntry_settings (s : State) (c : EngCmd) (e : NbEntry) : (s.amoEntry c e).settings = s.settings := by
  unfold State.amoEntry
  repeat' split
  all_goals (try have k0 := atomicAt_settings' ‹_›)
  all_goals first | trivial | rfl | assumption | exact wordRecord_settings _ _ _ _ _ _ _ | exact atomicAt_settings _ _ _ _ _ _ _ | exact updCmd_settings _ _ _ | exact cmdFlags_settings _ _ _ | simp [*]

@[simp] theorem amoStep_settings (s : State) (bank : Nat) (it : NbItem) (c : EngCmd) : (s.amoStep bank it c).settings = s.settings :=
  lastStep_settings (fun t => foldl_settings (fun s e => amoEntry_settings _ _ _) _ _)

theorem execNbRowStep_settings (bank : Nat) (s : State) : OutKeeps s.settings (execNbRowStep bank s) := by
  unfold execNbRowStep
  show State.settings _ = _
  split
  · rfl
  · split
    · rfl
    · split
      · exact lastStep_settings (fun t => physSetWords_settings _ _ _)
      · exact copyStep_settings _ _ _ _
      · exact axpyStep_settings _ _ _ _
      · exact amoStep_settings _ _ _ _
      · split
        · split
          · rfl
          · exact runStart_settings _ _ _ _
        · split
          · exact nbFinish_settings _ _ _ _
          · exact micro_settings _ _ _ _ _
      · rfl

@[simp] theorem nbRow_settings (s : State) (w : Who) (need : Need) (nbOnly : Bool) (va : Nat) : (s.nbRow w need nbOnly va).1.settings = s.settings := by
  unfold State.nbRow
  (repeat' (first | split | dsimp only)) <;> first | trivial | rfl | exact translate_settings _ _ _ _ | exact translate_settings' ‹_›

theorem nbRow_settings' {s : State} {w : Who} {need : Need} {nbOnly : Bool} {va : Nat} {t' r'} (h' : (s.nbRow w need nbOnly va) = (t', r')) : t'.settings = s.settings := by
  have e := nbRow_settings s w need nbOnly va
  rw [h'] at e
  exact e

@[simp] theorem amoTarget_settings (s : State) (c : EngCmd) (w : Who) (g : Seg) : (s.amoTarget c w g).1.settings = s.settings := by
  unfold State.amoTarget
  repeat' (first | refine eThen_settings ?_ (fun t v e => ?_) | split | dsimp only)
  all_goals (try have k0 := laneWord_settings' ‹_›)
  all_goals (try have k1 := nbRow_settings' ‹_›)
  all_goals first | trivial | rfl | assumption | exact laneWord_settings _ _ _ | exact nbRow_settings _ _ _ _ _ | simp [*]

theorem amoTarget_settings' {s : State} {c : EngCmd} {w : Who} {g : Seg} {t' r'} (h' : (s.amoTarget c w g) = (t', r')) : t'.settings = s.settings := by
  have e := amoTarget_settings s c w g
  rw [h'] at e
  exact e

@[simp] theorem amoMore_settings (s : State) (c : EngCmd) (w : Who) (e : NbEntry) (n : Nat) (l : List Seg) : (s.amoMore c w e n l).1.settings = s.settings := by
  induction n generalizing s e l with
  | zero => unfold State.amoMore; rfl
  | succ n ih =>
    cases l with
    | nil => unfold State.amoMore; rfl
    | cons g r =>
      unfold State.amoMore
      dsimp only
      split
      · rfl
      · have h := amoTarget_settings s c w g
        split
        · rename_i t x e3
          rw [e3] at h
          split
          · exact (ih t x r).trans h
          · rfl
        · rfl

theorem amoMore_settings' {s : State} {c : EngCmd} {w : Who} {e : NbEntry} {a4 : Nat} {a5 : List Seg} {t' r'} (h' : (s.amoMore c w e a4 a5) = (t', r')) : t'.settings = s.settings := by
  have e := amoMore_settings s c w e a4 a5
  rw [h'] at e
  exact e

@[simp] theorem nbItem_settings (s : State) (c : EngCmd) (g : Seg) (more : List Seg) : (s.nbItem c g more).1.settings = s.settings := by
  unfold State.nbItem
  repeat' (first | refine eThen_settings ?_ (fun t v e => ?_) | split | dsimp only)
  all_goals (try have k0 := nbRow_settings' ‹_›)
  all_goals (try have k1 := amoTarget_settings' ‹_›)
  all_goals (try have k2 := amoMore_settings' ‹_›)
  all_goals first | trivial | rfl | assumption | exact nbRow_settings _ _ _ _ _ | exact amoTarget_settings _ _ _ _ | exact amoMore_settings _ _ _ _ _ _ | simp [*]

theorem nbItem_settings' {s : State} {c : EngCmd} {g : Seg} {more : List Seg} {t' r'} (h' : (s.nbItem c g more) = (t', r')) : t'.settings = s.settings := by
  have e := nbItem_settings s c g more
  rw [h'] at e
  exact e

@[simp] theorem enqueue_settings (s : State) (c : EngCmd) (j : Nat) (it : NbItem) (copies : Bool) : (s.enqueue c j it copies).settings = s.settings :=
  rfl

@[simp] theorem withdraw_settings (s : State) (c : EngCmd) : (s.withdraw c).settings = s.settings :=
  rfl

@[simp] theorem nbSegEnd_settings (s : State) (c : EngCmd) (j : Nat) (g : Seg) (r : EngRes) : (s.nbSegEnd c j g r).settings = s.settings := by
  unfold State.nbSegEnd
  (repeat' split) <;> first | rfl | exact updCmd_settings _ _ _ | exact cmdViol_settings _ _ _ | exact segEnd_settings _ _ _ _ _

@[simp] theorem forwardFrom_settings (s : State) (cmd : Nat) (full : List Nat) (l : List (EngCmd × Nat)) : (s.forwardFrom cmd full l).settings = s.settings := by
  induction l generalizing s full with
  | nil => rfl
  | cons a r ih =>
    obtain ⟨c, j⟩ := a
    unfold State.forwardFrom
    split
    · rfl
    · rename_i g more _
      have h := nbItem_settings s c g more
      split <;> rename_i e <;> rw [e] at h
      · split
        · exact (nbSegEnd_settings _ _ _ _ _).trans h
        · rfl
      · dsimp only
        split
        · exact ih _ _
        · split
          · rfl
          · exact (enqueue_settings _ _ _ _ _).trans h

theorem execNbItemForward_settings (cmd : Nat) (s : State) : OutKeeps s.settings (execNbItemForward cmd s) := by
  unfold execNbItemForward
  show State.settings _ = _
  (repeat' split) <;> first | rfl | exact forwardFrom_settings _ _ _ _

theorem execNbInvalidationDone_settings (cmd : Nat) (s : State) : OutKeeps s.settings (execNbInvalidationDone cmd s) := by
  unfold execNbInvalidationDone
  show State.settings _ = _
  (repeat' split) <;> rfl

@[simp] theorem nbPush_settings (s : State) (c : EngCmd) : EndKeeps s.settings (s.nbPush c) := by
  unfold State.nbPush
  (repeat' split) <;> first | rfl | exact pushCmd_settings _ _

@[simp] theorem aRows_settings (kind : EngKind) (top op : Nat) (bad : State → Bool) (r : An) (s : State) : (aRows kind top op bad r s).settings = s.settings :=
  aPush_settings (fun t a b c => by
    dsimp only
    split
    · trivial
    · exact nbPush_settings t _)

theorem execNbCopy_settings (r : An) (s : State) : OutKeeps s.settings (execNbCopy r s) :=
  aRows_settings _ _ _ _ _ _

theorem execNbZero_settings (r : An) (s : State) : OutKeeps s.settings (execNbZero r s) :=
  aRows_settings _ _ _ _ _ _

theorem execNbAxpy_settings (r : An) (s : State) : OutKeeps s.settings (execNbAxpy r s) :=
  aRows_settings _ _ _ _ _ _

theorem execNbRun_settings (r : An) (s : State) : OutKeeps s.settings (execNbRun r s) :=
  aRows_settings _ _ _ _ _ _

@[simp] theorem aNbAmo_settings (op : Nat) (r : An) (s : State) : (aNbAmo op r s).settings = s.settings := by
  unfold aNbAmo
  (repeat' (first | refine aPush_settings (fun t x1 x2 x3 => ?_) | split | dsimp only)) <;> first | trivial | rfl | exact nbPush_settings _ _

theorem execNbAmoAdd_settings (r : An) (s : State) : OutKeeps s.settings (execNbAmoAdd r s) :=
  aNbAmo_settings _ _ _

theorem execNbAmoAnd_settings (r : An) (s : State) : OutKeeps s.settings (execNbAmoAnd r s) :=
  aNbAmo_settings _ _ _

theorem execNbAmoOr_settings (r : An) (s : State) : OutKeeps s.settings (execNbAmoOr r s) :=
  aNbAmo_settings _ _ _

theorem execNbAmoXor_settings (r : An) (s : State) : OutKeeps s.settings (execNbAmoXor r s) :=
  aNbAmo_settings _ _ _

theorem execNbAmoMin_settings (r : An) (s : State) : OutKeeps s.settings (execNbAmoMin r s) :=
  aNbAmo_settings _ _ _

theorem execNbAmoMax_settings (r : An) (s : State) : OutKeeps s.settings (execNbAmoMax r s) :=
  aNbAmo_settings _ _ _

theorem execNbAmoFadd_settings (r : An) (s : State) : OutKeeps s.settings (execNbAmoFadd r s) :=
  aNbAmo_settings _ _ _

theorem execNbAmoFmax_settings (r : An) (s : State) : OutKeeps s.settings (execNbAmoFmax r s) :=
  aNbAmo_settings _ _ _

theorem execNbFence_settings (r : An) (s : State) : OutKeeps s.settings (execNbFence r s) :=
  aWord_settings (fun t => by split <;> rfl)

theorem execNbStat_settings (r : An) (s : State) : OutKeeps s.settings (execNbStat r s) := by
  unfold execNbStat
  show State.settings _ = _
  (repeat' (first | refine aWord_settings (fun t => ?_) | split | dsimp only)) <;> first | trivial | rfl | exact setA_settings _ _ _ | exact translate_settings _ _ _ _ | exact translate_settings' ‹_› | exact (setA_settings _ _ _).trans (translate_settings' ‹_›)

theorem execNbProg_settings (r : An) (s : State) : OutKeeps s.settings (execNbProg r s) := by
  unfold execNbProg
  show State.settings _ = _
  refine aWord_settings (fun t => ?_)
  extract_lets op n g
  have hg : g.1.settings = t.settings := by
    dsimp only [g]
    split
    · rfl
    · rfl
    · exact gRead_settings _ _ _ _ _
  clear_value g
  split
  · trivial
  · exact aGot_settings hg (fun u k e => e ▸ takeProg_settings _ _ _) (fun u v e => e ▸ takeProg_settings _ _ _)

@[simp] theorem suspend_settings (s : State) (bank : Nat) : (s.suspend bank).settings = s.settings := by
  unfold State.suspend
  simp

theorem execNbSuspend_settings (bank : Nat) (s : State) : OutKeeps s.settings (execNbSuspend bank s) :=
  suspend_settings _ _

theorem execNbResume_settings (bank : Nat) (s : State) : OutKeeps s.settings (execNbResume bank s) := by
  unfold execNbResume
  show State.settings _ = _
  split <;> rfl

@[simp] theorem dieSample_settings (s : State) (die i v : Nat) : (s.dieSample die i v).settings = s.settings := by
  unfold State.dieSample
  split <;> simp

theorem execBankRequestIssue_settings (bank : Nat) (s : State) : OutKeeps s.settings (execBankRequestIssue bank s) := by
  unfold execBankRequestIssue
  show State.settings _ = _
  have h := foldl_settings suspend_settings (from' (bank / 16 * 16) 16) s
  dsimp only
  generalize (from' (bank / 16 * 16) 16).foldl State.suspend s = u at h
  split
  · exact h
  · refine (settings_mk _ ..).trans ?_
    split
    · exact (dieSample_settings _ _ _ _).trans h
    · exact h

theorem execRefresh_settings (bank : Nat) (s : State) : OutKeeps s.settings (execRefresh bank s) :=
  rfl

theorem execSkintExpiry_settings (stack : Nat) (s : State) : OutKeeps s.settings (execSkintExpiry stack s) := by
  unfold execSkintExpiry
  show State.settings _ = _
  (repeat' (first | split | dsimp only)) <;> first | trivial

theorem execMscFilterClear_settings (slice : Nat) (s : State) : OutKeeps s.settings (execMscFilterClear slice s) := by
  unfold execMscFilterClear
  show State.settings _ = _
  (repeat' (first | split | dsimp only)) <;> first | trivial

@[simp] theorem settleAttempt_settings (s : State) (slot group attempt : Nat) : (s.settleAttempt slot group attempt).settings = s.settings :=
  rfl

@[simp] theorem scribble_settings (s : State) (c : EngCmd) (n : Nat) : (s.scribble c n).settings = s.settings := by
  unfold State.scribble
  repeat' split
  all_goals (try have k0 := runs_settings' ‹_›)
  all_goals (try have k1 := putBytes_settings' ‹_›)
  all_goals first | trivial | rfl | assumption | exact runs_settings _ _ _ _ _ | exact putBytes_settings _ _ _ _ | simp [*]

@[simp] theorem collAbort_settings (s : State) (slot group attempt : Nat) : (s.collAbort slot group attempt).settings = s.settings := by
  unfold State.collAbort
  dsimp only
  split
  · rfl
  · exact (settleAttempt_settings _ _ _ _).trans ((foldl_settings (fun s c => updCmd_settings _ _ _) _ _).trans (foldl_settings (fun s c => scribble_settings _ _ _) _ _))

theorem execAbortToken_settings (group attempt : Nat) (s : State) : OutKeeps s.settings (execAbortToken group attempt s) :=
  collAbort_settings _ _ _ _

theorem execColltoExpiry_settings (cmd : Nat) (s : State) : OutKeeps s.settings (execColltoExpiry cmd s) := by
  unfold execColltoExpiry
  show State.settings _ = _
  (repeat' split) <;> first | rfl | exact collAbort_settings _ _ _ _

@[simp] theorem collSource_settings (s : State) (c : EngCmd) (p : CollPart) : (s.collSource c p).1.settings = s.settings := by
  unfold State.collSource
  dsimp only
  repeat' split
  all_goals (try have k0 := runs_settings' ‹_›)
  all_goals first | trivial | rfl | assumption | exact runs_settings _ _ _ _ _ | exact postRuns_settings _ _ _ | simp [*]

theorem collSource_settings' {s : State} {c : EngCmd} {p : CollPart} {t' r'} (h' : (s.collSource c p) = (t', r')) : t'.settings = s.settings := by
  have e := collSource_settings s c p
  rw [h'] at e
  exact e

@[simp] theorem collDest_settings (s : State) (c : EngCmd) : (s.collDest c).1.settings = s.settings :=
  runs_settings _ _ _ _ _

theorem collDest_settings' {s : State} {c : EngCmd} {t' r'} (h' : (s.collDest c) = (t', r')) : t'.settings = s.settings := by
  have e := collDest_settings s c
  rw [h'] at e
  exact e

@[simp] theorem collEnd_settings (s : State) (c : EngCmd) (r : EngRes) : (s.collEnd c r).settings = s.settings := by
  unfold State.collEnd
  (repeat' split) <;> first | rfl | exact updCmd_settings _ _ _ | exact cmdViol_settings _ _ _ | exact cmdData_settings _ _ _

@[simp] theorem collTake_settings (s : State) (c : EngCmd) (rank : Nat) (ws : List CWord) : (s.collTake c rank ws).settings = s.settings :=
  cmdRecords_settings _ _ _

@[simp] theorem collStrike_settings (s : State) (c : EngCmd) (mark : Seg) (addr : Nat) : (s.collStrike c mark addr).settings = s.settings := by
  unfold State.collStrike
  simp

theorem execContributionToken_settings (cmd rank attempt : Nat) (data : List CodedWord) (s : State) : OutKeeps s.settings (execContributionToken cmd rank attempt data s) := by
  unfold execContributionToken
  show State.settings _ = _
  repeat' split
  all_goals (try have k0 := collSource_settings' ‹_›)
  all_goals first | trivial | rfl | assumption | exact cmdViol_settings _ _ _ | exact collSource_settings _ _ _ | exact collEnd_settings _ _ _ | exact collTake_settings _ _ _ _ | exact collStrike_settings _ _ _ _ | simp [*]

@[simp] theorem collWrite_settings (s : State) (c : EngCmd) (p : CollPart) : (s.collWrite c p).settings = s.settings := by
  unfold State.collWrite
  repeat' split
  all_goals (try have k0 := putBytes_settings' ‹_›)
  all_goals (try have k1 := collDest_settings' ‹_›)
  all_goals first | trivial | rfl | assumption | exact count_settings _ _ _ _ | exact putWords_settings _ _ _ | exact putBytes_settings _ _ _ _ | exact updCmd_settings _ _ _ | exact cmdRecords_settings _ _ _ | exact scribble_settings _ _ _ | exact collDest_settings _ _ | exact collEnd_settings _ _ _ | exact collStrike_settings _ _ _ _ | simp [*]

theorem execCloseToken_settings (cmd attempt : Nat) (s : State) : OutKeeps s.settings (execCloseToken cmd attempt s) := by
  unfold execCloseToken
  show State.settings _ = _
  (repeat' split) <;> simp

theorem readDesc_settings {s : State} {op : Word} {f : State → Nat → WordEnd} (h : ∀ t n, t.settings = s.settings → EndKeeps s.settings (f t n)) :
    EndKeeps s.settings (s.readDesc op f) := by
  unfold State.readDesc
  have ht := runs_settings s s.who needR op 64
  split <;> rename_i e <;> rw [e] at ht <;> first | trivial | rfl | skip
  dsimp only
  split
  · trivial
  · exact h _ _ ((postRuns_settings _ _ _).trans ht)

@[simp] theorem aColl_settings (op : Nat) (r : An) (s : State) : (aColl op r s).settings = s.settings := by
  unfold aColl
  refine aPush_settings (fun t d a b => readDesc_settings (fun u v e => ?_))
  dsimp only
  split
  · trivial
  · exact e ▸ pushCmd_settings _ _

theorem execCollAllReduceSum_settings (r : An) (s : State) : OutKeeps s.settings (execCollAllReduceSum r s) :=
  aColl_settings _ _ _

theorem execCollAllReduceMax_settings (r : An) (s : State) : OutKeeps s.settings (execCollAllReduceMax r s) :=
  aColl_settings _ _ _

theorem execCollAllReduceMin_settings (r : An) (s : State) : OutKeeps s.settings (execCollAllReduceMin r s) :=
  aColl_settings _ _ _

theorem execCollReduceScatterSum_settings (r : An) (s : State) : OutKeeps s.settings (execCollReduceScatterSum r s) :=
  aColl_settings _ _ _

theorem execCollAllGather_settings (r : An) (s : State) : OutKeeps s.settings (execCollAllGather r s) :=
  aColl_settings _ _ _

theorem execCollBroadcast_settings (r : An) (s : State) : OutKeeps s.settings (execCollBroadcast r s) :=
  aColl_settings _ _ _

theorem execCollAbort_settings (r : An) (s : State) : OutKeeps s.settings (execCollAbort r s) := by
  unfold execCollAbort
  show State.settings _ = _
  refine aWord_settings (fun t => readDesc_settings (fun t n e => ?_))
  exact (collAbort_settings _ _ _ _).trans ((collAbort_settings _ _ _ _).trans e)

theorem execCollAtt_settings (r : An) (s : State) : OutKeeps s.settings (execCollAtt r s) := by
  unfold execCollAtt
  show State.settings _ = _
  refine aWord_settings (fun t => readDesc_settings (fun t n e => ?_))
  exact (setA_settings _ _ _).trans e

@[simp] theorem fetch_settings (s : State) (va : Word) (n : Nat) : (s.fetch va n).1.settings = s.settings := by
  unfold State.fetch
  (repeat' (first | split | dsimp only)) <;> first | trivial | rfl | exact gRead_settings _ _ _ _ _ | exact gRead_settings' ‹_›

theorem fetch_settings' {s : State} {va : Word} {n : Nat} {t' r'} (h' : (s.fetch va n) = (t', r')) : t'.settings = s.settings := by
  have e := fetch_settings s va n
  rw [h'] at e
  exact e

@[simp] theorem xNoFetch_settings (s : State) (cause : Nat) (data : Word) : (s.xNoFetch cause data).settings = s.settings :=
  raiseLeave_settings _ _ _ _ _

@[simp] theorem fetchLinks_settings (s : State) (va : Word) (n : Nat) : (s.fetchLinks va n).1.settings = s.settings := by
  induction n generalizing s va with
  | zero => rfl
  | succ n ih =>
    unfold State.fetchLinks
    have h := fetch_settings s va 8
    split
    · rename_i t bs e
      rw [e] at h
      split
      · have h2 := (ih t (va + 8)).trans h
        split
        · rename_i e2
          rw [e2] at h2
          exact h2
        · exact h2
      · exact h
    · exact h

theorem fetchLinks_settings' {s : State} {va : Word} {a2 : Nat} {t' r'} (h' : (s.fetchLinks va a2) = (t', r')) : t'.settings = s.settings := by
  have e := fetchLinks_settings s va a2
  rw [h'] at e
  exact e

@[simp] theorem firstWord_settings (s : State) : (s.firstWord).settings = s.settings := by
  unfold State.firstWord
  (repeat' split) <;> simp

@[simp] theorem fetchX_settings (s : State) : (s.fetchX).1.settings = s.settings := by
  unfold State.fetchX
  dsimp only
  repeat' split
  all_goals (try have k0 := fetch_settings' ‹_›)
  all_goals (try have k1 := fetchLinks_settings' ‹_›)
  all_goals first | trivial | rfl | assumption | exact raiseLeave_settings _ _ _ _ _ | exact xWait_settings _ | exact landDue_settings _ | exact fetch_settings _ _ _ | exact xNoFetch_settings _ _ _ | exact fetchLinks_settings _ _ _ | exact firstWord_settings _ | simp [*]

theorem fetchX_settings' {s : State} {t' r'} (h' : (s.fetchX) = (t', r')) : t'.settings = s.settings := by
  have e := fetchX_settings s
  rw [h'] at e
  exact e

@[simp] theorem fetchA_settings (s : State) : (s.fetchA).1.settings = s.settings := by
  unfold State.fetchA
  (repeat' split)
  all_goals (try have k0 := fetch_settings' ‹_›)
  all_goals first | trivial | rfl | assumption | simp only [settings_mk, raiseLeave_settings, fetch_settings, *]

theorem fetchA_settings' {s : State} {t' r'} (h' : (s.fetchA) = (t', r')) : t'.settings = s.settings := by
  have e := fetchA_settings s
  rw [h'] at e
  exact e

end Sys2Proof.Laws
end

