-- ==== Sys2Proof/Laws/SettingsDevice.lean ====
section
/-! SUPPORT. The outside world and the device, but for a power-on reset, leave the settings of the signed records. -/

open Sys2Proof.Machine

namespace Sys2Proof.Laws

@[simp] theorem scrubSet_settings (s : State) (a : Nat) (w : CWord) : (s.scrubSet a w).settings = s.settings := by
  unfold State.scrubSet
  (repeat' split) <;> first | rfl | exact physSetWords_settings _ _ _

@[simp] theorem scrubRead_settings (s : State) (a : Nat) (directed : Bool) : (s.scrubRead a directed).settings = s.settings := by
  unfold State.scrubRead
  dsimp only
  (repeat' split) <;> first | rfl

theorem execPatrolScrub_settings (word : Nat) (s : State) : OutKeeps s.settings (execPatrolScrub word s) :=
  scrubRead_settings _ _ _

theorem execDirectedScrub_settings (s : State) : OutKeeps s.settings (execDirectedScrub s) := by
  unfold execDirectedScrub
  show State.settings _ = _
  (repeat' split) <;> first | rfl | exact scrubRead_settings _ _ _

theorem execScrubWriteBack_settings (word : Nat) (s : State) : OutKeeps s.settings (execScrubWriteBack word s) := by
  unfold execScrubWriteBack
  show State.settings _ = _
  dsimp only
  (repeat' split) <;> first | rfl | exact pkgRecord_settings _ _ _ _ _ | exact scrubSet_settings _ _ _

@[simp] theorem withdrawCore_settings (s : State) (i : Nat) : (s.withdrawCore i).settings = s.settings :=
  rfl

@[simp] theorem coreRecord_settings (s : State) (kind : Nat) : (s.coreRecord kind).settings = s.settings := by
  unfold State.coreRecord
  (repeat' split) <;> first | rfl | exact domRecord_settings _ _ _ _ _ _ _ _

theorem item_settings {s : State} {aStream : Bool} {v'} (h' : (s.item aStream) = some v') : v'.settings = s.settings := by
  unfold State.item at h'
  have h : (if aStream then s.fetchA else s.fetchX).1.settings = s.settings := by
    split
    · exact fetchA_settings s
    · exact fetchX_settings s
  split at h'
  · cases h'
  · rename_i e
    rw [e] at h
    dsimp only at h'
    split at h' <;> split at h' <;> cases h' <;> exact h

theorem execCheckerMismatch_settings (aStream second : Bool) (s : State) : OutKeeps s.settings (execCheckerMismatch aStream second s) := by
  unfold execCheckerMismatch
  show State.settings _ = _
  repeat' split
  all_goals (try have k0 := item_settings ‹_›)
  all_goals first | trivial | rfl | assumption | exact raiseLeave_settings _ _ _ _ _ | exact withdrawCore_settings _ _ | exact coreRecord_settings _ _ | simp [*]

@[simp] theorem toMarker_settings (s : State) (e : LaneEngine) : (s.toMarker e).settings = s.settings := by
  unfold State.toMarker
  split <;> rfl

@[simp] theorem freezeHead_settings (s : State) (e : LaneEngine) : (s.freezeHead e).settings = s.settings := by
  unfold State.freezeHead
  (repeat' split) <;> rfl

@[simp] theorem cmdWdog_settings (s : State) (c : EngCmd) : (s.cmdWdog c).settings = s.settings := by
  unfold State.cmdWdog
  simp

theorem execWatchdogFiring_settings (what : Watchdog) (second : Bool) (s : State) : OutKeeps s.settings (execWatchdogFiring what second s) := by
  unfold execWatchdogFiring
  show State.settings _ = _
  (repeat' split) <;> simp

theorem execDedupRecordExpiry_settings (ent : Nat) (s : State) : OutKeeps s.settings (execDedupRecordExpiry ent s) := by
  unfold execDedupRecordExpiry
  show State.settings _ = _
  (repeat' split) <;> rfl

theorem execMonitorClear_settings (dom index : Nat) (s : State) : OutKeeps s.settings (execMonitorClear dom index s) := by
  unfold execMonitorClear
  show State.settings _ = _
  split
  · rfl
  · rename_i x h
    exact setDom_settings h rfl

theorem execMonitorInterval_settings (dom index sample : Nat) (s : State) : OutKeeps s.settings (execMonitorInterval dom index sample s) := by
  unfold execMonitorInterval
  show State.settings _ = _
  split
  · rfl
  · rename_i x h
    split
    · exact sample_settings _ _ _ _
    · split
      · exact (sample_settings _ _ _ _).trans (setDom_settings h rfl)
      · split
        · exact sample_settings _ _ _ _
        · rfl

@[simp] theorem quiesce_settings (s : State) : s.quiesce.settings = s.settings := by
  unfold State.quiesce
  exact (foldl_settings (fun s c => askPreempt_settings _ _ _) _ _).trans (foldl_settings (fun s c => by
    split
    · split
      · rfl
      · exact collAbort_settings _ _ _ _
    · rfl) _ _)

@[simp] theorem recall_settings (s : State) : s.recall.settings = s.settings := foldl_settings (fun s c => by
  split
  · exact withdraw_settings _ _
  · rfl) _ _

theorem execCheckpointRequest_settings (base : Nat) (s : State) : OutKeeps s.settings (execCheckpointRequest base s) := by
  unfold execCheckpointRequest
  show State.settings _ = _
  (repeat' split) <;> first | rfl | exact quiesce_settings _ | exact recall_settings _

theorem execCheckpointRestore_settings (base : Nat) (s : State) : OutKeeps s.settings (execCheckpointRestore base s) := by
  unfold execCheckpointRestore
  show State.settings _ = _
  (repeat' split) <;> first | rfl | exact quiesce_settings _

@[simp] theorem dropFrame_settings (s : State) (port : Nat) : (s.dropFrame port).settings = s.settings :=
  rfl

@[simp] theorem landed_settings (s : State) (key slot : Nat) : (s.landed key slot).settings = s.settings :=
  setEvent_settings _ _ _

@[simp] theorem frameBank_settings (s : State) (port key slot : Nat) (e : BitVec 256) (ws : List CWord) : (s.frameBank port key slot e ws).settings = s.settings := by
  unfold State.frameBank
  dsimp only
  (repeat' split) <;> first | rfl | exact setStore_settings _ _ _ | exact dropFrame_settings _ _ | exact landed_settings _ _ _

@[simp] theorem ringEvent_settings (s : State) (port a : Nat) : (s.ringEvent port a).settings = s.settings :=
  rfl

@[simp] theorem frameLines_settings (s : State) (base start : Nat) (ws : List CWord) : (s.frameLines base start ws).settings = s.settings :=
  physSetWords_settings _ _ _

@[simp] theorem frameRing_settings (s : State) (port key slot flow : Nat) (e : BitVec 256) (ws : List CWord) : (s.frameRing port key slot flow e ws).settings = s.settings := by
  unfold State.frameRing
  dsimp only
  (repeat' split) <;> simp

theorem execFrameArrival_settings (port : Nat) (frame : Frame) (s : State) : OutKeeps s.settings (execFrameArrival port frame s) := by
  unfold execFrameArrival
  show State.settings _ = _
  dsimp only
  (repeat' split) <;> simp

theorem execFlowEntryWrite_settings (port index : Nat) (entry : BitVec 256) (s : State) : OutKeeps s.settings (execFlowEntryWrite port index entry s) := by
  unfold execFlowEntryWrite
  show State.settings _ = _
  simp

theorem execPtpLock_settings (now : Nat) (s : State) : OutKeeps s.settings (execPtpLock now s) := by
  unfold execPtpLock
  show State.settings _ = _
  split <;> rfl

theorem execPtpLockLoss_settings (s : State) : OutKeeps s.settings (execPtpLockLoss s) :=
  rfl

@[simp] theorem hostEvent_settings (s : State) (a : Nat) : (s.hostEvent a).settings = s.settings :=
  rfl

@[simp] theorem mgmtBytes_settings (s : State) (off : Nat) (bs : List Byte) : (s.mgmtBytes off bs).settings = s.settings :=
  foldl_pair_settings (fun x _ => mgmtWrite_settings _ _ _) _ _

theorem execHostWrite_settings (addr : Nat) (bytes : List Byte) (s : State) : OutKeeps s.settings (execHostWrite addr bytes s) := by
  unfold execHostWrite
  show State.settings _ = _
  (repeat' split)
  all_goals (try have k0 := physStore_settings ‹_›)
  all_goals first | trivial | rfl | assumption | simp only [note_settings, hostEvent_settings, mgmtBytes_settings, *]

theorem execHostRead_settings (addr n : Nat) (s : State) : OutKeeps s.settings (execHostRead addr n s) := by
  unfold execHostRead
  show State.settings _ = _
  dsimp only
  (repeat' split) <;> first | rfl | simp only [postPhys_settings, note_settings, hostEvent_settings, settings_mk]

theorem execRaddr_settings (dom : Nat) (value : BitVec 64) (s : State) : OutKeeps s.settings (execRaddr dom value s) :=
  raddrWrite_settings _ _ _

@[simp] theorem portReject_settings (s : State) (d addr status : Nat) : (s.portReject d addr status).settings = s.settings := by
  unfold State.portReject
  split
  · rfl
  · rename_i x h
    exact setDom_settings h rfl

theorem execHostLaunchArm_settings (dom : Nat) (s : State) : OutKeeps s.settings (execHostLaunchArm dom s) := by
  unfold execHostLaunchArm
  show State.settings _ = _
  split
  · rfl
  · rename_i x h
    split
    · rfl
    · rename_i a r _
      split
      · rfl
      · have h1 : (s.setDom dom { x with fifo := r }).settings = s.settings := setDom_settings h rfl
        dsimp only
        generalize s.setDom dom { x with fifo := r } = t at h1
        split
        · exact (portReject_settings _ _ _ _).trans h1
        · have h2 := (armRecord_settings t (.host dom) (.phys dom) a).trans h1
          split <;> rename_i e <;> (try rw [e] at h2) <;> first | rfl | exact h2 | exact (portReject_settings _ _ _ _).trans h2

theorem execSetPin_settings (dom kvpn : Nat) (s : State) : OutKeeps s.settings (execSetPin dom kvpn s) :=
  resPin_settings _ _ _ _

theorem execClearPin_settings (dom kvpn : Nat) (s : State) : OutKeeps s.settings (execClearPin dom kvpn s) :=
  resPin_settings _ _ _ _

theorem execSetPref_settings (dom kvpn : Nat) (pref : BitVec 2) (s : State) : OutKeeps s.settings (execSetPref dom kvpn pref s) :=
  resPref_settings _ _ _ _

theorem execFreePage_settings (dom kvpn : Nat) (s : State) : OutKeeps s.settings (execFreePage dom kvpn s) :=
  resFree_settings _ _ _

theorem execMoveToStoreTier_settings (dom kvpn : Nat) (loc : BitVec 36) (s : State) : OutKeeps s.settings (execMoveToStoreTier dom kvpn loc s) :=
  resToStore_settings _ _ _ _

theorem execRegisterWrite_settings (offset : Nat) (value : BitVec 64) (s : State) : OutKeeps s.settings (execRegisterWrite offset value s) := by
  unfold execRegisterWrite
  show State.settings _ = _
  (repeat' split) <;> first | rfl | exact mgmtSet_settings _ _ _

theorem execPstate_settings (target : BitVec 2) (s : State) : OutKeeps s.settings (execPstate target s) := by
  unfold execPstate
  show State.settings _ = _
  simp

theorem execThermalThrottle_settings (s : State) : OutKeeps s.settings (execThermalThrottle s) :=
  rfl

theorem execThermalRecover_settings (s : State) : OutKeeps s.settings (execThermalRecover s) := by
  unfold execThermalRecover
  show State.settings _ = _
  split <;> rfl

theorem execThermalShutdown_settings (s : State) : OutKeeps s.settings (execThermalShutdown s) :=
  rfl

theorem execLinkDown_settings (port : Nat) (s : State) : OutKeeps s.settings (execLinkDown port s) := by
  unfold execLinkDown
  show State.settings _ = _
  split <;> rfl

@[simp] theorem answerPort_settings (s : State) (port : Nat) : (s.answerPort port).settings = s.settings := by
  unfold State.answerPort
  simp

@[simp] theorem answerPorts_settings (s : State) (port : Nat) : (s.answerPorts port).settings = s.settings := by
  unfold State.answerPorts
  refine (armWaiting_settings _).trans ((focus_settings _ _).trans ((foldl_settings (fun t i => ?_) _ _).trans (answerPort_settings _ _)))
  exact (answerPort_settings _ _).trans (focus_settings _ _)

theorem execLinkRetrain_settings (port : Nat) (s : State) : OutKeeps s.settings (execLinkRetrain port s) :=
  answerPorts_settings _ _

theorem execPoolLinkTimeout_settings (port : Nat) (s : State) : OutKeeps s.settings (execPoolLinkTimeout port s) := by
  unfold execPoolLinkTimeout
  show State.settings _ = _
  simp

@[simp] theorem replying_settings (s : State) (r : Reply) : (s.replying r).settings = s.settings :=
  rfl

theorem execRemoteRequest_settings (src : Nat) (req : RemoteReq) (s : State) : OutKeeps s.settings (execRemoteRequest src req s) := by
  unfold execRemoteRequest
  show State.settings _ = _
  repeat' split
  all_goals (try have k0 := physStore_settings ‹_›)
  all_goals first | trivial | rfl | assumption | exact physSetWords_settings _ _ _ | exact postMerge_settings _ _ _ _ _ _ | exact note_settings _ _ _ | exact hostEvent_settings _ _ | exact replying_settings _ _ | simp [*]

theorem execRamoRequest_settings (src : Nat) (req : RamoReq) (s : State) : OutKeeps s.settings (execRamoRequest src req s) := by
  unfold execRamoRequest
  show State.settings _ = _
  dsimp only
  (repeat' split)
  all_goals (try have k0 := atomicAt_settings' ‹_›)
  all_goals first | trivial

@[simp] theorem ramoEnd_settings (s : State) (o : RamoOut) (old : Word) (status : Nat) : (s.ramoEnd o old status).settings = s.settings :=
  (sample_settings _ _ _ _).trans (updCore_settings _ _ _ _)

@[simp] theorem updRamo_settings (s : State) (id : Nat) (f : RamoOut → RamoOut) : (s.updRamo id f).settings = s.settings :=
  rfl

theorem execRamoResponse_settings (req : Nat) (answer : RamoAnswer) (s : State) : OutKeeps s.settings (execRamoResponse req answer s) := by
  unfold execRamoResponse
  show State.settings _ = _
  (repeat' split) <;> simp only [lateFault_settings, answer_settings, ramoEnd_settings, updRamo_settings]

theorem execRamoRetryTimeout_settings (req : Nat) (s : State) : OutKeeps s.settings (execRamoRetryTimeout req s) := by
  unfold execRamoRetryTimeout
  show State.settings _ = _
  (repeat' split) <;> first | rfl | exact ramoEnd_settings _ _ _ _

theorem execBusyRetryTimer_settings (req : Nat) (s : State) : OutKeeps s.settings (execBusyRetryTimer req s) := by
  unfold execBusyRetryTimer
  show State.settings _ = _
  (repeat' split) <;> first | rfl | exact ramoEnd_settings _ _ _ _

theorem execFlashRecoveryWrite_settings (record : FlashRecord) (s : State) : OutKeeps s.settings (execFlashRecoveryWrite record s) :=
  rfl

theorem execAttestationRequest_settings (nonce : BitVec 256) (s : State) : OutKeeps s.settings (execAttestationRequest nonce s) := by
  unfold execAttestationRequest
  show State.settings _ = _
  simp

theorem execLeaveAccept_settings (slot : Nat) (s : State) : OutKeeps s.settings (execLeaveAccept slot s) :=
  leaveAccept_settings _ _

theorem execPreemption_settings (slot : Nat) (s : State) : OutKeeps s.settings (execPreemption slot s) :=
  preempt_settings _ _

theorem execFrameSave_settings (slot : Nat) (s : State) : OutKeeps s.settings (execFrameSave slot s) :=
  frameSaveXfer_settings _ _

theorem execPlacement_settings (slot origin : Nat) (s : State) : OutKeeps s.settings (execPlacement slot origin s) :=
  place_settings _ _ _

theorem execSwapOut_settings (slot : Nat) (s : State) : OutKeeps s.settings (execSwapOut slot s) :=
  swapOut_settings _ _

theorem execSwapIn_settings (slot : Nat) (s : State) : OutKeeps s.settings (execSwapIn slot s) :=
  swapIn_settings _ _

theorem execBankReclaim_settings (slot pos : Nat) (s : State) : OutKeeps s.settings (execBankReclaim slot pos s) :=
  bankReclaim_settings _ _ _

theorem execQuantumExpiry_settings (slot : Nat) (s : State) : OutKeeps s.settings (execQuantumExpiry slot s) :=
  quantumExpiry_settings _ _

theorem execContextReady_settings (slot : Nat) (s : State) : OutKeeps s.settings (execContextReady slot s) :=
  contextReady_settings _ _

theorem execWakeTimerExpiry_settings (slot : Nat) (s : State) : OutKeeps s.settings (execWakeTimerExpiry slot s) :=
  timerExpiry_settings _ _

theorem execControlNodeEval_settings (node : Nat) (s : State) : OutKeeps s.settings (execControlNodeEval node s) :=
  evalNode_settings _ _

theorem execDemotionStart_settings (kvpn : Nat) (s : State) : OutKeeps s.settings (execDemotionStart kvpn s) :=
  demotionStart_settings _ _

theorem execPromotionStart_settings (kvpn : Nat) (s : State) : OutKeeps s.settings (execPromotionStart kvpn s) :=
  promotionStart_settings _ _

theorem execMoveInstall_settings (kvpn : Nat) (s : State) : OutKeeps s.settings (execMoveInstall kvpn s) :=
  moveInstall_settings _ _

theorem execOldLocationRelease_settings (fence : Nat) (s : State) : OutKeeps s.settings (execOldLocationRelease fence s) :=
  releaseOld_settings _ _

theorem execDirectoryLeaseExpiry_settings (die kvpn : Nat) (s : State) : OutKeeps s.settings (execDirectoryLeaseExpiry die kvpn s) :=
  rfl

end Sys2Proof.Laws
end

