-- ==== Sys2Proof/Laws/SettingsStep.lean ====
section
/-! SUPPORT. Every instruction but POWER_ON_RESET, the creation of a supervisor, and the end of a step leave the settings of the
signed records. -/

open Sys2Proof.Machine

namespace Sys2Proof.Laws

@[simp] theorem watchBulk_settings (s : State) : s.watchBulk.settings = s.settings := by
  unfold State.watchBulk State.settings
  simp only [List.map_map]
  rfl

@[simp] theorem finish_settings (s : State) (t : Turn) : (s.finish t).settings = s.settings :=
  (show (s.finish t).settings = s.watchBulk.settings from rfl).trans (watchBulk_settings s)

/-- The host's creation of a supervisor leaves the settings. -/
@[simp] theorem makeSuper_settings (s : State) (d : Nat) (cb : Nat × List (BitVec 64)) : (s.makeSuper d cb).settings = s.settings := by
  unfold State.makeSuper
  split
  · rfl
  · rename_i x h
    have k := (ctxNew_settings (s.physPut cb.1 ((cb.2.take 4).map CWord.good)) d true cb.1).trans (physPut_settings _ _ _)
    exact (setDom_settings_of ((dom_of_settings k d).trans (by rw [h]; rfl))).trans k

/-- Whatever an instruction other than POWER_ON_RESET does leaves the settings of the signed records. -/
theorem exec_settings (i : Instr) (s : State) (h : ∀ b, i ≠ .powerOnReset b) : OutKeeps s.settings (exec i s) := by
  match i with
  | .udf w => exact execUdf_settings w s
  | .add r => exact execAdd_settings r s
  | .sub r => exact execSub_settings r s
  | .and r => exact execAnd_settings r s
  | .or r => exact execOr_settings r s
  | .xor r => exact execXor_settings r s
  | .andn r => exact execAndn_settings r s
  | .sll r => exact execSll_settings r s
  | .srl r => exact execSrl_settings r s
  | .sra r => exact execSra_settings r s
  | .rol r => exact execRol_settings r s
  | .min r => exact execMin_settings r s
  | .max r => exact execMax_settings r s
  | .minu r => exact execMinu_settings r s
  | .maxu r => exact execMaxu_settings r s
  | .clz r => exact execClz_settings r s
  | .ctz r => exact execCtz_settings r s
  | .popc r => exact execPopc_settings r s
  | .sext r => exact execSext_settings r s
  | .zext r => exact execZext_settings r s
  | .mov r => exact execMov_settings r s
  | .mul r => exact execMul_settings r s
  | .mulh r => exact execMulh_settings r s
  | .mulhu r => exact execMulhu_settings r s
  | .mulhsu r => exact execMulhsu_settings r s
  | .mad r => exact execMad_settings r s
  | .div r => exact execDiv_settings r s
  | .divu r => exact execDivu_settings r s
  | .rem r => exact execRem_settings r s
  | .remu r => exact execRemu_settings r s
  | .ceq r => exact execCeq_settings r s
  | .cne r => exact execCne_settings r s
  | .clt r => exact execClt_settings r s
  | .cle r => exact execCle_settings r s
  | .cltu r => exact execCltu_settings r s
  | .cleu r => exact execCleu_settings r s
  | .pand r => exact execPand_settings r s
  | .por r => exact execPor_settings r s
  | .pxor r => exact execPxor_settings r s
  | .pandn r => exact execPandn_settings r s
  | .pnand r => exact execPnand_settings r s
  | .pnor r => exact execPnor_settings r s
  | .pget r => exact execPget_settings r s
  | .pput r => exact execPput_settings r s
  | .sel r => exact execSel_settings r s
  | .addi r => exact execAddi_settings r s
  | .andi r => exact execAndi_settings r s
  | .ori r => exact execOri_settings r s
  | .xori r => exact execXori_settings r s
  | .slli r => exact execSlli_settings r s
  | .srli r => exact execSrli_settings r s
  | .srai r => exact execSrai_settings r s
  | .roli r => exact execRoli_settings r s
  | .mini r => exact execMini_settings r s
  | .maxi r => exact execMaxi_settings r s
  | .muli r => exact execMuli_settings r s
  | .ceqi r => exact execCeqi_settings r s
  | .cnei r => exact execCnei_settings r s
  | .clti r => exact execClti_settings r s
  | .clei r => exact execClei_settings r s
  | .cltui r => exact execCltui_settings r s
  | .cleui r => exact execCleui_settings r s
  | .movi r => exact execMovi_settings r s
  | .movu r => exact execMovu_settings r s
  | .movh r => exact execMovh_settings r s
  | .fadd r => exact execFadd_settings r s
  | .fsub r => exact execFsub_settings r s
  | .fmul r => exact execFmul_settings r s
  | .fdiv r => exact execFdiv_settings r s
  | .fsqrt r => exact execFsqrt_settings r s
  | .fmin r => exact execFmin_settings r s
  | .fmax r => exact execFmax_settings r s
  | .fma r => exact execFma_settings r s
  | .fms r => exact execFms_settings r s
  | .fnma r => exact execFnma_settings r s
  | .fabs r => exact execFabs_settings r s
  | .fneg r => exact execFneg_settings r s
  | .fsgnj r => exact execFsgnj_settings r s
  | .feq r => exact execFeq_settings r s
  | .flt r => exact execFlt_settings r s
  | .fle r => exact execFle_settings r s
  | .fun r => exact execFun_settings r s
  | .fclass r => exact execFclass_settings r s
  | .fcvt r => exact execFcvt_settings r s
  | .fcvti r => exact execFcvti_settings r s
  | .icvtf r => exact execIcvtf_settings r s
  | .br r => exact execBr_settings r s
  | .call r => exact execCall_settings r s
  | .jr r => exact execJr_settings r s
  | .callr r => exact execCallr_settings r s
  | .ret r => exact execRet_settings r s
  | .loop r => exact execLoop_settings r s
  | .lds fn r => exact execLds_settings fn r s
  | .ldsx fn r => exact execLdsx_settings fn r s
  | .sts fn r => exact execSts_settings fn r s
  | .ldg fn r => exact execLdg_settings fn r s
  | .stg fn r => exact execStg_settings fn r s
  | .amoAdd r => exact execAmoAdd_settings r s
  | .amoAnd r => exact execAmoAnd_settings r s
  | .amoOr r => exact execAmoOr_settings r s
  | .amoXor r => exact execAmoXor_settings r s
  | .amoMin r => exact execAmoMin_settings r s
  | .amoMax r => exact execAmoMax_settings r s
  | .amoSwap r => exact execAmoSwap_settings r s
  | .amoCas r => exact execAmoCas_settings r s
  | .amoFadd r => exact execAmoFadd_settings r s
  | .amoFmax r => exact execAmoFmax_settings r s
  | .amoMaxx r => exact execAmoMaxx_settings r s
  | .pop r => exact execPop_settings r s
  | .push r => exact execPush_settings r s
  | .fence r => exact execFence_settings r s
  | .bankMode r => exact execBankMode_settings r s
  | .vadd r => exact execVadd_settings r s
  | .vsub r => exact execVsub_settings r s
  | .vmul r => exact execVmul_settings r s
  | .vdiv r => exact execVdiv_settings r s
  | .vmin r => exact execVmin_settings r s
  | .vmax r => exact execVmax_settings r s
  | .vfma r => exact execVfma_settings r s
  | .vfms r => exact execVfms_settings r s
  | .vfnma r => exact execVfnma_settings r s
  | .vand r => exact execVand_settings r s
  | .vor r => exact execVor_settings r s
  | .vxor r => exact execVxor_settings r s
  | .vsll r => exact execVsll_settings r s
  | .vsrl r => exact execVsrl_settings r s
  | .vsra r => exact execVsra_settings r s
  | .vabd r => exact execVabd_settings r s
  | .vmov r => exact execVmov_settings r s
  | .vneg r => exact execVneg_settings r s
  | .vabs r => exact execVabs_settings r s
  | .vrcp r => exact execVrcp_settings r s
  | .vsqrt r => exact execVsqrt_settings r s
  | .vrsqrt r => exact execVrsqrt_settings r s
  | .vexp r => exact execVexp_settings r s
  | .vexp2 r => exact execVexp2_settings r s
  | .vlog2 r => exact execVlog2_settings r s
  | .vtanh r => exact execVtanh_settings r s
  | .vsigm r => exact execVsigm_settings r s
  | .vadds r => exact execVadds_settings r s
  | .vsubs r => exact execVsubs_settings r s
  | .vmuls r => exact execVmuls_settings r s
  | .vmins r => exact execVmins_settings r s
  | .vmaxs r => exact execVmaxs_settings r s
  | .vfmas r => exact execVfmas_settings r s
  | .vfill r => exact execVfill_settings r s
  | .vceq r => exact execVceq_settings r s
  | .vcne r => exact execVcne_settings r s
  | .vclt r => exact execVclt_settings r s
  | .vcle r => exact execVcle_settings r s
  | .vsel r => exact execVsel_settings r s
  | .vcvt r => exact execVcvt_settings r s
  | .vqJ4 r => exact execVqJ4_settings r s
  | .vdqJ4 r => exact execVdqJ4_settings r s
  | .vsum r => exact execVsum_settings r s
  | .vmaxr r => exact execVmaxr_settings r s
  | .vminr r => exact execVminr_settings r s
  | .vamax r => exact execVamax_settings r s
  | .vdot r => exact execVdot_settings r s
  | .vrev r => exact execVrev_settings r s
  | .vbcast r => exact execVbcast_settings r s
  | .vscan r => exact execVscan_settings r s
  | .vidx r => exact execVidx_settings r s
  | .vperm r => exact execVperm_settings r s
  | .vtrans r => exact execVtrans_settings r s
  | .vsetb r => exact execVsetb_settings r s
  | .vsets r => exact execVsets_settings r s
  | .vsetn r => exact execVsetn_settings r s
  | .vsett r => exact execVsett_settings r s
  | .vgetb r => exact execVgetb_settings r s
  | .vgetn r => exact execVgetn_settings r s
  | .vchain r => exact execVchain_settings r s
  | .vdefer r => exact execVdefer_settings r s
  | .vdrain r => exact execVdrain_settings r s
  | .rowSm r => exact execRowSm_settings r s
  | .rowNorm r => exact execRowNorm_settings r s
  | .rowLse r => exact execRowLse_settings r s
  | .mmNest r => exact execMmNest_settings r s
  | .mmGo r => exact execMmGo_settings r s
  | .mmSwap r => exact execMmSwap_settings r s
  | .mmZero r => exact execMmZero_settings r s
  | .mmDrain r => exact execMmDrain_settings r s
  | .mmCfg r => exact execMmCfg_settings r s
  | .tset r => exact execTset_settings r s
  | .tclr r => exact execTclr_settings r s
  | .barInit r => exact execBarInit_settings r s
  | .barArr r => exact execBarArr_settings r s
  | .barWait r => exact execBarWait_settings r s
  | .barSync r => exact execBarSync_settings r s
  | .evSet r => exact execEvSet_settings r s
  | .evClr r => exact execEvClr_settings r s
  | .evWait r => exact execEvWait_settings r s
  | .ctxYield r => exact execCtxYield_settings r s
  | .ctxXfer r => exact execCtxXfer_settings r s
  | .launch r => exact execLaunch_settings r s
  | .exit r => exact execExit_settings r s
  | .trap r => exact execTrap_settings r s
  | .id r => exact execId_settings r s
  | .time r => exact execTime_settings r s
  | .pause r => exact execPause_settings r s
  | .pauseExpiry aStream => exact execPauseExpiry_settings aStream s
  | .tw r => exact execTw_settings r s
  | .twa r => exact execTwa_settings r s
  | .sysRd r => exact execSysRd_settings r s
  | .sysWr r => exact execSysWr_settings r s
  | .fdataRead r => exact execFdataRead_settings r s
  | .fdataWrite r => exact execFdataWrite_settings r s
  | .evmsg r => exact execEvmsg_settings r s
  | .ctxNew r => exact execCtxNew_settings r s
  | .ctxDel r => exact execCtxDel_settings r s
  | .ctxSev r => exact execCtxSev_settings r s
  | .tlbInv r => exact execTlbInv_settings r s
  | .tlbAsid r => exact execTlbAsid_settings r s
  | .tlbAll r => exact execTlbAll_settings r s
  | .coreOut r => exact execCoreOut_settings r s
  | .coreIn r => exact execCoreIn_settings r s
  | .aUdf u => exact execAUdf_settings u s
  | .aUdf3f u => exact execAUdf3f_settings u s
  | .aAdd r => exact execAAdd_settings r s
  | .aSub r => exact execASub_settings r s
  | .aAnd r => exact execAAnd_settings r s
  | .aOr r => exact execAOr_settings r s
  | .aXor r => exact execAXor_settings r s
  | .aSll r => exact execASll_settings r s
  | .aSrl r => exact execASrl_settings r s
  | .aSra r => exact execASra_settings r s
  | .aMul r => exact execAMul_settings r s
  | .aMin r => exact execAMin_settings r s
  | .aMax r => exact execAMax_settings r s
  | .aMinu r => exact execAMinu_settings r s
  | .aMaxu r => exact execAMaxu_settings r s
  | .aAddi r => exact execAAddi_settings r s
  | .aAddhi r => exact execAAddhi_settings r s
  | .aSlli r => exact execASlli_settings r s
  | .aAndi r => exact execAAndi_settings r s
  | .b r => exact execB_settings r s
  | .bz r => exact execBz_settings r s
  | .bnz r => exact execBnz_settings r s
  | .aExit r => exact execAExit_settings r s
  | .nest r => exact execNest_settings r s
  | .bind v r => exact execBind_settings v r s
  | .ldq r => exact execLdq_settings r s
  | .stq r => exact execStq_settings r s
  | .ldt r => exact execLdt_settings r s
  | .stt r => exact execStt_settings r s
  | .lda r => exact execLda_settings r s
  | .sta r => exact execSta_settings r s
  | .cp r => exact execCp_settings r s
  | .mcast r => exact execMcast_settings r s
  | .gat r => exact execGat_settings r s
  | .sct r => exact execSct_settings r s
  | .kvg r => exact execKvg_settings r s
  | .kva r => exact execKva_settings r s
  | .kvc r => exact execKvc_settings r s
  | .aTw r => exact execATw_settings r s
  | .aTwa r => exact execATwa_settings r s
  | .aTclr r => exact execATclr_settings r s
  | .aAmoAdd r => exact execAAmoAdd_settings r s
  | .aAmoAnd r => exact execAAmoAnd_settings r s
  | .aAmoOr r => exact execAAmoOr_settings r s
  | .aAmoXor r => exact execAAmoXor_settings r s
  | .aAmoMin r => exact execAAmoMin_settings r s
  | .aAmoMax r => exact execAAmoMax_settings r s
  | .aAmoSwap r => exact execAAmoSwap_settings r s
  | .aAmoCas r => exact execAAmoCas_settings r s
  | .aAmoFadd r => exact execAAmoFadd_settings r s
  | .aAmoFmax r => exact execAAmoFmax_settings r s
  | .aAmoMaxx r => exact execAAmoMaxx_settings r s
  | .ramoAdd r => exact execRamoAdd_settings r s
  | .ramoAnd r => exact execRamoAnd_settings r s
  | .ramoOr r => exact execRamoOr_settings r s
  | .ramoXor r => exact execRamoXor_settings r s
  | .ramoMin r => exact execRamoMin_settings r s
  | .ramoMax r => exact execRamoMax_settings r s
  | .ramoSwap r => exact execRamoSwap_settings r s
  | .ramoFadd r => exact execRamoFadd_settings r s
  | .ramoFmax r => exact execRamoFmax_settings r s
  | .aFence r => exact execAFence_settings r s
  | .nbCopy r => exact execNbCopy_settings r s
  | .nbZero r => exact execNbZero_settings r s
  | .nbAxpy r => exact execNbAxpy_settings r s
  | .nbRun r => exact execNbRun_settings r s
  | .nbAmoAdd r => exact execNbAmoAdd_settings r s
  | .nbAmoAnd r => exact execNbAmoAnd_settings r s
  | .nbAmoOr r => exact execNbAmoOr_settings r s
  | .nbAmoXor r => exact execNbAmoXor_settings r s
  | .nbAmoMin r => exact execNbAmoMin_settings r s
  | .nbAmoMax r => exact execNbAmoMax_settings r s
  | .nbAmoFadd r => exact execNbAmoFadd_settings r s
  | .nbAmoFmax r => exact execNbAmoFmax_settings r s
  | .nbFence r => exact execNbFence_settings r s
  | .nbStat r => exact execNbStat_settings r s
  | .nbProg r => exact execNbProg_settings r s
  | .collAllReduceSum r => exact execCollAllReduceSum_settings r s
  | .collAllReduceMax r => exact execCollAllReduceMax_settings r s
  | .collAllReduceMin r => exact execCollAllReduceMin_settings r s
  | .collReduceScatterSum r => exact execCollReduceScatterSum_settings r s
  | .collAllGather r => exact execCollAllGather_settings r s
  | .collBroadcast r => exact execCollBroadcast_settings r s
  | .collAbort r => exact execCollAbort_settings r s
  | .collAtt r => exact execCollAtt_settings r s
  | .pf r => exact execPf_settings r s
  | .aPause r => exact execAPause_settings r s
  | .nbuEnd => exact execNbuEnd_settings s
  | .nbuLdx d => exact execNbuLdx_settings d s
  | .nbuLdy d => exact execNbuLdy_settings d s
  | .nbuSty b => exact execNbuSty_settings b s
  | .nbuAdd d b => exact execNbuAdd_settings d b s
  | .nbuMul d b => exact execNbuMul_settings d b s
  | .nbuMax d b => exact execNbuMax_settings d b s
  | .nbuScl d => exact execNbuScl_settings d s
  | .nbuFill d => exact execNbuFill_settings d s
  | .nbuFma d b => exact execNbuFma_settings d b s
  | .nbuAccy b => exact execNbuAccy_settings b s
  | .nbuAxpy b => exact execNbuAxpy_settings b s
  | .resultLand slot => exact execResultLand_settings slot s
  | .loadCommit => exact execLoadCommit_settings s
  | .globalAccessComplete answer => exact execGlobalAccessComplete_settings answer s
  | .aAmoComplete => exact execAAmoComplete_settings s
  | .queueWordProceed aStream => exact execQueueWordProceed_settings aStream s
  | .vectorCommandStart => exact execVectorCommandStart_settings s
  | .vectorCommandComplete => exact execVectorCommandComplete_settings s
  | .matrixCommandStart => exact execMatrixCommandStart_settings s
  | .matrixGranuleEnd twin => exact execMatrixGranuleEnd_settings twin s
  | .matrixCommandComplete => exact execMatrixCommandComplete_settings s
  | .engineSegment cmd seg => exact execEngineSegment_settings cmd seg s
  | .fixupReplay cmd ent => exact execFixupReplay_settings cmd ent s
  | .fixupFail cmd ent => exact execFixupFail_settings cmd ent s
  | .engineCommandComplete cmd => exact execEngineCommandComplete_settings cmd s
  | .nbItemForward cmd => exact execNbItemForward_settings cmd s
  | .nbRowStep bank => exact execNbRowStep_settings bank s
  | .nbSuspend bank => exact execNbSuspend_settings bank s
  | .nbResume bank => exact execNbResume_settings bank s
  | .nbInvalidationDone cmd => exact execNbInvalidationDone_settings cmd s
  | .bankRequestIssue bank => exact execBankRequestIssue_settings bank s
  | .skintExpiry stack => exact execSkintExpiry_settings stack s
  | .mscFilterClear slice => exact execMscFilterClear_settings slice s
  | .leaveAccept slot => exact execLeaveAccept_settings slot s
  | .preemption slot => exact execPreemption_settings slot s
  | .frameSave slot => exact execFrameSave_settings slot s
  | .placement slot origin => exact execPlacement_settings slot origin s
  | .swapOut slot => exact execSwapOut_settings slot s
  | .swapIn slot => exact execSwapIn_settings slot s
  | .bankReclaim slot pos => exact execBankReclaim_settings slot pos s
  | .quantumExpiry slot => exact execQuantumExpiry_settings slot s
  | .contextReady slot => exact execContextReady_settings slot s
  | .wakeTimerExpiry slot => exact execWakeTimerExpiry_settings slot s
  | .controlNodeEval node => exact execControlNodeEval_settings node s
  | .demotionStart kvpn => exact execDemotionStart_settings kvpn s
  | .promotionStart kvpn => exact execPromotionStart_settings kvpn s
  | .moveInstall kvpn => exact execMoveInstall_settings kvpn s
  | .oldLocationRelease fence => exact execOldLocationRelease_settings fence s
  | .directoryLeaseExpiry die kvpn => exact execDirectoryLeaseExpiry_settings die kvpn s
  | .frameArrival port frame => exact execFrameArrival_settings port frame s
  | .ptpLock now => exact execPtpLock_settings now s
  | .ptpLockLoss => exact execPtpLockLoss_settings s
  | .hostWrite addr bytes => exact execHostWrite_settings addr bytes s
  | .hostRead addr n => exact execHostRead_settings addr n s
  | .raddr dom value => exact execRaddr_settings dom value s
  | .hostLaunchArm dom => exact execHostLaunchArm_settings dom s
  | .setPin dom kvpn => exact execSetPin_settings dom kvpn s
  | .clearPin dom kvpn => exact execClearPin_settings dom kvpn s
  | .setPref dom kvpn pref => exact execSetPref_settings dom kvpn pref s
  | .freePage dom kvpn => exact execFreePage_settings dom kvpn s
  | .moveToStoreTier dom kvpn loc => exact execMoveToStoreTier_settings dom kvpn loc s
  | .pstate target => exact execPstate_settings target s
  | .monitorClear dom index => exact execMonitorClear_settings dom index s
  | .monitorInterval dom index sample => exact execMonitorInterval_settings dom index sample s
  | .flowEntryWrite port index entry => exact execFlowEntryWrite_settings port index entry s
  | .flashRecoveryWrite record => exact execFlashRecoveryWrite_settings record s
  | .registerWrite offset value => exact execRegisterWrite_settings offset value s
  | .attestationRequest nonce => exact execAttestationRequest_settings nonce s
  | .checkpointRequest base => exact execCheckpointRequest_settings base s
  | .checkpointRestore base => exact execCheckpointRestore_settings base s
  | .remoteRequest src req => exact execRemoteRequest_settings src req s
  | .ramoRequest src req => exact execRamoRequest_settings src req s
  | .ramoResponse req answer => exact execRamoResponse_settings req answer s
  | .ramoRetryTimeout req => exact execRamoRetryTimeout_settings req s
  | .busyRetryTimer req => exact execBusyRetryTimer_settings req s
  | .dedupRecordExpiry ent => exact execDedupRecordExpiry_settings ent s
  | .poolLinkTimeout port => exact execPoolLinkTimeout_settings port s
  | .contributionToken cmd rank attempt data => exact execContributionToken_settings cmd rank attempt data s
  | .closeToken cmd attempt => exact execCloseToken_settings cmd attempt s
  | .abortToken group attempt => exact execAbortToken_settings group attempt s
  | .colltoExpiry cmd => exact execColltoExpiry_settings cmd s
  | .patrolScrub word => exact execPatrolScrub_settings word s
  | .directedScrub => exact execDirectedScrub_settings s
  | .scrubWriteBack word => exact execScrubWriteBack_settings word s
  | .windowReplay engine => exact execWindowReplay_settings engine s
  | .checkerMismatch aStream second => exact execCheckerMismatch_settings aStream second s
  | .watchdogFiring what second => exact execWatchdogFiring_settings what second s
  | .thermalThrottle => exact execThermalThrottle_settings s
  | .thermalRecover => exact execThermalRecover_settings s
  | .thermalShutdown => exact execThermalShutdown_settings s
  | .powerOnReset boot => exact absurd rfl (h _)
  | .linkDown port => exact execLinkDown_settings port s
  | .linkRetrain port => exact execLinkRetrain_settings port s
  | .refresh bank => exact execRefresh_settings bank s

end Sys2Proof.Laws
end

