-- ==== Sys2Proof/Laws/Words.lean ====
section
/-! SUPPORT. What the shells of the two streams' words do: one lemma for each way a word can go. -/

namespace Sys2Proof.Laws

open Sys2Proof.Machine

/-- A word whose effect may be taken does what it says. -/
theorem xWordN_takes {s u : State} {len : Nat} {g : BitVec 7} {gn : Bool} {uses : List Nat} (f : State → WordEnd)
    (h : s.XTakes g gn uses u) : s.xWordN len g gn uses f = u.xEnd len (f u) := by
  obtain ⟨rfl, hg, hp, hb⟩ := h
  simp only [State.xWordN, hg, hp, hb, if_true, Bool.false_eq_true, if_false]

theorem xWord_takes {s u : State} {g : BitVec 7} {gn : Bool} {uses : List Nat} (f : State → WordEnd)
    (h : s.XTakes g gn uses u) : s.xWord g gn uses f = u.xEnd 1 (f u) := xWordN_takes f h

/-- How a word ends that is ready: as its own effect says. -/
theorem xEnd_done {u t : State} {len : Nat} (h : u.stepPoisoned len = none) : u.xEnd len (.done t) = t.xDone len := by
  simp only [State.xEnd, h]
theorem xEnd_leave {u : State} {len : Nat} {kind : AskKind} {data : Word} {code : BitVec 32} (h : u.stepPoisoned len = none) :
    u.xEnd len (.leave kind data code) = u.raiseLeave false kind data code := by
  simp only [State.xEnd, h, ite_self]

/-- What a ready word makes of its end. -/
def readyEnd (u : State) (len : Nat) : WordEnd → State
  | .done t => t.xDone len
  | .jump t pc => t.xJump pc
  | .trap cause data => u.raiseLeave false (.fault cause) data 0
  | .leave kind data tcode => u.raiseLeave false kind data tcode
  | .wait t => t.xWait

theorem xEnd_ready {u : State} {len : Nat} (h : u.stepPoisoned len = none) (e : WordEnd) : u.xEnd len e = readyEnd u len e := by
  cases e
  case done t => exact xEnd_done h
  case leave k d c => exact xEnd_leave h
  all_goals rfl

theorem xWordN_ready {s u : State} {len : Nat} {g : BitVec 7} {gn : Bool} {uses : List Nat} (f : State → WordEnd)
    (h : s.XReady len g gn uses u) : s.xWordN len g gn uses f = readyEnd u len (f u) :=
  (xWordN_takes f h.toXTakes).trans (xEnd_ready h.frame _)

theorem xWord_ready {s u : State} {g : BitVec 7} {gn : Bool} {uses : List Nat} (f : State → WordEnd)
    (h : s.XReady 1 g gn uses u) : s.xWord g gn uses f = readyEnd u 1 (f u) := xWordN_ready f h

/-- Every way that a word can go: what holds of a stop on a contained word, of a wait, of a completion without effect, and of the
word's own end, holds of the word. -/
theorem xWordN_ind {P : State → Prop} {s : State} {len : Nat} {g : BitVec 7} {gn : Bool} {uses : List Nat} {f : State → WordEnd}
    (hr : ∀ z : BitVec 8, P (s.landDue.raiseLeave false (.fault causeData) 0 (z.zeroExtend 32))) (hw : P s.landDue.xWait)
    (hs : P (s.landDue.xDone len)) (hf : P ((s.landDue.takeX uses).xEnd len (f (s.landDue.takeX uses)))) :
    P (s.xWordN len g gn uses f) := by
  unfold State.xWordN
  simp only
  split
  · split
    · exact hw
    · split
      · exact hr _
      · exact hf
  · simp only [State.xEnd]
    split
    · exact hr _
    · exact hs

/-- A word whose guard does not hold only completes (02 R33). -/
theorem xWord_skip {s : State} {g : BitVec 7} {gn : Bool} {uses : List Nat} (f : State → WordEnd)
    (hf : s.landDue.stepPoisoned 1 = none) (hg : s.landDue.guard g gn = false) :
    s.xWord g gn uses f = s.landDue.xDone 1 := by
  simp [State.xWord, State.xWordN, State.xEnd, hf, hg]

/-- A word that reads or writes a pending register holds issue (05 R111). -/
theorem xWord_pending {s : State} {g : BitVec 7} {gn : Bool} {uses : List Nat} (f : State → WordEnd)
    (hg : s.landDue.guard g gn = true) (hp : uses.any (fun i => s.landDue.core.pendingX (i % 64)) = true) :
    s.xWord g gn uses f = s.landDue.xWait := by
  simp only [State.xWord, State.xWordN, hg, hp, if_true]

/-- A supervisor's privileged word goes as another word does. -/
theorem xPriv_super {s : State} {g : BitVec 7} {gn : Bool} {uses : List Nat} (f : State → WordEnd) (h : s.isSuper = true) :
    s.xPriv g gn uses f = s.xWord g gn uses f := by
  simp [State.xPriv, h]

/-- A user context's privileged word traps with VIOL, whatever its guard (02 R47). -/
theorem xPriv_user {s : State} {g : BitVec 7} {gn : Bool} {uses : List Nat} (f : State → WordEnd) (h : s.isSuper = false) :
    s.xPriv g gn uses f = s.landDue.raiseLeave false (.fault causeViol) 0 0 := by
  simp [State.xPriv, h]

/-- A privileged word that is ready does what its own effect says. -/
theorem xPriv_ready {s u : State} {g : BitVec 7} {gn : Bool} {uses : List Nat} (f : State → WordEnd)
    (h : s.PrivReady g gn uses u) : s.xPriv g gn uses f = readyEnd u 1 (f u) := by
  rw [xPriv_super f h.super, xWord_ready f h.ready]

/-- An A word that is ready does what its own effect says. -/
theorem aWord_ready {s : State} {l f : Bool} {reads : List Nat} {commits : Bool} (fn : State → WordEnd)
    (h : s.AReady l f reads commits) : s.aWord l f reads commits fn = s.aEnd (fn s) := by
  have h2 : ¬ (commits = true ∧ s.core.loads ≠ []) := fun hc => hc.2 (h.order hc.1)
  simp only [State.aWord, h.issues, h.settled, if_true, if_neg h2, Bool.false_eq_true, if_false]

/-- An A word that its issue bits hold back only completes (02 R40). -/
theorem aWord_skip {s : State} {l f : Bool} {reads : List Nat} {commits : Bool} (fn : State → WordEnd)
    (hi : s.core.issues l f = false) (hb : s.core.endBinds.any s.pendingA = false) :
    s.aWord l f reads commits fn = s.aDone := by
  simp [State.aWord, hi, hb]

/-- With no loop frame on top, no frame steps. -/
theorem loopStep_none {m : Memory} {a : Word} {c : Core} (n : Nat) (h : c.topLoop m = none) :
    Core.loopStep m a n c = .ok (c, 0) := by
  cases n with
  | zero => rfl
  | succ n => rw [Core.loopStep, h]
theorem topLoop_pc (m : Memory) (c : Core) (p : Word) : Core.topLoop m { c with xpc := p } = c.topLoop m := rfl

theorem nestStep_none {t : Nat} {a : Word} {c : Core} (n : Nat) (h : ∀ v ∈ c.innermost, v.2.stop ≠ a) : Core.nestStep t a n c = c := by
  cases n with
  | zero => rfl
  | succ n =>
    rw [Core.nestStep]
    cases hv : c.innermost with
    | none => rfl
    | some v => simp [h v (by rw [hv]; rfl)]
theorem innermost_pc (c : Core) (p : Word) : Core.innermost { c with apc := p } = c.innermost := rfl

theorem next_word (p : Word) (len : Nat) (hl : 1 ≤ len) : p + BitVec.ofNat 64 (8 * (len - 1)) + 8 = p + BitVec.ofNat 64 (8 * len) := by
  obtain ⟨k, rfl⟩ : ∃ k, len = k + 1 := ⟨len - 1, by omega⟩
  rw [Nat.add_sub_cancel, Nat.mul_add, BitVec.ofNat_add, BitVec.add_assoc]
  rfl

/-- Outside a loop frame's last word, a word that completes goes to the next word and takes a cycle for each of its words. -/
theorem xDone_plain {s : State} {len : Nat} (h : s.core.topLoop s.spillMem = none) (hl : 1 ≤ len) :
    s.xDone len = { s with core := { s.core with xpc := s.core.xpc + BitVec.ofNat 64 (8 * len), xcycle := s.core.xcycle + len, xdoubt := false } } := by
  have e := loopStep_none (m := s.spillMem) (a := s.core.xpc + BitVec.ofNat 64 (8 * (len - 1))) s.core.depth
    (c := { s.core with xpc := s.core.xpc + BitVec.ofNat 64 (8 * len), xdoubt := false }) h
  rw [State.xDone, Core.complete]
  simp only [next_word _ _ hl, e]
  rfl

/-- Outside a nest body's last word, an A word that completes goes to the next word. -/
theorem aDone_plain {s : State} (h : ∀ v ∈ s.core.innermost, v.2.stop ≠ s.core.apc) :
    s.aDone = { s with core := { s.core with apc := s.core.apc + 4, adoubt := false } } := by
  rw [State.aDone, nestStep_none]
  exact h

/-- Stepping loop frames touches the place, the call stack and its spilled part, and the cycle only. -/
theorem loopStep_frame (m : Memory) (a : Word) (n : Nat) (c d : Core) (k : Nat) (h : Core.loopStep m a n c = .ok (d, k)) :
    d = { c with xpc := d.xpc, rstack := d.rstack, spilled := d.spilled, xcycle := d.xcycle } := by
  induction n generalizing c d k with
  | zero => simp only [Core.loopStep, Except.ok.injEq, Prod.mk.injEq] at h; rw [← h.1]
  | succ n ih =>
    simp only [Core.loopStep] at h
    split at h
    · simp only [Except.ok.injEq, Prod.mk.injEq] at h; rw [← h.1]
    · split at h
      · split at h
        · cases h
        · split at h
          · simp only [Except.ok.injEq, Prod.mk.injEq] at h
            rw [← h.1]; split <;> rfl
          · unfold Stacked.more at h
            split at h
            · cases h
            · rename_i e
              simp only [Except.ok.injEq, Prod.mk.injEq] at h
              have := ih _ _ _ e
              rw [h.1] at this
              rw [this]
              simp only [Core.pop]
              split <;> split <;> split <;> rfl
      · simp only [Except.ok.injEq, Prod.mk.injEq] at h; rw [← h.1]

/-- Completing a word touches the same of the core in focus. -/
theorem xDone_frame (s : State) (n : Nat) :
    (s.xDone n).core = { s.core with
      xpc := (s.xDone n).core.xpc, rstack := (s.xDone n).core.rstack, spilled := (s.xDone n).core.spilled,
      xcycle := (s.xDone n).core.xcycle, xdoubt := (s.xDone n).core.xdoubt } := by
  unfold State.xDone
  split
  · rfl
  · rename_i c k h
    rw [fixed_core]
    rw [loopStep_frame _ _ _ _ _ _ h]

/-- The context in focus is that of the core in focus. -/
theorem here?_some {s : State} {k : Nat} {c : Ctx} (h : s.here? = some (k, c)) : s.core.ctx = some k ∧ tget s.ctxs k = some c := by
  simp only [State.here?] at h
  split at h
  · cases h
  · rename_i k' hk
    cases hc : tget s.ctxs k' with
    | none => rw [hc] at h; cases h
    | some c' => rw [hc] at h; cases h; exact ⟨hk, hc⟩

end Sys2Proof.Laws
end

