-- ==== Sys2Proof/Tests/Slice0.lean ====
section
/-! SUPPORT. Tests: words written out from the encodings of the spec, ill-formed terms that the check refuses, and for every
statement with hypotheses a state and operands that meet them. -/

namespace Sys2Proof.Machine

/-- The X word at PC takes its own effect, on the state in which the windows have landed and its lanes' corrections are counted. -/
def State.Takes (s : State) (g : BitVec 7) (gn : Bool) (uses : List Nat) : Prop := s.XTakes g gn uses (s.landDue.takeX uses)

/-- The same of a word of `len` words that completes. -/
def State.Acts (s : State) (len : Nat) (g : BitVec 7) (gn : Bool) (uses : List Nat) : Prop :=
  s.XReady len g gn uses (s.landDue.takeX uses)

/-- The same of a privileged word in a supervisor. -/
def State.PrivActs (s : State) (g : BitVec 7) (gn : Bool) (uses : List Nat) : Prop := s.PrivReady g gn uses (s.landDue.takeX uses)

end Sys2Proof.Machine

namespace Sys2Proof.Tests

set_option Elab.async false

open Sys2Proof Sys2Proof.Machine Sys2Proof.Claims

/-! ### Words written out by hand from the formats (02 R32, R35, R37, R39, R41) and Tables 02-6, 02-7, 09-2 -/


/-- 02 R36, R43; 04 R84, R86-R89: `(!p5) add.lb2 x3, x4, x5`, `mad x9, x1, x2, x3`, `clti p7, x3, -1`, and words by their fields. -/
theorem test_words_integer :
    decodeX 0x510300C281#64 [] = .ok (.add { (default : Xr) with g := 5, gn := true, lb := 1, d := 3, a := 4, b := 5 }) ∧
    decodeX 0xC2049110002#64 [] = .ok (.mad { (default : Xr) with lb := 2, d := 9, a := 1, b := 2, c := 3 }) ∧
    decodeX 0xFFFFFFF0C7080011#64 [] = .ok (.clti { (default : Xi) with d := 7, a := 3, imm := 0xFFFFFFF }) ∧
    decodeX 0x8000000106080012#64 [] = .ok (.movh { (default : Xk) with d := 6, imm := 0x80000001 }) ∧
    decodeX 0x5F00009207000005#64 [] = .ok (.sel { (default : Xr) with d := 7, a := 8, b := 9, pd := 95 }) ∧
    decodeX 0x32001FFC0040004#64 [] = .ok (.por { (default : Xr) with pd := 3, a := 63, b := 31, m := 2 }) ∧
    decodeX 0x1#64 [] = .ok (.add { (default : Xr) with  }) := by
  decide +kernel

/-- 04 R90-R92: `fma.f32.rup.lb4 x4, x1, x2, x3`; a compare of f64 and a conversion of f32 to n32, by their fields. -/
theorem test_words_float :
    decodeX 0x3A0C20441D8020#64 [] = .ok (.fma { (default : Xr) with m := 3, t := 10, c := 3, b := 2, a := 1, d := 4, lb := 3 }) ∧
    decodeX 0x20B005100058021#64 [] = .ok (.flt { (default : Xr) with lb := 3, t := 11, pd := 2, a := 4, b := 5 }) ∧
    decodeX 0x1200A106058022#64 [] = .ok (.fcvti { (default : Xr) with lb := 3, t := 2, b := 10, a := 4, d := 6, m := 1 }) := by
  decide +kernel

/-- 04 R93-R95: the `loop` of the chapter's example, a backward branch and `ret`, by their fields. -/
theorem test_words_control :
    decodeX 0x3040000032#64 [] = .ok (.loop { (default : Xi) with imm := 3, a := 1 }) ∧
    decodeX 0xFFFFFFFFFD000030#64 [] = .ok (.br { (default : Xb) with off := 0xFFFFFFFFFD }) ∧
    decodeX 0x80031#64 [] = .ok (.ret { (default : Xr) with  }) := by
  decide +kernel

/-- 07 R166, R179; 08 R199, R201, R202, R217: words that the chapters write out. -/
theorem test_words_memory :
    decodeX 0x100840A0038#64 [] = .ok (.lds 2 { (default : Xi) with imm := 16, a := 2, d := 4, lb := 4 }) ∧
    decodeX 0x20458C003A#64 [] = .ok (.ldg 0x23 { (default : Xr) with b := 2, a := 1, d := 5 }) ∧
    decodeX 0x260C204728003C#64 [] = .ok (.amoMaxx { (default : Xr) with m := 2, t := 6, c := 3, b := 2, a := 1, d := 7 }) ∧
    decodeX 0x7E00000003F#64 [] = .ok (.bankMode { (default : Xi) with imm := 0x7E }) ∧
    decodeX 0xC1300000003F#64 [] = .ok (.bankMode { (default : Xi) with imm := 0xC13 }) ∧
    decodeX 0x4000000000003E#64 [] = .ok (.fence { (default : Xr) with m := 4 }) ∧
    decodeX 0x93C004003D#64 [] = .ok (.push { (default : Xr) with a := 15, b := 9 }) := by
  decide +kernel

/-- 05 R104, R123, R128: words that the chapter writes out, the chain with its three links. -/
theorem test_words_span :
    decodeX 0xA000080204000040#64 [] = .ok (.vadd { (default : Xs) with t := 10, sb := 2, sa := 1, sd := 4 }) ∧
    decodeX 0x38000004000048#64 [] = .ok (.vsetb { (default : Xs) with sd := 4, sx := 7 }) ∧
    decodeX 0x28000800140048#64 [] = .ok (.vgetn { (default : Xs) with sa := 4, sx := 5 }) ∧
    decodeX 0xA010582A14000050#64 [0xA000000017080051, 0xA0000001FF000051, 0xA0000001FF680051] = .ok (.vchain { (default : Xc) with t := 10, sb := 22, sa := 21, sd := 20, links := [{ fn := 2, rm := 0, t := 10, sx := 0, so := 23 }, { fn := 0, rm := 0, t := 10, sx := 0, so := 511 }, { fn := 26, rm := 0, t := 10, sx := 0, so := 511 }] }) ∧
    decodeX 0xC03034180E000058#64 [] = .ok (.rowSm { (default : Xs) with t := 12, sx := 6, sb := 13, sa := 12, sd := 14 }) ∧
    decodeX 0xA048803E1E000058#64 [] = .ok (.rowSm { (default : Xs) with t := 10, sx := 9, sb := 32, sa := 31, sd := 30 }) := by
  decide +kernel

/-- 06 R142, R149, R153, R158: words that the chapter writes out. -/
theorem test_words_matrix :
    decodeX 0x8000000220000060#64 [] = .ok (.mmNest { (default : Xm) with v := 0x80000002, fld := 4, l := 0 }) ∧
    decodeX 0xC0C4001000061#64 [] = .ok (.mmGo { (default : Xr) with d := 1, a := 0, b := 4, c := 3, t := 12 }) ∧
    decodeX 0x9000000080061#64 [] = .ok (.mmZero { (default : Xr) with t := 9 }) ∧
    decodeX 0x19009008000062#64 [] = .ok (.mmDrain { (default : Xr) with d := 8, a := 0, b := 9, t := 9, m := 1 }) ∧
    decodeX 0x1000000063#64 [] = .ok (.mmCfg { (default : Xi) with imm := 1 }) := by
  decide +kernel

/-- 08 R212; 10 R255, R256, R260, R261, R269, R270, R275, R279: words that the chapters write out. -/
theorem test_words_sync :
    decodeX 0x509000068#64 [] = .ok (.barInit { (default : Xk) with imm := 5, d := 9 }) ∧
    decodeX 0x5000C0068#64 [] = .ok (.barSync { (default : Xk) with imm := 5 }) ∧
    decodeX 0x7000000069#64 [] = .ok (.evSet { (default : Xi) with imm := 7 }) ∧
    decodeX 0x3146080069#64 [] = .ok (.evWait { (default : Xi) with imm := 3, a := 5, d := 6 }) ∧
    decodeX 0x6A#64 [] = .ok (.ctxYield { (default : Xr) with  }) ∧
    decodeX 0x10504006A#64 [] = .ok (.ctxXfer { (default : Xr) with a := 4, d := 5 }) ∧
    decodeX 0xC700006B#64 [] = .ok (.launch { (default : Xr) with a := 3, d := 7 }) ∧
    decodeX 0x4006B#64 [] = .ok (.exit { (default : Xr) with  }) ∧
    decodeX 0x2A0008006B#64 [] = .ok (.trap { (default : Xk) with imm := 0x2A }) ∧
    decodeX 0x2000000400006C#64 [] = .ok (.id { (default : Xr) with m := 2, d := 4 }) ∧
    decodeX 0x504006C#64 [] = .ok (.time { (default : Xr) with d := 5 }) ∧
    decodeX 0x30004006D#64 [] = .ok (.tw { (default : Xk) with imm := 3 }) := by
  decide +kernel

/-- 12 R311, R315: `sys.wr` and `tlb.inv` by their fields. -/
theorem test_words_system :
    decodeX 0x2104040070#64 [] = .ok (.sysWr { (default : Xk) with imm := 0x21, d := 4 }) ∧
    decodeX 0x1304000070#64 [] = .ok (.fdataRead { (default : Xk) with imm := 0x13, d := 4 }) := by
  decide +kernel

/-- 08 R186-R189: words that the chapter writes out. -/
theorem test_words_address :
    decodeA 0x4000102#32 = .ok (.aAddi { (default : Ai) with imm := 0x100, d := 1 }) ∧
    decodeA 0xB#32 = .ok (.aExit { (default : Sys2Proof.Ab) with a := 0 }) ∧
    decodeA 0x180610C#32 = .ok (.nest { (default : An) with k := 3, a := 3, d := 1 }) ∧
    decodeA 0x100800C#32 = .ok (.nest { (default : An) with k := 2, a := 4 }) ∧
    decodeA 0x80C10D#32 = .ok (.bind 1 { (default : Ar) with a := 6, d := 1 }) ∧
    decodeA 0x2#32 = .ok (.aAddi { (default : Ai) with imm := 0 }) := by
  decide +kernel

/-- 07 R179; 08 R192-R195, R220: words that the chapters write out; an atomic by its fields. -/
theorem test_words_address_memory :
    decodeA 0x12142210#32 = .ok (.ldq { (default : Am) with sc := 2, sz := 2, bo := 2, ix := true, a := 1, d := 2 }) ∧
    decodeA 0x14082210#32 = .ok (.ldq { (default : Am) with sc := 2, sz := 4, bo := 1, a := 1, d := 2 }) ∧
    decodeA 0x24006111#32 = .ok (.stq { (default : Am) with sc := 4, sz := 4, a := 3, d := 1 }) ∧
    decodeA 0x44018013#32 = .ok (.stt { (default : Am) with s := 1, sz := 4, a := 12 }) ∧
    decodeA 0x9018A425#32 = .ok (.ramoAdd { (default : Ar) with x := 9, b := 6, a := 5, d := 4 }) ∧
    decodeA 0x2000026#32 = .ok (.aFence { (default : An) with k := 4 }) ∧
    decodeA 0x1800020#32 = .ok (.aTw { (default : An) with k := 3 }) := by
  decide +kernel

/-- 08 R205, R209, R214, R221: `cp.die a4, a5, a6, 3`, `cp.clu a7, a4, a8, 2`, `kvg a7, a2, a3, 1`, and a collective by its fields. -/
theorem test_words_push :
    decodeA 0x4198A418#32 = .ok (.cp { (default : An) with k := 0x83, b := 6, a := 5, d := 4 }) ∧
    decodeA 0x21208718#32 = .ok (.cp { (default : An) with k := 0x42, b := 8, a := 4, d := 7 }) ∧
    decodeA 0x8C471C#32 = .ok (.kvg { (default : An) with k := 1, b := 3, a := 2, d := 7 }) ∧
    decodeA 0x5098A430#32 = .ok (.collAllReduceMax { (default : An) with k := 0xA1, b := 6, a := 5, d := 4 }) := by
  decide +kernel

/-- 09 R230, R231, R233, R234, R235, R237-R239: words that the chapter writes out, and microinstructions by their fields. -/
theorem test_words_near_bank :
    decodeA 0x198A428#32 = .ok (.nbCopy { (default : An) with k := 3, b := 6, a := 5, d := 4 }) ∧
    decodeA 0x1980429#32 = .ok (.nbZero { (default : An) with k := 3, b := 6, d := 4 }) ∧
    decodeA 0x2198A42A#32 = .ok (.nbAxpy { (default : An) with k := 0x43, b := 6, a := 5, d := 4 }) ∧
    decodeA 0x80A02F#32 = .ok (.nbProg { (default : An) with k := 1, a := 5 }) ∧
    decodeA 0x198A02C#32 = .ok (.nbAmoAdd { (default : An) with k := 3, b := 6, a := 5 }) ∧
    decodeA 0x200002D#32 = .ok (.nbFence { (default : An) with k := 4 }) ∧
    decodeA 0xA72E#32 = .ok (.nbStat { (default : An) with a := 5, d := 7 }) ∧
    decodeMicro 0x0#16 = .ok (.nbuEnd) ∧
    decodeMicro 0x1800#16 = .ok (.nbuLdx true) ∧
    decodeMicro 0x3400#16 = .ok (.nbuSty true) ∧
    decodeMicro 0x9C00#16 = .ok (.nbuFma true true) := by
  decide +kernel

/-! ### Ill-formed terms, one for each check of a form: none is well-formed -/

/-- 04 R83-R90: bound too short, guard 96, PD, M, T, C, B not zero, a type outside the row, a predicate of 96, shifts of 64. -/
theorem test_ill_formed_integer :
    [Instr.mul { (default : Xr) with lb := 1 },
      Instr.div { (default : Xr) with lb := 6 },
      Instr.add { (default : Xr) with g := 96 },
      Instr.add { (default : Xr) with pd := 1 },
      Instr.add { (default : Xr) with m := 1 },
      Instr.add { (default : Xr) with t := 1 },
      Instr.add { (default : Xr) with c := 1 },
      Instr.clz { (default : Xr) with b := 1 },
      Instr.sext { (default : Xr) with t := 3 },
      Instr.zext { (default : Xr) with t := 3 },
      Instr.mad { (default : Xr) with lb := 1 },
      Instr.ceq { (default : Xr) with pd := 96 },
      Instr.ceq { (default : Xr) with d := 1 },
      Instr.pand { (default : Xr) with m := 1, a := 32 },
      Instr.pand { (default : Xr) with m := 4 },
      Instr.pget { (default : Xr) with b := 1 },
      Instr.pput { (default : Xr) with d := 1 },
      Instr.sel { (default : Xr) with c := 1 },
      Instr.slli { (default : Xi) with imm := 64 },
      Instr.muli { (default : Xi) with lb := 1 },
      Instr.movi { (default : Xk) with g := 96 }].all (fun i => !wellFormed i) = true := by
  decide +kernel

/-- 04 R90-R92: bound below 4 or 16, rounding code 5, a type that is not f16, bf16, f32 or f64, a rounding code where none rounds, types of a conversion. -/
theorem test_ill_formed_float :
    [Instr.fadd { (default : Xr) with lb := 2, t := 10 },
      Instr.fdiv { (default : Xr) with lb := 5, t := 10 },
      Instr.fadd { (default : Xr) with lb := 3, t := 10, m := 5 },
      Instr.fadd { (default : Xr) with lb := 3, t := 12 },
      Instr.fadd { (default : Xr) with lb := 3, t := 10, c := 1 },
      Instr.fsqrt { (default : Xr) with lb := 6, t := 10, b := 1 },
      Instr.fmin { (default : Xr) with lb := 3, t := 10, m := 1 },
      Instr.fma { (default : Xr) with lb := 3, t := 10, pd := 1 },
      Instr.feq { (default : Xr) with lb := 3, t := 10, m := 1 },
      Instr.fclass { (default : Xr) with lb := 3, t := 10, b := 1 },
      Instr.fcvt { (default : Xr) with lb := 3, t := 7, b := 10 },
      Instr.fcvti { (default : Xr) with lb := 3, t := 8, b := 10 },
      Instr.icvtf { (default : Xr) with lb := 3, t := 10, b := 8 }].all (fun i => !wellFormed i) = true := by
  decide +kernel

/-- 04 R93-R96: a guard of 96, D or A of `ret`, a latency field, a `loop` body of 0 or of more than 65,535 words. -/
theorem test_ill_formed_control :
    [Instr.br { (default : Xb) with g := 96 },
      Instr.jr { (default : Xr) with d := 1 },
      Instr.ret { (default : Xr) with a := 1 },
      Instr.callr { (default : Xr) with lb := 1 },
      Instr.loop { (default : Xi) with imm := 0 },
      Instr.loop { (default : Xi) with imm := 65536 }].all (fun i => !wellFormed i) = true := by
  decide +kernel

/-- 07 R166, R179; 08 R199-R202, R217: sizes and scopes outside the tables, a bound below 6, a queue of 16, modes that break the limits. -/
theorem test_ill_formed_memory :
    [Instr.lds 4 { (default : Xi) with lb := 4 },
      Instr.lds 2 { (default : Xi) with lb := 3 },
      Instr.ldsx 11 { (default : Xi) with lb := 4 },
      Instr.sts 3 { (default : Xi) with lb := 1 },
      Instr.ldg 4 { (default : Xr) with  },
      Instr.ldg 0x28 { (default : Xr) with  },
      Instr.stg 0 { (default : Xr) with c := 1 },
      Instr.amoAdd { (default : Xr) with t := 1 },
      Instr.amoAdd { (default : Xr) with t := 2, c := 1 },
      Instr.amoFadd { (default : Xr) with t := 9 },
      Instr.amoCas { (default : Xr) with t := 2, m := 5 },
      Instr.pop { (default : Xr) with a := 16 },
      Instr.push { (default : Xr) with d := 1 },
      Instr.fence { (default : Xr) with m := 5 },
      Instr.fence { (default : Xr) with a := 1 },
      Instr.bankMode { (default : Xi) with imm := 0x410 },
      Instr.bankMode { (default : Xi) with imm := 0xF0 },
      Instr.bankMode { (default : Xi) with imm := 0x200 },
      Instr.bankMode { (default : Xi) with imm := 0x20000 }].all (fun i => !wellFormed i) = true := by
  decide +kernel

/-- 05 R104-R131: rounding code 5, span registers from 384, types outside T, a scalar register of 64, chains that break R37 or R123. -/
theorem test_ill_formed_span :
    [Instr.vadd { (default : Xs) with t := 10, rm := 5 },
      Instr.vadd { (default : Xs) with t := 10, sd := 384 },
      Instr.vadd { (default : Xs) with t := 11 },
      Instr.vadd { (default : Xs) with t := 10, sx := 1 },
      Instr.vdiv { (default : Xs) with t := 2 },
      Instr.vand { (default : Xs) with t := 10 },
      Instr.vneg { (default : Xs) with t := 3 },
      Instr.vexp { (default : Xs) with t := 2 },
      Instr.vadds { (default : Xs) with t := 10, sx := 64 },
      Instr.vfma { (default : Xs) with t := 10, sx := 384 },
      Instr.vcvt { (default : Xs) with t := 2, sx := 1 },
      Instr.vqJ4 { (default : Xs) with t := 10 },
      Instr.vdqJ4 { (default : Xs) with t := 12 },
      Instr.vsum { (default : Xs) with t := 10, sd := 1 },
      Instr.vrev { (default : Xs) with t := 10, rm := 1 },
      Instr.vscan { (default : Xs) with t := 2, rm := 1 },
      Instr.vsett { (default : Xs) with t := 11 },
      Instr.vsett { (default : Xs) with t := 10, sx := 17 },
      Instr.vsetb { (default : Xs) with sa := 1 },
      Instr.vgetn { (default : Xs) with t := 1 },
      Instr.vdefer { (default : Xs) with t := 10, sx := 4 },
      Instr.vdrain { (default : Xs) with sa := 1 },
      Instr.rowSm { (default : Xs) with t := 2 },
      Instr.rowLse { (default : Xs) with t := 9 },
      Instr.vchain { (default : Xc) with t := 10, links := [] },
      Instr.vchain { (default : Xc) with t := 10, links := List.replicate 9 { fn := 0, rm := 0, t := 10, sx := 0, so := 0 } },
      Instr.vchain { (default : Xc) with t := 10, links := [{ fn := 6, rm := 0, t := 10, sx := 0, so := 511 }] },
      Instr.vchain { (default : Xc) with t := 10, links := [{ fn := 0, rm := 0, t := 2, sx := 0, so := 0 }] },
      Instr.vchain { (default : Xc) with t := 10, links := [{ fn := 48, rm := 0, t := 10, sx := 0, so := 0 }] }].all (fun i => !wellFormed i) = true := by
  decide +kernel

/-- 06 R142-R158: level 6, field 6, an accumulator of 4, a tile of 16, M of 4, operands of `mm.swap`, drains that break R153, a mode of 2. -/
theorem test_ill_formed_matrix :
    [Instr.mmNest { (default : Xm) with l := 6 },
      Instr.mmNest { (default : Xm) with fld := 6 },
      Instr.mmGo { (default : Xr) with t := 9, d := 4 },
      Instr.mmGo { (default : Xr) with t := 5 },
      Instr.mmZero { (default : Xr) with t := 9, c := 7 },
      Instr.mmGo { (default : Xr) with t := 9, a := 16 },
      Instr.mmGo { (default : Xr) with m := 4 },
      Instr.mmSwap { (default : Xr) with d := 1 },
      Instr.mmZero { (default : Xr) with c := 8 },
      Instr.mmDrain { (default : Xr) with t := 9, b := 1 },
      Instr.mmDrain { (default : Xr) with t := 10, lb := 1 },
      Instr.mmDrain { (default : Xr) with t := 9, m := 2 },
      Instr.mmDrain { (default : Xr) with t := 10, m := 4 },
      Instr.mmCfg { (default : Xi) with imm := 2 },
      Instr.tset { (default : Xr) with d := 16 }].all (fun i => !wellFormed i) = true := by
  decide +kernel

/-- 02 R44; 10 R256-R279: a barrier of 512, event 224, a mask of 8, a guard on `ctx.yield` and `exit`, codes of `id` and `time`, a pause of 0, a tag of 64, privileged register numbers. -/
theorem test_ill_formed_sync :
    [Instr.barInit { (default : Xk) with imm := 512 },
      Instr.barArr { (default : Xk) with d := 1 },
      Instr.evSet { (default : Xi) with imm := 224 },
      Instr.evWait { (default : Xi) with imm := 8 },
      Instr.ctxYield { (default : Xr) with g := 1 },
      Instr.exit { (default : Xr) with gn := true },
      Instr.ctxXfer { (default : Xr) with b := 1 },
      Instr.trap { (default : Xk) with d := 1 },
      Instr.id { (default : Xr) with m := 5 },
      Instr.time { (default : Xr) with m := 2 },
      Instr.pause { (default : Xk) with imm := 0 },
      Instr.pause { (default : Xk) with imm := 65536 },
      Instr.tw { (default : Xk) with imm := 64 },
      Instr.twa { (default : Xk) with imm := 1 },
      Instr.sysRd { (default : Xk) with imm := 65536 },
      Instr.sysRd { (default : Xk) with imm := 0x13 },
      Instr.sysWr { (default : Xk) with imm := 0x15 },
      Instr.fdataRead { (default : Xk) with imm := 0x12 },
      Instr.ctxSev { (default : Xr) with c := 1 },
      Instr.tlbAsid { (default : Xr) with a := 1 },
      Instr.tlbAll { (default : Xr) with b := 1 },
      Instr.coreOut { (default : Xr) with m := 1 },
      Instr.udf 1].all (fun i => !wellFormed i) = true := by
  decide +kernel

/-- 08 R185-R196, R217-R224: X, levels from 6, K of 0, F and L where R40 forbids them, spaces, sizes and scopes, ramo to a0 and a31, a pause of 0. -/
theorem test_ill_formed_address :
    [Instr.aAdd { (default : Ar) with x := 1 },
      Instr.aSlli { (default : Ai) with imm := 64 },
      Instr.b { (default : Sys2Proof.Ab) with a := 1 },
      Instr.aExit { (default : Sys2Proof.Ab) with off := 1 },
      Instr.nest { (default : An) with k := 0 },
      Instr.nest { (default : An) with k := 1, d := 6 },
      Instr.nest { (default : An) with k := 1, f := true },
      Instr.bind 6 { (default : Ar) with d := 1 },
      Instr.bind 0 { (default : Ar) with d := 1, l := true },
      Instr.ldq { (default : Am) with s := 2 },
      Instr.ldq { (default : Am) with s := 1, sc := 1 },
      Instr.ldq { (default : Am) with sc := 5 },
      Instr.ldq { (default : Am) with sz := 5 },
      Instr.ldq { (default : Am) with d := 16 },
      Instr.ldt { (default : Am) with sz := 3 },
      Instr.stt { (default : Am) with sz := 4, d := 16 },
      Instr.lda { (default : Am) with sz := 4 },
      Instr.sta { (default : Am) with sz := 4 },
      Instr.aAmoAdd { (default : Ar) with x := 10 },
      Instr.ramoAdd { (default : Ar) with d := 0 },
      Instr.ramoAdd { (default : Ar) with d := 31 },
      Instr.aFence { (default : An) with k := 5 },
      Instr.aTw { (default : An) with k := 64 },
      Instr.aTwa { (default : An) with k := 1 },
      Instr.aTclr { (default : An) with d := 1 },
      Instr.pf { (default : Am) with sc := 1 },
      Instr.pf { (default : Am) with d := 1 },
      Instr.aPause { (default : Ai) with imm := 0 },
      Instr.aPause { (default : Ai) with imm := 8192 }].all (fun i => !wellFormed i) = true := by
  decide +kernel

/-- 08 R205-R222; 09 R230-R239: scopes from 5, bits of K that a form does not use, operands that it does not use, types of a reduction. -/
theorem test_ill_formed_push :
    [Instr.cp { (default : An) with k := 0x140 },
      Instr.kvg { (default : An) with k := 0x40 },
      Instr.kvc { (default : An) with d := 1 },
      Instr.nbCopy { (default : An) with k := 0x40 },
      Instr.nbZero { (default : An) with a := 1 },
      Instr.nbAxpy { (default : An) with k := 0x100 },
      Instr.nbRun { (default : An) with k := 0x100 },
      Instr.nbAmoOr { (default : An) with k := 0x40 },
      Instr.nbAmoAdd { (default : An) with d := 1 },
      Instr.nbFence { (default : An) with k := 5 },
      Instr.nbStat { (default : An) with b := 1 },
      Instr.nbProg { (default : An) with k := 16 },
      Instr.collAllReduceSum { (default : An) with k := 0xB0 },
      Instr.collAllReduceSum { (default : An) with k := 0xA1 },
      Instr.collAllGather { (default : An) with k := 0xE4 },
      Instr.collAbort { (default : An) with d := 1 },
      Instr.collAtt { (default : An) with k := 1 }].all (fun i => !wellFormed i) = true := by
  decide +kernel

/-! ### States for witnesses -/

/-- A supervisor context running on core 0 with an identity map of its first GiB, right after placement. -/
def lab : State := State.reset.placed

/-- The same with its core changed. -/
def labCore (f : Core → Core) : State := { lab with core := f lab.core }

/-- The context of `lab`, changed. -/
def labCtx (f : Ctx → Ctx) : State := { lab with ctxs := [(1, f (placedCtx 0))] }

/-- The same package running a user context. -/
def user : State := labCtx (fun c => { c with super := false })

/-- `lab` with registers of the X stream: each pair a number and a value. -/
def withX (xs : List (Nat × Word)) : State := xs.foldl (fun s p => s.setX p.1 p.2) lab

/-- `lab` with registers of the A stream. -/
def withA (xs : List (Nat × Word)) : State := xs.foldl (fun s p => s.setA p.1 p.2) lab

/-- The conditions of `XReady`, evaluated. -/
def readyB (s : State) (len : Nat) (g : BitVec 7) (gn : Bool) (uses : List Nat) : Bool :=
  ((s.landDue.takeX uses).stepPoisoned len).isNone && s.landDue.guard g gn && !uses.any (fun i => s.landDue.core.pendingX (i % 64)) &&
    (s.landDue.core.badX uses).isNone

theorem x_ready {s : State} {len : Nat} {g : BitVec 7} {gn : Bool} {uses : List Nat} (h : readyB s len g gn uses = true) :
    s.Acts len g gn uses := by
  simp only [readyB, Bool.and_eq_true, Option.isNone_iff_eq_none, Bool.not_eq_true'] at h
  exact ⟨⟨rfl, h.1.1.2, h.1.2, h.2⟩, h.1.1.1⟩

theorem x_takes {s : State} {g : BitVec 7} {gn : Bool} {uses : List Nat} (h : readyB s 1 g gn uses = true) : s.Takes g gn uses :=
  (x_ready h).toXTakes

/-- The conditions of `AReady`, evaluated. -/
def areadyB (s : State) (l f : Bool) (reads : List Nat) (commits : Bool) : Bool :=
  s.core.issues l f && !(reads ++ s.core.endBinds).any s.pendingA && (!commits || s.core.loads.isEmpty)

theorem a_ready {s : State} {l f : Bool} {reads : List Nat} {commits : Bool} (h : areadyB s l f reads commits = true) :
    s.AReady l f reads commits := by
  simp only [areadyB, Bool.and_eq_true, Bool.not_eq_true', Bool.or_eq_true, List.isEmpty_iff] at h
  exact ⟨h.1.1, h.1.2, fun hc => h.2.resolve_left (by simp [hc])⟩

theorem priv_ready {s : State} {g : BitVec 7} {gn : Bool} {uses : List Nat} (h : s.isSuper = true) (h2 : readyB s 1 g gn uses = true) :
    s.PrivActs g gn uses := ⟨h, x_ready h2⟩

/-! ### Scalar words and control flow: `lab` meets the hypotheses -/

theorem witness_IntegerWordsWriteTheirResult :
    lab.Acts 1 0 false [1, 2, 65] ∧ lab.Acts 1 0 false [63, 127] ∧ lab.Acts 1 0 false [1, 2, 3, 64] :=
  ⟨x_ready (by decide +kernel), x_ready (by decide +kernel), x_ready (by decide +kernel)⟩

theorem witness_PredicateWordsWriteTheirResult :
    lab.Acts 1 0 false [1, 2] ∧ lab.Acts 1 0 false [63] ∧ lab.Acts 1 0 false [] ∧ lab.Acts 1 0 false [127] :=
  ⟨x_ready (by decide +kernel), x_ready (by decide +kernel), x_ready (by decide +kernel), x_ready (by decide +kernel)⟩

/-- A guard that holds by its register: p5 written with 1 a cycle ago. -/
theorem witness_FloatWordsWriteTheirResult :
    let s := labCore (fun c => { c with p := { cells := [(5, 1)], undef := false } })
    s.Acts 1 5 false [1, 2, 3, 65] ∧ s.Acts 1 5 false [1, 2] ∧ s.Acts 1 5 false [1, 127] :=
  ⟨x_ready (by decide +kernel), x_ready (by decide +kernel), x_ready (by decide +kernel)⟩

theorem witness_FalseGuardSkipsTheWord :
    lab.isSuper = true ∧ lab.landDue.stepPoisoned 1 = none ∧ lab.landDue.guard 0 true = false ∧ lab.landDue.guard 5 false = false ∧
      lab.landDue.stepPoisoned 9 = none := by
  decide +kernel


/-- Every opcode of the range; OP 0x77 and FN 3 of OP 0x71 decode to nothing, and so does the word of OP 0x7F at PC. -/
theorem witness_PrivilegedWordsTrapInUserContexts :
    user.isSuper = false ∧ user.streamOn false = true ∧ decodeX 0x70#64 [] = .ok (.sysRd default) ∧
      decodeX 0x73#64 [] = .ok (.coreOut default) ∧ decodeX 0x77#64 [] = .error .unallocatedOp ∧
      decodeX 0xC0071#64 [] = .error .unallocatedFn ∧
      (let s : State := { user with mem := user.mem.setBytes 0x10000 [0x7F] }
       s.fetchX.2 = some [0x7F, 0, 0, 0, 0, 0, 0, 0] ∧ decodeXBytes [0x7F, 0, 0, 0, 0, 0, 0, 0] = .error .unallocatedOp) := by
  decide +kernel

theorem witness_ConstantWordsWriteTheirResult :
    lab.Acts 1 0 false [127] ∧ lab.Acts 1 0 false [63] ∧ decodeX 0x12#64 [] = .ok (.movi default) ∧
      decodeX 0x80012#64 [] = .ok (.movh default) :=
  ⟨x_ready (by decide +kernel), x_ready (by decide +kernel), by decide +kernel, by decide +kernel⟩

theorem witness_SelPicksByItsPredicate : lab.Acts 1 0 false [1, 2, 127] ∧ decodeX 0x05#64 [] = .ok (.sel default) :=
  ⟨x_ready (by decide +kernel), by decide +kernel⟩

/-- A return stack of 32 entries and no spill area; a loop frame whose body ends two words on. -/
def fullStack : State := labCore (fun c => { c with rstack := List.replicate 32 (CWord.good 0x10008) })

def inLoop : State := withX [(1, 5)]

/-- A loop frame whose count entry cannot be corrected. -/
def lostLoop : State :=
  labCore (fun c => { c with rstack := [{ v := loopCountEntry 3 2, syn := 0xFF }, CWord.good (loopStartEntry 0x10000)] })

/-- The entry that taking frames off the return stack leaves on top. -/
def stackLeft (o : Except (BitVec 8) (Core × Nat)) : Option (Option CWord) :=
  match o with
  | .ok (c, _) => some (c.entryAt lab.spillMem 0)
  | .error _ => none

/-- The syndrome with which it stops. -/
def stackStops (o : Except (BitVec 8) (Core × Nat)) : Option (BitVec 8) :=
  match o with
  | .ok _ => none
  | .error z => some z

/-- How many entries of the frame on top are corrected when they are consumed. -/
def stackTop (s : State) : Option Nat :=
  match s.core.checkTop s.spillMem 2 with
  | .ok k => some k
  | .error _ => none

def outerLoop : State :=
  labCore (fun c => { c with rstack := [CWord.good (loopCountEntry 3 2), CWord.good (loopStartEntry 0x10000)] })

theorem witness_ControlWordsTransfer :
    (lab.Takes 0 false [] ∧ lab.landDue.canPush 1 = true) ∧ (fullStack.Takes 0 false [] ∧ fullStack.landDue.canPush 1 = false) ∧
      (lab.Takes 0 false [1] ∧ ((lab.landDue.getX 0 1).extractLsb' 0 3 = 0)) ∧
      ((withX [(1, 4)]).Takes 0 false [1] ∧ ((withX [(1, 4)]).landDue.getX 0 1).extractLsb' 0 3 ≠ 0) ∧
      (stackLeft (Core.dropLoops lab.spillMem lab.core.depth lab.core) = some none) ∧
      (stackLeft (Core.dropLoops fullStack.spillMem fullStack.core.depth fullStack.core) = some (some (CWord.good 0x10008)) ∧
        (CWord.good 0x10008).use = some 0x10008 ∧ (codeAddr 0x10008).extractLsb' 0 3 = 0 ∧ CWord.poison.use = none ∧
        (codeAddr 0x1000C).extractLsb' 0 3 ≠ 0) ∧
      (stackStops (Core.dropLoops lostLoop.spillMem lostLoop.core.depth lostLoop.core) = some 0xFF ∧
        stackStops (Core.leaveLoops lostLoop.spillMem 0 lostLoop.core.depth lostLoop.core) = some 0xFF ∧
        stackStops (Core.leaveLoops lab.spillMem 0 lab.core.depth lab.core) = none) :=
  ⟨⟨x_takes (by decide +kernel), by decide +kernel⟩, ⟨x_takes (by decide +kernel), by decide +kernel⟩,
    ⟨x_takes (by decide +kernel), by decide +kernel⟩, ⟨x_takes (by decide +kernel), by decide +kernel⟩, by decide +kernel,
    by decide +kernel, by decide +kernel⟩

/-- A `loop` with no frame around it, with a count of 0 and of 5, room and no room; and one past the end of the frame around it. -/
theorem witness_loop :
    lab.landDue.core.topLoop lab.spillMem = none ∧ ((lab.landDue.getX 0 1).extractLsb' 0 32).toNat = 0 ∧
      inLoop.Takes 0 false [1] ∧ ((inLoop.landDue.getX 0 1).extractLsb' 0 32).toNat = 5 ∧ inLoop.landDue.canPush 2 = true ∧
      fullStack.landDue.core.topLoop fullStack.spillMem = none ∧ fullStack.landDue.canPush 2 = false ∧
      outerLoop.Takes 0 false [1] ∧
      (stackTop lab = some 0 ∧ stackTop outerLoop = some 0 ∧ stackTop lostLoop = none) ∧
      (stackStops (Core.loopStep lab.spillMem 0x10010 0 { lab.core with xpc := 0x10018 }) = none ∧
        stackStops (Core.loopStep lostLoop.spillMem 0x10010 2 lostLoop.core) = some 0xFF) ∧
      (∃ f ∈ outerLoop.landDue.core.topLoop outerLoop.spillMem, f.2.1.toNat < (outerLoop.core.xpc + 8 * 65535).toNat) :=
  ⟨by decide +kernel, by decide +kernel, x_takes (by decide +kernel), by decide +kernel, by decide +kernel, by decide +kernel,
    by decide +kernel, x_takes (by decide +kernel), by decide +kernel, by decide +kernel, by decide +kernel⟩

theorem witness_RetUndoesCall :
    lab.Takes 0 false [] ∧ lab.core.rstack.length < 32 ∧ lab.core.xpc.extractLsb' 0 3 = 0 ∧ ∃ t, exec (.call { g := 0, gn := false, off := 0xFFFFFFFFFF }) lab = .next t :=
  ⟨x_takes (by decide +kernel), by decide +kernel, by decide +kernel, _, rfl⟩

/-- The frames' premises: files in canonical form, and a word that gives a next state. -/
theorem witness_ScalarWordsLeaveTheRestAlone :
    (lab.core.x.wf = true ∧ lab.core.p.wf = true ∧ tableFrom 0 lab.core.xbad = true) ∧ (∃ t, exec (.add default) lab = .next t) ∧
      (∃ t, exec (.addi default) lab = .next t) ∧ (∃ t, exec (.movi default) lab = .next t) ∧ (∃ t, exec (.ceq default) lab = .next t) ∧
      ∃ t, exec (.ceqi default) lab = .next t :=
  ⟨by decide +kernel, ⟨_, rfl⟩, ⟨_, rfl⟩, ⟨_, rfl⟩, ⟨_, rfl⟩, ⟨_, rfl⟩⟩

/-- x63 written with a bound of 32 cycles: its window is open at cycle 31 and closed at cycle 32. -/
theorem witness_WrittenRegistersReadBackAfterTheirBound :
    lab.core.x.wf = true ∧ tableFrom 0 lab.core.xbad = true ∧ 31 < lab.core.xcycle + lbCycles 7 ∧
      ∀ w ∈ (lab.putX 63 1 7 0).core.wins, w.reg = .x 63 ∧ w.close ≤ 32 := by
  decide +kernel

/-! ### Decoding and steps -/

/-- The first instruction after reset of each of the three decoders: `add x0, x0, x0`, `addi a0, a0, 0` and END. -/
theorem witness_StepRunsTheDecodedInstruction :
    (let s := State.reset.withFetchWord 64 1
     s.shut = false ∧ s.agenda = [.x 0] ∧ s.streamOn false = true ∧ s.fetchX.2 = some [1, 0, 0, 0, 0, 0, 0, 0] ∧
       decodeXBytes [1, 0, 0, 0, 0, 0, 0, 0] = .ok (.add default)) ∧
    (let s := State.reset.withFetchWord 32 2
     s.agenda = [.a 0] ∧ s.streamOn true = true ∧ s.fetchA.2 = some [2, 0, 0, 0] ∧ decodeABytes [2, 0, 0, 0] = .ok (.aAddi default)) ∧
    (let s := State.reset.withFetchWord 16 0
     s.agenda = [.nbu 0] ∧ (s.nbUnit 0).store[(s.nbUnit 0).upc]? = some 0 ∧ decodeMicro 0 = .ok .nbuEnd) ∧
    (encode .loadCommit = .step ∧ lab.pNow ≠ 3) := by
  decide +kernel

theorem witness_StepRunsTheDecodedInstruction_next :
    (∃ t, exec (.add default) lab = .next t) ∧ (∃ t, exec (.aAddi default) lab = .next t) ∧ (∃ t, exec .nbuEnd lab = .next t) ∧
      ∃ t, exec .loadCommit lab = .next t :=
  ⟨⟨_, rfl⟩, ⟨_, rfl⟩, ⟨_, rfl⟩, ⟨_, rfl⟩⟩

/-- What a fetch of an aligned word at a mapped address rests on. -/
theorem witness_StepRunsTheDecodedInstruction_fetch :
    lab.core.xpc.toNat % 8 = 0 ∧ lab.core.apc.toNat % 4 = 0 ∧ (lab.translate lab.who needX 0x10000).2 = .ok 0x10000 0 ∧
      placeOf 0x10000 = .hbm ∧ (lab.translate lab.who needX 0x10000).1.dirAt 0x10000 = none ∧
      (lab.translate lab.who needX 0x10000).1.mem.bad = [] ∧ (lab.mem.byte 0x10000).toNat ≠ 0x50 ∧
      (lab.translate lab.who needX 0x20000).2 = .ok 0x20000 0 ∧ (lab.translate lab.who needX 0x20000).1.dirAt 0x20000 = none := by
  decide +kernel

theorem witness_ShutDownStops :
    ({ lab with shut := true } : State).shut = true ∧ ({ lab with shut := true } : State).agenda = [] := by
  decide +kernel

theorem witness_IllegalWordsTrap :
    (let s : State := { lab with mem := lab.mem.setBytes 0x20000 [0x3E] }
     s.streamOn true = true ∧ s.fetchA.2 = some [0x3E, 0, 0, 0] ∧ ∃ e, decodeABytes [0x3E, 0, 0, 0] = .error e) ∧
    (let s := labCore (fun c => { c with xpc := 0x10004, apc := 0x20002 })
     s.streamOn false = true ∧ s.streamOn true = true ∧ s.core.xpc.toNat % 8 ≠ 0 ∧ s.core.apc.toNat % 4 ≠ 0) :=
  ⟨⟨by decide +kernel, by decide +kernel, .unallocatedOp, by decide +kernel⟩, by decide +kernel⟩

theorem witness_LeaveRequestsHoldWhatTheParkRecordNeeds :
    lab.core.ctx = some 1 ∧ tget lab.ctxs 1 = some (placedCtx 0) ∧ State.reset.core.ctx = none := by
  decide +kernel

theorem witness_EncodedWordsDecodeBack :
    (wellFormed (.add default) = true ∧ encode (.add default) = .xWords [1]) ∧
      (wellFormed (.aAddi default) = true ∧ encode (.aAddi default) = .aWord 2) ∧ encode .nbuEnd = .micro 0 := by
  decide +kernel

theorem witness_NoWordDecodesAsAnother :
    decodeX 1#64 [] = .ok (.add default) ∧ decodeA 2#32 = .ok (.aAddi default) ∧ decodeMicro 0 = .ok .nbuEnd := by
  decide +kernel

/-- 02 R32, R33, R37: OP is bits [6:0], so a chain header with a guard of an odd predicate is one, and no other word is. -/
theorem test_chain_header : chainHead 0xD0 = true ∧ chainHead 0x50 = true ∧ chainHead 0x51 = false ∧ chainHead 0x40 = false := by
  decide +kernel

/-! ### Memory -/

/-- A page of 64 KiB of the context at 2^40, mapped to a physical address with permission bits R, W and X. -/
def mapped (pa : Nat) (perms : Nat) : State :=
  { lab with
    mem := (((lab.mem.setWord 0x100010 (CWord.good 0x201001)).setWord 0x201000 (CWord.good 0x202001)).setWord 0x202000
      (CWord.good 0x203001)).setWord 0x203000 (CWord.good (BitVec.ofNat 64 (pa + 3 + perms * 8))) }

/-- `mapped` with registers of the two streams. -/
def mappedX (pa perms : Nat) (xs : List (Nat × Word)) : State := xs.foldl (fun s p => (s.setX p.1 p.2).setA p.1 p.2) (mapped pa perms)

/-- `lab` with a store of its own, of which bank 0 is `m`. -/
def banked (m : Memory) : State :=
  lab.setOwn (lab.own.setBank 0 { lab.own.bank 0 with data := m })

/-- Zeros, and zeros with an uncorrectable word at 8. -/
def zeros : Memory := { cells := [], fill := none, bad := [] }

def poisoned : Memory := { cells := [], fill := none, bad := [(1, 0xFF)] }

theorem witness_StoreAddressesNameBankAndOffset :
    (7 < 8 ∧ 15 < 16 ∧ 2 ^ 15 - 1 < 2 ^ 15) ∧ 2 ^ 25 ≤ 2 ^ 25 ∧ lab.storeTarget lab.who 0x7FF8 8 = some (4096, 0, 0x7FF8) ∧
      lab.storeTarget lab.who 0x7FF9 8 = none := by
  decide +kernel

/-- Addresses: −1 and 2^32, which name nothing; 2^25, which the rules forbid; 0x7FF8, at the end of a bank. -/
theorem witness_StoreSpaceWordsAccessTheStore :
    (lab.Acts 1 0 false [1, 65] ∧ lab.core.memReady = true) ∧
      ((withX [(1, 0xFFFFFFFF)]).Acts 1 0 false [1, 2] ∧ (withX [(1, 0xFFFFFFFF)]).Acts 1 0 false [1, 66]) ∧
      (¬ (0 ≤ (lab.landDue.getX 0 1).toInt + (BitVec.ofInt 28 (-1)).toInt)) ∧
      (((withX [(1, 0xFFFFFFFF)]).landDue.getX 0 1).toInt + (1 : BitVec 28).toInt = 2 ^ 32) ∧
      lab.storeTarget lab.who 0x2000000 8 = none ∧
      ((banked zeros).storeTarget (banked zeros).who 0x7FF8 8 = some (4096, 0, 0x7FF8) ∧ zeros.bad = [] ∧
        zeros.lane 0x7FF8 8 = .ok (List.replicate 8 0) ∧ (zeros.store 0x7FF8 (List.replicate 8 0)).isOk = true) ∧
      ((banked poisoned).storeTarget (banked poisoned).who 8 1 = some (4096, 0, 8) ∧ poisoned.lane 8 1 = .error 8 ∧
        poisoned.store 8 [0] = .error 8) :=
  ⟨⟨x_ready (by decide +kernel), by decide +kernel⟩, ⟨x_ready (by decide +kernel), x_ready (by decide +kernel)⟩, by decide +kernel,
    by decide +kernel, by decide +kernel, by decide +kernel, by decide +kernel⟩

/-- Every bank of every store of `lab` is as at first placement. -/
theorem lab_bank (key k : Nat) : ((lab.storeAt key).bank k).data = Memory.zero := by
  have h : lab.storeAt key = lab.freshStore key := rfl
  rw [h, Store.bank, State.freshStore, List.getD_eq_getElem?_getD, List.getElem?_map]
  cases (List.range 16)[k]? <;> rfl

theorem lab_stores_wf : (∀ key k, ((lab.storeAt key).bank k).data.wf = true) ∧ (∀ key k, ((lab.storeAt key).bank k).data.bad = []) ∧
    ∀ key, (lab.storeAt key).banks.length = 16 := by
  refine ⟨fun key k => ?_, fun key k => ?_, fun key => ?_⟩
  · rw [lab_bank]; rfl
  · rw [lab_bank]; rfl
  · have h : lab.storeAt key = lab.freshStore key := rfl
    rw [h]; rfl

theorem witness_StoreSpaceWordsLeaveTheRestAlone :
    (lab.core.x.wf = true ∧ tableFrom 0 lab.core.xbad = true) ∧ (∀ key k, ((lab.storeAt key).bank k).data.wf = true) ∧ (∃ t, exec (.lds 0 default) lab = .next t) ∧
      (∃ t, exec (.ldsx 8 default) lab = .next t) ∧ (∃ t, exec (.sts 3 default) lab = .next t) ∧
      lab.landDue.xStoreAddr default = some 0 ∧ lab.landDue.storeTarget lab.landDue.who 0 8 = some (4096, 0, 0) ∧
      (withX [(1, 0x2000000)]).landDue.xStoreAddr { (default : Xi) with a := 1 } = some 0x2000000 :=
  ⟨by decide +kernel, lab_stores_wf.1, ⟨_, rfl⟩, ⟨_, rfl⟩, ⟨_, rfl⟩, by decide +kernel, by decide +kernel, by decide +kernel⟩

theorem witness_StoredBytesReadBack :
    ((∀ key k, ((lab.storeAt key).bank k).data.wf = true) ∧ (∀ key k, ((lab.storeAt key).bank k).data.bad = []) ∧
      ∀ key, (lab.storeAt key).banks.length = 16) ∧
    (lab.sWrite lab.who 0x7FFF [1]).2 = .ok () ∧ (lab.sWriteWords lab.who 0x7FF8 [CWord.poison]).2 = .ok () ∧
      lab.mem.wf = true ∧ lab.mem.bad = [] ∧ lab.dirAt 0x310000 = none ∧ (lab.physStore 0x310000 [1, 2]).isOk = true ∧
      lab.meetsBlock 0x310000 8 = false ∧ lab.meetsBlock 0x300000 8 = true ∧ (lab.cbSlot 0x300010).map (fun p => p.1) = some 1 ∧
      lab.dirAt 0x300010 = none ∧ (lab.mem.word 0x300010).use = some 0 :=
  ⟨lab_stores_wf, by decide +kernel⟩

/-- The outcomes of an access: HBM4E, no mapping, no permission, a poisoned word, a device register, another package. -/
theorem witness_GlobalWordsMakeOneAccess :
    (lab.Acts 1 0 false [1, 2, 65] ∧ lab.Acts 1 0 false [1, 2, 3] ∧ lab.core.memReady = true) ∧
      (lab.landDue.gRead lab.who needR 0x310000 8).2 = .ok (List.replicate 8 0) ∧
      (lab.landDue.gRead lab.who needR 0x40000000 8).2 = .pages 0x40000000 ∧
      ((mapped 0x310000 0).landDue.gRead lab.who needR (2 ^ 40) 8).2 = .viol (2 ^ 40) ∧
      (({ lab with mem := { lab.mem with bad := [(0x62000, 0xFF)] } } : State).gRead lab.who needR 0x310000 8).2 = .data 0x310000 ∧
      ((mapped (2 ^ 39) 3).landDue.gRead lab.who needR (2 ^ 40) 8).2 = .dev (2 ^ 39) ∧
      ((mapped (2 ^ 51 + 2 ^ 40) 3).landDue.gRead lab.who needR (2 ^ 40) 8).2 = .far (2 ^ 51 + 2 ^ 40) := by
  refine ⟨⟨x_ready (by decide +kernel), x_ready (by decide +kernel), by decide +kernel⟩, ?_⟩
  decide +kernel

theorem witness_GlobalWordsMakeOneAccess_stg :
    (lab.landDue.gWriteWords lab.who 0x310000 [CWord.good 1]).2 = .ok () ∧ (lab.landDue.gWrite lab.who 0x310001 [1]).2 = .ok () ∧
      (lab.landDue.gWrite lab.who 0x40000000 [1]).2 = .pages 0x40000000 ∧
      ((mapped 0x310000 1).landDue.gWrite lab.who (2 ^ 40) [1]).2 = .viol (2 ^ 40) ∧
      (({ lab with mem := { lab.mem with bad := [(0x62000, 0xFF)] } } : State).gWrite lab.who 0x310000 [1]).2 = .data 0x310000 ∧
      ((mapped (2 ^ 39) 3).landDue.gWrite lab.who (2 ^ 40) [1]).2 = .dev (2 ^ 39) ∧
      ((mapped (2 ^ 51 + 2 ^ 40) 3).landDue.gWrite lab.who (2 ^ 40) [1]).2 = .far (2 ^ 51 + 2 ^ 40) ∧
      lab.devOk (2 ^ 39) = false := by
  decide +kernel

theorem witness_AlignedGlobalWordsReachMemory :
    (lab.Acts 1 0 false [1, 2, 65] ∧ lab.Acts 1 0 false [1, 2, 3, 65] ∧ lab.core.memReady = true ∧ lab.mem.wf = true) ∧
      (lab.landDue.translate lab.who needR 0x310000).2 = .ok 0x310000 0 ∧ (lab.landDue.translate lab.who needW 0x310000).2 = .ok 0x310000 0 ∧
      (lab.landDue.translate lab.who needRW 0x310000).2 = .ok 0x310000 0 ∧
      (let u := (lab.landDue.translate lab.who needRW 0x310000).1
       placeOf 0x310000 = .hbm ∧ u.dirAt 0x310000 = none ∧ u.mem.bad = [] ∧ u.meetsBlock 0x310000 8 = false) ∧
      0x310001 % (tyWidth 6 / 8) ≠ 0 ∧ (lab.landDue.translate lab.who needRW 0x40000000).2 = .fault ∧
      ((mapped 0x310000 1).landDue.translate lab.who needRW (2 ^ 40)).2 = .viol (2 ^ 40) := by
  refine ⟨⟨x_ready (by decide +kernel), x_ready (by decide +kernel), by decide +kernel⟩, ?_⟩
  decide +kernel

/-- Bank 15 is a FIFO bank at first placement; the next two have a word in q3, and none. -/
def noQueues : State := lab.setOwn (lab.own.setBank 15 { lab.own.bank 0 with data := zeros })

def oneWord : State := lab.setOwn { lab.own with queues := [(3, [CWord.good 7])] }

def fullQueue : State := lab.setOwn { lab.own with queues := [(3, List.replicate 256 (CWord.good 7))] }

theorem witness_QueueWordsTakeAndAppend :
    (lab.Acts 1 0 false [65] ∧ lab.landDue.qHome 3 = .queue ∧ lab.landDue.qOffer 3 = [] ∧ noQueues.landDue.qHome 3 = .none) ∧
      (noQueues.Acts 1 0 false [65] ∧ oneWord.Acts 1 0 false [65] ∧ fullQueue.Acts 1 0 false [65]) ∧
      (oneWord.landDue.qOffer 3 = [CWord.good 7] ∧ (oneWord.own.qWords .queue 3).length + oneWord.core.reserved 3 < 256 ∧
        256 ≤ (fullQueue.own.qWords .queue 3).length + fullQueue.core.reserved 3) :=
  ⟨⟨x_ready (by decide +kernel), by decide +kernel⟩, ⟨x_ready (by decide +kernel), x_ready (by decide +kernel), x_ready (by decide +kernel)⟩,
    by decide +kernel⟩

/-- A vector command in the queue: `vadd` of empty spans. -/
def someVector : VCmd :=
  { seq := 0, op := 0x40, fn := 0, r := { (default : Xs) with t := 10 }, links := [], dd := 0, da := 0, db := 0, dx := 0, linkSpans := [],
    scalar := 0, linkScalars := [], word := 0, addr := 0, started := false, frozen := false, cursor := 0, acc := [], held := [], took := [], ready := 0, flags := 0,
    result := none }

def busy : State := labCore (fun c => { c with vq := [someVector] })

theorem witness_FencesAndModesWaitThenAct :
    (busy.Acts 1 0 false [1, 65] ∧ busy.Acts 1 0 false [1, 2, 65] ∧ busy.Acts 1 0 false [1, 2, 3, 65] ∧ busy.Acts 1 0 false []) ∧
      busy.core.memReady = false ∧ busy.core.vq ≠ [] ∧ lab.core.vq = [] ∧ lab.core.mq = [] ∧ lab.own.banks.length = 16 ∧
      lab.landDue.bankTrap 0 .skew 0 = none ∧ lab.landDue.bankTrap 14 .fifo 0 = some causeIll := by
  refine ⟨⟨x_ready (by decide +kernel), x_ready (by decide +kernel), x_ready (by decide +kernel), x_ready (by decide +kernel)⟩, ?_⟩
  decide +kernel

/-- Clauses of the switch: SCRATCH to SKEW keeps the bytes, SCRATCH to FIFO does not. -/
theorem witness_bankSwitch :
    (lab.own.bank 0).mode = .scratch ∧ BankMode.scratch.plain = true ∧ BankMode.skew.plain = true ∧ BankMode.fifo.plain = false := by
  decide +kernel

/-! ### The engines -/

/-- Evaluations of an attempt, whose type compares no equality. -/
def attemptOk {α : Type} : Attempt α → Bool
  | .ok _ => true
  | _ => false

def attemptViol {α : Type} : Attempt α → Option Nat
  | .viol x => some x
  | _ => none

def attemptData {α : Type} : Attempt α → Option (Nat × BitVec 8)
  | .data x z => some (x, z)
  | _ => none

def attemptWait {α : Type} : Attempt α → Bool
  | .wait => true
  | _ => false

theorem attempt_ok {α : Type} {a : Attempt α} (h : attemptOk a = true) : ∃ v, a = .ok v := by
  cases a <;> first | exact ⟨_, rfl⟩ | cases h

theorem attempt_viol {α : Type} {a : Attempt α} {x : Nat} (h : attemptViol a = some x) : a = .viol x := by
  cases a <;> simp_all [attemptViol]

theorem attempt_data {α : Type} {a : Attempt α} {x : Nat} {z : BitVec 8} (h : attemptData a = some (x, z)) : a = .data x z := by
  cases a <;> simp_all [attemptData]

theorem attempt_wait {α : Type} {a : Attempt α} (h : attemptWait a = true) : a = .wait := by
  cases a <;> simp_all [attemptWait]

/-- A span of `n` elements of f32 at a store address, one after another. -/
def spanF32 (base n : Nat) : Desc := BitVec.ofNat 128 (base * 2 ^ 96 + 2 ^ 64 + n * 2 ^ 48 + 10 * 2 ^ 44)

/-- The operands s4 := s1 ∘ s2 of four elements, with x9 for a row of four. -/
def spans (s : State) : State :=
  { s with core := { s.core with
      sp := { cells := [(1, spanF32 0x100 4), (2, spanF32 0x200 4), (4, spanF32 0x300 4)], undef := false }
      x := { cells := [(9, 0x3F800000FFFF0004)], undef := false } } }

def xsAdd : Xs := { (default : Xs) with t := 10, sb := 2, sa := 1, sd := 4 }

def xsRow : Xs := { xsAdd with sx := 9 }

theorem witness_SpanRegisterWordsSetOneField :
    lab.Acts 1 0 false [9] ∧ lab.Acts 1 0 false [64] ∧ lab.Acts 1 0 false [127] ∧ lab.core.sp.wf = true :=
  ⟨x_ready (by decide +kernel), x_ready (by decide +kernel), x_ready (by decide +kernel), by decide +kernel⟩

/-- A pre-emption budget of one cycle. -/
def tight : State := spans (labCtx (fun c => { c with pbudget := 1 }))

/-- Four commands wait; one more that has started is none of them. -/
def fourQueued (s : State) : State := { s with core := { s.core with vq := List.replicate 4 someVector } }

/-- Legal and illegal snapshots, with room and with four commands queued; a row within the budget and over it. -/
theorem witness_VectorWordsQueueTheirCommand :
    ((spans lab).Acts 1 0 false (spanUses 0x40 0 0) ∧ lab.Acts 1 0 false (spanUses 0x45 0 9) ∧ (spans lab).Acts 1 0 false [9] ∧
      (fourQueued (spans lab)).Acts 1 0 false [9]) ∧
      lab.landDue.vectorOk (lab.landDue.vSnap 0x40 0 xsAdd) = false ∧ (spans lab).landDue.vectorOk ((spans lab).landDue.vSnap 0x40 0 xsAdd) = true ∧
      ((spans lab).core.vq.filter (fun c => !c.started)).length < 4 ∧ (fourQueued (spans lab)).landDue.vectorOk ((fourQueued (spans lab)).landDue.vSnap 0x40 0 xsAdd) = true ∧
      4 ≤ ((fourQueued (spans lab)).core.vq.filter (fun c => !c.started)).length ∧ lab.landDue.rowOk (lab.landDue.vSnap 0x58 0 xsRow) = false ∧
      (spans lab).landDue.rowOk ((spans lab).landDue.vSnap 0x58 0 xsRow) = true ∧
      (spans lab).landDue.overBudget (rowWork ((spans lab).landDue.vSnap 0x58 0 xsRow)) = false ∧
      tight.landDue.rowOk (tight.landDue.vSnap 0x58 0 xsRow) = true ∧
      tight.landDue.overBudget (rowWork (tight.landDue.vSnap 0x58 0 xsRow)) = true := by
  refine ⟨⟨x_ready (by decide +kernel), x_ready (by decide +kernel), x_ready (by decide +kernel), x_ready (by decide +kernel)⟩, ?_⟩
  decide +kernel

/-- A chain of one link. -/
def oneLink : Xc :=
  { g := 0, gn := false, t := 10, sb := 2, sa := 1, sd := 4, links := [{ fn := 2, rm := 0, t := 10, sx := 0, so := 511 }] }

theorem witness_VectorWordsQueueTheirCommand_chain :
    (spans lab).Acts 2 0 false ((oneLink.links.filter (fun k => linkClass k == 2)).map (fun k => k.sx.toNat)) ∧
      (let h := (spans lab).landDue.vSnap 0x50 0 xsAdd
       (spans lab).landDue.vectorOk { h with links := oneLink.links, linkSpans := [0], linkScalars := [0] } = true) :=
  ⟨x_ready (by decide +kernel), by decide +kernel⟩

theorem witness_ElementsAreComputedByTheirForm :
    (someVector.op = 0x40 ∧ someVector.fn = 0 ∧ tyFloat someVector.r.t.toNat = true) ∧
      (let v : VCmd := { someVector with op := 0x42, fn := 6, r := { (default : Xs) with t := 2 } }
       v.op = 0x42 ∧ v.fn = 6 ∧ tyFloat v.r.t.toNat = false) := by
  decide +kernel

/-- A core store of zeros under the spans, and with a poisoned word at the first source. -/
def atWork (m : Memory) (v : VCmd) (strike : List (Nat × BitVec 8)) : State :=
  let s := spans (banked m)
  { s with core := { s.core with vq := [v], strike := strike } }

def addNow : VCmd := (spans lab).vSnap 0x40 0 xsAdd

def addFar : VCmd := { addNow with da := spanF32 0x2000000 4 }

def addDone : VCmd := { addNow with started := true, cursor := 4 }

def sumDone : VCmd := { addNow with op := 0x45, started := true, result := some 7, r := { xsAdd with sx := 9 } }

def badSource : Memory := { cells := [], fill := none, bad := [(0x20, 0xFF)] }

/-- The same with a queue-bound source: of its two words the queue holds none, one (half the window), or both. -/
def addQueue : VCmd := { addNow with da := spanF32 0 4 ||| 0x8000000000#128 }

def queued (ws : List CWord) : State :=
  let s := atWork zeros addQueue []
  s.setOwn { s.own with queues := [(0, ws)] }

/-- `s` with a leave of its context accepted. -/
def left (s : State) : State := { s with ctxs := s.ctxs.map (fun x => (x.1, { x.2 with leave := some (preemptAsk s false) })) }

theorem witness_VectorEngineRunsTheHead :
    ((atWork zeros addNow []).core.vectorMay addNow = true ∧ addNow.finished = false ∧ addNow.held = [] ∧
      (atWork zeros addNow []).leaving = false ∧ addNow.want = 4 ∧ ((atWork zeros addNow []).gather { addNow with started := true }).2.ready = 4 ∧
      ∃ v, (atWork zeros addNow []).vectorAttempt addNow 4 = .ok v) ∧
      (∃ x, (atWork zeros addFar []).core.vectorMay addFar = true ∧ addFar.finished = false ∧
        (atWork zeros addFar []).vectorAttempt addFar 4 = .viol x ∧
        attemptViol ((atWork zeros addFar []).granuleRemains addFar 4 (.viol x)).2 = some x) ∧
      (∃ x z, (atWork badSource addNow []).core.vectorMay addNow = true ∧ (atWork badSource addNow []).vectorAttempt addNow 4 = .data x z) ∧
      (({ addNow with cursor := 4 } : VCmd).finished = true ∧ ({ addNow with held := [(0, [1])] } : VCmd).finished = false) ∧
      ((atWork zeros addNow [(0x100, 1)]).core.strike = [(0x100, 1)] ∧ LaneEngine.span ≠ .matrix ∧ (LaneEngine.span = .row ↔ addNow.op = 0x58) ∧
        ∃ v, (atWork zeros addNow [(0x100, 1)]).vectorAttempt addNow 4 = .ok v) ∧
      (lab.core.vectorMay { addNow with frozen := true } = false) ∧
      (addDone.started = true ∧ addDone.frozen = false ∧ addDone.finished = true ∧ addDone.pends = none) ∧
      (sumDone.finished = true ∧ sumDone.pends = some 9 ∧ sumDone.result = some 7) :=
  ⟨⟨by decide +kernel, by decide +kernel, by decide +kernel, by decide +kernel, by decide +kernel, by decide +kernel,
      attempt_ok (by decide +kernel)⟩,
    ⟨0x2000000, by decide +kernel, by decide +kernel, attempt_viol (by decide +kernel), by decide +kernel⟩,
    ⟨0x100 + 2 ^ 56, 0, by decide +kernel, attempt_data (by decide +kernel)⟩, by decide +kernel,
    ⟨by decide +kernel, by decide +kernel, by decide +kernel, attempt_ok (by decide +kernel)⟩, by decide +kernel, by decide +kernel,
    by decide +kernel⟩

/-- Windows of a queue-bound source: not whole, whole, and ended by a leave with the elements that it has. -/
theorem witness_VectorEngineRunsTheHead_window :
    (byItself { addNow with op := 0x58 } ∧ byItself { addNow with op := 0x54, fn := 1 } ∧ ¬ byItself addQueue) ∧
      ((((queued []).gather addQueue).2.ready = 0 ∧ ((queued [CWord.good 1]).gather addQueue).2.ready = 2 ∧
        ((queued [CWord.good 1, CWord.good 2]).gather addQueue).2.ready = addQueue.want) ∧
      ((left (queued [CWord.good 1])).leaving = true ∧ (queued []).leaving = false) ∧
      (let v : VCmd := { addQueue with started := true, took := [(0, [CWord.good 1])], ready := 2 }
       let s := left (atWork zeros v [])
       s.core.windowEnds = true ∧ s.core.vectorMay v = true) ∧
      (left (atWork zeros addNow [])).core.windowEnds = false) :=
  ⟨⟨.inl rfl, .inr ⟨rfl, rfl⟩, fun h => absurd h (by simp only [byItself]; decide +kernel)⟩, by decide +kernel⟩

/-- A nest of one step whose operands are tiles. -/
def mmTiles : Xr := { (default : Xr) with t := 9 }

def fourMatrix (s : State) : State := { s with core := { s.core with mq := List.replicate 4 (s.mSnap .cfg default 0) } }

theorem witness_MatrixWordsSetTheNestOrQueue :
    (lab.Acts 1 0 false [] ∧ lab.Acts 1 0 false lab.mUses ∧ lab.Acts 1 0 false [127] ∧ (fourMatrix lab).Acts 1 0 false []) ∧
      ((lab.landDue.mSnap .go default 0).ok lab.core.redundantAt = true ∧ (lab.landDue.mSnap .go { mmTiles with t := 10 } 0).ok false = false) ∧
      (lab.landDue.overBudget ((lab.landDue.mSnap .go mmTiles 0).work false) = false ∧
        (tight.landDue.mSnap .go mmTiles 0).ok false = true ∧ tight.landDue.overBudget ((tight.landDue.mSnap .go mmTiles 0).work false) = true) ∧
      lab.core.mq.length < 4 ∧ 4 ≤ (fourMatrix lab).core.mq.length := by
  refine ⟨⟨x_ready (by decide +kernel), x_ready (by decide +kernel), x_ready (by decide +kernel), x_ready (by decide +kernel)⟩, ?_⟩
  decide +kernel

def matrixAt (m : MCmd) : State := labCore (fun c => { c with mq := [m] })

def goNow : MCmd := lab.mSnap .go mmTiles 0

/-- A command whose operand lies behind a pool port that is down. -/
def goPool : MCmd :=
  { goNow with nest := (goNow.nest.drop 1).cons { NestLevel.reset with asrc := 0x80000001 }, baseA := BitVec.ofNat 64 (2 ^ 40) }

def poolDown : State :=
  let s := mapped (2 ^ 50) 7
  { s with
    ports := { s.ports with segs := [{ dom := 0, base := 2 ^ 50, size := 2 ^ 21, target := 0 }] }
    down := [(poolPort (2 ^ 50), 0)]
    core := { s.core with mq := [goPool] } }

def drainDone : MCmd := { lab.mSnap .drain { (default : Xr) with t := 10, m := 1, b := 9 } 0 with started := true, cursor := 1, amax := some 3 }

/-- The strikes of the window after an attempt. -/
def attemptStrikes (a : Attempt (State × MCmd)) : Option (List (Nat × BitVec 8)) :=
  match a with
  | .ok (t, _) => some t.core.mstrike
  | _ => none

theorem witness_MatrixEngineRunsTheHead :
    (lab.core.mq = [] ∧ (matrixAt goNow).core.matrixMay goNow = true ∧ (matrixAt goNow).core.mstrike = []) ∧
      (∃ v, (matrixAt goNow).granuleAttempt goNow = .ok v) ∧ poolDown.granuleAttempt goPool = .wait ∧
      ((matrixAt { goNow with kind := .cfg }).core.matrixMay { goNow with kind := .cfg } = true ∧
        (matrixAt { goNow with kind := .tset }).core.matrixMay { goNow with kind := .tset } = true ∧
        (matrixAt { goNow with kind := .tclr }).core.matrixMay { goNow with kind := .tclr } = true) ∧
      (let s := matrixAt { goNow with kind := .drain }
       (tget (tset s.core.tfull 0 .full) 0).isSome = true) ∧
      (let m : MCmd := { goNow with check := some ([], zeros), cursor := 1, started := true }
       (matrixAt m).core.granuleEnds (matrixAt m).leaving = true ∧ m.frozen = false ∧ (matrixAt m).core.redundant = false ∧
         ({ matrixAt m with core := { (matrixAt m).core with redundant := true } } : State).core.redundant = true ∧
         (matrixAt goNow).core.granuleEnds false = false) ∧
      (let m : MCmd := { goNow with kind := .drain }
       tget (matrixAt m).core.tfull (m.r.d.toNat % 16) = none ∧ (matrixAt m).drainBad m = none) ∧
      ((left (matrixAt goNow)).leaving = true ∧ (matrixAt goNow).leaving = false ∧
        attemptStrikes ((matrixAt goNow).granuleAttempt goNow) = some []) ∧
      (drainDone.started = true ∧ drainDone.frozen = false ∧ drainDone.cursor = drainDone.total ∧ drainDone.check = none ∧
        drainDone.pends = some 9 ∧ drainDone.amax = some 3) ∧
      (let m : MCmd := { goNow with started := true, cursor := 1 }
       m.cursor = m.total ∧ m.pends = none) :=
  ⟨by decide +kernel, attempt_ok (by decide +kernel), attempt_wait (by decide +kernel), by decide +kernel, by decide +kernel,
    by decide +kernel, by decide +kernel, by decide +kernel, by decide +kernel, by decide +kernel⟩

theorem witness_EngineWordsLeaveTheRestAlone :
    lab.core.sp.wf = true ∧ (∃ t, exec (.vadd xsAdd) (spans lab) = .next t) ∧ (∃ t, exec (.vchain oneLink) (spans lab) = .next t) ∧
      (∃ t, exec (.vsetb default) lab = .next t) ∧ (∃ t, exec (.mmGo mmTiles) lab = .next t) ∧ (∃ t, exec (.mmCfg default) lab = .next t) ∧
      (∃ t, exec (.mmSwap default) lab = .next t) ∧ ∃ t, exec (.mmNest default) lab = .next t :=
  ⟨by decide +kernel, ⟨_, rfl⟩, ⟨_, rfl⟩, ⟨_, rfl⟩, ⟨_, rfl⟩, ⟨_, rfl⟩, ⟨_, rfl⟩, ⟨_, rfl⟩⟩

/-! ### Barriers, events, progress -/

/-- Barrier 5 of COUNT 1 over the core in focus; of COUNT 2 over a row of two, installed, and with its member's arrival. -/
def bar1 : Word := 0x40000

def pair : State :=
  let c := placedCtx 0
  let l : Option Launch := c.launch.map (fun l => { l with record := { l.record with rect := 0x1000 } })
  labCtx (fun c => { c with launch := l })

def bar2 : Word := 0x81000

def withBar (s : State) (d : Word) (q : Barrier) : State :=
  { s with ctxs := s.ctxs.map (fun x => (x.1, { x.2.install 5 d with bars := tset x.2.bars (barKey 5 d) q })) }

def arrivedOnce : Barrier := { arrived := 1, phase := 0, last := [(0, 0)] }

def notArrived : Barrier := { arrived := 0, phase := 0, last := [] }

/-- Descriptors: 0 is illegal; a first one, the same one again, another one over arrivals and over none. -/
theorem witness_BarrierWordsCountArrivals_init :
    (lab.Acts 1 0 false [9] ∧ lab.here? = some (1, placedCtx 0)) ∧ bits (0 : Word).toNat 30 18 = 0 ∧
      (bar1.toNat < 2 ^ 31 ∧ subRect (bits bar1.toNat 17 0) lab.partition = true ∧ inRect (bits bar1.toNat 17 0) lab.core.pos = true ∧
        bits bar1.toNat 30 18 = 1 ∧ rectSize (bits bar1.toNat 17 0) = 1) ∧
      ((placedCtx 0).barDesc 5 0 = none ∧ ((placedCtx 0).install 5 bar1).barDesc 5 0 = some bar1) ∧
      (subRect (bits bar2.toNat 17 0) pair.partition = true ∧ rectCores (bits bar2.toNat 17 0) = [0, 1] ∧
        ∀ x ∈ (withBar pair bar2 arrivedOnce).ctxs, x.2.barDesc 5 0 = some bar2 ∧ (x.2.bar 5 bar2).arrived ≠ 0) :=
  ⟨⟨x_ready (by decide +kernel), by decide +kernel⟩, by decide +kernel, by decide +kernel, by decide +kernel, by decide +kernel⟩

theorem witness_BarrierWordsCountArrivals :
    ((withBar pair bar2 notArrived).Acts 1 0 false [] ∧ (withBar pair bar2 arrivedOnce).Acts 1 0 false []) ∧
      (∀ x ∈ (withBar pair bar2 notArrived).ctxs, x.2.barDesc 5 0 = some bar2 ∧ (x.2.bar 5 bar2).waits 0 = false ∧
        ((x.2.bar 5 bar2).arrive (bits bar2.toNat 30 18) 0).waits 0 = true) ∧
      (∀ x ∈ (withBar pair bar2 arrivedOnce).ctxs, (x.2.bar 5 bar2).waits 0 = true) ∧
      ((notArrived.arrive 1 0).waits 0 = false ∧ lab.core.syncing ≠ some 5 ∧ (labCore (fun c => { c with syncing := some 5 })).core.syncing = some 5 ∧
        lab.core.memReady = true ∧ busy.core.memReady = false ∧ (placedCtx 0).barDesc 5 0 = none) :=
  ⟨⟨x_ready (by decide +kernel), x_ready (by decide +kernel)⟩, by decide +kernel, by decide +kernel, by decide +kernel, by decide +kernel⟩

theorem witness_LastArrivalCompletesThePhase :
    (∀ p ph, tget arrivedOnce.last p = some ph → ph ≤ arrivedOnce.phase) ∧ arrivedOnce.arrived + 1 ≠ 3 ∧ arrivedOnce.arrived + 1 = 2 := by
  refine ⟨fun p ph h => ?_, by decide, by decide⟩
  simp only [arrivedOnce, tget] at h ⊢
  split at h <;> simp_all

/-- A second context in slot 2, handle 0x4002, changed by `f`. -/
def two (f : Ctx → Ctx) : State := { lab with ctxs := [(1, placedCtx 0), (2, f (placedCtx 0))], instars := [(1, 1), (2, 1)] }

/-- `two` with the second context's handle in x1, and a value in x2. -/
def twoX (f : Ctx → Ctx) (v : Word) : State := ((two f).setX 1 0x4002).setX 2 v

def parkedCtx (c : Ctx) : Ctx :=
  { c with state := .parked, launch := c.launch.map (fun l => { l with frames := [(0, Core.reset)] }) }

def readyCtx (c : Ctx) : Ctx := { parkedCtx c with state := .ready }

def strangerCtx (c : Ctx) : Ctx := { parkedCtx c with tdom := 1 }

/-- The own handle, a peer's, another domain's, a stale handle, a value of more than 32 bits. -/
theorem witness_EventWordsSetClearAndWait :
    (lab.Acts 1 0 false [0] ∧ (twoX id 0).Acts 1 0 false [1]) ∧
      lab.landDue.eventTarget 0 = some 1 ∧ (withX [(1, 0x8002)]).landDue.eventTarget 1 = none ∧ (twoX parkedCtx 0).landDue.eventTarget 1 = some 2 ∧
      (2 ^ 32 ≤ ((withX [(1, 0x100004001)]).getX 0 1).toNat ∧ lab.slotOf 0x8002 = none ∧
        (twoX strangerCtx 0).slotOf ((twoX strangerCtx 0).getX 0 1).toNat = some 2 ∧ (twoX strangerCtx 0).eventTarget 1 = none) :=
  ⟨⟨x_ready (by decide +kernel), x_ready (by decide +kernel)⟩, by decide +kernel, by decide +kernel, by decide +kernel, by decide +kernel⟩

/-- Masks: none with `any`, one that event 3 satisfies, one that it does not. -/
theorem witness_EventWordsSetClearAndWait_wait :
    (lab.Acts 1 0 false [5, 6] ∧ lab.here? = some (1, placedCtx 0)) ∧ lab.landDue.getX 0 5 = 0 ∧
      (let v : BitVec 256 := BitVec.twoPow 256 3
       eventWord v 0 &&& 8 = 8 ∧ eventWord v 0 &&& 8 ≠ 0 ∧ eventWord v 0 &&& 12 ≠ 12 ∧ eventWord v 0 &&& 4 = 0) :=
  ⟨⟨x_ready (by decide +kernel), by decide +kernel⟩, by decide +kernel, by decide +kernel⟩

theorem witness_ProgressWordsAct :
    (lab.Acts 1 0 false [] ∧ lab.Acts 1 0 false [3, 71] ∧ lab.Acts 1 0 false [127] ∧ lab.here? = some (1, placedCtx 0)) ∧
      (lab.core.xexited = false ∧ lab.core.vq = [] ∧ lab.core.mq = [] ∧ busy.core.vq ≠ [] ∧ lab.core.memReady = true ∧ lab.quiesced = false ∧
        busy.core.memReady = false) ∧
      (lab.slotOf 0 = none ∧ (two id).slotOf 0x4002 = some 2) ∧
      ((strangerCtx (placedCtx 0)).tdom ≠ (placedCtx 0).tdom ∧ ({ placedCtx 0 with launch := none } : Ctx).nextLaunch = none) ∧
      ((placedCtx 0).nextLaunch = some (0, placedRecord) ∧ (placedCtx 0).state ≠ .ready) ∧
      ((readyCtx (placedCtx 0)).nextLaunch = some (0, placedRecord) ∧ (readyCtx (placedCtx 0)).state = .ready ∧
        bits placedRecord.rect.toNat 17 12 = bits lab.partition 17 12) := by
  refine ⟨⟨x_ready (by decide +kernel), x_ready (by decide +kernel), x_ready (by decide +kernel), by decide +kernel⟩, ?_⟩
  decide +kernel

/-- `launch` of a record that is not aligned (status 2), at no mapping, at no permission, behind a poisoned ASID table. -/
theorem witness_ProgressWordsAct_launch :
    (lab.armRecord (.launch 1) (.virt 0 0) 0x310001).2 = .ok 2 ∧ (lab.armRecord (.launch 1) (.virt 0 0) 0x40000000).2 = .pages 0x40000000 ∧
      ((mapped 0x310000 0).armRecord (.launch 1) (.virt 0 0) (2 ^ 40)).2 = .viol (2 ^ 40) ∧
      (poolDown.armRecord (.launch 1) (.virt 0 0) (2 ^ 40)).2 = .far (2 ^ 50) ∧
      (({ lab with mem := { lab.mem with bad := [(0x10000, 0xFF)] } } : State).armRecord (.launch 1) (.virt 0 0) 0x310000).2 = .data 0x80000 := by
  decide +kernel

/-- A command of the core in focus that waits for the promotion of page 8, on tag 3, which counts it. -/
def waitingCmd : EngCmd :=
  { lab.newCmd .cp 3 3 0 0 0 64 [] with
    fixups := [{ seg := { idx := 0, src := 0, dst := 0, len := 64, pos := 0, zero := false }, promote := some 8 }] }

def tagged (cmds : List EngCmd) : State :=
  let s : State := { lab with cmds := cmds }
  s.setOwn (s.own.setTag 3 { pend := 1, done := false, err := false })

theorem witness_PausesAndTagWaitsHoldTheStream :
    (lab.Acts 1 0 false [] ∧ lab.Acts 1 0 false [127] ∧ (tagged []).Acts 1 0 false [67] ∧ (tagged [waitingCmd]).Acts 1 0 false [67]) ∧
      ((lab.own.tag 3).done = true ∧ ((tagged []).own.tag 3).done = false ∧ (tagged []).tagPage 3 = none ∧
        (tagged [waitingCmd]).tagPage 3 = some 8) ∧
      ((maskTags 8).filter (fun t => !(lab.own.tag t).done) = [] ∧ (maskTags 8).filter (fun t => !((tagged []).own.tag t).done) = [3] ∧
        [3].findSome? (tagged [waitingCmd]).tagPage = some 8) ∧
      (let s := labCore (fun c => { c with xhold := .paused 4, ahold := .paused 4 })
       s.core.xhold = .paused 4 ∧ s.core.ahold = .paused 4 ∧ s.cycle < 4 ∧ 4 ≤ ({ s with cycle := 4 } : State).cycle ∧ lab.core.xhold = .none) ∧
      ((lab.putX 1 0 0 0).core.wins[0]? = some { reg := .x 1, close := 1, flags := 0 } ∧ lab.core.wins[0]? = none) := by
  refine ⟨⟨x_ready (by decide +kernel), x_ready (by decide +kernel), x_ready (by decide +kernel), x_ready (by decide +kernel)⟩, ?_⟩
  decide +kernel

/-! ### Supervisor words -/

/-- Domain 0 of `lab`, and with a target. -/
def dom0 : Dom := Dom.make { dies := 15, kvfree := 0x400000, asidtab := 0x80000 } SchedCfg.default []

def aimed (f : Ctx → Ctx) : State := { two f with doms := [(0, { dom0 with tgt := 0x4002 })] }

theorem witness_SystemRegisterWordsAct :
    (lab.PrivActs 0 false [68] ∧ lab.PrivActs 0 false [4]) ∧ lab.landDue.myDom = some (0, dom0) ∧
      (0x010 ∈ (systemRegisters lab 0 dom0).map (fun p => p.1) ∧ 0x016 ∉ (systemRegisters lab 0 dom0).map (fun p => p.1)) ∧
      (lab.frameTarget 0 dom0 = .error 1 ∧ ((aimed parkedCtx).frameTarget 0 { dom0 with tgt := 0x4002 }).isOk = true) ∧
      (lab.core.memReady = true ∧ busy.core.memReady = false ∧ lab.slotOf dom0.tgt.toNat = none ∧ (aimed parkedCtx).slotOf 0x4002 = some 2) :=
  ⟨⟨priv_ready (by decide +kernel) (by decide +kernel), priv_ready (by decide +kernel) (by decide +kernel)⟩, by decide +kernel,
    by decide +kernel, by decide +kernel, by decide +kernel⟩

/-- A near-bank item is queued with addresses that a cached entry of its address space covers. -/
def usesCached : State :=
  { lab with
    cmds := [{ lab.newCmd .nbZero 3 0 0 0x800000 0 1 [] with items := 1 }]
    tlb := [(0, [{ dom := 0, asid := 0, lvl := 2, base := 0, entry := 0x3B }])]
    units := [(0, { NbUnit.idle with queue :=
      [{ cmd := lab.nextId, row := 0, src := 0, dst := 0x800000, suspends := 0, started := false, buffer := none, entries := [] }] })] }

theorem witness_ContextAndCoreWordsAct :
    (lab.PrivActs 0 false [1, 66] ∧ lab.PrivActs 0 false [1, 2, 67] ∧ lab.PrivActs 0 false [1, 2] ∧ lab.PrivActs 0 false [2] ∧
      lab.PrivActs 0 false [] ∧ lab.landDue.myDom = some (0, dom0)) ∧
      ((withX [(1, 1)]).landDue.getX 0 1 = 1 ∧ lab.inDomHbm 0 0x310000 = true ∧
        (lab.landDue.translate lab.who needRW 0x310000).2 = .ok 0x310000 0 ∧ (lab.landDue.translate lab.who needRW 0x40000000).2 = .fault) ∧
      (lab.slotOf 0 = none ∧ (twoX id 0).slotOf 0x4002 = some 2 ∧ (placedCtx 0).state = .running ∧ (parkedCtx (placedCtx 0)).state ≠ .running ∧
        0 ≠ (strangerCtx (placedCtx 0)).tdom ∧ lab.cmds = [] ∧ waitingCmd.slot = 1) ∧
      ((let c : Ctx := { parkedCtx (placedCtx 0) with parkCause := 10 }
        c.state ≠ .running ∧ 1 ≤ c.parkCause ∧ c.parkCause ≤ 10) ∧ (parkedCtx (placedCtx 0)).parkCause = 0) ∧
      (lab.domHasDie 0 (dieOf 0) = true ∧ ({ lab with doms := [(0, { dom0 with dies := 2 })] } : State).domHasDie 0 (dieOf 0) = false ∧
        (0x40 : Word) &&& ~~~0x3F3F#64 ≠ 0 ∧ (0x3F3F : Word) &&& ~~~0x3F3F#64 = 0) ∧
      ((lab.coreAt 0).ctx = some 1 ∧ (lab.coreAt 1).ctx = none) ∧
      (lab.tlbInUse (fun _ => true) = false ∧ usesCached.tlbInUse (fun _ => true) = true) := by
  refine ⟨⟨?_, ?_, ?_, ?_, ?_, by decide +kernel⟩, ?_⟩
  all_goals first
    | exact priv_ready (by decide +kernel) (by decide +kernel)
    | decide +kernel

theorem witness_SyncWordsLeaveTheRestAlone :
    (lab.core.x.wf = true ∧ tableFrom 0 lab.core.xbad = true) ∧ (∃ t, exec (.barArr default) lab = .next t) ∧
      (∃ t, exec (.tw default) lab = .next t) ∧ (∃ t, exec (.id default) lab = .next t) ∧ (∃ t, exec (.fence default) lab = .next t) ∧
      ∃ t, exec (.evWait default) lab = .next t :=
  ⟨by decide +kernel, ⟨_, rfl⟩, ⟨_, rfl⟩, ⟨_, rfl⟩, ⟨_, rfl⟩, ⟨_, rfl⟩⟩

/-! ### The A stream -/

theorem witness_AddressWordsWriteTheirResult :
    lab.AReady false false [1, 2, 3] false ∧ lab.AReady true true [63, 63] false ∧ lab.core.a.wf = true ∧ (63 ≠ 0 ∧ 1 ≠ 0 ∧ 63 ≠ 1) :=
  ⟨a_ready (by decide +kernel), a_ready (by decide +kernel), by decide +kernel, by decide⟩

/-- A stream inside a body of the words at 0x20000 to 0x20008, pass `i` of 3, with levels behind it and binds. -/
def looping (i : Nat) (pc : Word) (rest : Table ALevel) (bs : List Bind) : State :=
  labCore (fun c => { c with apc := pc, levels := (1, { start := 0x20000, stop := 0x20008, idx := i, count := 3 }) :: rest, binds := bs })

/-- A pending result of an atomic. -/
def pendAmo : PendAmo := { d := 5, value := 9, status := some 0, flags := 0 }

def bindOf (l d : Nat) : Bind := { level := l, d := d, inc := 4 }

/-- An illegal nest (its level is active), one of count 0 and one of count 2; the forms of `bind`, with four pairs there; a body within, at
its end, and done; a word of the first pass in the second. -/
theorem witness_BranchesNestsAndBindsStepTheStream :
    (lab.AReady false false [1] false ∧ (looping 0 0x20004 [] []).AReady false false [1] false) ∧
      ((tget (looping 0 0x20004 [] []).core.levels 1).isSome = true ∧ lab.core.levels = [] ∧
        (lab.getA 0 1).toNat % 2 ^ 32 = 0 ∧ ((withA [(1, 2)]).getA 0 1).toNat % 2 ^ 32 = 2) ∧
      ([bindOf 1 1, bindOf 1 2, bindOf 1 3, bindOf 1 4].length = 4 ∧ (5 : BitVec 6) ≠ 0) ∧
      ((looping 0 0x20004 [] []).core.levels.head? ≠ none ∧ (looping 0 0x20008 [] []).core.apc = 0x20008 ∧ 0 + 1 < 3 ∧ 3 ≤ 2 + 1) ∧
      (lab.core.a.wf = true ∧ ([bindOf 1 1, bindOf 1 2].map (fun b => (b.level, b.d))).Nodup) ∧
      (lab.core.issues true true = true ∧ (looping 1 0x20004 [] []).core.issues false true = false ∧
        (looping 1 0x20004 [] []).core.issues true false = false ∧
        (looping 1 0x20004 [] []).core.endBinds.any (looping 1 0x20004 [] []).pendingA = false) ∧
      (let s := looping 0 0x20004 [] [bindOf 1 5]
       let t : State := { s with core := { s.core with amos := [pendAmo] } }
       (s.core.endBindsAt 0x20008).any s.pendingA = false ∧ (t.core.endBindsAt 0x20008).any t.pendingA = true) :=
  ⟨⟨a_ready (by decide +kernel), a_ready (by decide +kernel)⟩, by decide +kernel, by decide, by decide +kernel, by decide +kernel,
    by decide +kernel, by decide +kernel⟩

/-- A remote atomic of the core in focus that has not been answered. -/
def sentRamo : RamoOut :=
  { id := 7, slot := 1, pos := 0, d := 5, req := 3, retry := false, pkg := 1, op := 0, wide := false, addr := 0, b := 1, sends := 1, first := 0,
    last := 0, busy := false, word := 0, at_ := 0, va := 0 }

def sent : State := { lab with ramos := [sentRamo] }

/-- The tags of `lab` are done; tag 3 of `tagged` waits, and with `waitingCmd` for the promotion of page 8. -/
theorem witness_AddressWordsThatWait :
    (lab.AReady false false [] false ∧ lab.AReady false false [1, 2] false ∧ lab.AReady false false [] true ∧ sent.AReady false false [] true ∧
      (tagged []).AReady false false [] true ∧ (withA [(1, 8)]).AReady false false [1, 2] false) ∧
      ((lab.own.tag 3).done = true ∧ ((tagged []).own.tag 3).done = false ∧ (tagged []).tagPage 3 = none ∧
        (tagged [waitingCmd]).tagPage 3 = some 8 ∧ ((tagged []).own.tag 3).pend ≠ 0 ∧ (lab.own.tag 3).pend = 0) ∧
      ((maskTags 8).filter (fun t => !((tagged []).own.tag t).done) = [3] ∧ [3].findSome? (tagged []).tagPage = none ∧
        [3].findSome? (tagged [waitingCmd]).tagPage = some 8) ∧
      (some sentRamo.slot = sent.core.ctx ∧ sentRamo.pos = sent.core.pos ∧ lab.ramos = []) ∧
      (lab.core.aexited = false ∧ lab.core.amos = [] ∧ lab.cmds = []) ∧
      ((labCore (fun c => { c with amos := [pendAmo] })).core.amos ≠ []) :=
  ⟨⟨a_ready (by decide +kernel), a_ready (by decide +kernel), a_ready (by decide +kernel), a_ready (by decide +kernel),
    a_ready (by decide +kernel), a_ready (by decide +kernel)⟩, by decide +kernel, by decide +kernel, by decide +kernel, by decide +kernel,
    by decide +kernel⟩

/-- A pending load of a queue, and of a tile. -/
def loadTo (t : LoadDest) : PendLoad := { dest := t, pc := 0x20000, a := lab.core.a, nest := [], binds := [] }

def global8 (k : GlobalKind) : GlobalAccess := { kind := k, va := 0x310000, pa := 2 ^ 51 + 2 ^ 40, size := 8 }

def heldBy (k : GlobalKind) : State := labCore (fun c => { c with xhold := .access (global8 k) })

def amFar (sz : BitVec 3) : Am := { (default : Am) with sz := sz, a := 1 }

/-- The outcomes of an access of the A stream. -/
theorem witness_AddressMemoryWordsMakeOneAccess :
    (lab.AReady false false (0 :: amReads default) false ∧ lab.AReady false false (amReads (amFar 4)) true) ∧
      ((mappedX 0x310000 3 [(1, 2 ^ 40)]).amRead (amFar 3) 8).2 = .ok (List.replicate 8 0) ∧
      ((mappedX (2 ^ 39) 3 [(1, 2 ^ 40)]).amRead (amFar 3) 8).2 = .dev (2 ^ 39) ∧
      ((mappedX (2 ^ 51 + 2 ^ 40) 3 [(1, 2 ^ 40)]).amRead (amFar 3) 8).2 = .far (2 ^ 51 + 2 ^ 40) ∧
      ((mappedX 0x310000 0 [(1, 2 ^ 40)]).amWrite (amFar 3) [1]).2 = .viol (2 ^ 40) ∧
      ((mappedX 0x310000 3 [(1, 2 ^ 40)]).amReadWords (amFar 4) 8).2 = .ok (List.replicate 8 (CWord.good 0)) ∧
      ((mappedX 0x310000 3 [(1, 2 ^ 40)]).amWriteWords (amFar 4) [CWord.good 1]).2 = .ok () ∧
      ((amFar 3).s ≠ 1 ∧ sizeBytes (amFar 3).sz.toNat = 8 ∧ ((mappedX 0x310000 3 [(1, 2 ^ 40)]).amAddr (amFar 3)).toNat % 8 = 0 ∧
        ((mappedX 0x310000 3 [(1, 2 ^ 40 + 1)]).amAddr (amFar 3)).toNat % 8 = 1) :=
  ⟨⟨a_ready (by decide +kernel), a_ready (by decide +kernel)⟩, by decide +kernel, by decide +kernel, by decide +kernel, by decide +kernel,
    by decide +kernel, by decide +kernel, by decide +kernel⟩

/-- Queues with and without a home, with room and full, with a word and poisoned; tiles; the loads that commit; accesses held and not. -/
theorem witness_AddressMemoryWordsMakeOneAccess_queues :
    (noQueues.qHome 3 = .none ∧ lab.qHome 3 = .queue ∧ (lab.own.qWords .queue 3).length + lab.core.reserved 3 + 8 ≤ 256 ∧
      256 < (fullQueue.own.qWords .queue 3).length + fullQueue.core.reserved 3 + 1 ∧ lab.qOffer 3 = [] ∧ 8 ≤ (fullQueue.qOffer 3).length ∧
      oneWord.qOffer 3 = [CWord.good 7] ∧ (CWord.good 7).use = some 7 ∧ CWord.poison.use = none) ∧
      (lab.core.tileFree 3 = true ∧ (labCore (fun c => { c with tfull := [(3, .full)] })).core.tileFree 3 = false ∧ tget lab.core.tfull 3 ≠ some .full ∧
        tget (labCore (fun c => { c with tfull := [(3, .full)] })).core.tfull 3 = some .full) ∧
      (lab.core.loads = [] ∧ (loadTo (.queue 3 [])).dest = .queue 3 [] ∧ (loadTo (.tile 3 [])).dest = .tile 3 []) ∧
      ((heldBy (.load 3)).core.xhold = .access (global8 (.load 3)) ∧ placeOf (global8 (.store [])).pa ≠ .pool ∧
        (heldBy (.store [])).core.xhold = .access (global8 (.store [])) ∧ (heldBy (.load 3)).stepPoisoned 1 = none ∧
        placeOf (2 ^ 50) = .pool ∧ lab.downPort (2 ^ 50) = none) ∧
      ((labCore (fun c => { c with xhold := .queue, ahold := .queue })).core.xhold = .queue ∧ lab.core.xhold ≠ .queue ∧ lab.core.ahold ≠ .queue) ∧
      ((∀ g, lab.core.xhold ≠ .access g) ∧ ∀ g, lab.core.ahold ≠ .access g) :=
  ⟨by decide +kernel, by decide +kernel, by decide +kernel, by decide +kernel, by decide +kernel,
    ⟨fun g => by have h : lab.core.xhold = .none := by decide +kernel
                 simp [h], fun g => by have h : lab.core.ahold = .none := by decide +kernel
                                       simp [h]⟩⟩

/-- Translations to HBM4E, to nothing and to package 1; a request in range and past it; pending results. -/
theorem witness_AddressAtomicsPendTheirResult :
    ((withA [(1, 0x310000)]).AReady false false [1, 2, 3] true ∧ (withA [(1, 0x310000)]).AReady false false [1, 2, 3, 4] true ∧
      ((withA [(1, 0x310001)]).getA 0 1).toNat % 4 ≠ 0) ∧
      ((withA [(1, 0x310000)]).translate lab.who needRW 0x310000).2 = .ok 0x310000 0 ∧
      (let u := ((withA [(1, 0x310000)]).translate lab.who needRW 0x310000).1
       placeOf 0x310000 = .hbm ∧ u.dirAt 0x310000 = none ∧ u.mem.bad = [] ∧ u.meetsBlock 0x310000 8 = false) ∧ (withA [(1, 0x310000)]).mem.wf = true ∧
      ((withA [(1, 0x40000000)]).translate lab.who needRW 0x40000000).2 = .fault ∧
      ((mapped (2 ^ 51 + 2 ^ 40) 3).translate lab.who needRW (2 ^ 40)).2 = .ok (2 ^ 51 + 2 ^ 40) 0 ∧ placeOf (2 ^ 51 + 2 ^ 40) = .remote 1 ∧
      ((0x1FFFF : Word).toNat < 2 ^ 17 ∧ 2 ^ 17 ≤ (0x20000 : Word).toNat) ∧ lab.core.amos = [] ∧
      (labCore (fun c => { c with amos := [pendAmo] })).core.amos = [pendAmo] :=
  ⟨⟨a_ready (by decide +kernel), a_ready (by decide +kernel), by decide +kernel⟩, by decide +kernel, by decide +kernel, by decide +kernel,
    by decide +kernel, by decide +kernel, by decide +kernel, by decide, by decide +kernel, by decide +kernel⟩

/-- The tag of a push that counts 255, and sixteen near-bank commands of the stream that are not fully forwarded. -/
def fullTag : State := lab.setOwn (lab.own.setTag 3 { pend := 255, done := false, err := false })

def nearCmd : EngCmd :=
  { lab.newCmd .nbZero 3 0 0 0 0 1 [] with segs := [{ idx := 0, src := 0, dst := 0, len := 2048, pos := 0, zero := false }] }

theorem witness_PushWordsQueueTheirCommand :
    (lab.AReady false false [1, 2, 3] true ∧ fullTag.AReady false false [1, 2, 3] true) ∧ (fullTag.own.tag 3).pend = 255 ∧
      (lab.own.tag 3).pend ≠ 255 ∧
      (bits (0 : Word).toNat 63 50 = 0 ∧ subRect 0 lab.partition = true ∧ subRect 0x3FFFF lab.partition = false ∧
        bits (0x10 : Word).toNat 63 35 = 0 ∧ 5 ≤ bits (0x500000000 : Word).toNat 34 32) ∧
      ((0 : Word).toNat % 2 ^ 32 = 0 ∧ (0x40 : Word).toNat % 2 ^ 32 ≠ 0) ∧
      (bits (0x100000000 : Word).toNat 63 48 = 0 ∧ bits (0x100000000 : Word).toNat 47 32 = 1 ∧ bits (1 : Word).toNat 15 0 = 1) ∧
      ((2 ^ 11 : Word).toNat % 2048 = 0 ∧ (4096 : Word).toNat % 8192 = 4096 ∧ (8191 : Word).toNat % 8192 = 8191 ∧
        bits (4096 : Word).toNat 63 13 = 0 ∧ bits (65535 : Word).toNat 63 17 = 0) ∧
      16 ≤ (({ lab with cmds := List.replicate 16 nearCmd } : State).cmds.filter
        (fun k => k.kind.nearBank && k.sameStream nearCmd && !k.segs.isEmpty)).length ∧ lab.core.nbprog = [] :=
  ⟨⟨a_ready (by decide +kernel), a_ready (by decide +kernel)⟩, by decide +kernel, by decide +kernel, by decide +kernel, by decide,
    by decide, by decide, by decide +kernel, by decide +kernel⟩

/-- A state whose memory from 0x310000 on holds the bytes of a number. -/
def holding (n v : Nat) : State :=
  match lab.physStore 0x310000 (toBytes n v) with
  | .ok t => t
  | .error _ => lab

/-- A descriptor of one element for a rectangle of one core, attempt 1, tag 5; and one with a reserved bit set. -/
def collDesc : Nat := 1 + 5 * 2 ^ 128 + 2 ^ 192

theorem witness_CollectiveAndNearBankQueryWordsAct :
    (lab.AReady false false [1, 2, 3] true ∧ lab.AReady false false [1, 2] false ∧ lab.AReady false false [1] false) ∧
      ((described (holding 64 collDesc) 0x310000).map (fun p => p.2) = some collDesc ∧ collDesc < 2 ^ 224 ∧
        subRect (bits collDesc 81 64) lab.partition = true ∧ inRect (bits collDesc 81 64) lab.core.pos = true) ∧
      ((described (holding 64 (collDesc + 2 ^ 224)) 0x310000).map (fun p => p.2) = some (collDesc + 2 ^ 224) ∧ 2 ^ 224 ≤ collDesc + 2 ^ 224) ∧
      ((lab.own.tag 5).pend ≠ 255 ∧ (fullTag.own.tag 3).pend = 255) ∧
      ((lab.translate lab.who needR 0x310000).2 = .ok 0x310000 0 ∧ (lab.translate lab.who needR 0x40000000).2 = .fault) ∧
      (nearCmd.kind.nearBank = true ∧ some nearCmd.slot = lab.core.ctx ∧ nearCmd.pos = lab.core.pos ∧ nearCmd.launch = lab.launchId ∧
        lab.cmds = []) ∧
      ((0x310001 : Word).getLsbD 0 = true ∧ (0x310000 : Word).getLsbD 0 = false ∧ engAddr (0x310000 : Word) = .global 0x310000 ∧
        (lab.gRead lab.who needR 0x310000 2).2 = .ok [0, 0] ∧ microOk 0 = true ∧ microOk 0xF000 = false) :=
  ⟨⟨a_ready (by decide +kernel), a_ready (by decide +kernel), a_ready (by decide +kernel)⟩, by decide +kernel, by decide +kernel,
    by decide +kernel, by decide +kernel, by decide +kernel, by decide +kernel⟩

theorem witness_AddressWordsLeaveTheRestAlone :
    lab.core.a.wf = true ∧ (∃ t, exec (.aAdd default) lab = .next t) ∧ (∃ t, exec (.aAddi default) lab = .next t) ∧
      (∃ t, exec (.b default) lab = .next t) ∧ (∃ t, exec (.nest { (default : An) with k := 4 }) lab = .next t) ∧
      (∀ v ∈ (looping 0 0x20004 [] []).core.levels.head?, v.2.stop ≠ 0x20004 ∧ v.2.stop ≠ 0x20014) ∧
      (∃ t, exec (.bind 0 default) lab = .next t) ∧ (∃ t, exec (.aTw default) lab = .next t) ∧ (∃ t, exec (.aTwa default) lab = .next t) ∧
      (∃ t, exec (.pf default) lab = .next t) ∧ (∃ t, exec (.aPause default) lab = .next t) ∧ lab.core.endBinds = [] :=
  ⟨by decide +kernel, ⟨_, rfl⟩, ⟨_, rfl⟩, ⟨_, rfl⟩, ⟨_, rfl⟩, by decide +kernel, ⟨_, rfl⟩, ⟨_, rfl⟩, ⟨_, rfl⟩, ⟨_, rfl⟩, ⟨_, rfl⟩,
    by decide +kernel⟩

/-! ### Near-bank units and the engines -/

/-- A unit of bank 0 with one item of a command of a kind, from `src` to row 0 of the bank. -/
def unitWith (kind : EngKind) (src upc : Nat) (started susp : Bool) (buf : Option (List CWord)) : State :=
  let c : EngCmd := { lab.newCmd kind 3 0 0 0 (BitVec.ofNat 64 src) 1 [] with items := 1, prog := [0x1000] }
  let it : NbItem := { cmd := c.id, row := 0, src := src, dst := 0, suspends := 0, started := started, buffer := buf, entries := [] }
  { lab with cmds := [c], units := [(0, { NbUnit.idle with queue := [it], store := [0x1000], upc := upc, suspended := susp })] }

def hasHead (s : State) (k : Nat) (kind : EngKind) (started : Bool) : Bool :=
  match s.nbHead k with
  | some (it, c) => decide (c.kind = kind) && decide (it.started = started)
  | none => false

/-- The requests of ordinary accesses at bank 0, two of them old. -/
def requests : List BankReq := [{ row := 3, since := 0, pn := 0, owed := false }, { row := 5, since := 0, pn := 1, owed := false }]

def waited (s : State) : State := { s with reqs := [(0, requests)], ptp := 100000000 }

def owing (s : State) : State := { s with reqs := [(0, requests.map (fun r => { r with owed := true }))] }

theorem witness_MicroinstructionsActOnTheirAccumulators :
    (hasHead (unitWith .nbRun (2 ^ 22) 0 true false none) 0 .nbRun true = true ∧ lab.bankHere = 0) ∧
      ((unitWith .nbRun (2 ^ 22) 0 true false none).mayStep 0 0 true = true ∧ (unitWith .nbRun (2 ^ 22) 0 true false none).mayStep 0 0 false = true) ∧
      ((unitWith .nbRun (2 ^ 22) 0 true true none).mayStep 0 0 true = false ∧ (unitWith .nbRun (2 ^ 22) 0 true true none).mayStep 0 0 false = false) ∧
      (lab.nbHead 0 = none ∧ tyInt 0 = true ∧ tyInt 3 = true ∧ tyInt 10 = false) := by
  decide +kernel

/-- Sixteen items of another bank that hold the buffers of stack 0. -/
def buffersFull : State :=
  let s := unitWith .nbCopy 2048 0 false false none
  let it : NbItem := { cmd := 99, row := 0, src := 2048, dst := 4096, suspends := 0, started := true, buffer := some [], entries := [] }
  { s with units := List.append s.units [(1, { NbUnit.idle with queue := List.replicate 16 it })] }

theorem witness_NearBankUnitsShareTheirBanks :
    (hasHead (unitWith .nbZero 0 0 false false none) 0 .nbZero false = true ∧ hasHead (unitWith .nbCopy (2 ^ 22) 0 false false none) 0 .nbCopy false = true ∧
        hasHead (unitWith .nbAxpy (2 ^ 22) 1 true false none) 0 .nbAxpy true = true ∧ hasHead (unitWith .nbAxpy (2 ^ 22) 0 false false none) 0 .nbAxpy false = true ∧
        hasHead (unitWith .nbAmo 0 0 false false none) 0 .nbAmo false = true) ∧
      (lab.quiesced = false ∧ (unitWith .nbZero 0 0 false false none).mayStep 0 0 true = true ∧
        (unitWith .nbZero 0 0 false true none).mayStep 0 0 true = false ∧ (unitWith .nbZero 0 0 false true none).heldBack 0 = true ∧
        (owing lab).mayStep 0 0 true = false ∧ (unitWith .nbRun 0 0 false false none).heldBack 0 = false) ∧
      (bankOf 0 = 0 ∧ subarrayOf 0 = 0 ∧ bankOf (2 ^ 22) = 0 ∧ subarrayOf (2 ^ 22) = 0 ∧ bankOf 2048 = 16) ∧
      (let s := unitWith .nbCopy (2 ^ 22) 0 false false none
       s.cmds.map (fun c => s.rowsClash c) = [false]) ∧
      (let s := unitWith .nbCopy 2048 0 true false (some [CWord.good 1])
       hasHead s 0 .nbCopy true = true ∧ s.cmds.map (fun c => s.rowsClash c) = [false]) ∧
      (let s := unitWith .nbCopy 2048 0 false false (some [])
       hasHead s 0 .nbCopy false = true ∧ s.mayStep 0 (bankOf 2048) true = true) ∧
      (let s := unitWith .nbCopy 2048 0 false true (some [])
       hasHead s 0 .nbCopy false = true ∧ s.mayStep 0 (bankOf 2048) true = false) ∧
      (hasHead (unitWith .nbAxpy 2048 0 false false none) 0 .nbAxpy false = true ∧
        hasHead (unitWith .nbRun 0 0 false false none) 0 .nbRun false = true ∧ hasHead (unitWith .nbRun 2048 0 false false none) 0 .nbRun false = true ∧
        ((unitWith .nbRun 0 0 true false none).nbUnit 0).store = [0x1000]) ∧
      ((tget lab.reqs (bankOf 2048)).getD [] = [] ∧ (unitWith .nbCopy 2048 0 false false none).buffersUsed (stackOf 2048) < 16 ∧
        hasHead buffersFull 0 .nbCopy false = true ∧ 16 ≤ buffersFull.buffersUsed (stackOf 2048)) ∧ lab.nbHead 0 = none ∧
      ((waited (unitWith .nbZero 0 0 false false none)).olderThan 0 lab.res.agecap = true ∧
        (unitWith .nbZero 0 0 false false none).olderThan 0 lab.res.agecap = false ∧
        ((unitWith .nbZero 0 0 false true none).nbUnit 0).suspended = true ∧ lab.olderThan 0 (lab.res.agecap / 2) = false) ∧
      (requests[nextReq requests (some 5) 0 lab.res.agecap]? = some { row := 5, since := 0, pn := 1, owed := false } ∧
        requests[nextReq requests (some 5) 100000000 lab.res.agecap]? = some { row := 3, since := 0, pn := 0, owed := false }) ∧
      (((waited lab).stack 0).since + lab.res.skint ≤ (waited lab).ptp ∧
        lab.res.mscwin ≤ (({ lab with hbm := [(0, { lab.stack 0 with misses := lab.res.mscwin })] } : State).stack 0).misses) := by
  decide +kernel

/-- An atomic of an entry of a near-bank command, in HBM4E. -/
theorem witness_NearBankUnitsShareTheirBanks_entry :
    (match (lab.atomicAt 0 0x310000 0 2 1 0).2 with
      | .ok _ => true
      | _ => false) = true := by
  decide +kernel

/-- A command of the core in focus of 64 bytes with one segment, from `src` to `dst`, and `lab` running it. -/
def copyOf (kind : EngKind) (dst src : Word) : EngCmd :=
  lab.newCmd kind 3 3 0 dst src 64 [{ idx := 0, src := src, dst := dst, len := 64, pos := 0, zero := false }]

def running (c : EngCmd) : State := { tagged [c] with mem := (mapped 0x310000 0).mem }

def gotOk {α : Type} (g : State × Got α) : Bool :=
  match g.2 with
  | .ok _ => true
  | _ => false

def gotPages {α : Type} (g : State × Got α) : Option Nat :=
  match g.2 with
  | .pages a => some a
  | _ => none

def gotViol {α : Type} (g : State × Got α) : Option Nat :=
  match g.2 with
  | .viol a => some a
  | _ => none

def doneCmd : EngCmd := { copyOf .cp 0 0 with segs := [] }

def rowSeg (i : Nat) (dst : Word) : Seg := { idx := i, src := 0, dst := dst, len := 2048, pos := 0, zero := false }

/-- A command near the bank with two rows, in banks 0 and 16. -/
def zeroRows : EngCmd := { copyOf .nbZero 0x800000 0 with cnt := 2, segs := [rowSeg 0 0x800000, rowSeg 1 0x800800] }

/-- Where the item of a segment goes: its bank, and how many items that bank's queue holds. -/
def itemBank (s : State) (c : EngCmd) (g : Seg) (r : List Seg) : Option (Nat × Nat) :=
  match s.nbItem c g r with
  | (t, .ok (it, _)) => if bankOf it.src = bankOf it.dst ∨ c.kind = .nbZero then some (bankOf it.dst, (t.nbUnit (bankOf it.dst)).queue.length) else none
  | _ => none

def fullBank (s : State) : State :=
  let it : NbItem := { cmd := 99, row := 0, src := 0, dst := 0, suspends := 0, started := true, buffer := none, entries := [] }
  { s with units := [(0, { NbUnit.idle with queue := List.replicate 8 it })] }

theorem witness_EngineCommandsMoveTheirSegments :
    (let c := copyOf .cp 0x400000 0x310000
     let s := running c
     s.cmd c.id = some c ∧ c.frozen = none ∧ s.quiesced = false ∧ c.segs[0]?.isSome = true ∧
      (∀ g ∈ c.segs, sameSpace c.src g.src = true ∧ sameSpace c.dst g.dst = true) ∧
      gotOk (s.runs (s.cmdWho c c.pos) needR 0x310000 64) = true ∧
      gotOk ((s.runs (s.cmdWho c c.pos) needR 0x310000 64).1.runs (s.cmdWho c 0) needW 0x400000 64) = true ∧ c.strike = [] ∧
      allWords c.dst c.src (c.cnt.toNat % 2 ^ 32) = true ∧ s.clash c = false ∧
      (match (s.runs (s.cmdWho c c.pos) needR 0x310000 64).2, (s.runs (s.cmdWho c 0) needW 0x400000 64).2 with
        | .ok a, .ok b => runsMeet a b
        | _, _ => true) = false) ∧
    (let c := copyOf .cp 0x400000 0x40000000
     gotPages ((running c).runs ((running c).cmdWho c c.pos) needR 0x40000000 64) = some 0x40000000 ∧ c.fixups.length < 32) ∧
    (let c := copyOf .mcast 0x400000 (2 ^ 40)
     gotViol ((running c).runs ((running c).cmdWho c c.pos) needR (2 ^ 40) 64) = some (2 ^ 40)) ∧
    (sameSpace 0x7FFFFFFFFFFFFFC0 0x8000000000000000 = false) ∧
    (let c : EngCmd := { copyOf .gat 0 0 with frozen := some 0 }
     (running c).cmd c.id = some c ∧ c.frozen ≠ none) ∧
    ((running waitingCmd).cmd waitingCmd.id = some waitingCmd ∧ waitingCmd.fixups[0]?.map (fun f => f.promote) = some (some 8) ∧
      eTier (lab.dirEntry 8) = 3 ∧
      (let s : State := { lab with dir := [(8, 0x4000000000000000)] }
       eTier (s.dirEntry 8) = 1 ∧ eMoving (s.dirEntry 8) = false)) ∧
    (let f : Fixup := { seg := { idx := 0, src := 0, dst := 0, len := 64, pos := 0, zero := false }, promote := none }
     let c : EngCmd := { doneCmd with fixups := [f] }
     (running c).cmd c.id = some c ∧ c.ready = false ∧ c.fixups[0]? = some f) ∧
    ((running doneCmd).cmd doneCmd.id = some doneCmd ∧ doneCmd.ready = true ∧ doneCmd.kind ≠ .kva ∧ doneCmd.flags = 0 ∧ doneCmd.coll = none ∧
      doneCmd.segs = [] ∧ doneCmd.fixups = [] ∧ doneCmd.items = 0) ∧
    (let c := zeroRows
     let s := running c
     let u := fullBank (running c)
     c.kind.nearBank = true ∧ (s.cmds.filter (fun e => e.kind.nearBank && e.sameStream c && e.frozen.isNone)).head? = some c ∧
      itemBank s c (rowSeg 0 0x800000) [rowSeg 1 0x800800] = some (0, 0) ∧ itemBank u c (rowSeg 0 0x800000) [rowSeg 1 0x800800] = some (0, 8) ∧
      itemBank u c (rowSeg 1 0x800800) [] = some (16, 0)) := by
  decide +kernel

/-! ### Leaving and coming back -/

def askOf (k : AskKind) : Ask := { kind := k, pos := 0, aStream := false, word := 0, addr := 0, data := 0, tcode := 0, passed := false, time := 0 }

/-- A second context that asks, and one whose leave is accepted already. -/
def asking (k : AskKind) : Ctx := { placedCtx 0 with asks := [askOf k] }

def gone (k : AskKind) : Ctx := { placedCtx 0 with leave := some (askOf k) }

/-- A ready context of a class in slot 2, whose launch of a whole die fits nowhere in a domain of one die. -/
def urgent (cls : Nat) : State :=
  { two (fun c => { readyCtx c with launch := c.launch.map (fun l => { l with record := { l.record with cls := cls, rect := 0x2D000 } }) }) with
    doms := [(0, { dom0 with dies := 1 })] }

/-- A transfer from slot 2 to slot 1, which is ready there, or runs. -/
def handingOver (y : Ctx) (f : Ctx → Ctx) : State :=
  let a : Ask := { askOf (.xfer 1 5) with data := 0x4001 }
  { two (fun c => f { c with asks := [a] }) with ctxs := [(1, y), (2, f { placedCtx 0 with asks := [a] })] }

/-- The outcome of taking the first request. -/
theorem witness_LeavesAreAcceptedAndFramesSaved_asks :
    (AskKind.yield.preempts = false ∧ (AskKind.preempt true).preempts = true ∧ (AskKind.fault causeIll).faults = true ∧
        AskKind.yield.faults = false) ∧
      (∀ k ∈ [AskKind.preempt false, .preempt true, .yield, .fault causeIll, .fault causePages, .late causeViol, .wait 0 false 8 0, .wait 0 false 0 0],
        tget (two (fun _ => asking k)).ctxs 2 = some (asking k) ∧ nextAsk (asking k).asks = some (askOf k, []) ∧ (asking k).leave = none ∧
          (asking k).parkCause = 0 ∧ (askOf k).kind = k ∧
          (let c : Ctx := { asking k with leave := some (askOf (.preempt false)) }
           tget (two (fun _ => c)).ctxs 2 = some c ∧ c.leave ≠ none)) ∧
      (waitSat (placedCtx 0).events 0 false 8 = false ∧ waitSat (placedCtx 0).events 0 false 0 = true) ∧
      ((handingOver (readyCtx (placedCtx 0)) id).xferStatus 2 0x4001 = 0 ∧ (handingOver (placedCtx 0) id).xferStatus 2 0x4001 = 2) ∧
      (causeIll ≠ causeData ∧ causeIll ≠ 0 ∧ causeIll ≠ causePages ∧ causeViol ≠ causeData ∧ causeViol ≠ causePages) := by
  decide +kernel

def bulkOf (c : Ctx) : Ctx := { c with launch := c.launch.map (fun l => { l with record := { l.record with cls := 2 } }) }

/-- A bulk context that runs beside a ready one, at a time; and one that has left with a request. -/
def bulkPair (ptp : Nat) : State := { lab with ctxs := [(1, bulkOf (placedCtx 0)), (2, bulkOf (readyCtx (placedCtx 0)))], instars := [(1, 1), (2, 1)], ptp := ptp }

def leftBy (a : Ask) (cause : Nat) (page : Option Nat) : State :=
  { labCtx (fun c => { c with leave := some a, parkCause := cause, pagesOf := page }) with dir := [(8, 0x4000000000000000)] }

/-- Whether the context of slot 1 may save its frames, with a core that has not ended. -/
def saves (s : State) : Bool :=
  (tget s.ctxs 1).any (fun c => decide (c.state = .running) && c.asks.isEmpty && c.launch.any (fun l => s.halted 1 l &&
    (s.launchCores 1 l).any (fun x => !x.2.gone)))

theorem witness_LeavesAreAcceptedAndFramesSaved :
    (lab.ctxs = [(1, placedCtx 0)] ∧ (placedCtx 0).asks = [] ∧ (placedCtx 0).state = .running ∧ (placedCtx 0).leave = none) ∧
      (({ lab with quiesced := true } : State).quiesced = true ∧ ({ lab with withdrawn := [0] } : State).withdrawn = [0] ∧
        rectCores placedRecord.rect.toNat = [0] ∧ physOf placedRecord.rect.toNat 0 0 = 0) ∧
      (∀ x ∈ (urgent 0).ctxs, x.1 = 2 → x.2.state = .ready ∧ x.2.nextLaunch.any (fun q => decide (q.2.cls = 0) &&
        (urgent 0).presses x.2 q.2 && ((urgent 0).bestVictims 0 q.2).contains 1) = true) ∧
      (∀ x ∈ (urgent 1).ctxs, x.1 = 2 → x.2.state = .ready ∧ x.2.nextLaunch.any (fun q => decide (q.2.cls = 1) &&
        (urgent 1).presses x.2 q.2 && ((urgent 1).bestVictims 0 q.2).contains 1) = true) ∧
      (let s := bulkPair dom0.sched.quantum
       tget s.ctxs 1 = some (bulkOf (placedCtx 0)) ∧ (bulkOf (placedCtx 0)).launch.any (fun l => decide (l.record.cls = 2) &&
          decide (l.since + dom0.sched.quantum ≤ s.ptp)) = true ∧
        (bulkOf (readyCtx (placedCtx 0))).state = .ready ∧ (bulkOf (readyCtx (placedCtx 0))).nextLaunch.any (fun q => decide (q.2.cls = 2)) = true) ∧
      (saves (leftBy (askOf (.preempt false)) 0 none) = true ∧ saves (leftBy (askOf .yield) 0 none) = true ∧
        saves (leftBy (askOf (.fault causeIll)) causeIll none) = true ∧ saves (leftBy (askOf (.fault causePages)) causePages none) = true ∧
        saves (leftBy { askOf (.fault causePages) with tcode := 1, data := 8 } causePages (some 8)) = true ∧
        (leftBy { askOf (.fault causePages) with tcode := 1, data := 8 } causePages (some 8)).isPresent 8 = true ∧
        (askOf (.wait 0 false 8 0)).kind.waits = true ∧ (askOf .yield).kind.waits = false) ∧
      (let a : Ask := { askOf (.xfer 1 5) with data := 0x4001 }
       (leftBy a 0 none).xferStatus 1 0x4001 ≠ 0 ∧ saves (leftBy a 0 none) = true) ∧
      (({ lab.core with mq := [{ goNow with started := true, cursor := 1, check := some ([], zeros) }] } : Core).granuleEnds true = true) := by
  decide +kernel

/-- A ready context in slot 2 that was never placed, for the one core (1, 0). -/
def fresh2 : Ctx :=
  { readyCtx (placedCtx 0) with
    launch := none
    nodes := [{ pa := 0x500000, va := 0x500000, space := .phys 0, record := { placedRecord with handle := 0x4002 }, ready := some 0, latch := false }] }

def waitsFor (kind : Nat) (cond succ0 : Nat) : Node :=
  { pa := 0x500000, va := 0x500000, space := .phys 0, ready := some 0, latch := false,
    record := { placedRecord with node := kind, ncase := 2, cond := BitVec.ofNat 64 cond, succ0 := BitVec.ofNat 32 succ0 } }

def aFence : Fence := { tier := 1, loc := 0x50, dom := 0, kvpn := 8, ends := 5 }

def swapped (st : CtxState) (inHbm : Bool) : Ctx :=
  { parkedCtx (placedCtx 0) with state := st, launch := (parkedCtx (placedCtx 0)).launch.map (fun l => { l with inHbm := inHbm }) }

theorem witness_ContextsArePlacedAndWoken_place :
    (tget (two (fun _ => fresh2)).ctxs 2 = some fresh2 ∧ fresh2.nextLaunch = some (0x500000, { placedRecord with handle := 0x4002 }) ∧
      fresh2.state = .ready ∧ lab.ready = true ∧ lab.quiesced = false ∧ lab.pNow ≠ 3 ∧ fresh2.launch = none) ∧
      ((two (fun _ => fresh2)).usableAt fresh2.tdom 0 1 = true ∧ (1 ∈ origins 0) ∧ (two (fun _ => fresh2)).freeAt 0 0 1 = true ∧
        (two (fun _ => fresh2)).banksFree 2 0 1 = true ∧ (two (fun _ => fresh2)).outranked 2 fresh2 placedRecord = false ∧
        (two (fun _ => fresh2)).reserved 2 fresh2 placedRecord 1 = false ∧ (two (fun _ => fresh2)).freeAt 0 0 0 = false ∧
        rectCores placedRecord.rect.toNat = [0]) ∧
      (let s : State := { two (fun _ => fresh2) with doms := [(0, { dom0 with dies := 1 })] }
       (origins 0x36000).all (fun z => !s.usableAt 0 0x36000 z) = true) ∧ (parkedCtx (placedCtx 0)).state ≠ .ready ∧
      ((two (fun _ => fresh2)).awaited 2 = false ∧
        ({ lab with ctxs := [(1, { placedCtx 0 with leave := some (askOf (.xfer 2 5)) }), (2, fresh2)] } : State).awaited 2 = true) ∧
      (let t : Store := { lab.own with tags := [(3, { pend := 0, done := true, err := true })] }
       tableFrom 0 t.tags = true ∧ (t.tag 3).pend = 0 ∧ (t.tag 3).err = true) := by
  decide +kernel

theorem witness_ContextsArePlacedAndWoken :
    ((swapped .parked false).state = .parked ∧ (swapped .ready false).state = .ready ∧ (swapped .swapped true).launch.any (fun l => l.inHbm) = true ∧
      (swapped .swapped true).launch.any (fun l => (two (fun _ => swapped .swapped true)).roomFor l false 0) = true ∧
      (swapped .swapped true).launch.any (fun l => (two (fun _ => swapped .swapped true)).roomFor l false (2 ^ 30)) = false) ∧
      (let s : State := { two (fun _ => swapped .parked false) with bound := [(storeKey 2 0, 1)] }
       tget s.bound (storeKey 2 0) ≠ none ∧ (∀ h ∈ s.homes, storeKey h.2.slot h.2.pos ≠ storeKey 2 0) ∧ (swapped .parked false).state ≠ .running) ∧
      ((placedCtx 0).launch.any (fun l => inRect l.record.rect.toNat 0) = true) ∧
      ((swapped .parked false).parkCause = 0 ∧ (swapped .parked false).evWait = none ∧ (swapped .parked false).leave = none ∧
        (swapped .parked false).nextLaunch.isSome = true ∧ ({ swapped .parked false with parkCause := 4 } : Ctx).parkCause ≠ 0) ∧
      (({ placedCtx 0 with timer := some 0 } : Ctx).timer = some 0 ∧ 0 ≤ lab.ptp ∧ lab.ptp < 1 ∧ (placedCtx 0).timer = none) ∧
      (∀ kind ∈ [1, 2, 3],
        let s := labCtx (fun c => { c with nodes := [waitsFor kind 0x310000 0x620000] })
        (s.ctxs.findSome? (fun x => (x.2.nodes.find? (fun n => decide (n.pa = 0x500000) && n.ready.isSome && decide (n.record.node ≠ 0))).map
          (fun n => (x.1, n.record.node)))) = some (1, kind) ∧
        (match (s.readWords (.phys 0) 0x310000 1).2 with
          | .ok [v] => decide (v = 0)
          | _ => false) = true) ∧
      (lab.coreFenced 0 = false ∧ ({ lab with fences := [{ aFence with tier := 0, loc := 0x2000 }] } : State).coreFenced 0 = true) ∧
      (match (poolDown.readWords (.virt 0 0) (2 ^ 40) 1).2 with
        | .far a => decide (a = 2 ^ 50)
        | _ => false) = true ∧
      (match (({ lab with mem := { lab.mem with bad := [(0x62000, 0xFF)] } } : State).readWords (.phys 0) 0x310000 1).2 with
        | .data a => decide (a = 0x310000)
        | _ => false) = true ∧
      (match (((holding 8 5).readWords (.phys 0) 0x310000 1).2) with
        | .ok [v] => decide (v = 5)
        | _ => false) = true := by
  decide +kernel

/-! ### Residency -/

/-- Page 8 of a context that no longer exists, at a tier and location; frames of both tiers that are free. -/
def kvAt (tier loc : Nat) (moving : Bool) : State :=
  { lab with
    doms := [(0, { dom0 with kvFrames := [0x50, 0x51, 2 ^ 34, 2 ^ 34 + 1] })]
    ports := { lab.ports with segs := [{ dom := 0, base := 2 ^ 50, size := 2 ^ 30, target := 0 }] }
    dir := [(8, BitVec.ofNat 64 (tier * 2 ^ 62 + (if moving then 2 ^ 61 else 0) + 7 * 2 ^ 40 + loc))] }

def wanting (s : State) : State := { s with cmds := [waitingCmd] }

def aMove : Move := { kvpn := 8, old := 0x4000070000000050, entry := 0x8000070400000000, tier := 2, loc := 2 ^ 34, t0 := 0, demotion := true }

def boundStore : State :=
  { kvAt 1 0x50 false with
    bound := [(storeKey 1 0, 0)]
    ctxs := [(1, { placedCtx 0 with asid := 7 })]
    stores := [(storeKey 1 0, { lab.own with banks := lab.own.banks.map (fun b => { b with mode := .scratch, page := none }) })] }

theorem witness_KvPagesMoveByTheirDirectory_moves :
    ((kvAt 1 0x50 false).pageDom ((kvAt 1 0x50 false).dirEntry 8) = some 0 ∧ (kvAt 1 0x50 false).mayDemote 8 = true ∧
      (kvAt 1 0x50 false).faultWaits 0 = false ∧ (kvAt 1 0x50 false).paced = [] ∧ (kvAt 1 0x50 false).dir.length = 1 ∧
      least ((kvAt 1 0x50 false).freeFrames 0 framePool) = some (2 ^ 34) ∧ (kvAt 1 0x50 false).moves = []) ∧
      (let s := kvAt 1 0x50 false
       s.fenced 2 (2 ^ 34) = false ∧ s.demotable 0 8 = true ∧ s.due 0 (s.dirEntry 8) = true ∧ s.moves = [] ∧
        ({ s with fences := [{ aFence with tier := 2, loc := 2 ^ 34 }] } : State).fenced 2 (2 ^ 34) = true) ∧
      ((kvAt 1 0x50 true).mayDemote 8 = false ∧ (wanting (kvAt 2 (2 ^ 34) false)).faultWaits 0 = true) ∧
      (let l : DirLease := { die := 0, kvpn := 8, entry := 0, ends := 5, held := true }
       ∃ x ∈ [l], x.die = 0 ∧ x.kvpn = 8 ∧ x.ends ≤ 5) ∧
      ((kvAt 2 (2 ^ 34) false).pageDom ((kvAt 2 (2 ^ 34) false).dirEntry 8) = some 0 ∧ (kvAt 2 (2 ^ 34) false).pageDistance 0 7 = none ∧
        (wanting (kvAt 2 (2 ^ 34) false)).faultNames 8 = true ∧ (kvAt 2 (2 ^ 34) false).faultNames 8 = false ∧
        least ((kvAt 2 (2 ^ 34) false).freeFrames 0 frameHbm) = some 0x50 ∧ (kvAt 2 (2 ^ 34) false).fenced 1 0x50 = false) ∧
      (({ lab with moves := [aMove] } : State).moves.find? (fun m => decide (m.kvpn = 8)) = some aMove) ∧
      (({ lab with fences := [aFence] } : State).fences[0]? = some aFence ∧ lab.cycle < aFence.ends ∧
        aFence.ends ≤ ({ lab with cycle := 5 } : State).cycle) := by
  decide +kernel

theorem witness_KvPagesMoveByTheirDirectory_requests :
    ((kvAt 1 0x50 false).pageDom ((kvAt 1 0x50 false).dirEntry 8) ≠ some 1 ∧ (2 : BitVec 2) ≠ 3 ∧ eMoving ((kvAt 1 0x50 true).dirEntry 8) = true ∧
      (kvAt 1 0x50 true).pageDom ((kvAt 1 0x50 true).dirEntry 8) = some 0 ∧ eMoving ((kvAt 1 0x50 false).dirEntry 8) = false) ∧
      (kvAt 1 0x50 false).bound = [] ∧
      (let s := kvAt 1 0x50 false
       (s.moves.length < 16 ∧ s.faultWaits (8 % 4) = false ∧ eTier (s.dirEntry 8) = 1 ∧ eLoc (s.dirEntry 8) = 0x50) ∧
        16 ≤ ({ s with moves := List.replicate 16 aMove } : State).moves.length) ∧
      (boundStore.bound = [(storeKey 1 0, locCore 0x2000)] ∧ tget boundStore.ctxs (storeKey 1 0 / 4096) = some { placedCtx 0 with asid := 7 } ∧
        eAsid (boundStore.dirEntry 8) = 7 ∧ locBank 0x2000 % 2 = 0 ∧ 0x2000 < 2 ^ 16 ∧ eTier (boundStore.dirEntry 8) = 1 ∧
        ((boundStore.storeAt (storeKey 1 0)).bank (locBank 0x2000)).page = none ∧
        ((boundStore.storeAt (storeKey 1 0)).bank (locBank 0x2000 + 1)).mode = .scratch) := by
  decide +kernel

/-! ### The outside world -/

/-- A frame of 64 bytes that matches every entry. -/
def frame : Frame :=
  { fcsOk := true, vid := none, etype := 0x88B5, udpPort := none, badChecksum := false, sec := 0, nsec := 0, bytes := List.replicate 64 1 }

/-- A flow entry for FIFO bank 14 of the core (0, 0) of the context with a handle: valid, at most 64 bytes; and one for a ring of 64 KiB. -/
def toWindow (handle : Nat) : BitVec 256 := BitVec.ofNat 256 (2 ^ 198 + 14 * 2 ^ 192 + handle * 2 ^ 160 + 64 * 2 ^ 144 + 2 ^ 128)

def toRing (handle : Nat) : BitVec 256 := BitVec.ofNat 256 (0x50 * 2 ^ 220 + 16 * 2 ^ 215 + handle * 2 ^ 160 + 64 * 2 ^ 144 + 2 ^ 128)

def receiving (e : BitVec 256) : State :=
  let s : State := { lab with flows := [(0, e)], bound := [(storeKey 1 0, 0)] }
  s.setOwn (s.own.setBank 14 { s.own.bank 14 with mode := .fifo, use := 2 })

theorem witness_TheOutsideWorldIsServed_frames :
    (({ frame with fcsOk := false } : Frame).fcsOk = false ∧ matched lab 0 frame = none ∧
      ({ frame with udpPort := some lab.ports.transport } : Frame).udpPort = some lab.ports.transport) ∧
      (matched (receiving (toWindow 0x4001)) 0 frame = some 0 ∧ lab.slotOf (fwCtx (toWindow 0x8001)) = none ∧
        lab.slotOf (fwCtx (toWindow 0x4001)) = some 1 ∧ fwKind (toWindow 0x4001) = true ∧ fwKind (toRing 0x4001) = false ∧
        matched (receiving (toRing 0x4001)) 0 frame = some 0) ∧
      (tget (receiving (toWindow 0x4001)).bound (storeKey 1 (fwPos (toWindow 0x4001))) ≠ none ∧
        ((receiving (toWindow 0x4001)).own.bank (fwBank (toWindow 0x4001))).mode = .fifo ∧
        ((receiving (toWindow 0x4001)).own.bank 14).use = 2 ∧ (landing (receiving (toWindow 0x4001)) 0 0 frame (toWindow 0x4001)).length ≤ 4096 ∧
        (lab.own.bank 14).mode ≠ .fifo) := by
  decide +kernel

/-- Monitors that take an operand and that count an interval; a record behind a pool link that is down. -/
theorem witness_TheOutsideWorldIsServed_more :
    (lab.dom 0 = some dom0 ∧ 5 ≤ 10 ∧ dom0.tally = [] ∧ lab.ready = true ∧ State.reset.ready = false ∧ lab.links = []) ∧
      (let c : State := { lab with core := { lab.core with xhold := .access { global8 (.load 3) with pa := 2 ^ 50 } }, down := [(poolPort (2 ^ 50), 0)], ptp := 1000000 }
       c.linkDead (poolPort (2 ^ 50)) = true ∧ placeOf (2 ^ 50) = .pool) ∧
      (lab.core.xhold.behind 0 = false ∧ lab.core.ahold.behind 0 = false) ∧
      (let s : State := { poolDown with mem := (poolDown.mem.setWord 0x310000 (CWord.good 0x4001)).setWord 0x310008 (CWord.good (BitVec.ofNat 64 (2 ^ 48))) }
       s.inDomHbm 0 0x310000 = true ∧
        (match (s.armRecord (.host 0) (.phys 0) 0x310000).2 with
          | .far a => decide (a = 2 ^ 50)
          | _ => false) = true) := by
  decide +kernel

theorem witness_TheOutsideWorldIsServed_host :
    (lab.locked = false ∧ ({ lab with locked := true } : State).locked = true) ∧
      (lab.hostPlace (2 ^ 40) = .nothing ∧ lab.hostPlace 0x40 = .mgmt 0x40 ∧ lab.hostPlace (2 ^ 39 + 0x310000) = .memory 0x310000 ∧
        lab.downPort 0x310000 = none ∧ (lab.physStore 0x310000 [1]).isOk = true ∧ (lab.physRead 0x310000 8).isOk = true ∧
        (({ lab with mem := { lab.mem with bad := [(0x62000, 0xFF)] } } : State).physRead 0x310000 8).isOk = false) ∧
      (let s : State := { poolDown with apbase := 2 ^ 14, ptp := 1000000 }
       s.hostPlace (2 ^ 39) = .memory (2 ^ 50) ∧ s.downPort (2 ^ 50) = some (poolPort (2 ^ 50)) ∧ s.linkDead (poolPort (2 ^ 50)) = true ∧
        poolDown.linkDead (poolPort (2 ^ 50)) = false ∧ tget lab.down 0 = none ∧ tget poolDown.down (poolPort (2 ^ 50)) ≠ none) ∧
      ((0x310000 : Word).extractLsb' 52 12 = 0 ∧ (0x310000 : Word).extractLsb' 0 7 = 0 ∧ (0x40 : Word).extractLsb' 0 7 ≠ 0 ∧ dom0.fifo = [] ∧
        lab.dom 0 = some dom0) ∧
      (let u : State := { lab with doms := [(0, { dom0 with fifo := [] })] }
       u.inDomHbm 0 0x310000 = true ∧ u.inDomHbm 0 (2 ^ 50) = false ∧ (u.armRecord (.host 0) (.phys 0) 0x310000).2 = .ok 1 ∧
        ((holding 8 0x300004001).armRecord (.host 0) (.phys 0) 0x310000).2 = .ok 0) := by
  decide +kernel

theorem witness_TheOutsideWorldIsServed :
    (let e := toWindow 0x4001 &&& flowMask
     e ≠ 0 ∧ fwV e = true ∧ 64 ≤ fwMax e ∧ fwMax e ≤ 9216 ∧ fwKind e = true ∧ lab.flows = [] ∧ fwV (0 : BitVec 256) = false ∧ (0 : BitVec 256) &&& flowMask = 0) ∧
      (let e := toRing 0x4001 &&& flowMask
       fwV e = true ∧ 16 ≤ fwLog e ∧ fwLog e ≤ 30 ∧ placeOf (fwAddr e) = .hbm ∧ placeOf (fwAddr e + 2 ^ fwLog e - 1) = .hbm) ∧
      (let e := BitVec.ofNat 256 (2 ^ 198 + 63 * 2 ^ 144 + 2 ^ 128)
       fwV (e &&& flowMask) = true ∧ fwMax (e &&& flowMask) < 64) ∧
      lab.ready = true ∧
      ({ lab with core := { lab.core with xhold := .access { global8 (.load 3) with pa := 2 ^ 50 } } } : State).core.xhold.behind
        (poolPort (2 ^ 50)) = true ∧
      (lab.hot = false ∧ ({ lab with hot := true, pNow := 2, pAsked := 1 } : State).hot = true ∧ lab.pNow ≠ 3 ∧
        (1 : BitVec 2) < 2) ∧
      lab.dom 0 = some dom0 := by
  decide +kernel

/-! ### Other packages, collectives and recovery -/

/-- An export window of 4 KiB for the sources 0 to 3. -/
def exporting : State :=
  { lab with ports := { lab.ports with wins := [{ dom := 0, base := 0x310000, size := 4096, r := true, w := true, srcLo := 0, srcHi := 3 }] } }

def amoReq : RamoReq := { id := 5, retry := false, op := 0, wide := false, addr := 0x310000, b := 1 }

def live : Dedup := { src := 2, id := 5, wide := false, old := 9, ends := 64000 }

/-- A member of a collective of two across devices, attempt 1. -/
def part2 : CollPart :=
  { op := 0, ty := 2, reach := true, count := 4, group := 9, root := 0, attempt := 1, size := 2, rank := 0, got := [], since := 0, sent := true,
    closed := false, aborted := false }

def collCmd : EngCmd := { copyOf .coll 0x310000 0x400000 with segs := [], coll := some part2 }

theorem witness_OtherPackagesAndRecoveryAreServed_requests :
    (lab.quiesced = false ∧ ({ lab with quiesced := true } : State).quiesced = true ∧ exporting.exported 2 0x310000 8 true false = true ∧
      exporting.exported 2 0x310000 8 false true = true ∧ exporting.exported 4 0x310000 8 true false = false ∧
      (exporting.physStore 0x310000 [1]).isOk = true) ∧
      (recorded ({ lab with dedup := [live] } : State) 2 5 = some live ∧ recorded lab 2 5 = none ∧ amoReq.retry = false ∧ lab.dedup.length < 65536 ∧
        exporting.exported 2 amoReq.addr 8 true true = true ∧
        (match (exporting.atomicAt 4 0x310000 0 (aAmoType 0 0) 1 0).2 with
          | .ok _ => true
          | _ => false) = true) ∧
      (sent.ramo 7 = some sentRamo ∧ sentRamo.busy = false ∧ sentRamo.last + 8000 ≤ ({ sent with ptp := 8000 } : State).ptp ∧ sentRamo.sends < 8 ∧
        sent.core.ctx = some sentRamo.slot ∧ sent.core.pos = sentRamo.pos) ∧
      ((({ lab with dedup := [live] } : State).dedup[0]? = some live) ∧ live.ends ≤ ({ lab with ptp := 64000 } : State).ptp ∧ lab.ptp < live.ends) ∧
      ((running collCmd).cmd collCmd.id = some collCmd ∧ collCmd.coll = some part2 ∧ part2.attempt ≠ 2 ∧ lab.highest 1 9 < 1 ∧ collCmd.err = false ∧
        collCmd.frozen = none ∧ part2.closed = false ∧ 1 < part2.size ∧ part2.reach = true ∧ 1 ≠ part2.rank ∧
        (List.replicate ((part2.bytes + 7) / 8) (0 : Word)).length = (part2.bytes + 7) / 8 ∧ part2.sent = true ∧
        lab.ptp < part2.since + 10000000 ∧ part2.since + 10000000 ≤ ({ lab with ptp := 10000000 } : State).ptp) := by
  decide +kernel

/-- A word of memory with one bit flipped, and its tag. -/
def flipped : State := { lab with mem := { lab.mem with bad := [(0x62000, 1)] } }

/-- A record of a type in its layout, with a body of zeros of a length, signed by the vendor or by an owner of zero keys. -/
def record (n len : Nat) (b : RecordBody) : FlashRecord :=
  let head := leBytes 2 n ++ leBytes 2 1 ++ leBytes 4 1 ++ leBytes 4 len ++ leBytes 4 (if n = 1 then 0 else 1) ++ leBytes 16 0
  { bytes := head ++ List.replicate len 0
    edBy := some (if n = 1 then .vendor else .owner (List.replicate edKeyBytes 0))
    mlBy := some (if n = 1 then .vendor else .owner (List.replicate mlKeyBytes 0)), body := b }

def records : List FlashRecord :=
  [record 1 (edKeyBytes + mlKeyBytes) .ownerKeys, record 2 0 (.identity 1 [{ dies := 15, kvfree := 0x400000, asidtab := 0x80000 }]),
    record 5 0 (.residency lab.res)]

def flashed : State := { lab with flash := records }

def boots : Boot :=
  { fwOk := true, fwVersion := lab.flashFw, fwDigest := 0, pcieOk := true, dieOk := true, linksOk := true, kvFrames := [], supers := [] }

def imaged : State := { two parkedCtx with images := [(2 ^ 50, (two parkedCtx).image)], ctxs := [] }

theorem witness_OtherPackagesAndRecoveryAreServed :
    ((lab.scrubWord 0x310000).syn = 0 ∧ scrubs 0x310000 = true ∧ (flipped.scrubWord 0x310000).syn ≠ 0 ∧
      (syndromeFix (flipped.scrubWord 0x310000).syn).isSome = true ∧ lab.directed = [] ∧ tget lab.scrubTags 0x62000 = none ∧
      (flipped.scrubWord 0x310000).use.isSome = true ∧ ({ flipped with mem := lab.mem } : State).scrubWord 0x310000 ≠ flipped.scrubWord 0x310000) ∧
      (lab.core.issuing true = true ∧ lab.core.issuing false = true ∧ State.reset.core.issuing true = false ∧
        (match lab.fetchX with
          | (_, some _) => true
          | _ => false) = true) ∧
      ((atWork zeros addDone []).core.atWork .span = some (addDone.word, addDone.addr) ∧ (running doneCmd).cmd doneCmd.id = some doneCmd ∧
        doneCmd.kind.nearBank = false ∧ doneCmd.kind ≠ .coll ∧ doneCmd.frozen = none ∧ doneCmd.err = false) ∧
      (lab.poolSeg (2 ^ 50) = none ∧ poolDown.poolSeg (2 ^ 50) ≠ none ∧ lab.quiet = false ∧
        ({ poolDown with ctxs := [] } : State).quiet = true ∧ tget lab.images 0 = none ∧
        (tget imaged.images (2 ^ 50)).any (fun i => decide (i.layout = imaged.layout)) = true ∧ imaged.quiet = true ∧
        (tget imaged.images (2 ^ 50)).any (fun i => decide (i.layout = ({ imaged with doms := [] } : State).layout)) = false) := by
  decide +kernel

/-- A collective of one core whose only contribution is there, or is not; and one whose destination is not mapped. -/
def lone (dst : Word) (got : Table (List CWord)) : EngCmd :=
  { copyOf .coll dst 0x400000 with
    segs := [], coll := some { part2 with reach := false, group := 0, size := 1, rank := 0, sent := false, got := got } }

/-- Two words at the streams' places that the checker compares. -/
def itemsAt : State := { lab with mem := (lab.mem.setBytes 0x10000 [0x3B]).setBytes 0x20000 [0x30] }

theorem witness_OtherPackagesAndRecoveryAreServed_parts :
    (let c := lone 0x310000 [(0, [CWord.good 1, CWord.good 2])]
     let s := running c
     s.cmd c.id = some c ∧ c.coll.any (fun p => s.collAgreed c p && (s.collBlocked (s.collMembers c p)).isNone && !p.sent) = true) ∧
      (let c := lone 0x310000 []
       c.coll.any (fun p => (running c).collAgreed c p) = false) ∧
      (itemsAt.core.issuing true = true ∧ itemsAt.core.issuing false = true ∧ (itemsAt.item true).isSome = true ∧ (itemsAt.item false).isSome = true ∧
        lab.item false = none ∧ itemsAt.core.doubts true = false ∧ (itemsAt.core.doubt true).doubts true = true) ∧
      ((atWork zeros addDone []).core.dog .span = false ∧ ((atWork zeros addDone []).core.setDog .span true).dog .span = true) ∧
      (exporting.ready = true ∧ State.reset.ready = false ∧ exporting.exported 2 0x310000 (8 * 1) false true = true ∧ 0x310000 % 8 = 0 ∧
        exporting.exported 2 0x310000 8 true true = true ∧ exporting.exported 5 0x310000 8 true true = false) ∧
      (Core.complete lab.spillMem 1 lab.core).isOk = true ∧ (sentRamo.busy = false ∧ ({ sentRamo with busy := true } : RamoOut).busy = true) := by
  decide +kernel

theorem witness_OtherPackagesAndRecoveryAreServed_boot :
    (({ boots with fwOk := false } : Boot).fwOk = false ∧ boots.fwOk = true ∧ lab.flashFw ≤ boots.fwVersion) ∧
      (lab.flash = [] ∧ ∀ n ∈ [1, 2, 5], flashed.taken.any (fun r => decide (r.type = n)) = true) := by
  decide +kernel

/-- The records in use, with the counters and the settings that they give. -/
def signed : State := { lab with flash := records, inUse := records, counters := [(1, 1), (2, 1), (5, 1)], pkg := 1 }

theorem witness_OnlyPowerOnChangesTheSettings :
    signed.settings.Signed ∧ signed.settings.ready = true ∧ (∃ t, step { signed with agenda := [.nbu 0] } = .next t) ∧
      ∃ t, step { signed with agenda := [.at 0 (.powerOnReset boots)] } = .next t := by
  refine ⟨⟨by decide +kernel, by decide +kernel, fun _ => ?_, fun _ => by decide +kernel, fun _ => by decide +kernel, fun _ => ?_,
    fun _ => .inl rfl⟩, rfl, ⟨_, rfl⟩, ?_⟩
  · exact ⟨record 2 0 (.identity 1 [{ dies := 15, kvfree := 0x400000, asidtab := 0x80000 }]), by decide +kernel, _, rfl, by decide +kernel⟩
  · exact ⟨record 5 0 (.residency lab.res), by decide +kernel, rfl⟩
  · exact ⟨signed.powerOn boots |>.finish (.at 0 (.powerOnReset boots)), by rfl⟩



/-! ### Boundary values -/

/-- 01 R16: a line at an unaligned store-space base lies in one bank. 12 R301: the scheduler window of the own domain is a register of the
device that its supervisor reaches; that of another domain is not. -/
theorem test_lines_and_windows :
    lab.devOk (2 ^ 39 + 0x10000) = true ∧ lab.devOk (2 ^ 39) = false ∧ State.reset.safe = true ∧ lab.canonical = true ∧
      lab.lineBad 0x7FE8 8 = some 0x7FE8 ∧ lab.lineBad 0x7FB8 8 = none ∧ lab.lineBad 0x7FB8 9 = some 0x7FF8 := by
  decide +kernel

/-- 10 R262: a bulk launch that has been first for a whole QUANTUM has a rectangle kept for it; another bulk launch is not placed over it. -/
theorem test_bulk_reservation :
    let bulk (c : Ctx) : Ctx := { c with launch := c.launch.map (fun l => { l with record := { l.record with cls := 2, weight := 1, rect := 0x2D000 } }) }
    let s : State := { two (fun c => bulk (readyCtx c)) with ptp := 5 }
    let t := s.watchBulk
    let u := ({ t with ptp := 5 + dom0.sched.quantum } : State).watchBulk
    t.doms.map (fun d => d.2.bulkFirst) = [some { slot := 2, since := 5, origin := none }] ∧
      u.doms.map (fun d => d.2.bulkFirst) = [some { slot := 2, since := 5, origin := some 32 }] ∧
      u.reserved 3 fresh2 { placedRecord with cls := 2 } 32 = true ∧ u.reserved 3 fresh2 { placedRecord with cls := 2 } 31 = false ∧
      u.reserved 2 fresh2 { placedRecord with cls := 2 } 32 = false ∧ u.reserved 3 fresh2 { placedRecord with cls := 1 } 32 = false := by
  decide +kernel

end Sys2Proof.Tests
end

section
/-! Store space (01 R16): the fields of a store-space address and the access conditions of 12 R306. -/

namespace Sys2Proof.Proofs

open Sys2Proof.Machine

theorem bits_eq_div_mod (v hi lo : Nat) : bits v hi lo = v / 2 ^ lo % 2 ^ (hi + 1 - lo) := by
  rw [bits, Nat.shiftRight_eq_div_pow]

theorem storeDecode_of_lt {a : Nat} (pos : Nat) (ha : a < 2 ^ 25) :
    storeDecode pos a =
      some ((pos / 64 / 8 * 8 + bits a 21 19) * 64 + (pos % 64 / 8 * 8 + bits a 24 22), bits a 18 15, a % 2 ^ 15) :=
  if_pos (Nat.div_eq_of_lt ha)

theorem storeDecode_of_le {a : Nat} (pos : Nat) (ha : 2 ^ 25 ≤ a) : storeDecode pos a = none :=
  if_neg (Nat.div_pos ha (by decide)).ne'

/-- The layout of a store-space address: column, row, bank and offset, from the high bits down. -/
theorem storeDecode_fields (pos : Nat) {row col bank off : Nat} (hrow : row < 8) (hcol : col < 8) (hbank : bank < 16)
    (hoff : off < 2 ^ 15) :
    storeDecode pos (col * 2 ^ 22 + row * 2 ^ 19 + bank * 2 ^ 15 + off) =
      some ((pos / 64 / 8 * 8 + row) * 64 + (pos % 64 / 8 * 8 + col), bank, off) := by
  have hcolumn : bits (col * 2 ^ 22 + row * 2 ^ 19 + bank * 2 ^ 15 + off) 24 22 = col := by rw [bits_eq_div_mod]; omega
  have hrowBits : bits (col * 2 ^ 22 + row * 2 ^ 19 + bank * 2 ^ 15 + off) 21 19 = row := by rw [bits_eq_div_mod]; omega
  have hbankBits : bits (col * 2 ^ 22 + row * 2 ^ 19 + bank * 2 ^ 15 + off) 18 15 = bank := by rw [bits_eq_div_mod]; omega
  have hoffset : (col * 2 ^ 22 + row * 2 ^ 19 + bank * 2 ^ 15 + off) % 2 ^ 15 = off := by omega
  rw [storeDecode_of_lt pos (by omega), hcolumn, hrowBits, hbankBits, hoffset]

/-- An access to an address that names a bank succeeds at that bank alone, under the conditions of 12 R306. -/
theorem storeTarget_of_storeDecode {s : State} {w : Who} {a pos bank off : Nat} (n : Nat)
    (hdecode : storeDecode w.pos a = some (pos, bank, off)) (target : Nat × Nat × Nat) :
    s.storeTarget w a n = some target ↔
      target = (storeKey w.slot pos, bank, off) ∧
        (w.rect.or (s.rectOfCtx w.slot)).any (fun r => inRect r pos) = true ∧ off + n ≤ 0x8000 ∧
        (((s.storeAt (storeKey w.slot pos)).bank bank).mode = .scratch ∨
          ((s.storeAt (storeKey w.slot pos)).bank bank).mode = .skew) ∧
        ((s.storeAt (storeKey w.slot pos)).bank bank).page = none ∧
        inSpill (s.spillbaseOf w.slot pos) bank off n = false := by
  simp only [State.storeTarget, hdecode, Option.ite_none_right_eq_some, Option.some.injEq, Bool.and_eq_true, Bool.or_eq_true,
    decide_eq_true_eq, Option.isNone_iff_eq_none, Bool.not_eq_true', and_assoc,
    and_comm (a := target = _), eq_comm (b := target)]

theorem storeTarget_of_storeDecode_none {s : State} {w : Who} {a : Nat} (n : Nat) (hdecode : storeDecode w.pos a = none) :
    s.storeTarget w a n = none := by
  simp only [State.storeTarget, hdecode]

/-- Settles O20: the fields of an address are read back by division; the access conditions are those of `State.storeTarget`
at the bank that the address names. -/
theorem storeAddressesNameBankAndOffset : Obligations.StoreAddressesNameBankAndOffset := by
  refine ⟨fun pos _ _ _ _ => storeDecode_fields pos, fun pos _ => storeDecode_of_le pos, fun s w a n key k off => ?_⟩
  cases hdecode : storeDecode w.pos a with
  | none => simp [storeTarget_of_storeDecode_none n hdecode]
  | some named =>
    obtain ⟨pos, bank, off'⟩ := named
    rw [storeTarget_of_storeDecode n hdecode]
    constructor
    · rintro ⟨⟨⟩, hallowed⟩
      exact ⟨pos, rfl, rfl, hallowed⟩
    · rintro ⟨_, ⟨⟩, rfl, hallowed⟩
      exact ⟨rfl, hallowed⟩

end Sys2Proof.Proofs
end

section
/-! Every instruction of every stream reads back from the words that encode it: the lemmas of the single instructions, together. -/

namespace Sys2Proof.Laws.ReadBack

theorem all (i : Instr) : Statement i :=
  match i with
  | .udf r => udf r | .add r => add r | .sub r => sub r | .and r => and r | .or r => or r | .xor r => xor r
  | .andn r => andn r | .sll r => sll r | .srl r => srl r | .sra r => sra r | .rol r => rol r | .min r => min r
  | .max r => max r | .minu r => minu r | .maxu r => maxu r | .clz r => clz r | .ctz r => ctz r | .popc r => popc r
  | .sext r => sext r | .zext r => zext r | .mov r => mov r | .mul r => mul r | .mulh r => mulh r
  | .mulhu r => mulhu r | .mulhsu r => mulhsu r | .mad r => mad r | .div r => div r | .divu r => divu r
  | .rem r => rem r | .remu r => remu r | .ceq r => ceq r | .cne r => cne r | .clt r => clt r | .cle r => cle r
  | .cltu r => cltu r | .cleu r => cleu r | .pand r => pand r | .por r => por r | .pxor r => pxor r
  | .pandn r => pandn r | .pnand r => pnand r | .pnor r => pnor r | .pget r => pget r | .pput r => pput r
  | .sel r => sel r | .addi r => addi r | .andi r => andi r | .ori r => ori r | .xori r => xori r | .slli r => slli r
  | .srli r => srli r | .srai r => srai r | .roli r => roli r | .mini r => mini r | .maxi r => maxi r
  | .muli r => muli r | .ceqi r => ceqi r | .cnei r => cnei r | .clti r => clti r | .clei r => clei r
  | .cltui r => cltui r | .cleui r => cleui r | .movi r => movi r | .movu r => movu r | .movh r => movh r
  | .fadd r => fadd r | .fsub r => fsub r | .fmul r => fmul r | .fdiv r => fdiv r | .fsqrt r => fsqrt r
  | .fmin r => fmin r | .fmax r => fmax r | .fma r => fma r | .fms r => fms r | .fnma r => fnma r | .fabs r => fabs r
  | .fneg r => fneg r | .fsgnj r => fsgnj r | .feq r => feq r | .flt r => flt r | .fle r => fle r
  | .fun r => ReadBack.fun r | .fclass r => fclass r | .fcvt r => fcvt r | .fcvti r => fcvti r | .icvtf r => icvtf r
  | .br r => br r | .call r => call r | .jr r => jr r | .callr r => callr r | .ret r => ret r | .loop r => loop r
  | .lds v r => lds v r | .ldsx v r => ldsx v r | .sts v r => sts v r | .ldg v r => ldg v r | .stg v r => stg v r
  | .amoAdd r => amoAdd r | .amoAnd r => amoAnd r | .amoOr r => amoOr r | .amoXor r => amoXor r
  | .amoMin r => amoMin r | .amoMax r => amoMax r | .amoSwap r => amoSwap r | .amoCas r => amoCas r
  | .amoFadd r => amoFadd r | .amoFmax r => amoFmax r | .amoMaxx r => amoMaxx r | .pop r => pop r | .push r => push r
  | .fence r => fence r | .bankMode r => bankMode r | .vadd r => vadd r | .vsub r => vsub r | .vmul r => vmul r
  | .vdiv r => vdiv r | .vmin r => vmin r | .vmax r => vmax r | .vfma r => vfma r | .vfms r => vfms r
  | .vfnma r => vfnma r | .vand r => vand r | .vor r => vor r | .vxor r => vxor r | .vsll r => vsll r
  | .vsrl r => vsrl r | .vsra r => vsra r | .vabd r => vabd r | .vmov r => vmov r | .vneg r => vneg r
  | .vabs r => vabs r | .vrcp r => vrcp r | .vsqrt r => vsqrt r | .vrsqrt r => vrsqrt r | .vexp r => vexp r
  | .vexp2 r => vexp2 r | .vlog2 r => vlog2 r | .vtanh r => vtanh r | .vsigm r => vsigm r | .vadds r => vadds r
  | .vsubs r => vsubs r | .vmuls r => vmuls r | .vmins r => vmins r | .vmaxs r => vmaxs r | .vfmas r => vfmas r
  | .vfill r => vfill r | .vceq r => vceq r | .vcne r => vcne r | .vclt r => vclt r | .vcle r => vcle r
  | .vsel r => vsel r | .vcvt r => vcvt r | .vqJ4 r => vqJ4 r | .vdqJ4 r => vdqJ4 r | .vsum r => vsum r
  | .vmaxr r => vmaxr r | .vminr r => vminr r | .vamax r => vamax r | .vdot r => vdot r | .vrev r => vrev r
  | .vbcast r => vbcast r | .vscan r => vscan r | .vidx r => vidx r | .vperm r => vperm r | .vtrans r => vtrans r
  | .vsetb r => vsetb r | .vsets r => vsets r | .vsetn r => vsetn r | .vsett r => vsett r | .vgetb r => vgetb r
  | .vgetn r => vgetn r | .vchain r => vchain r | .vdefer r => vdefer r | .vdrain r => vdrain r | .rowSm r => rowSm r
  | .rowNorm r => rowNorm r | .rowLse r => rowLse r | .mmNest r => mmNest r | .mmGo r => mmGo r
  | .mmSwap r => mmSwap r | .mmZero r => mmZero r | .mmDrain r => mmDrain r | .mmCfg r => mmCfg r | .tset r => tset r
  | .tclr r => tclr r | .barInit r => barInit r | .barArr r => barArr r | .barWait r => barWait r
  | .barSync r => barSync r | .evSet r => evSet r | .evClr r => evClr r | .evWait r => evWait r
  | .ctxYield r => ctxYield r | .ctxXfer r => ctxXfer r | .launch r => launch r | .exit r => exit r
  | .trap r => trap r | .id r => id r | .time r => time r | .pause r => pause r | .tw r => tw r | .twa r => twa r
  | .sysRd r => sysRd r | .sysWr r => sysWr r | .fdataRead r => fdataRead r | .fdataWrite r => fdataWrite r
  | .evmsg r => evmsg r | .ctxNew r => ctxNew r | .ctxDel r => ctxDel r | .ctxSev r => ctxSev r
  | .tlbInv r => tlbInv r | .tlbAsid r => tlbAsid r | .tlbAll r => tlbAll r | .coreOut r => coreOut r
  | .coreIn r => coreIn r | .aUdf r => aUdf r | .aUdf3f r => aUdf3f r | .aAdd r => aAdd r | .aSub r => aSub r
  | .aAnd r => aAnd r | .aOr r => aOr r | .aXor r => aXor r | .aSll r => aSll r | .aSrl r => aSrl r
  | .aSra r => aSra r | .aMul r => aMul r | .aMin r => aMin r | .aMax r => aMax r | .aMinu r => aMinu r
  | .aMaxu r => aMaxu r | .aAddi r => aAddi r | .aAddhi r => aAddhi r | .aSlli r => aSlli r | .aAndi r => aAndi r
  | .b r => b r | .bz r => bz r | .bnz r => bnz r | .aExit r => aExit r | .nest r => nest r | .bind v r => bind v r
  | .ldq r => ldq r | .stq r => stq r | .ldt r => ldt r | .stt r => stt r | .lda r => lda r | .sta r => sta r
  | .cp r => cp r | .mcast r => mcast r | .gat r => gat r | .sct r => sct r | .kvg r => kvg r | .kva r => kva r
  | .kvc r => kvc r | .aTw r => aTw r | .aTwa r => aTwa r | .aTclr r => aTclr r | .aAmoAdd r => aAmoAdd r
  | .aAmoAnd r => aAmoAnd r | .aAmoOr r => aAmoOr r | .aAmoXor r => aAmoXor r | .aAmoMin r => aAmoMin r
  | .aAmoMax r => aAmoMax r | .aAmoSwap r => aAmoSwap r | .aAmoCas r => aAmoCas r | .aAmoFadd r => aAmoFadd r
  | .aAmoFmax r => aAmoFmax r | .aAmoMaxx r => aAmoMaxx r | .ramoAdd r => ramoAdd r | .ramoAnd r => ramoAnd r
  | .ramoOr r => ramoOr r | .ramoXor r => ramoXor r | .ramoMin r => ramoMin r | .ramoMax r => ramoMax r
  | .ramoSwap r => ramoSwap r | .ramoFadd r => ramoFadd r | .ramoFmax r => ramoFmax r | .aFence r => aFence r
  | .nbCopy r => nbCopy r | .nbZero r => nbZero r | .nbAxpy r => nbAxpy r | .nbRun r => nbRun r
  | .nbAmoAdd r => nbAmoAdd r | .nbAmoAnd r => nbAmoAnd r | .nbAmoOr r => nbAmoOr r | .nbAmoXor r => nbAmoXor r
  | .nbAmoMin r => nbAmoMin r | .nbAmoMax r => nbAmoMax r | .nbAmoFadd r => nbAmoFadd r | .nbAmoFmax r => nbAmoFmax r
  | .nbFence r => nbFence r | .nbStat r => nbStat r | .nbProg r => nbProg r
  | .collAllReduceSum r => collAllReduceSum r | .collAllReduceMax r => collAllReduceMax r
  | .collAllReduceMin r => collAllReduceMin r | .collReduceScatterSum r => collReduceScatterSum r
  | .collAllGather r => collAllGather r | .collBroadcast r => collBroadcast r | .collAbort r => collAbort r
  | .collAtt r => collAtt r | .pf r => pf r | .aPause r => aPause r | .nbuEnd => nbuEnd | .nbuLdx r => nbuLdx r
  | .nbuLdy r => nbuLdy r | .nbuSty r => nbuSty r | .nbuAdd d s => nbuAdd d s | .nbuMul d s => nbuMul d s
  | .nbuMax d s => nbuMax d s | .nbuScl r => nbuScl r | .nbuFill r => nbuFill r | .nbuFma d s => nbuFma d s
  | .nbuAccy r => nbuAccy r | .nbuAxpy r => nbuAxpy r
  | .pauseExpiry _ | .resultLand _ | .loadCommit | .globalAccessComplete _ | .aAmoComplete | .queueWordProceed _
  | .vectorCommandStart | .vectorCommandComplete | .matrixCommandStart | .matrixGranuleEnd _ | .matrixCommandComplete
  | .engineSegment _ _ | .fixupReplay _ _ | .fixupFail _ _ | .engineCommandComplete _ | .nbItemForward _
  | .nbRowStep _ | .nbSuspend _ | .nbResume _ | .nbInvalidationDone _ | .bankRequestIssue _ | .skintExpiry _
  | .mscFilterClear _ | .leaveAccept _ | .preemption _ | .frameSave _ | .placement _ _ | .swapOut _ | .swapIn _
  | .bankReclaim _ _ | .quantumExpiry _ | .contextReady _ | .wakeTimerExpiry _ | .controlNodeEval _ | .demotionStart _
  | .promotionStart _ | .moveInstall _ | .oldLocationRelease _ | .directoryLeaseExpiry _ _ | .frameArrival _ _
  | .ptpLock _ | .ptpLockLoss | .hostWrite _ _ | .hostRead _ _ | .raddr _ _ | .hostLaunchArm _ | .setPin _ _
  | .clearPin _ _ | .setPref _ _ _ | .freePage _ _ | .moveToStoreTier _ _ _ | .pstate _ | .monitorClear _ _
  | .monitorInterval _ _ _ | .flowEntryWrite _ _ _ | .flashRecoveryWrite _ | .registerWrite _ _
  | .attestationRequest _ | .checkpointRequest _ | .checkpointRestore _ | .remoteRequest _ _ | .ramoRequest _ _
  | .ramoResponse _ _ | .ramoRetryTimeout _ | .busyRetryTimer _ | .dedupRecordExpiry _ | .poolLinkTimeout _
  | .contributionToken _ _ _ _ | .closeToken _ _ | .abortToken _ _ | .colltoExpiry _ | .patrolScrub _ | .directedScrub
  | .scrubWriteBack _ | .windowReplay _ | .checkerMismatch _ _ | .watchdogFiring _ _ | .thermalThrottle
  | .thermalRecover | .thermalShutdown | .powerOnReset _ | .linkDown _ | .linkRetrain _ | .refresh _ =>
    fun _ => trivial
end Sys2Proof.Laws.ReadBack
end

section
/-! Encodings (02 R32-R48, 09 R235): decoding gives back what was encoded, and encoding what was decoded. -/

namespace Sys2Proof.Proofs

open Sys2Proof.Laws

/-! ### What a candidate row is of an instruction's own words -/

theorem xCandidate_of_encode {i : Instr} {w : BitVec 64} {links : List (BitVec 64)} (hw : wellFormed i = true)
    (he : encode i = .xWords (w :: links)) (more : List (BitVec 64)) : xCandidate w (links ++ more) = .ok i := by
  have h := ReadBack.all i hw
  rw [he] at h
  exact h more

theorem aCandidate_of_encode {i : Instr} {w : BitVec 32} (hw : wellFormed i = true) (he : encode i = .aWord w) :
    aCandidate w = .ok i := by
  have h := ReadBack.all i hw
  rwa [he] at h

theorem wellFormed_of_micro {i : Instr} {w : BitVec 16} (he : encode i = .micro w) : wellFormed i = true := by
  cases i with
  | nbuEnd | nbuLdx | nbuLdy | nbuSty | nbuAdd | nbuMul | nbuMax | nbuScl | nbuFill | nbuFma | nbuAccy | nbuAxpy => rfl
  | _ => cases he

theorem nbuCandidate_of_encode {i : Instr} {w : BitVec 16} (he : encode i = .micro w) : nbuCandidate w = .ok i := by
  have h := ReadBack.all i (wellFormed_of_micro he)
  rwa [he] at h

/-! ### Links of a chain -/

theorem wellFormed_vchain_links {r : Xc} (hw : wellFormed (.vchain r) = true) : r.links.length ≤ 8 := by
  have h : wfChain r = true := hw
  simp only [wfChain, Bool.and_eq_true, decide_eq_true_eq] at h
  omega

/-- The words of a well-formed instruction are a first word and at most eight links: none but a chain's, and a chain takes its own
from the words behind the first, whatever follows them. -/
theorem encode_xWords_links {i : Instr} {ws : List (BitVec 64)} (hw : wellFormed i = true) (he : encode i = .xWords ws) :
    ∃ w links, ws = w :: links ∧ links.length ≤ 8 ∧ ∀ more, linksOf i (links ++ more) = links := by
  cases i with
  | vchain r =>
    cases he
    exact ⟨_, _, rfl, by simpa using wellFormed_vchain_links hw, fun more => List.take_left' (by simp)⟩
  | _ => cases he <;> exact ⟨_, [], rfl, Nat.zero_le _, fun _ => rfl⟩

theorem linksOf_prefix (i : Instr) (ws : List (BitVec 64)) : linksOf i ws <+: ws := by
  unfold linksOf
  split
  · exact List.take_prefix _ _
  · exact List.nil_prefix

theorem linksOf_length_le {i : Instr} (ws : List (BitVec 64)) (hw : wellFormed i = true) : (linksOf i ws).length ≤ 8 := by
  unfold linksOf
  split
  · exact (List.length_take_le _ _).trans (wellFormed_vchain_links hw)
  · exact Nat.zero_le _

/-! ### Decoding what was encoded -/

/-- The words of a well-formed instruction decode to it, whatever words follow. -/
theorem decodeX_encode {i : Instr} {w : BitVec 64} {links : List (BitVec 64)} (hw : wellFormed i = true)
    (he : encode i = .xWords (w :: links)) (hlinks : ∀ more, linksOf i (links ++ more) = links) (more : List (BitVec 64)) :
    decodeX w (links ++ more) = .ok i :=
  decodeX_of (xCandidate_of_encode hw he more) hw (by rw [hlinks, he])

/-- Settles O16: the bytes are cut into the instruction's own words, whose row and fields read back. -/
theorem encodedXWordsDecodeBack : Obligations.EncodedXWordsDecodeBack := by
  intro i ws rest hw he
  obtain ⟨w, links, rfl, hlen, hlinks⟩ := encode_xWords_links hw he
  obtain ⟨more, hcut⟩ := wordsOf_flat (w :: links) rest 9 (Nat.succ_le_succ hlen)
  rw [decodeXBytes, hcut]
  exact decodeX_encode hw he hlinks more

/-- Settles O17: as for the X stream, by the decoders of one word and of one halfword. -/
theorem encodedAAndMicroWordsDecodeBack : Obligations.EncodedAAndMicroWordsDecodeBack := by
  constructor
  · intro i w rest hw he
    rw [decodeABytes, if_pos (by simp [leBytes_length]), ofNat_leBytes (by decide)]
    exact decodeA_of (aCandidate_of_encode hw he) hw he
  · intro i w rest he
    rw [decodeMicroBytes, if_pos (by simp [leBytes_length]), ofNat_leBytes (by decide)]
    exact decodeMicro_of (nbuCandidate_of_encode he) he

/-! ### Encoding what was decoded -/

/-- Settles O18: a decoder compares the encoding of what it read with the word, so the instruction fixes the word. -/
theorem noWordDecodesAsAnother : Obligations.NoWordDecodesAsAnother := by
  refine ⟨fun w ws i h => ?_, fun w i h => ?_, fun w i h => (decodeMicro_ok h).2, fun w v ws vs i h k => ?_, fun w v i h k => ?_⟩
  · obtain ⟨-, hw, he⟩ := decodeX_ok h
    exact ⟨hw, linksOf i ws, he, linksOf_length_le ws hw, List.prefix_iff_eq_take.mp (linksOf_prefix i ws)⟩
  · exact (decodeA_ok h).2
  · obtain ⟨-, -, he⟩ := decodeX_ok h
    obtain ⟨-, -, ke⟩ := decodeX_ok k
    exact List.head_eq_of_cons_eq (Encoding.xWords.inj (he.symm.trans ke))
  · obtain ⟨-, -, he⟩ := decodeA_ok h
    obtain ⟨-, -, ke⟩ := decodeA_ok k
    exact Encoding.aWord.inj (he.symm.trans ke)

/-- Settles O19: the decoders run on each word. -/
theorem wordsOfTheChaptersDecode : Obligations.WordsOfTheChaptersDecode :=
  ⟨rfl, rfl, rfl, rfl, rfl, rfl, rfl⟩

end Sys2Proof.Proofs
end

section
/-! Steps of the streams and of the near-bank units (02 R39, R46; 09 R235): fetch, decode, and what follows from each. -/

namespace Sys2Proof.Proofs

open Sys2Proof.Machine Sys2Proof.Laws

/-! ### A stream's turn, by what its fetch and its decoder answer -/

theorem stepX_of_decode {s t : State} {bs : List Byte} {i : Instr} (hon : s.streamOn false = true)
    (hfetch : s.fetchX = (t, some bs)) (hdecode : decodeXBytes bs = .ok i) : s.stepX = exec i t := by
  simp only [State.stepX, hon, if_true, hfetch, hdecode]

theorem stepX_of_illegal {s t : State} {bs : List Byte} {e : DecodeError} (hon : s.streamOn false = true)
    (hfetch : s.fetchX = (t, some bs)) (hdecode : decodeXBytes bs = .error e) : s.stepX = .next t.xIllegal := by
  simp only [State.stepX, hon, if_true, hfetch, hdecode]

theorem stepX_of_no_fetch {s t : State} (hon : s.streamOn false = true) (hfetch : s.fetchX = (t, none)) :
    s.stepX = .next t := by
  simp only [State.stepX, hon, if_true, hfetch]

theorem stepA_of_decode {s t : State} {bs : List Byte} {i : Instr} (hon : s.streamOn true = true)
    (hfetch : s.fetchA = (t, some bs)) (hdecode : decodeABytes bs = .ok i) : s.stepA = exec i t := by
  simp only [State.stepA, hon, if_true, hfetch, hdecode]

theorem stepA_of_illegal {s t : State} {bs : List Byte} {e : DecodeError} (hon : s.streamOn true = true)
    (hfetch : s.fetchA = (t, some bs)) (hdecode : decodeABytes bs = .error e) : s.stepA = .next t.aIllegal := by
  simp only [State.stepA, hon, if_true, hfetch, hdecode]

theorem stepA_of_no_fetch {s t : State} (hon : s.streamOn true = true) (hfetch : s.fetchA = (t, none)) :
    s.stepA = .next t := by
  simp only [State.stepA, hon, if_true, hfetch]

theorem stepNbu_of_decode {s : State} {b : Nat} {w : BitVec 16} {i : Instr}
    (hword : (s.nbUnit b).store[(s.nbUnit b).upc]? = some w) (hdecode : decodeMicro w = .ok i) :
    s.stepNbu b = exec i { s with bankHere := b } := by
  simp only [State.stepNbu, hword, hdecode]

theorem turn_at_of_admits {s : State} {n : Nat} {e : Instr} (he : encode e = .step) (ha : (s.focus n).admits e = true) :
    s.turn (.at n e) = exec e (s.focus n) :=
  if_pos ⟨he, ha⟩

theorem take_of_turn {s t : State} {a : Turn} (hturn : s.turn a = .next t) : s.take a = .next (t.finish a) := by
  simp only [State.take, hturn]

/-- A step takes the turn at the head of the agenda, and then time goes on. -/
theorem step_of_turn {s t : State} {a : Turn} {rest : List Turn} (hshut : s.shut = false) (hagenda : s.agenda = a :: rest)
    (hturn : ({ s with agenda := rest } : State).turn a = .next t) : step s = .next (t.finish a) := by
  rw [step, hagenda]
  exact (if_neg (by simp [hshut])).trans (take_of_turn hturn)

/-! ### Fetches -/

theorem fetchX_of_misaligned {s : State} (h : s.core.xpc.toNat % 8 ≠ 0) : s.fetchX = (s.xNoFetch causeIll 0, none) := if_pos h

theorem fetchA_of_misaligned {s : State} (h : s.core.apc.toNat % 4 ≠ 0) :
    s.fetchA = (({ s with core := { s.core with air := s.noWord } } : State).raiseLeave true (.fault causeIll) 0 0, none) :=
  if_pos h

/-- A fetch at an aligned address that is mapped to HBM4E outside the page directory, with no word in error, reads the bytes there. -/
theorem fetch_of_hbm {s t : State} {va : Word} {n pa ty : Nat} (halign : va.toNat % n = 0) (hn : 65536 % n = 0)
    (htr : s.translate s.who needX va.toNat = (t, .ok pa ty)) (hplace : placeOf pa = .hbm) (hdir : t.dirAt pa = none)
    (hbad : t.mem.bad = []) : s.fetch va n = (t.note pa n, .word (t.mem.bytes pa n)) := by
  have hread : t.physRead pa n = .ok (t.mem.bytes pa n) := by
    simp only [State.physRead, hdir, lane_clean hbad]
  have hpost : (t.note pa n).postPhys s.who.dom pa n = t.note pa n := post_clean (by rw [note_mem, hbad]) _ _ _
  simp only [State.fetch, State.gRead, pieces, halign, hn, and_self, if_true, translateAll_one htr hplace, State.readPieces,
    hread, hpost, List.append_nil]

theorem fetchX_of_hbm {s t : State} {pa ty : Nat} (halign : s.core.xpc.toNat % 8 = 0)
    (htr : s.translate s.who needX s.core.xpc.toNat = (t, .ok pa ty)) (hplace : placeOf pa = .hbm) (hdir : t.dirAt pa = none)
    (hbad : t.mem.bad = []) (hhead : chainHead (t.mem.word pa).v = false) :
    s.fetchX = (let u := t.note pa 8
      { u.firstWord with core := { u.core with xir := (t.mem.word pa).v } }, some (t.mem.bytes pa 8)) := by
  have hword : BitVec.ofNat 64 (ofBytes (t.mem.bytes pa 8)) = (t.mem.word pa).v := rfl
  simp only [State.fetchX, halign, ne_eq, not_true_eq_false, if_false, fetch_of_hbm halign (by decide) htr hplace hdir hbad, hword,
    hhead, Bool.false_eq_true]

theorem fetchA_of_hbm {s t : State} {pa ty : Nat} (halign : s.core.apc.toNat % 4 = 0)
    (htr : s.translate s.who needX s.core.apc.toNat = (t, .ok pa ty)) (hplace : placeOf pa = .hbm) (hdir : t.dirAt pa = none)
    (hbad : t.mem.bad = []) :
    s.fetchA = (let u := t.note pa 4
      { u with core := { u.core with air := BitVec.ofNat 64 (ofBytes (t.mem.bytes pa 4)) } }, some (t.mem.bytes pa 4)) := by
  simp only [State.fetchA, halign, ne_eq, not_true_eq_false, if_false, fetch_of_hbm halign (by decide) htr hplace hdir hbad]

/-! ### The statements -/

/-- Settles O12: a step is the turn at the head of the agenda, and a turn what the stream's fetch and decoder answer. -/
theorem stepRunsTheDecodedInstruction : Obligations.StepRunsTheDecodedInstruction := by
  refine ⟨?_, ?_, ?_, ?_, ?_, ?_⟩
  · intro s u n rest bs i hshut hagenda hon hfetch hdecode t hexec
    exact step_of_turn hshut hagenda ((stepX_of_decode hon hfetch hdecode).trans hexec)
  · intro s u n rest bs i hshut hagenda hon hfetch hdecode t hexec
    exact step_of_turn hshut hagenda ((stepA_of_decode hon hfetch hdecode).trans hexec)
  · intro s b rest w i hshut hagenda hword hdecode t hexec
    exact step_of_turn hshut hagenda ((stepNbu_of_decode (s := { s with agenda := rest }) hword hdecode).trans hexec)
  · intro s n rest e hshut hagenda he ha t hexec
    exact step_of_turn hshut hagenda ((turn_at_of_admits he ha).trans hexec)
  · exact fun s t pa ty => fetchX_of_hbm
  · exact fun s t pa ty => fetchA_of_hbm

/-- Settles O14: what the stream makes of a word that its decoder refuses, and of a fetch at a misaligned address. -/
theorem illegalWordsTrap : Obligations.IllegalWordsTrap := by
  refine ⟨?_, ?_, fun _ _ => rfl, fun _ _ => ⟨rfl, rfl⟩, ?_, ?_⟩
  · exact fun s t bs e => stepX_of_illegal
  · exact fun s t bs e => stepA_of_illegal
  · exact fun s hon hpc => stepX_of_no_fetch hon (fetchX_of_misaligned hpc)
  · exact fun s hon hpc => stepA_of_no_fetch hon (fetchA_of_misaligned hpc)

end Sys2Proof.Proofs
end

section
/-! Guards and privilege (02 R33, R47): every word of the X stream is one of the shells `State.xWordN` and `State.xPriv` around its
own effect. -/

namespace Sys2Proof.Proofs

open Sys2Proof.Machine Sys2Proof.Claims Sys2Proof.Laws

/-- An instruction is a word under a guard: whatever the state, its meaning is an effect in the shell `xWord`. -/
def GuardedWord (g : BitVec 7) (gn : Bool) (i : Instr) : Prop := ∀ s, ∃ uses f, exec i s = .next (s.xWord g gn uses f)

/-- The same of a privileged word and its shell `xPriv`. -/
def PrivilegedWord (g : BitVec 7) (gn : Bool) (i : Instr) : Prop := ∀ s, ∃ uses f, exec i s = .next (s.xPriv g gn uses f)

theorem GuardedWord.skip {g : BitVec 7} {gn : Bool} {i : Instr} (h : GuardedWord g gn i) (s : State)
    (hf : s.landDue.stepPoisoned 1 = none) (hg : s.landDue.guard g gn = false) : exec i s = .next (s.landDue.xDone 1) := by
  obtain ⟨uses, f, he⟩ := h s
  rw [he, xWord_skip f hf hg]

theorem PrivilegedWord.skip {g : BitVec 7} {gn : Bool} {i : Instr} (h : PrivilegedWord g gn i) (s : State)
    (hsuper : s.isSuper = true) (hf : s.landDue.stepPoisoned 1 = none) (hg : s.landDue.guard g gn = false) :
    exec i s = .next (s.landDue.xDone 1) := by
  obtain ⟨uses, f, he⟩ := h s
  rw [he, xPriv_super f hsuper, xWord_skip f hf hg]

theorem PrivilegedWord.user {g : BitVec 7} {gn : Bool} {i : Instr} (h : PrivilegedWord g gn i) (s : State)
    (huser : s.isSuper = false) : exec i s = .next (s.landDue.raiseLeave false (.fault causeViol) 0 0) := by
  obtain ⟨uses, f, he⟩ := h s
  rw [he, xPriv_user f huser]

/-- A chain header whose guard does not hold passes its whole chain (02 R33). -/
theorem exec_vchain_skip (r : Xc) (s : State) (hf : s.landDue.stepPoisoned (1 + r.links.length) = none)
    (hg : s.landDue.guard r.g r.gn = false) : exec (.vchain r) s = .next (s.landDue.xDone (1 + r.links.length)) := by
  have h : ∀ uses f, s.xWordN (1 + r.links.length) r.g r.gn uses f = s.landDue.xDone (1 + r.links.length) := by
    intro uses f
    simp only [State.xWordN, hg, Bool.false_eq_true, if_false, xEnd_done hf]
  exact congrArg Host.Outcome.next (h _ _)

/-! ### The words of each format, one after another -/

theorem guardedXr_words : ∀ c ∈ guardedXr, ∀ r, GuardedWord r.g r.gn (c r) := by
  repeat refine List.forall_mem_cons.mpr ⟨fun r s => ⟨_, _, rfl⟩, ?_⟩
  exact List.forall_mem_nil _

theorem guardedXi_words : ∀ c ∈ guardedXi, ∀ r, GuardedWord r.g r.gn (c r) := by
  repeat refine List.forall_mem_cons.mpr ⟨fun r s => ⟨_, _, rfl⟩, ?_⟩
  exact List.forall_mem_nil _

theorem guardedXk_words : ∀ c ∈ guardedXk, ∀ r, GuardedWord r.g r.gn (c r) := by
  repeat refine List.forall_mem_cons.mpr ⟨fun r s => ⟨_, _, rfl⟩, ?_⟩
  exact List.forall_mem_nil _

theorem guardedXs_words : ∀ c ∈ guardedXs, ∀ r, GuardedWord r.g r.gn (c r) := by
  repeat refine List.forall_mem_cons.mpr ⟨fun r s => ⟨_, _, rfl⟩, ?_⟩
  exact List.forall_mem_nil _

theorem guardedSized_words : ∀ c ∈ guardedSized, ∀ fn r, GuardedWord r.g r.gn (c fn r) := by
  repeat refine List.forall_mem_cons.mpr ⟨fun fn r s => ⟨_, _, rfl⟩, ?_⟩
  exact List.forall_mem_nil _

theorem guardedGlobal_words : ∀ c ∈ guardedGlobal, ∀ fn r, GuardedWord r.g r.gn (c fn r) := by
  repeat refine List.forall_mem_cons.mpr ⟨fun fn r s => ⟨_, _, rfl⟩, ?_⟩
  exact List.forall_mem_nil _

theorem privilegedXk_words : ∀ c ∈ privilegedXk, ∀ r, PrivilegedWord r.g r.gn (c r) := by
  repeat refine List.forall_mem_cons.mpr ⟨fun r s => ⟨_, _, rfl⟩, ?_⟩
  exact List.forall_mem_nil _

theorem privilegedXr_words : ∀ c ∈ privilegedXr, ∀ r, PrivilegedWord r.g r.gn (c r) := by
  repeat refine List.forall_mem_cons.mpr ⟨fun r s => ⟨_, _, rfl⟩, ?_⟩
  exact List.forall_mem_nil _

/-! ### The rows of OP 0x70 to 0x77 -/

/-- Of OP 0x70 to 0x77, the decoder has rows for 0x70 to 0x73 alone (02 Table 02-6). -/
theorem xCandidate_of_privileged_op {w : BitVec 64} {ws : List (BitVec 64)} {i : Instr} (hlo : 0x70 ≤ (w.extractLsb' 0 7).toNat)
    (hhi : (w.extractLsb' 0 7).toNat ≤ 0x77) (h : xCandidate w ws = .ok i) :
    let fn := (w.extractLsb' 18 6).toNat
    xOp70 fn w = some i ∨ xOp71 fn w = some i ∨ xOp72 fn w = some i ∨ xOp73 fn w = some i := by
  unfold xCandidate at h
  generalize (w.extractLsb' 0 7).toNat = op at hlo hhi h
  interval_cases op <;> simp only [reduceCtorEq] at h
  all_goals split at h <;> simp_all

theorem xOp70_privileged {fn : Nat} {w : BitVec 64} {i : Instr} (h : xOp70 fn w = some i) :
    ∃ c ∈ privilegedXk, ∃ r, i = c r := by
  simp only [xOp70] at h
  split at h
  · split at h <;> cases h <;> exact ⟨_, by simp [privilegedXk], _, rfl⟩
  · split at h
    · cases h; exact ⟨_, by simp [privilegedXk], _, rfl⟩
    · split at h <;> cases h <;> exact ⟨_, by simp [privilegedXk], _, rfl⟩
  · cases h

theorem xOp71_to_xOp73_privileged {fn : Nat} {w : BitVec 64} {i : Instr}
    (h : xOp71 fn w = some i ∨ xOp72 fn w = some i ∨ xOp73 fn w = some i) : ∃ c ∈ privilegedXr, ∃ r, i = c r := by
  rcases h with h | h | h
  · unfold xOp71 at h; split at h <;> cases h <;> exact ⟨_, by simp [privilegedXr], _, rfl⟩
  · unfold xOp72 at h; split at h <;> cases h <;> exact ⟨_, by simp [privilegedXr], _, rfl⟩
  · unfold xOp73 at h; split at h <;> cases h <;> exact ⟨_, by simp [privilegedXr], _, rfl⟩

/-! ### The statements -/

/-- Settles O4: a word whose guard does not hold is a shell without its effect. -/
theorem falseGuardSkipsTheWord : Obligations.FalseGuardSkipsTheWord := by
  refine ⟨fun s g => ?_, fun s => ⟨rfl, rfl⟩, ?_, ?_, ?_, ?_, ?_, ?_, fun r s hf hg => ?_, fun r s => ?_, exec_vchain_skip, ?_, ?_⟩
  · exact ⟨Bool.bne_false _, Bool.bne_true _⟩
  · exact fun c hc r => (guardedXr_words c hc r).skip
  · exact fun c hc r => (guardedXi_words c hc r).skip
  · exact fun c hc r => (guardedXk_words c hc r).skip
  · exact fun c hc r => (guardedXs_words c hc r).skip
  · exact fun c hc fn r => (guardedSized_words c hc fn r).skip
  · exact fun c hc fn r => (guardedGlobal_words c hc fn r).skip
  · exact ⟨congrArg _ (xWord_skip _ hf hg), congrArg _ (xWord_skip _ hf hg)⟩
  · exact GuardedWord.skip (fun _ => ⟨_, _, rfl⟩) s
  · exact fun c hc r => (privilegedXk_words c hc r).skip
  · exact fun c hc r => (privilegedXr_words c hc r).skip

/-- Settles O5: the decoder accepts no other word of the range, and a privileged word is a shell that traps in a user context
before it looks at its guard. -/
theorem privilegedWordsTrapInUserContexts : Obligations.PrivilegedWordsTrapInUserContexts := by
  refine ⟨?_, ?_, fun w ws i hlo hhi h => ?_, fun s t bs e => stepX_of_illegal⟩
  · exact fun c hc r => (privilegedXk_words c hc r).user
  · exact fun c hc r => (privilegedXr_words c hc r).user
  · exact (xCandidate_of_privileged_op hlo hhi (decodeX_ok h).1).imp xOp70_privileged xOp71_to_xOp73_privileged

end Sys2Proof.Proofs
end

section
/-! Words that set one scalar register or one predicate (04 R83-R92): every such word is the shell `State.xWord` around one write,
and what it writes is a function of the state that it takes. -/

namespace Sys2Proof.Proofs

open Sys2Proof.Machine Sys2Proof.Claims Sys2Proof.Laws

/-- Whatever the state, the word's effect is to set x[d] to `v` with the flags `fl`, under the latency bound `lb`. -/
def SetsX (g : BitVec 7) (gn : Bool) (uses : List Nat) (d : BitVec 6) (lb : BitVec 3) (v : State → Word) (fl : State → Flags)
    (i : Instr) : Prop :=
  ∀ s, exec i s = .next (s.xWord g gn uses fun u => .done (u.putX d.toNat (v u) lb (fl u)))

/-- The same of a word that sets the predicate p[d]. -/
def SetsP (g : BitVec 7) (gn : Bool) (uses : List Nat) (d : Nat) (lb : BitVec 3) (v : State → Bool) (fl : State → Flags)
    (i : Instr) : Prop :=
  ∀ s, exec i s = .next (s.xWord g gn uses fun u => .done (u.putP d (v u) lb (fl u)))

section

variable {g : BitVec 7} {gn : Bool} {uses : List Nat} {lb : BitVec 3} {fl : State → Flags} {i : Instr} {s b : State}

theorem SetsX.ready {d : BitVec 6} {v : State → Word} (h : SetsX g gn uses d lb v fl i) (hr : s.XReady 1 g gn uses b) :
    exec i s = .next ((b.putX d.toNat (v b) lb (fl b)).xDone 1) := by
  rw [h s, xWord_ready _ hr, readyEnd]

theorem SetsP.ready {d : Nat} {v : State → Bool} (h : SetsP g gn uses d lb v fl i) (hr : s.XReady 1 g gn uses b) :
    exec i s = .next ((b.putP d (v b) lb (fl b)).xDone 1) := by
  rw [h s, xWord_ready _ hr, readyEnd]

end

/-! ### The words of each shape -/

/-- What a floating-point word makes of the patterns in x[A], x[B], x[C] (04 R78, R90, R91). -/
def floatResult (f : Nat → Nat → Nat → Nat → Nat → Nat × Flags) (r : Xr) (u : State) : Nat × Flags :=
  f r.t.toNat (r.m.toNat % 8) (xPat r.t.toNat (u.getX 0 r.a.toNat)) (xPat r.t.toNat (u.getX 1 r.b.toNat))
    (xPat r.t.toNat (u.getX 2 r.c.toNat))

/-- What a floating-point compare makes of x[A] and x[B] (04 R91). -/
def floatCompareResult (f : FV → FV → Bool × Flags) (r : Xr) (u : State) : Bool × Flags :=
  f (decF r.t.toNat (xPat r.t.toNat (u.getX 0 r.a.toNat))) (decF r.t.toNat (xPat r.t.toNat (u.getX 1 r.b.toNat)))

/-- What a conversion makes of x[A], whose type stands in B[39:36] (04 R92). -/
def convertResult (f : Nat → Nat → Nat → Nat → Word × Flags) (r : Xr) (u : State) : Word × Flags :=
  f r.t.toNat (r.b.toNat % 16) (r.m.toNat % 8) (xPat (r.b.toNat % 16) (u.getX 0 r.a.toNat))

theorem binaryForms_set : ∀ p ∈ binaryForms, ∀ r : Xr, SetsX r.g r.gn [r.a.toNat, r.b.toNat, 64 + r.d.toNat] r.d r.lb
    (fun u => p.2 (u.getX 0 r.a.toNat) (u.getX 1 r.b.toNat)) (fun _ => 0) (p.1 r) := by
  repeat refine List.forall_mem_cons.mpr ⟨fun r s => rfl, ?_⟩
  exact List.forall_mem_nil _

theorem unaryForms_set : ∀ p ∈ unaryForms, ∀ r : Xr, SetsX r.g r.gn [r.a.toNat, 64 + r.d.toNat] r.d r.lb
    (fun u => p.2 r.t (u.getX 0 r.a.toNat)) (fun _ => 0) (p.1 r) := by
  repeat refine List.forall_mem_cons.mpr ⟨fun r s => rfl, ?_⟩
  exact List.forall_mem_nil _

theorem immediateForms_set : ∀ p ∈ immediateForms, ∀ r : Xi, SetsX r.g r.gn [r.a.toNat, 64 + r.d.toNat] r.d r.lb
    (fun u => p.2 (u.getX 0 r.a.toNat) (r.imm.signExtend 64)) (fun _ => 0) (p.1 r) := by
  repeat refine List.forall_mem_cons.mpr ⟨fun r s => rfl, ?_⟩
  exact List.forall_mem_nil _

theorem mad_sets (r : Xr) : SetsX r.g r.gn [r.a.toNat, r.b.toNat, r.c.toNat, 64 + r.d.toNat] r.d r.lb
    (fun u => u.getX 0 r.a.toNat * u.getX 1 r.b.toNat + u.getX 2 r.c.toNat) (fun _ => 0) (.mad r) := fun _ => rfl

theorem sel_sets (r : Xr) : SetsX r.g r.gn [r.a.toNat, r.b.toNat, 64 + r.d.toNat] r.d r.lb
    (fun u => if u.getP 2 r.pd.toNat then u.getX 0 r.a.toNat else u.getX 1 r.b.toNat) (fun _ => 0) (.sel r) := fun _ => rfl

theorem pget_sets (r : Xr) : SetsX r.g r.gn [64 + r.d.toNat] r.d r.lb
    (fun u => if u.getP 0 r.pa.toNat then 1 else 0) (fun _ => 0) (.pget r) := fun _ => rfl

theorem movi_sets (r : Xk) : SetsX r.g r.gn [64 + r.d.toNat] r.d r.lb (fun _ => r.imm.signExtend 64) (fun _ => 0) (.movi r) :=
  fun _ => rfl

theorem movu_sets (r : Xk) : SetsX r.g r.gn [64 + r.d.toNat] r.d r.lb (fun _ => r.imm.zeroExtend 64) (fun _ => 0) (.movu r) :=
  fun _ => rfl

/-- Of the constant words `movh` alone consumes x[D]. -/
theorem movh_sets (r : Xk) : SetsX r.g r.gn [r.d.toNat] r.d r.lb
    (fun u => r.imm ++ (u.getX 0 r.d.toNat).extractLsb' 0 32) (fun _ => 0) (.movh r) := by
  intro s
  show Host.Outcome.next (s.xWord r.g r.gn [0 + r.d.toNat] _) = _
  rw [Nat.zero_add]

theorem compareForms_set : ∀ p ∈ compareForms, ∀ r : Xr, SetsP r.g r.gn [r.a.toNat, r.b.toNat] r.pd.toNat r.lb
    (fun u => p.2 (u.getX 0 r.a.toNat) (u.getX 1 r.b.toNat)) (fun _ => 0) (p.1 r) := by
  repeat refine List.forall_mem_cons.mpr ⟨fun r s => rfl, ?_⟩
  exact List.forall_mem_nil _

theorem compareImmForms_set : ∀ p ∈ compareImmForms, ∀ r : Xi, SetsP r.g r.gn [r.a.toNat] r.d.toNat r.lb
    (fun u => p.2 (u.getX 0 r.a.toNat) (r.imm.signExtend 64)) (fun _ => 0) (p.1 r) := by
  repeat refine List.forall_mem_cons.mpr ⟨fun r s => rfl, ?_⟩
  exact List.forall_mem_nil _

theorem predicateForms_set : ∀ p ∈ predicateForms, ∀ r : Xr, SetsP r.g r.gn [] r.pd.toNat r.lb
    (fun u => p.2 (u.getP 0 r.pa.toNat) (u.getP 1 r.pb.toNat)) (fun _ => 0) (p.1 r) := by
  repeat refine List.forall_mem_cons.mpr ⟨fun r s => rfl, ?_⟩
  exact List.forall_mem_nil _

theorem pput_sets (r : Xr) : SetsP r.g r.gn [r.a.toNat] r.pd.toNat r.lb (fun u => u.getX 0 r.a.toNat != 0) (fun _ => 0) (.pput r) :=
  fun _ => rfl

theorem floatForms_set : ∀ p ∈ floatForms, ∀ r : Xr, SetsX r.g r.gn [r.a.toNat, r.b.toNat, r.c.toNat, 64 + r.d.toNat] r.d r.lb
    (fun u => BitVec.ofNat 64 (floatResult p.2 r u).1) (fun u => (floatResult p.2 r u).2) (p.1 r) := by
  repeat refine List.forall_mem_cons.mpr ⟨fun r s => rfl, ?_⟩
  exact List.forall_mem_nil _

theorem floatCompareForms_set : ∀ p ∈ floatCompareForms, ∀ r : Xr, SetsP r.g r.gn [r.a.toNat, r.b.toNat] r.pd.toNat r.lb
    (fun u => (floatCompareResult p.2 r u).1) (fun u => (floatCompareResult p.2 r u).2) (p.1 r) := by
  repeat refine List.forall_mem_cons.mpr ⟨fun r s => rfl, ?_⟩
  exact List.forall_mem_nil _

theorem convertForms_set : ∀ p ∈ convertForms, ∀ r : Xr, SetsX r.g r.gn [r.a.toNat, 64 + r.d.toNat] r.d r.lb
    (fun u => (convertResult p.2 r u).1) (fun u => (convertResult p.2 r u).2) (p.1 r) := by
  repeat refine List.forall_mem_cons.mpr ⟨fun r s => rfl, ?_⟩
  exact List.forall_mem_nil _

/-! ### OP 0x12 and 0x05 (04 R86, R89) -/

/-- Bits [31:30] of a word of format XK are zero (02 R35). -/
theorem encXk_unused (op fn : Nat) (r : Xk) : (encXk op fn r).extractLsb' 30 2 = 0 :=
  (sub_above 7 23 _ _).trans <| (sub_above 7 16 _ _).trans <| (sub_above 1 15 _ _).trans <| (sub_above 3 12 _ _).trans <|
    (sub_above 6 6 _ _).trans <| (sub_above 6 0 _ _).trans <| sub_below _ _

theorem xCandidate_op05_op12 {w : BitVec 64} {ws : List (BitVec 64)} {i : Instr} (h : xCandidate w ws = .ok i) :
    (w.extractLsb' 0 7 = 0x05 → xOp05 (w.extractLsb' 18 6).toNat w = some i) ∧
      (w.extractLsb' 0 7 = 0x12 → xOp12 (w.extractLsb' 18 6).toNat w = some i) := by
  constructor
  all_goals
    intro hop
    have hop := congrArg BitVec.toNat hop
    simp only [BitVec.reduceToNat] at hop
    simp only [xCandidate, hop] at h
    split at h
    · rename_i hrow
      exact hrow.trans (congrArg some (Except.ok.inj h))
    · cases h

/-- The rows of OP 0x12: FN 0 to 2, each of format XK. -/
theorem xOp12_some {fn : Nat} {w : BitVec 64} {i : Instr} (h : xOp12 fn w = some i) :
    fn ≤ 2 ∧ encode i = .xWords [encXk 0x12 fn (decXk w)] := by
  unfold xOp12 at h
  split at h <;> cases h <;> exact ⟨by decide, rfl⟩

/-- OP 0x05 has one row. -/
theorem xOp05_some {fn : Nat} {w : BitVec 64} {i : Instr} (h : xOp05 fn w = some i) : fn = 0 ∧ i = .sel (decXr w) := by
  unfold xOp05 at h
  split at h <;> cases h
  exact ⟨rfl, rfl⟩

/-- Every bound is one cycle at least (02 R34). -/
theorem lbOk_one : ∀ lb : BitVec 3, lbOk lb 1 = true := by decide

theorem wfMovi_eq_guardOk (r : Xk) : wfMovi r = guardOk r.g := by
  rw [wfMovi, lbOk_one, Bool.and_true]

theorem wfSel_iff (r : Xr) : wfSel r = true ↔ (guardOk r.g && predOk r.pd) = true ∧ r.m = 0 ∧ r.t = 0 ∧ r.c = 0 := by
  simp only [wfSel, Bool.and_eq_true, beq_iff_eq, and_assoc]

/-! ### The statements -/

/-- Settles O1: each word is a write of x[D] in the shell of a word. -/
theorem integerWordsWriteTheirResult : Obligations.IntegerWordsWriteTheirResult :=
  ⟨fun p hp r _ _ => (binaryForms_set p hp r).ready, fun p hp r _ _ => (unaryForms_set p hp r).ready,
    fun p hp r _ _ => (immediateForms_set p hp r).ready, fun r _ _ => (mad_sets r).ready⟩

/-- Settles O2: each word is a write of a predicate, `pget` one of x[D], in the shell of a word. -/
theorem predicateWordsWriteTheirResult : Obligations.PredicateWordsWriteTheirResult :=
  ⟨fun p hp r _ _ => (compareForms_set p hp r).ready, fun p hp r _ _ => (compareImmForms_set p hp r).ready,
    fun p hp r _ _ => (predicateForms_set p hp r).ready, fun r _ _ => (pget_sets r).ready, fun r _ _ => (pput_sets r).ready⟩

/-- Settles O3: the flags stand in the same window as the result. -/
theorem floatWordsWriteTheirResult : Obligations.FloatWordsWriteTheirResult :=
  ⟨fun p hp r _ _ => (floatForms_set p hp r).ready, fun p hp r _ _ => (floatCompareForms_set p hp r).ready,
    fun p hp r _ _ => (convertForms_set p hp r).ready⟩

/-- Settles O6: what OP 0x12 decodes to has the word as its encoding, whose unused bits are zero. -/
theorem constantWordsWriteTheirResult : Obligations.ConstantWordsWriteTheirResult := by
  refine ⟨fun r s b hr => ⟨(movi_sets r).ready hr, (movu_sets r).ready hr⟩, fun r s b => (movh_sets r).ready,
    fun w ws i hop h => ?_, fun r => ⟨wfMovi_eq_guardOk r, wfMovi_eq_guardOk r, wfMovi_eq_guardOk r⟩⟩
  obtain ⟨hcand, -, henc⟩ := decodeX_ok h
  obtain ⟨hfn, hrow⟩ := xOp12_some ((xCandidate_op05_op12 hcand).2 hop)
  have hw : encXk 0x12 (w.extractLsb' 18 6).toNat (decXk w) = w := by
    rw [hrow] at henc
    injection henc with hwords
    exact (List.cons.inj hwords).1
  exact ⟨hw ▸ encXk_unused _ _ _, hfn⟩

/-- Settles O7: OP 0x05 has one row, and a well-formed `sel` leaves C, T and M zero. -/
theorem selPicksByItsPredicate : Obligations.SelPicksByItsPredicate := by
  refine ⟨fun r s b => (sel_sets r).ready, fun w ws i hop h => ?_, fun r hc ht hm => ?_⟩
  · obtain ⟨hcand, hwf, -⟩ := decodeX_ok h
    obtain ⟨hfn, rfl⟩ := xOp05_some ((xCandidate_op05_op12 hcand).1 hop)
    obtain ⟨-, hm, ht, hc⟩ := (wfSel_iff _).mp hwf
    exact ⟨hfn, decXr w, rfl, hc, ht, hm⟩
  · exact Bool.eq_iff_iff.mpr ((wfSel_iff r).trans (and_iff_left ⟨hm, ht, hc⟩))

end Sys2Proof.Proofs
end

section
/-! Reads of x registers after a write with a latency bound (04 R77, R79, R80). -/

namespace Sys2Proof.Proofs

open Sys2Proof.Machine Sys2Proof.Laws

/-! ### What a write leaves and adds -/

/-- A write to one register of a file leaves the cells of the others. -/
theorem tget_cells_put_ne {w : Nat} {r : Regs w} (h : r.wf = true) {i j : Nat} (v : BitVec w) (hne : j ≠ i) :
    tget (r.put i v).cells j = tget r.cells j := by
  have hfrom : tableFrom 0 r.cells = true := (Bool.and_eq_true_iff.mp h).1
  unfold Regs.put
  split
  · exact tget_tdel_ne hfrom hne
  · exact tget_tset_ne _ _ hne

section

variable (s : State) (d : Nat) (lb : BitVec 3) (fl : BitVec 5)

theorem putX_frame (v : Word) : s.putX d v lb fl = { s with core := { s.core with
    x := (s.putX d v lb fl).core.x, xbad := (s.putX d v lb fl).core.xbad, wins := (s.putX d v lb fl).core.wins } } := by
  unfold State.putX State.setX
  split <;> rfl

theorem putP_frame (v : Bool) : s.putP d v lb fl =
    { s with core := { s.core with p := (s.putP d v lb fl).core.p, wins := (s.putP d v lb fl).core.wins } } := by
  unfold State.putP
  split <;> rfl

@[simp] theorem putX_wins (v : Word) : (s.putX d v lb fl).core.wins =
    s.core.wins ++ [{ reg := .x d, close := s.core.xcycle + lbCycles lb, flags := fl }] := by
  unfold State.putX State.setX
  split <;> rfl

/-- x0 takes no write (04 R77). -/
theorem putX_x (v : Word) : (s.putX d v lb fl).core.x = if d = 0 then s.core.x else s.core.x.put d v := by
  unfold State.putX State.setX
  split <;> rfl

theorem putX_xbad (v : Word) : (s.putX d v lb fl).core.xbad = if d = 0 then s.core.xbad else tdel s.core.xbad d := by
  unfold State.putX State.setX
  split <;> rfl

/-- p0 takes no write (04 R77). -/
theorem putP_p (v : Bool) : (s.putP d v lb fl).core.p = if d = 0 then s.core.p else s.core.p.put d (BitVec.ofBool v) := by
  unfold State.putP
  split <;> rfl

@[simp] theorem putX_tick (v : Word) : (s.putX d v lb fl).tick = s.tick := by rw [putX_frame]
@[simp] theorem putX_xcycle (v : Word) : (s.putX d v lb fl).core.xcycle = s.core.xcycle := by rw [putX_frame]

end

section

variable {s : State} {d i : Nat} {v : Word} {lb : BitVec 3} {fl : BitVec 5}

theorem tget_putX_x_ne (hx : s.core.x.wf = true) (hi : i ≠ d) :
    tget (s.putX d v lb fl).core.x.cells i = tget s.core.x.cells i := by
  rw [putX_x]
  split
  · rfl
  · exact tget_cells_put_ne hx v hi

theorem tget_putX_xbad_ne (hbad : tableFrom 0 s.core.xbad = true) (hi : i ≠ d) :
    tget (s.putX d v lb fl).core.xbad i = tget s.core.xbad i := by
  rw [putX_xbad]
  split
  · rfl
  · exact tget_tdel_ne hbad hi

theorem putX_undef : (s.putX d v lb fl).core.x.undef = s.core.x.undef := by
  rw [putX_x]
  split <;> rfl

theorem putP_undef {b : Bool} : (s.putP d b lb fl).core.p.undef = s.core.p.undef := by
  rw [putP_p]
  split <;> rfl

theorem tget_putP_p_ne {b : Bool} (hp : s.core.p.wf = true) (hi : i ≠ d) :
    tget (s.putP d b lb fl).core.p.cells i = tget s.core.p.cells i := by
  rw [putP_p]
  split
  · rfl
  · exact tget_cells_put_ne hp _ hi

end

/-! ### Reads by what stands in the windows -/

theorem inWindow_iff (c : Core) (r : RegName) : c.inWindow r = true ↔ ∃ w ∈ c.wins, w.reg = r ∧ c.xcycle < w.close := by
  simp only [Core.inWindow, List.any_eq_true, Bool.and_eq_true, decide_eq_true_eq]

/-- A read inside a window gives a free value (04 R79, log 1). -/
theorem getX_open {s : State} {i : Nat} (port : Nat) (hi : i ≠ 0) (h : s.core.inWindow (.x i) = true) :
    s.getX port i = Config.freeBits 64 s.tick (1024 * port + i) := by
  rw [State.getX, if_neg hi, if_pos h]

/-- A read outside windows gives the register, as the lanes correct it. -/
theorem getX_closed {s : State} {i : Nat} (port : Nat) (hi : i ≠ 0) (h : s.core.inWindow (.x i) = false) :
    s.getX port i = s.core.x.get i s.tick (1024 * port + i) ^^^ s.core.fixX i := by
  rw [State.getX, if_neg hi, if_neg (Bool.eq_false_iff.mp h)]

/-- A write to x[d] opens no window of another register. -/
theorem inWindow_putX_ne {s : State} {d i : Nat} {v : Word} {lb : BitVec 3} {fl : BitVec 5} (hi : i ≠ d) :
    (s.putX d v lb fl).core.inWindow (.x i) = s.core.inWindow (.x i) := by
  have hreg : RegName.x d ≠ .x i := fun h => hi (RegName.x.inj h).symm
  simp [Core.inWindow, hreg]

theorem getX_putX_ne {s : State} {d i : Nat} {v : Word} {lb : BitVec 3} {fl : BitVec 5} (port : Nat)
    (hx : s.core.x.wf = true) (hbad : tableFrom 0 s.core.xbad = true) (hi : i ≠ d) :
    (s.putX d v lb fl).getX port i = s.getX port i := by
  simp only [State.getX, inWindow_putX_ne hi, putX_tick, Core.fixX, tget_putX_xbad_ne hbad hi, Regs.get,
    tget_putX_x_ne hx hi, putX_undef]

/-- Settles O11: the windows of x[d] alone decide between the free value and the value written last. -/
theorem writtenRegistersReadBackAfterTheirBound : Obligations.WrittenRegistersReadBackAfterTheirBound := by
  intro s d v lb fl port n hx hbad t u
  refine ⟨fun hd hclosed => ?_, fun hd hopen => ?_, fun i hi => getX_putX_ne port hx hbad hi, rfl⟩
  · have hwindow : u.core.inWindow (.x d) = false := by
      rw [Bool.eq_false_iff, Ne, inWindow_iff]
      rintro ⟨w, hw, hreg, hlt⟩
      exact absurd (hclosed w hw hreg) (Nat.not_le.mpr hlt)
    have hread : u.core.x.get d u.tick (1024 * port + d) = v := by
      rw [show u.core.x = s.core.x.put d v from (putX_x s d lb fl v).trans (if_neg hd)]
      exact get_put_same _ hx _ _ _ _
    have hfix : u.core.fixX d = 0 := by
      rw [Core.fixX, show u.core.xbad = tdel s.core.xbad d from (putX_xbad s d lb fl v).trans (if_neg hd),
        tget_tdel_same hbad]
    rw [getX_closed port hd hwindow, hread, hfix]
    exact BitVec.xor_zero
  · have hwindow : u.core.inWindow (.x d) = true :=
      (inWindow_iff _ _).mpr ⟨_, by rw [show u.core.wins = _ from putX_wins s d lb fl v]; exact List.mem_concat_self, rfl, hopen⟩
    rw [getX_open port hd hwindow, show u.tick = s.tick from putX_tick s d lb fl v]

end Sys2Proof.Proofs
end

section
/-! Control flow and the return stack (04 R93-R102, R382): what each transfer does by what it finds on the stack. -/

namespace Sys2Proof.Proofs

open Sys2Proof.Machine Sys2Proof.Claims Sys2Proof.Laws

@[simp] theorem spillMem_fixed (s : State) (k : Nat) : (s.fixed k).spillMem = s.spillMem := by rw [fixed_frame]; rfl
@[simp] theorem canPush_fixed (s : State) (k n : Nat) : (s.fixed k).canPush n = s.canPush n := by rw [fixed_frame]; rfl

@[simp] theorem took_core (b : State) (c : Core) (k : Nat) : (took b c k).core = c := fixed_core _ k
@[simp] theorem xJump_rstack (s : State) (pc : Word) : (s.xJump pc).core.rstack = s.core.rstack := rfl
@[simp] theorem xJump_spilled (s : State) (pc : Word) : (s.xJump pc).core.spilled = s.core.spilled := rfl

/-! ### Taken branches and calls -/

section

variable {b : State} {z : BitVec 8} {target : Word}

theorem xEnd_branchTo_ok {c : Core} {k : Nat} (h : Core.leaveLoops b.spillMem target b.core.depth b.core = .ok (c, k)) :
    b.xEnd 1 (b.branchTo target) = (took b c k).xJump target := by
  rw [State.branchTo, h]; rfl

theorem xEnd_branchTo_error (h : Core.leaveLoops b.spillMem target b.core.depth b.core = .error z) :
    b.xEnd 1 (b.branchTo target) = stackLost b z := by
  rw [State.branchTo, h]; rfl

theorem xEnd_callTo_room (h : b.canPush 1 = true) :
    b.xEnd 1 (b.callTo target) = (b.pushEntry (codeAddr (b.core.xpc + 8))).xJump target := by
  rw [State.callTo, if_pos h]; rfl

theorem xEnd_callTo_full (h : b.canPush 1 = false) :
    b.xEnd 1 (b.callTo target) = b.raiseLeave false (.fault causeStack) 0 0 := by
  rw [State.callTo, if_neg (Bool.eq_false_iff.mp h)]; rfl

end

theorem exec_br {r : Xb} {s b : State} (h : s.XTakes r.g r.gn [] b) :
    exec (.br r) s = .next (b.xEnd 1 (b.branchTo (b.core.xpc + 8 * r.off.signExtend 64))) :=
  congrArg Host.Outcome.next (xWord_takes _ h)

theorem exec_call {r : Xb} {s b : State} (h : s.XTakes r.g r.gn [] b) :
    exec (.call r) s = .next (b.xEnd 1 (b.callTo (b.core.xpc + 8 * r.off.signExtend 64))) :=
  congrArg Host.Outcome.next (xWord_takes _ h)

/-- `jr` and `callr` transfer to an aligned target as `br` and `call` do, and trap with ILL at another (04 R94). -/
theorem exec_jr_callr {r : Xr} {s b : State} (h : s.XTakes r.g r.gn [r.a.toNat] b) :
    let target := b.getX 0 r.a.toNat
    (target.extractLsb' 0 3 = 0 → exec (.jr r) s = .next (b.xEnd 1 (b.branchTo target)) ∧
      exec (.callr r) s = .next (b.xEnd 1 (b.callTo target))) ∧
    (target.extractLsb' 0 3 ≠ 0 → exec (.jr r) s = .next (b.raiseLeave false (.fault causeIll) 0 0) ∧
      exec (.callr r) s = .next (b.raiseLeave false (.fault causeIll) 0 0)) := by
  have hjr : exec (.jr r) s = .next (b.xEnd 1 _) := congrArg Host.Outcome.next (xWord_takes _ h)
  have hcallr : exec (.callr r) s = .next (b.xEnd 1 _) := congrArg Host.Outcome.next (xWord_takes _ h)
  refine ⟨fun ht => ?_, fun ht => ?_⟩
  · rw [hjr, hcallr, if_pos ht, if_pos ht]
    exact ⟨rfl, rfl⟩
  · rw [hjr, hcallr, if_neg ht, if_neg ht]
    exact ⟨rfl, rfl⟩

/-- A word with no guard and no registers takes its effect in every state. -/
theorem xTakes_unguarded {g : BitVec 7} {gn : Bool} (hg : g = 0) (hgn : gn = false) (s : State) : s.XTakes g gn [] s.landDue := by
  subst hg hgn
  exact ⟨rfl, rfl, rfl, rfl⟩

/-! ### `ret` -/

/-- The check of the topmost entry alone. -/
theorem checkTop_one {m : Memory} {c : Core} {e : RetEntry} (h : c.entryAt m 0 = some e) :
    c.checkTop m 1 = if e.use.isNone then .error e.syn else .ok (if fixable e.syn then 1 else 0) := by
  rw [Core.checkTop, List.range_one, List.filterMap_cons, h]
  simp only [List.filterMap_nil, List.foldr_cons, List.foldr_nil, Nat.zero_add]

section

variable {b : State} {c : Core} {k : Nat} {z : BitVec 8} {e : RetEntry}

theorem takeReturn_of_lost_frame (h : Core.dropLoops b.spillMem b.core.depth b.core = .error z) : b.takeReturn = .error z := by
  rw [State.takeReturn, h]

theorem takeReturn_of_empty (h : Core.dropLoops b.spillMem b.core.depth b.core = .ok (c, k))
    (he : c.entryAt b.spillMem 0 = none) : b.takeReturn = .ok none := by
  simp only [State.takeReturn, h, he]

theorem takeReturn_of_lost_entry (h : Core.dropLoops b.spillMem b.core.depth b.core = .ok (c, k))
    (he : c.entryAt b.spillMem 0 = some e) (hu : e.use = none) : b.takeReturn = .error e.syn := by
  simp only [State.takeReturn, h, checkTop_one he, he, hu, Option.isNone_none, if_true]

theorem takeReturn_of_entry {v : Word} (h : Core.dropLoops b.spillMem b.core.depth b.core = .ok (c, k))
    (he : c.entryAt b.spillMem 0 = some e) (hu : e.use = some v) :
    b.takeReturn = .ok (some (codeAddr v, c.pop b.spillMem, k + if fixable e.syn then 1 else 0)) := by
  simp only [State.takeReturn, h, checkTop_one he, he, hu, CWord.value, Option.getD_some, Option.isNone_some,
    Bool.false_eq_true, if_false]

end

/-! ### A return entry on top of the stack -/

theorem isCount_codeAddr (w : Word) : isCount (codeAddr w) = false := by
  simp [isCount, codeAddr, BitVec.extractLsb'_and]

theorem codeAddr_codeAddr (w : Word) : codeAddr (codeAddr w) = codeAddr w := by
  rw [codeAddr, codeAddr, BitVec.and_assoc, BitVec.and_self]

theorem codeAddr_aligned {w : Word} (h : w.extractLsb' 0 3 = 0) : (codeAddr w).extractLsb' 0 3 = 0 := by
  rw [codeAddr, BitVec.extractLsb'_and, h]
  rfl

theorem next_word_aligned {w : Word} (h : w.extractLsb' 0 3 = 0) : (w + 8).extractLsb' 0 3 = 0 := by
  have hw := congrArg BitVec.toNat h
  apply BitVec.eq_of_toNat_eq
  simp only [BitVec.extractLsb'_toNat, BitVec.toNat_add, BitVec.reduceToNat, Nat.shiftRight_zero] at hw ⊢
  omega

theorem entryAt_cons {m : Memory} {c : Core} {e : RetEntry} {l : List RetEntry} (h : c.rstack = e :: l) : c.entryAt m 0 = some e := by
  simp [Core.entryAt, h]

theorem pop_cons {m : Memory} {c : Core} {e : RetEntry} {l : List RetEntry} (h : c.rstack = e :: l) :
    c.pop m = { c with rstack := l } := by
  simp [Core.pop, h]

theorem topLoop_of_return {m : Memory} {c : Core} {w : Word} {l : List RetEntry} (h : c.rstack = CWord.good (codeAddr w) :: l) :
    c.topLoop m = none := by
  simp only [Core.topLoop, entryAt_cons h]
  exact if_neg (Bool.eq_false_iff.mp (isCount_codeAddr w))

theorem dropLoops_of_no_loop {m : Memory} {c : Core} (h : c.topLoop m = none) : ∀ n, Core.dropLoops m n c = .ok (c, 0)
  | 0 => rfl
  | n + 1 => by simp [Core.dropLoops, h]

theorem pushEntry_room {s : State} (h : s.core.rstack.length < 32) (w : Word) :
    s.pushEntry w = { s with core := { s.core with rstack := CWord.good w :: s.core.rstack } } := by
  simp only [State.pushEntry, if_neg h.ne]

theorem use_good (v : Word) : (CWord.good v).use = some v := rfl

theorem takeReturn_of_return {b : State} {w : Word} {l : List RetEntry} (h : b.core.rstack = CWord.good (codeAddr w) :: l) :
    b.takeReturn = .ok (some (codeAddr w, { b.core with rstack := l }, 0)) := by
  rw [takeReturn_of_entry (dropLoops_of_no_loop (topLoop_of_return h) _) (entryAt_cons h) (use_good _), pop_cons h, codeAddr_codeAddr]
  rfl

section

variable {r : Xr} {s b : State} (h : s.XTakes r.g r.gn [] b)
include h

theorem exec_ret_lost {z : BitVec 8} (ht : b.takeReturn = .error z) : exec (.ret r) s = .next (stackLost b z) := by
  refine congrArg Host.Outcome.next ((xWord_takes _ h).trans ?_)
  simp only [ht]
  rfl

theorem exec_ret_empty (ht : b.takeReturn = .ok none) : exec (.ret r) s = .next (b.raiseLeave false (.fault causeStack) 0 0) := by
  refine congrArg Host.Outcome.next ((xWord_takes _ h).trans ?_)
  simp only [ht]
  rfl

theorem exec_ret_misaligned {pc : Word} {c : Core} {k : Nat} (ht : b.takeReturn = .ok (some (pc, c, k)))
    (hpc : pc.extractLsb' 0 3 ≠ 0) : exec (.ret r) s = .next (b.raiseLeave false (.fault causeIll) 0 0) := by
  refine congrArg Host.Outcome.next ((xWord_takes _ h).trans ?_)
  simp only [ht, if_neg hpc]
  rfl

theorem exec_ret_returns {pc : Word} {c : Core} {k : Nat} (ht : b.takeReturn = .ok (some (pc, c, k)))
    (hpc : pc.extractLsb' 0 3 = 0) : exec (.ret r) s = .next ((took b c k).xJump pc) := by
  refine congrArg Host.Outcome.next ((xWord_takes _ h).trans ?_)
  simp only [ht, if_pos hpc]
  rfl

end

/-! ### `loop` -/

/-- The check of the frame on top that `loop` compares its body with; with no frame there is nothing to check (log 44). -/
def loopChecked (b : State) : Except (BitVec 8) Nat :=
  if (b.core.topLoop b.spillMem).isSome then b.core.checkTop b.spillMem 2 else .ok 0

/-- The loop frame on top, if there is one, holds a body that ends with `last` and does not end with the word at PC (04 R95). -/
def loopNested (b : State) (last : Word) : Prop :=
  ∀ f ∈ b.core.topLoop b.spillMem, b.core.xpc ≠ f.2.1 ∧ last.toNat ≤ f.2.1.toNat

theorem loopBreaks_fixed (b : State) (k : Nat) (last : Word) : (b.fixed k).loopBreaks last = b.loopBreaks last := by
  rw [fixed_frame]; rfl

theorem loopBreaks_false_iff (b : State) (last : Word) : b.loopBreaks last = false ↔ loopNested b last := by
  unfold State.loopBreaks loopNested
  cases b.core.topLoop b.spillMem <;> simp

section

variable {r : Xi} {s b : State} (h : s.XTakes r.g r.gn [r.a.toNat] b)
include h

theorem exec_loop_lost {z : BitVec 8} (hc : loopChecked b = .error z) : exec (.loop r) s = .next (stackLost b z) := by
  unfold loopChecked at hc
  refine congrArg Host.Outcome.next ((xWord_takes _ h).trans ?_)
  simp only [hc]
  rfl

theorem exec_loop_breaks {k : Nat} (hc : loopChecked b = .ok k) (hn : ¬ loopNested b (b.core.xpc + 8 * r.imm.zeroExtend 64)) :
    exec (.loop r) s = .next (b.raiseLeave false (.fault causeIll) 0 0) := by
  rw [← loopBreaks_false_iff, Bool.not_eq_false] at hn
  unfold loopChecked at hc
  refine congrArg Host.Outcome.next ((xWord_takes _ h).trans ?_)
  simp only [hc, loopBreaks_fixed, hn, if_true]
  rfl

section

variable {k : Nat} (hc : loopChecked b = .ok k) (hn : loopNested b (b.core.xpc + 8 * r.imm.zeroExtend 64))
include hc hn

/-- A count of zero skips the body: the stack steps as it does after the body's last word (04 R95, R382). -/
theorem exec_loop_skips (h0 : ((b.getX 0 r.a.toNat).extractLsb' 0 32).toNat = 0) {o : Stacked}
    (ho : Core.loopStep b.spillMem (b.core.xpc + 8 * r.imm.zeroExtend 64) b.core.depth
      { b.core with xpc := b.core.xpc + 8 * r.imm.zeroExtend 64 + 8, xdoubt := false } = o) :
    (∀ c j, o = .ok (c, j) → exec (.loop r) s = .next ((took (b.fixed k) c j).xJump c.xpc)) ∧
      (∀ z, o = .error z → exec (.loop r) s = .next (stackLost b z)) := by
  rw [← loopBreaks_false_iff] at hn
  unfold loopChecked at hc
  refine ⟨fun c j hok => ?_, fun z herr => ?_⟩
  · refine congrArg Host.Outcome.next ((xWord_takes _ h).trans ?_)
    simp only [hc, loopBreaks_fixed, hn, h0, fixed_core, spillMem_fixed, ho, hok, Bool.false_eq_true, if_true, if_false]
    rfl
  · refine congrArg Host.Outcome.next ((xWord_takes _ h).trans ?_)
    simp only [hc, loopBreaks_fixed, hn, h0, fixed_core, spillMem_fixed, ho, herr, Bool.false_eq_true, if_true, if_false]
    rfl

theorem exec_loop_enters (h0 : ((b.getX 0 r.a.toNat).extractLsb' 0 32).toNat ≠ 0) (hp : b.canPush 2 = true)
    (hs : b.stepPoisoned 1 = none) : exec (.loop r) s = .next ((((b.fixed k).pushEntry (loopStartEntry (b.core.xpc + 8))).pushEntry
      (loopCountEntry r.imm.toNat ((b.getX 0 r.a.toNat).extractLsb' 0 32).toNat)).xDone 1) := by
  rw [← loopBreaks_false_iff] at hn
  unfold loopChecked at hc
  refine congrArg Host.Outcome.next ((xWord_takes _ h).trans ?_)
  simp only [hc, loopBreaks_fixed, hn, h0, canPush_fixed, hp, fixed_core, Bool.false_eq_true, if_true, if_false]
  exact xEnd_done hs

theorem exec_loop_full (h0 : ((b.getX 0 r.a.toNat).extractLsb' 0 32).toNat ≠ 0) (hp : b.canPush 2 = false) :
    exec (.loop r) s = .next (b.raiseLeave false (.fault causeStack) 0 0) := by
  rw [← loopBreaks_false_iff] at hn
  unfold loopChecked at hc
  refine congrArg Host.Outcome.next ((xWord_takes _ h).trans ?_)
  simp only [hc, loopBreaks_fixed, hn, h0, canPush_fixed, hp, Bool.false_eq_true, if_false]
  rfl

end

end

/-! ### The statements -/

/-- Settles O8: each clause is one way that the word goes by what it finds on the stack. -/
theorem controlWordsTransfer : Obligations.ControlWordsTransfer := by
  refine ⟨fun r s b h => ?_, fun r s b h => ?_, fun r s b h => ?_, fun r s b h => ?_⟩
  · rw [exec_br h, exec_call h]
    exact ⟨fun c k hc => congrArg _ (xEnd_branchTo_ok hc), fun z hz => congrArg _ (xEnd_branchTo_error hz),
      fun hp => congrArg _ (xEnd_callTo_room hp), fun hp => congrArg _ (xEnd_callTo_full hp)⟩
  · obtain ⟨haligned, hmisaligned⟩ := exec_jr_callr h
    refine ⟨hmisaligned, fun ht => ?_⟩
    obtain ⟨hjr, hcallr⟩ := haligned ht
    rw [hjr, hcallr]
    exact ⟨fun c k hc => congrArg _ (xEnd_branchTo_ok hc), fun z hz => congrArg _ (xEnd_branchTo_error hz),
      fun hp => congrArg _ (xEnd_callTo_room hp), fun hp => congrArg _ (xEnd_callTo_full hp)⟩
  · refine ⟨fun z hz => exec_ret_lost h (takeReturn_of_lost_frame hz),
      fun c k hc he => exec_ret_empty h (takeReturn_of_empty hc he), fun c k e hc he => ⟨fun hu => ?_, fun v hu => ?_, fun v hu => ?_⟩⟩
    · exact exec_ret_lost h (takeReturn_of_lost_entry hc he hu)
    · exact exec_ret_misaligned h (takeReturn_of_entry hc he hu)
    · exact exec_ret_returns h (takeReturn_of_entry hc he hu)
  · refine ⟨fun z => exec_loop_lost h, fun k => exec_loop_breaks h, fun k c j hc hn h0 hs => ?_, fun k z hc hn h0 hs => ?_,
      fun k hc hn h0 => exec_loop_enters h hc hn h0, fun k hc hn h0 => exec_loop_full h hc hn h0⟩
    · exact (exec_loop_skips h hc hn h0 hs).1 c j rfl
    · exact (exec_loop_skips h hc hn h0 hs).2 z rfl

/-- Settles O9: the entry that `call` pushed is a return entry on top of the stack, which `ret` takes off. -/
theorem retUndoesCall : Obligations.RetUndoesCall := by
  intro rc rr s b t hcall hroom halign hg hgn hexec
  obtain rfl : b = s.landDue := hcall.acts
  have hpush : s.landDue.canPush 1 = true := Bool.or_eq_true_iff.mpr (.inl (decide_eq_true hroom))
  rw [exec_call hcall, xEnd_callTo_room hpush, pushEntry_room (s := s.landDue) hroom] at hexec
  cases hexec
  refine ⟨_, exec_ret_returns (xTakes_unguarded hg hgn _) (takeReturn_of_return rfl)
    (codeAddr_aligned (next_word_aligned halign)), rfl, ?_, ?_⟩
  · rw [xJump_rstack, took_core]
    rfl
  · rw [xJump_spilled, took_core]
    rfl

end Sys2Proof.Proofs
end

section
/-! What a scalar word leaves alone (04 R77, R79, R83-R92): each of the few things that the shell of a word does to the state keeps
`ScalarFrame`, and so does the word's one write. -/

namespace Sys2Proof.Proofs

open Sys2Proof.Machine Sys2Proof.Claims Sys2Proof.Laws

/-! ### Counts -/

theorem sameButCounts_refl (s : State) : SameButCounts s s := fun _ => rfl

theorem sameButCounts_trans {s t u : State} (h : SameButCounts s t) (h' : SameButCounts t u) : SameButCounts s u :=
  fun d => (h' d).trans (h d)

theorem sameButCounts_count (s : State) (d i n : Nat) : SameButCounts s (s.count d i n) := by
  unfold State.count
  split
  · exact sameButCounts_refl s
  · split
    · exact sameButCounts_refl s
    · rename_i x hx
      intro e
      show (tget (tset s.doms d _) e).map _ = _
      by_cases he : e = d
      · rw [he, tget_tset_same, hx]
        rfl
      · rw [tget_tset_ne _ _ he]
        rfl

theorem sameButCounts_fixed (s : State) (k : Nat) : SameButCounts s (s.fixed k) := sameButCounts_count s s.domHere 9 k

/-! ### Moving the stream on -/

/-- From `t` to `u` the X stream of the core in focus moves on, and corrected words are counted; nothing else happens. -/
structure StreamMoves (t u : State) : Prop where
  rest : u = { t with core := u.core, doms := u.doms }
  counts : SameButCounts t u
  core : u.core = { t.core with
    xpc := u.core.xpc, rstack := u.core.rstack, spilled := u.core.spilled, xcycle := u.core.xcycle, xdoubt := u.core.xdoubt }

theorem streamMoves_takeX (t : State) (uses : List Nat) : StreamMoves t (t.takeX uses) :=
  ⟨by rw [takeX_frame], sameButCounts_fixed t _, by rw [takeX_core]⟩

theorem streamMoves_xWait (t : State) : StreamMoves t t.xWait := ⟨rfl, sameButCounts_refl t, rfl⟩

theorem streamMoves_xDone (t : State) (len : Nat) : StreamMoves t (t.xDone len) where
  rest := xDone_parts t len
  core := xDone_frame t len
  counts := by
    unfold State.xDone
    split
    · exact sameButCounts_refl t
    · exact sameButCounts_fixed _ _

/-! ### A leave request -/

/-- Raising a leave request adds it to the requests of the context in focus and holds the stream; with no context there it does
nothing (10 R245). -/
theorem raiseLeave_cases (t : State) (kind : AskKind) (data : Word) (code : BitVec 32) :
    t.raiseLeave false kind data code = t ∨
      ∃ k c a, t.core.ctx = some k ∧ tget t.ctxs k = some c ∧
        t.raiseLeave false kind data code =
          { t with ctxs := tset t.ctxs k { c with asks := c.asks ++ [a] }, core := { t.core with xhold := .asking } } := by
  unfold State.raiseLeave
  split
  · exact .inl rfl
  · rename_i k c hhere
    obtain ⟨hctx, hc⟩ := here?_some hhere
    exact .inr ⟨k, c, _, hctx, hc, rfl⟩

/-! ### The frame -/

section

variable {s t : State} {d pd : Option Nat}

theorem scalarFrame_landDue (s : State) (d pd : Option Nat) : ScalarFrame s s.landDue d pd :=
  ⟨rfl, sameButCounts_refl s, rfl, fun _ _ => ⟨rfl, rfl⟩, ⟨rfl, rfl⟩, fun _ _ => rfl, .inl ⟨rfl, rfl⟩, fun _ => rfl⟩

theorem scalarFrame_moves {u : State} (h : ScalarFrame s t d pd) (hm : StreamMoves t u) : ScalarFrame s u d pd := by
  obtain ⟨hrest, hcounts, hcore⟩ := hm
  have hx : u.core.x = t.core.x := by rw [hcore]
  have hp : u.core.p = t.core.p := by rw [hcore]
  have hbad : u.core.xbad = t.core.xbad := by rw [hcore]
  have hhold : u.core.xhold = t.core.xhold := by rw [hcore]
  have hctxs : u.ctxs = t.ctxs := by rw [hrest]
  have hmem : u.mem = t.mem := by rw [hrest]
  exact
    { rest := by rw [hrest, h.rest]
      counts := sameButCounts_trans h.counts hcounts
      core := by rw [hcore, h.core]
      others := fun i hi => by rw [hx, hbad]; exact h.others i hi
      undef := by rw [hx, hp]; exact h.undef
      preds := fun i hi => by rw [hp]; exact h.preds i hi
      asks := by rw [hctxs, hhold]; exact h.asks
      memory := fun a => by rw [hmem]; exact h.memory a }

/-- A stop on a state that has raised no leave request yet. -/
theorem scalarFrame_raise (h : ScalarFrame s t d pd) (hctxs : t.ctxs = s.ctxs) (kind : AskKind) (data : Word) (code : BitVec 32) :
    ScalarFrame s (t.raiseLeave false kind data code) d pd := by
  rcases raiseLeave_cases t kind data code with heq | ⟨k, c, a, hctx, hc, heq⟩
  · rw [heq]
    exact h
  · have hctx' : s.core.ctx = some k := by rw [h.core] at hctx; exact hctx
    rw [heq]
    exact
      { rest := by rw [h.rest]
        counts := h.counts
        core := by rw [h.core]
        others := h.others
        undef := h.undef
        preds := h.preds
        asks := .inr ⟨k, c, a, hctx', hctxs ▸ hc, by rw [hctxs], rfl⟩
        memory := h.memory }

theorem scalarFrame_putX {d : Nat} (h : ScalarFrame s t (some d) pd) (hx : t.core.x.wf = true)
    (hbad : tableFrom 0 t.core.xbad = true) (v : Word) (lb : BitVec 3) (fl : BitVec 5) :
    ScalarFrame s (t.putX d v lb fl) (some d) pd := by
  have hframe := putX_frame t d lb fl v
  have hp : (t.putX d v lb fl).core.p = t.core.p := by rw [hframe]
  have hhold : (t.putX d v lb fl).core.xhold = t.core.xhold := by rw [hframe]
  have hctxs : (t.putX d v lb fl).ctxs = t.ctxs := by rw [hframe]
  have hmem : (t.putX d v lb fl).mem = t.mem := by rw [hframe]
  exact
    { rest := by rw [hframe, h.rest]
      counts := fun e => by rw [hframe]; exact h.counts e
      core := by rw [hframe, h.core]
      others := fun i hi => by
        have hne : i ≠ d := fun hd => hi (congrArg some hd)
        rw [tget_putX_x_ne hx hne, tget_putX_xbad_ne hbad hne]
        exact h.others i hi
      undef := by rw [putX_undef, hp]; exact h.undef
      preds := fun i hi => by rw [hp]; exact h.preds i hi
      asks := by rw [hctxs, hhold]; exact h.asks
      memory := fun a => by rw [hmem]; exact h.memory a }

theorem scalarFrame_putP {pd : Nat} (h : ScalarFrame s t d (some pd)) (hp : t.core.p.wf = true) (v : Bool) (lb : BitVec 3)
    (fl : BitVec 5) : ScalarFrame s (t.putP pd v lb fl) d (some pd) := by
  have hframe := putP_frame t pd lb fl v
  have hx : (t.putP pd v lb fl).core.x = t.core.x := by rw [hframe]
  have hbad : (t.putP pd v lb fl).core.xbad = t.core.xbad := by rw [hframe]
  have hhold : (t.putP pd v lb fl).core.xhold = t.core.xhold := by rw [hframe]
  have hctxs : (t.putP pd v lb fl).ctxs = t.ctxs := by rw [hframe]
  have hmem : (t.putP pd v lb fl).mem = t.mem := by rw [hframe]
  exact
    { rest := by rw [hframe, h.rest]
      counts := fun e => by rw [hframe]; exact h.counts e
      core := by rw [hframe, h.core]
      others := fun i hi => by rw [hx, hbad]; exact h.others i hi
      undef := by rw [putP_undef, hx]; exact h.undef
      preds := fun i hi => by
        rw [tget_putP_p_ne hp (fun hd => hi (congrArg some hd))]
        exact h.preds i hi
      asks := by rw [hctxs, hhold]; exact h.asks
      memory := fun a => by rw [hmem]; exact h.memory a }

theorem scalarFrame_takeX (s : State) (uses : List Nat) (d pd : Option Nat) : ScalarFrame s (s.landDue.takeX uses) d pd :=
  scalarFrame_moves (scalarFrame_landDue s d pd) (streamMoves_takeX _ uses)

/-- Whichever way a word goes that completes with `f`, it keeps the frame that `f` keeps. -/
theorem scalarFrame_xWord {g : BitVec 7} {gn : Bool} {uses : List Nat} {f : State → State}
    (hf : ScalarFrame s (f (s.landDue.takeX uses)) d pd) : ScalarFrame s (s.xWord g gn uses fun u => .done (f u)) d pd := by
  refine xWordN_ind (P := (ScalarFrame s · d pd)) (fun z => ?_) ?_ ?_ ?_
  · exact scalarFrame_raise (scalarFrame_landDue s d pd) rfl _ _ _
  · exact scalarFrame_moves (scalarFrame_landDue s d pd) (streamMoves_xWait _)
  · exact scalarFrame_moves (scalarFrame_landDue s d pd) (streamMoves_xDone _ 1)
  · cases hstep : (s.landDue.takeX uses).stepPoisoned 1 with
    | none =>
      rw [xEnd_done hstep]
      exact scalarFrame_moves hf (streamMoves_xDone _ 1)
    | some z =>
      simp only [State.xEnd, hstep]
      exact scalarFrame_raise (scalarFrame_takeX s uses d pd) (takeX_ctxs _ _) _ _ _

end

section

variable {g : BitVec 7} {gn : Bool} {uses : List Nat} {lb : BitVec 3} {fl : State → Flags} {i : Instr} {s t : State}
  (hx : s.core.x.wf = true) (hp : s.core.p.wf = true) (hbad : tableFrom 0 s.core.xbad = true)

include hx hbad in
theorem SetsX.frame {d : BitVec 6} {v : State → Word} (h : SetsX g gn uses d lb v fl i) (he : exec i s = .next t) :
    ScalarFrame s t (some d.toNat) none := by
  rw [h s] at he
  cases he
  refine scalarFrame_xWord (scalarFrame_putX (scalarFrame_takeX s uses _ _) ?_ ?_ _ _ _)
  · rw [takeX_core]
    exact hx
  · rw [takeX_core]
    exact hbad

include hp in
theorem SetsP.frame {d : Nat} {v : State → Bool} (h : SetsP g gn uses d lb v fl i) (he : exec i s = .next t) :
    ScalarFrame s t none (some d) := by
  rw [h s] at he
  cases he
  refine scalarFrame_xWord (scalarFrame_putP (scalarFrame_takeX s uses _ _) ?_ _ _ _)
  rw [takeX_core]
  exact hp

end

/-- Settles O10: every word of the lists is one write in the shell of a word. -/
theorem scalarWordsLeaveTheRestAlone : Obligations.ScalarWordsLeaveTheRestAlone := by
  refine ⟨?_, ?_, ?_, ?_, ?_⟩
  · refine List.forall_mem_append.mpr ⟨List.forall_mem_map.mpr ?_, List.forall_mem_append.mpr ⟨List.forall_mem_map.mpr ?_,
      List.forall_mem_append.mpr ⟨List.forall_mem_map.mpr ?_, List.forall_mem_append.mpr ⟨List.forall_mem_map.mpr ?_, ?_⟩⟩⟩⟩
    · exact fun p hp r s t hx _ hbad => (binaryForms_set p hp r).frame hx hbad
    · exact fun p hp r s t hx _ hbad => (unaryForms_set p hp r).frame hx hbad
    · exact fun p hp r s t hx _ hbad => (floatForms_set p hp r).frame hx hbad
    · exact fun p hp r s t hx _ hbad => (convertForms_set p hp r).frame hx hbad
    · refine List.forall_mem_cons.mpr ⟨?_, List.forall_mem_cons.mpr ⟨?_, List.forall_mem_singleton.mpr ?_⟩⟩
      · exact fun r s t hx _ hbad => (mad_sets r).frame hx hbad
      · exact fun r s t hx _ hbad => (sel_sets r).frame hx hbad
      · exact fun r s t hx _ hbad => (pget_sets r).frame hx hbad
  · exact List.forall_mem_map.mpr fun p hp r s t hx _ hbad => (immediateForms_set p hp r).frame hx hbad
  · refine List.forall_mem_cons.mpr ⟨?_, List.forall_mem_cons.mpr ⟨?_, List.forall_mem_singleton.mpr ?_⟩⟩
    · exact fun r s t hx _ hbad => (movi_sets r).frame hx hbad
    · exact fun r s t hx _ hbad => (movu_sets r).frame hx hbad
    · exact fun r s t hx _ hbad => (movh_sets r).frame hx hbad
  · refine List.forall_mem_append.mpr ⟨List.forall_mem_map.mpr ?_, List.forall_mem_append.mpr ⟨List.forall_mem_map.mpr ?_,
      List.forall_mem_append.mpr ⟨List.forall_mem_map.mpr ?_, List.forall_mem_singleton.mpr ?_⟩⟩⟩
    · exact fun p hp r s t _ hpred _ => (compareForms_set p hp r).frame hpred
    · exact fun p hp r s t _ hpred _ => (predicateForms_set p hp r).frame hpred
    · exact fun p hp r s t _ hpred _ => (floatCompareForms_set p hp r).frame hpred
    · exact fun r s t _ hpred _ => (pput_sets r).frame hpred
  · exact List.forall_mem_map.mpr fun p hp r s t _ hpred _ => (compareImmForms_set p hp r).frame hpred

end Sys2Proof.Proofs
end

section
/-! Words that queue a vector command (05 R108, R109, R123, R128): each is the shell of a word around `State.vIssue`. -/

namespace Sys2Proof.Proofs

open Sys2Proof.Machine Sys2Proof.Claims Sys2Proof.Laws

/-! ### What a ready word acts on -/

/-- A word that takes its effect acts on the core in which the windows that have closed have landed, and on nothing else new. -/
theorem xReady_core {s b : State} {len : Nat} {g : BitVec 7} {gn : Bool} {uses : List Nat} (h : s.XReady len g gn uses b) :
    b.core = s.core.landDue := by
  rw [h.acts, takeX_core, landDue_core]

theorem xReady_vq {s b : State} {len : Nat} {g : BitVec 7} {gn : Bool} {uses : List Nat} (h : s.XReady len g gn uses b) :
    b.core.vq = s.core.vq := by
  rw [xReady_core h, landDue_core_vq]

theorem xReady_mq {s b : State} {len : Nat} {g : BitVec 7} {gn : Bool} {uses : List Nat} (h : s.XReady len g gn uses b) :
    b.core.mq = s.core.mq := by
  rw [xReady_core h, landDue_core_mq]

/-! ### How an issue ends -/

section

variable {s : State} {ok : State → VCmd → Bool} {extra : State → VCmd → Option Nat} {v : VCmd}

theorem vIssue_illegal (hok : ok s v = false) : s.vIssue ok extra v = .trap causeIll 0 := by
  simp only [State.vIssue, hok, Bool.not_false, if_true]

theorem vIssue_trap {c : Nat} (hok : ok s v = true) (hx : extra s v = some c) : s.vIssue ok extra v = .trap c 0 := by
  simp only [State.vIssue, hok, hx, Bool.not_true, Bool.false_eq_true, if_false]

theorem vIssue_legal (hok : ok s v = true) (hx : extra s v = none) :
    s.vIssue ok extra v = if 4 ≤ (s.core.vq.filter (fun c => !c.started)).length then .wait s else .done (s.vPush v) := by
  simp only [State.vIssue, hok, hx, Bool.not_true, Bool.false_eq_true, if_false]

end

/-- Whatever the state, the word's effect is to check and queue the command `v`. -/
def QueuesVector (len : Nat) (g : BitVec 7) (gn : Bool) (uses : List Nat) (ok : State → VCmd → Bool)
    (extra : State → VCmd → Option Nat) (v : State → VCmd) (i : Instr) : Prop :=
  ∀ s, exec i s = .next (s.xWordN len g gn uses fun u => u.vIssue ok extra (v u))

section

variable {len : Nat} {g : BitVec 7} {gn : Bool} {uses : List Nat} {ok : State → VCmd → Bool} {extra : State → VCmd → Option Nat}
  {v : State → VCmd} {i : Instr} {s b : State} (h : QueuesVector len g gn uses ok extra v i) (hr : s.XReady len g gn uses b)

include h hr

theorem QueuesVector.illegal (hok : ok b (v b) = false) : exec i s = .next (b.raiseLeave false (.fault causeIll) 0 0) := by
  rw [h s, xWordN_ready _ hr, vIssue_illegal hok, readyEnd]

theorem QueuesVector.trap {c : Nat} (hok : ok b (v b) = true) (hx : extra b (v b) = some c) :
    exec i s = .next (b.raiseLeave false (.fault c) 0 0) := by
  rw [h s, xWordN_ready _ hr, vIssue_trap hok hx, readyEnd]

theorem QueuesVector.full (hok : ok b (v b) = true) (hx : extra b (v b) = none)
    (hfull : 4 ≤ (s.core.vq.filter (fun c => !c.started)).length) : exec i s = .next b.xWait := by
  rw [h s, xWordN_ready _ hr, vIssue_legal hok hx, xReady_vq hr, if_pos hfull, readyEnd]

theorem QueuesVector.room (hok : ok b (v b) = true) (hx : extra b (v b) = none)
    (hroom : (s.core.vq.filter (fun c => !c.started)).length < 4) :
    exec i s = .next (({ b with core := { b.core with vq := s.core.vq ++ [v b] } } : State).xDone len) := by
  rw [h s, xWordN_ready _ hr, vIssue_legal hok hx, xReady_vq hr, if_neg (Nat.not_le.mpr hroom), readyEnd, State.vPush, xReady_vq hr]

end

/-! ### The words -/

/-- The check of the pre-emption budget that row words make (10 R267). -/
def rowBudget (s : State) (v : VCmd) : Option Nat := if s.overBudget (rowWork v) then some causeBudget else none

/-- The command of a chain (05 R123). -/
def chainSnap (r : Xc) (s : State) : VCmd :=
  { s.vSnap 0x50 0 { g := r.g, gn := r.gn, rm := 0, t := r.t, sx := 0, sb := r.sb, sa := r.sa, sd := r.sd } with
    links := r.links
    linkSpans := r.links.zipIdx.map (fun k => s.getS (4 + k.2) k.1.so.toNat)
    linkScalars := r.links.zipIdx.map (fun k => s.getX (4 + k.2) k.1.sx.toNat) }

theorem spanForms_queue : ∀ p ∈ spanForms, ∀ r : Xs, QueuesVector 1 r.g r.gn (spanUses p.2.1 p.2.2 r.sx.toNat) State.vectorOk
    (fun _ _ => none) (fun u => u.vSnap p.2.1 p.2.2 r) (p.1 r) := by
  repeat refine List.forall_mem_cons.mpr ⟨fun r s => rfl, ?_⟩
  exact List.forall_mem_nil _

theorem rowForms_queue : ∀ p ∈ rowForms, ∀ r : Xs, QueuesVector 1 r.g r.gn [r.sx.toNat] State.rowOk rowBudget
    (fun u => u.vSnap 0x58 p.2 r) (p.1 r) := by
  repeat refine List.forall_mem_cons.mpr ⟨fun r s => rfl, ?_⟩
  exact List.forall_mem_nil _

theorem vchain_queues (r : Xc) : QueuesVector (1 + r.links.length) r.g r.gn
    ((r.links.filter (fun k => linkClass k == 2)).map (fun k => k.sx.toNat)) State.vectorOk (fun _ _ => none) (chainSnap r) (.vchain r) :=
  fun _ => rfl

/-- Settles O29: every word is the shell of a word around one issue, which ends in one of four ways. -/
theorem vectorWordsQueueTheirCommand : Obligations.VectorWordsQueueTheirCommand := by
  refine ⟨fun p hp r s b hr => ?_, fun p hp r s b hr => ?_, fun r s b hr => ?_⟩
  · have h := spanForms_queue p hp r
    exact ⟨h.illegal hr, fun hok => h.full hr hok rfl, fun hok => h.room hr hok rfl⟩
  · have h := rowForms_queue p hp r
    exact ⟨h.illegal hr, fun hok hover => h.trap hr hok (if_pos hover),
      fun hok hwithin => h.full hr hok (if_neg (Bool.eq_false_iff.mp hwithin)),
      fun hok hwithin => h.room hr hok (if_neg (Bool.eq_false_iff.mp hwithin))⟩
  · have h := vchain_queues r
    exact ⟨h.illegal hr, fun hok => h.full hr hok rfl, fun hok => h.room hr hok rfl⟩

end Sys2Proof.Proofs
end

section
/-! Span registers (05 R104, R105, Table 05-1): each word that sets a field replaces its bits in s[SD], and the fields lie apart. -/

namespace Sys2Proof.Proofs

open Sys2Proof.Machine Sys2Proof.Claims Sys2Proof.Laws

/-! ### Bits of a number with a field replaced -/

theorem putBits_eq (n hi lo v : Nat) (h : lo ≤ hi + 1) :
    putBits n hi lo v = 2 ^ lo * (2 ^ (hi + 1 - lo) * (n / 2 ^ (hi + 1)) + v % 2 ^ (hi + 1 - lo)) + n % 2 ^ lo := by
  have hpow : 2 ^ (hi + 1) = 2 ^ lo * 2 ^ (hi + 1 - lo) := by rw [← pow_add, Nat.add_sub_cancel' h]
  have hlow := Nat.div_add_mod n (2 ^ lo)
  have hmid := Nat.div_add_mod (n / 2 ^ lo) (2 ^ (hi + 1 - lo))
  rw [putBits, bits_eq_div_mod, hpow, ← Nat.div_div_eq_div_mul]
  generalize n / 2 ^ lo / 2 ^ (hi + 1 - lo) = top, n / 2 ^ lo % 2 ^ (hi + 1 - lo) = mid at *
  have hn : n = 2 ^ lo * (2 ^ (hi + 1 - lo) * top) + mid * 2 ^ lo + n % 2 ^ lo := by
    rw [Nat.mul_comm mid, ← Nat.mul_add, hmid, hlow]
  have hsub : n - mid * 2 ^ lo = 2 ^ lo * (2 ^ (hi + 1 - lo) * top) + n % 2 ^ lo := by omega
  rw [hsub, Nat.mul_add, Nat.mul_comm (v % _)]
  omega

theorem testBit_putBits {n hi lo v i : Nat} (h : lo ≤ hi + 1) :
    (putBits n hi lo v).testBit i = if lo ≤ i ∧ i ≤ hi then v.testBit (i - lo) else n.testBit i := by
  rw [putBits_eq n hi lo v h, Nat.testBit_two_pow_mul_add _ (Nat.mod_lt _ (Nat.two_pow_pos _)),
    Nat.testBit_two_pow_mul_add _ (Nat.mod_lt _ (Nat.two_pow_pos _))]
  by_cases hlow : i < lo
  · rw [if_pos hlow, if_neg (by omega), Nat.testBit_mod_two_pow, decide_eq_true hlow, Bool.true_and]
  · by_cases hmid : i - lo < hi + 1 - lo
    · rw [if_neg hlow, if_pos hmid, if_pos (by omega), Nat.testBit_mod_two_pow, decide_eq_true hmid, Bool.true_and]
    · rw [if_neg hlow, if_neg hmid, if_neg (by omega), Nat.testBit_div_two_pow]
      congr 1
      omega

/-! ### Reads after a write -/

section

variable {s : State} {d hi lo v : Nat} (hwf : s.core.sp.wf = true)

include hwf

/-- Bits [127:39] of a span register whose bits `[hi:lo]` have been written. -/
theorem getLsbD_getS_putS (p : Nat) {i : Nat} (h : lo ≤ hi + 1) (hi39 : 39 ≤ i) (hi128 : i < 128) :
    ((s.putS d hi lo v).getS p d).getLsbD i = if lo ≤ i ∧ i ≤ hi then v.testBit (i - lo) else (s.getS 0 d).getLsbD i := by
  have hmask : (~~~(BitVec.ofNat 128 (2 ^ 39 - 1))).getLsbD i = true := by
    rw [BitVec.getLsbD_not, BitVec.getLsbD_ofNat, Nat.testBit_two_pow_sub_one]
    simp [hi128, hi39]
  rw [State.getS, State.putS, get_put_same _ hwf, BitVec.getLsbD_and, hmask, Bool.and_true, BitVec.getLsbD_ofNat, decide_eq_true hi128,
    Bool.true_and, testBit_putBits h, BitVec.testBit_toNat]

/-- A field within the bits that have been written holds its part of the value. -/
theorem extractLsb'_getS_putS_within (p : Nat) {k w : Nat} (hlo : 39 ≤ lo) (hhi : hi < 128) (hk : lo ≤ k) (hkw : k + w ≤ hi + 1) :
    ((s.putS d hi lo v).getS p d).extractLsb' k w = BitVec.ofNat w (v / 2 ^ (k - lo)) := by
  refine BitVec.eq_of_getLsbD_eq fun i hlt => ?_
  rw [BitVec.getLsbD_extractLsb', BitVec.getLsbD_ofNat, getLsbD_getS_putS hwf p (by omega) (by omega) (by omega), if_pos (by omega),
    Nat.testBit_div_two_pow, Nat.sub_add_comm hk, Nat.add_comm i]

/-- A field apart from the bits that have been written is as it was. -/
theorem extractLsb'_getS_putS_apart (p : Nat) {k w : Nat} (h : lo ≤ hi) (hk : 39 ≤ k) (hkw : k + w ≤ 128) (hapart : k + w ≤ lo ∨ hi < k) :
    ((s.putS d hi lo v).getS p d).extractLsb' k w = (s.getS 0 d).extractLsb' k w := by
  refine BitVec.eq_of_getLsbD_eq fun i hlt => ?_
  rw [BitVec.getLsbD_extractLsb', BitVec.getLsbD_extractLsb', getLsbD_getS_putS hwf p (by omega) (by omega) (by omega), if_neg (by omega)]

theorem dBase_putS_apart (p : Nat) (h : lo ≤ hi) (hapart : hi < 96) : dBase ((s.putS d hi lo v).getS p d) = dBase (s.getS 0 d) :=
  congrArg BitVec.toNat (extractLsb'_getS_putS_apart hwf p h (by decide) (by decide) (.inr hapart))

theorem dStride_putS_apart (p : Nat) (h : lo ≤ hi) (hapart : 96 ≤ lo ∨ hi < 64) :
    dStride ((s.putS d hi lo v).getS p d) = dStride (s.getS 0 d) :=
  congrArg BitVec.toInt (extractLsb'_getS_putS_apart hwf p h (by decide) (by decide) hapart)

theorem dCount_putS_apart (p : Nat) (h : lo ≤ hi) (hapart : 64 ≤ lo ∨ hi < 48) :
    dCount ((s.putS d hi lo v).getS p d) = dCount (s.getS 0 d) :=
  congrArg BitVec.toNat (extractLsb'_getS_putS_apart hwf p h (by decide) (by decide) hapart)

theorem dType_putS_apart (p : Nat) (h : lo ≤ hi) (hapart : 48 ≤ lo) : dType ((s.putS d hi lo v).getS p d) = dType (s.getS 0 d) :=
  congrArg BitVec.toNat (extractLsb'_getS_putS_apart hwf p h (by decide) (by decide) (.inl hapart))

theorem dQueue_putS_apart (p : Nat) (h : lo ≤ hi) (hapart : 44 ≤ lo) : dQueue ((s.putS d hi lo v).getS p d) = dQueue (s.getS 0 d) :=
  congrArg BitVec.toNat (extractLsb'_getS_putS_apart hwf p h (by decide) (by decide) (.inl hapart))

theorem getS_putS_ne (p : Nat) {j : Nat} (hj : j ≠ d) : (s.putS d hi lo v).getS p j = s.getS p j := by
  rw [State.getS, State.getS, State.putS, get_put_ne _ hwf _ _ _ hj]

end

section

variable {s : State} {d : Nat} (hwf : s.core.sp.wf = true)

include hwf

theorem dBase_putS (p v : Nat) : dBase ((s.putS d 127 96 v).getS p d) = v % 2 ^ 32 := by
  rw [dBase, extractLsb'_getS_putS_within hwf p (by decide) (by decide) (by decide) (by decide), BitVec.toNat_ofNat, Nat.sub_self,
    pow_zero, Nat.div_one]

theorem dStride_putS (p v : Nat) : dStride ((s.putS d 95 64 v).getS p d) = (BitVec.ofNat 32 v).toInt := by
  rw [dStride, extractLsb'_getS_putS_within hwf p (by decide) (by decide) (by decide) (by decide), Nat.sub_self, pow_zero, Nat.div_one]

theorem dCount_putS (p v : Nat) : dCount ((s.putS d 63 48 v).getS p d) = v % 2 ^ 16 := by
  rw [dCount, extractLsb'_getS_putS_within hwf p (by decide) (by decide) (by decide) (by decide), BitVec.toNat_ofNat, Nat.sub_self,
    pow_zero, Nat.div_one]

theorem dType_putS (p v : Nat) : dType ((s.putS d 47 39 v).getS p d) = v / 32 % 16 := by
  rw [dType, extractLsb'_getS_putS_within hwf p (by decide) (by decide) (by decide) (by decide), BitVec.toNat_ofNat]
  rfl

theorem dQueue_putS (p v : Nat) : dQueue ((s.putS d 47 39 v).getS p d) = v % 32 := by
  rw [dQueue, extractLsb'_getS_putS_within hwf p (by decide) (by decide) (by decide) (by decide), BitVec.toNat_ofNat, Nat.sub_self,
    pow_zero, Nat.div_one]

end

/-! ### The words -/

/-- Whatever the state, the word's effect is to write the bits `[hi:lo]` of s[SD]. -/
def SetsS (use hi lo : Nat) (v : State → Nat) (r : Xs) (i : Instr) : Prop :=
  ∀ s, exec i s = .next (s.xWord r.g r.gn [use] fun u => .done (u.putS r.sd.toNat hi lo (v u)))

theorem SetsS.ready {use hi lo : Nat} {v : State → Nat} {r : Xs} {i : Instr} {s b : State} (h : SetsS use hi lo v r i)
    (hr : s.XReady 1 r.g r.gn [use] b) : exec i s = .next ((b.putS r.sd.toNat hi lo (v b)).xDone 1) := by
  rw [h s, xWord_ready _ hr, readyEnd]

theorem vsetb_sets (r : Xs) : SetsS r.sx.toNat 127 96 (fun u => (u.getX 0 r.sx.toNat).toNat) r (.vsetb r) := fun _ => rfl
theorem vsets_sets (r : Xs) : SetsS r.sx.toNat 95 64 (fun u => (u.getX 0 r.sx.toNat).toNat) r (.vsets r) := fun _ => rfl
theorem vsetn_sets (r : Xs) : SetsS r.sx.toNat 63 48 (fun u => min (u.getX 0 r.sx.toNat).toNat 65535) r (.vsetn r) := fun _ => rfl
theorem vsett_sets (r : Xs) : SetsS 64 47 39 (fun _ => r.t.toNat * 32 + r.sx.toNat) r (.vsett r) := fun _ => rfl

section

variable {r : Xs} {s b : State} (hr : s.XReady 1 r.g r.gn [64 + r.sx.toNat] b)

include hr

theorem exec_vgetb : exec (.vgetb r) s = .next ((b.putX r.sx.toNat (BitVec.ofNat 64 (dBase (b.getS 0 r.sa.toNat))) 0 0).xDone 1) :=
  congrArg Host.Outcome.next (xWord_ready _ hr)

theorem exec_vgetn : exec (.vgetn r) s = .next ((b.putX r.sx.toNat (BitVec.ofNat 64 (dCount (b.getS 0 r.sa.toNat))) 0 0).xDone 1) :=
  congrArg Host.Outcome.next (xWord_ready _ hr)

end

/-- Settles O28: a field is read back from the bits that its word writes, and the other fields lie apart from them. -/
theorem spanRegisterWordsSetOneField : Obligations.SpanRegisterWordsSetOneField := by
  refine ⟨fun r s b hr => ?_, fun r s b hr => ?_, fun r s b hr => ⟨exec_vgetb hr, exec_vgetn hr⟩, fun s d v p hwf => ?_⟩
  · have hbase := (vsetb_sets r).ready hr
    have hstride := (vsets_sets r).ready hr
    have hcount := (vsetn_sets r).ready hr
    exact ⟨hbase, hstride, hcount⟩
  · have htype := (vsett_sets r).ready hr
    exact htype
  · exact
      ⟨⟨dBase_putS hwf p v, dStride_putS_apart hwf p (by decide) (by decide), dCount_putS_apart hwf p (by decide) (by decide),
          dType_putS_apart hwf p (by decide) (by decide), dQueue_putS_apart hwf p (by decide) (by decide)⟩,
        ⟨dStride_putS hwf p v, dBase_putS_apart hwf p (by decide) (by decide), dCount_putS_apart hwf p (by decide) (by decide),
          dType_putS_apart hwf p (by decide) (by decide), dQueue_putS_apart hwf p (by decide) (by decide)⟩,
        ⟨dCount_putS hwf p v, dBase_putS_apart hwf p (by decide) (by decide), dStride_putS_apart hwf p (by decide) (by decide),
          dType_putS_apart hwf p (by decide) (by decide), dQueue_putS_apart hwf p (by decide) (by decide)⟩,
        ⟨dType_putS hwf p v, dQueue_putS hwf p v, dBase_putS_apart hwf p (by decide) (by decide),
          dStride_putS_apart hwf p (by decide) (by decide), dCount_putS_apart hwf p (by decide) (by decide)⟩,
        fun i hi lo hne => getS_putS_ne hwf p hne⟩

end Sys2Proof.Proofs
end

section
/-! Words that wait for the engines, and `bank.mode` (05 R108, 06 R151, 07 R167, R179, Tables 07-5 and 07-6). -/

namespace Sys2Proof.Proofs

open Sys2Proof.Machine Sys2Proof.Claims Sys2Proof.Laws

/-! ### Words of OP 0x38-0x3C, 0x3E and 0x3F -/

theorem xReady_memReady {s b : State} {len : Nat} {g : BitVec 7} {gn : Bool} {uses : List Nat} (h : s.XReady len g gn uses b) :
    b.core.memReady = s.core.memReady := by
  rw [Core.memReady, Core.memReady, xReady_core h, landDue_core_vq, landDue_core_mq]

/-- Whatever the state, the word holds issue until the engines' commands have completed, and then acts as `f` says. -/
def OrderedWord (g : BitVec 7) (gn : Bool) (uses : List Nat) (f : State → WordEnd) (i : Instr) : Prop :=
  ∀ s, exec i s = .next (s.xWord g gn uses fun u => u.xOrdered f)

section

variable {g : BitVec 7} {gn : Bool} {uses : List Nat} {f : State → WordEnd} {i : Instr} {s b : State}
  (h : OrderedWord g gn uses f i) (hr : s.XReady 1 g gn uses b)

include h hr

theorem OrderedWord.ready : exec i s = .next (if s.core.memReady then readyEnd b 1 (f b) else b.xWait) := by
  rw [h s, xWord_ready _ hr, State.xOrdered, xReady_memReady hr]
  split <;> rfl

theorem OrderedWord.holds (hm : s.core.memReady = false) : exec i s = .next b.xWait := by
  rw [h.ready hr, if_neg (Bool.eq_false_iff.mp hm)]

end

theorem amoForms_ordered : ∀ p ∈ amoForms, ∀ r : Xr,
    ∃ f, OrderedWord r.g r.gn [r.a.toNat, r.b.toNat, r.c.toNat, 64 + r.d.toNat] f (p.1 r) := by
  repeat refine List.forall_mem_cons.mpr ⟨fun r => ⟨_, fun s => rfl⟩, ?_⟩
  exact List.forall_mem_nil _

/-! ### `bank.mode` -/

/-- The effect of a `bank.mode` with the fields that its immediate gives (07 R166, R167). -/
def bankModeEnd (k : Nat) (mode : BankMode) (use shape : Nat) (u : State) : WordEnd :=
  if u.core.vq.isEmpty && u.core.mq.isEmpty then
    match u.bankTrap k mode use with
    | some c => .trap c 0
    | none => .done (u.bankSwitch k mode use shape)
  else .wait u

/-- `bank.mode` waits for every engine command, whatever it reads (07 R167). -/
theorem exec_bankMode {r : Xi} {s b : State} (hr : s.XReady 1 r.g r.gn [] b) : exec (.bankMode r) s = .next (readyEnd b 1
    (bankModeEnd (r.imm.extractLsb' 0 4).toNat (Machine.bankModeOf (r.imm.extractLsb' 4 2).toNat) (r.imm.extractLsb' 6 3).toNat
      (r.imm.extractLsb' 9 8).toNat b)) :=
  congrArg Host.Outcome.next (xWord_ready _ hr)

section

variable {k use shape : Nat} {mode : BankMode} {u : State}

theorem bankModeEnd_wait (h : u.core.vq ≠ [] ∨ u.core.mq ≠ []) : bankModeEnd k mode use shape u = .wait u := by
  refine if_neg ?_
  simpa only [Bool.and_eq_true, List.isEmpty_iff, not_and_or] using h

theorem bankModeEnd_idle (hv : u.core.vq = []) (hm : u.core.mq = []) : bankModeEnd k mode use shape u =
    match u.bankTrap k mode use with
    | some c => .trap c 0
    | none => .done (u.bankSwitch k mode use shape) :=
  if_pos (by rw [hv, hm]; rfl)

end

/-! ### Switching a bank -/

theorem setAt_eq_set {α : Type} (l : List α) (k : Nat) (v : α) : setAt l k v = l.set k v := by
  induction l generalizing k with
  | nil => rfl
  | cons x l ih =>
    cases k with
    | zero => rfl
    | succ k => exact congrArg (x :: ·) (ih k)

theorem bank_setBank_same {t : Store} {k : Nat} (hk : k < t.banks.length) (o : Bank) : (t.setBank k o).bank k = o := by
  simp only [Store.bank, Store.setBank, setAt_eq_set, List.getD_eq_getElem?_getD, List.getElem?_set_self hk, Option.getD_some]

theorem bank_setBank_ne (t : Store) {k j : Nat} (hj : j ≠ k) (o : Bank) : (t.setBank k o).bank j = t.bank j := by
  simp only [Store.bank, Store.setBank, setAt_eq_set, List.getD_eq_getElem?_getD, List.getElem?_set_ne hj.symm]

/-- The store of the core in focus, once replaced. -/
theorem own_setOwn (s : State) (t : Store) : (s.setOwn t).own = t := by
  show (tget (tset s.stores s.ownKey t) s.ownKey).getD _ = t
  rw [tget_tset_same, Option.getD_some]

section

variable {s : State} {k use shape : Nat} {mode : BankMode}

/-- A bank that already stands as asked stays as it is. -/
theorem bankSwitch_same (h : (s.own.bank k).mode = mode ∧ (s.own.bank k).use = use ∧ (s.own.bank k).shape = shape) :
    s.bankSwitch k mode use shape = s := if_pos h

/-- What another switch leaves in the bank (07 Table 07-6). -/
def switchedBank (s : State) (k : Nat) (mode : BankMode) (use shape : Nat) : Bank :=
  { s.own.bank k with
    mode := mode, use := use, shape := shape
    data := if (s.own.bank k).mode.plain && mode.plain then (s.own.bank k).data
      else { cells := [], fill := some (s.epoch s.ownKey k), bad := [] } }

/-- Contents stay between modes that hold bytes at addresses. -/
theorem switchedBank_data_kept (ho : (s.own.bank k).mode.plain = true) (hm : mode.plain = true) :
    (switchedBank s k mode use shape).data = (s.own.bank k).data :=
  if_pos (Bool.and_eq_true_iff.mpr ⟨ho, hm⟩)

/-- Otherwise they are free bytes of a new epoch (log 2). -/
theorem switchedBank_data_free (h : ¬ ((s.own.bank k).mode.plain = true ∧ mode.plain = true)) :
    (switchedBank s k mode use shape).data = { cells := [], fill := some (s.epoch s.ownKey k), bad := [] } :=
  if_neg (mt Bool.and_eq_true_iff.mp h)

theorem bankSwitch_own (h : ¬ ((s.own.bank k).mode = mode ∧ (s.own.bank k).use = use ∧ (s.own.bank k).shape = shape)) :
    (s.bankSwitch k mode use shape).own = s.own.setBank k (switchedBank s k mode use shape) := by
  rw [State.bankSwitch, if_neg h, own_setOwn]
  rfl

theorem bankSwitch_bank (hk : k < s.own.banks.length) : (s.bankSwitch k mode use shape).own.bank k =
    if (s.own.bank k).mode = mode ∧ (s.own.bank k).use = use ∧ (s.own.bank k).shape = shape then s.own.bank k
    else switchedBank s k mode use shape := by
  split
  · rename_i h
    rw [bankSwitch_same h]
  · rename_i h
    rw [bankSwitch_own h, bank_setBank_same hk]

theorem bankSwitch_bank_ne {j : Nat} (hj : j ≠ k) : (s.bankSwitch k mode use shape).own.bank j = s.own.bank j := by
  by_cases h : (s.own.bank k).mode = mode ∧ (s.own.bank k).use = use ∧ (s.own.bank k).shape = shape
  · rw [bankSwitch_same h]
  · rw [bankSwitch_own h, bank_setBank_ne _ hj]

end

/-- Settles O27: the words share one wait for the engines, and a switch either leaves the bank as it stands or replaces it. -/
theorem fencesAndModesWaitThenAct : Obligations.FencesAndModesWaitThenAct := by
  refine ⟨fun fn r s b hr hm => ⟨OrderedWord.holds (fun _ => rfl) hr hm, OrderedWord.holds (fun _ => rfl) hr hm⟩,
    fun fn r s b hr hm => OrderedWord.holds (fun _ => rfl) hr hm, fun fn r s b hr hm => OrderedWord.holds (fun _ => rfl) hr hm,
    fun fn r s b hr hm => OrderedWord.holds (fun _ => rfl) hr hm, fun p hp r s b hr hm => ?_, fun r s b hr => ?_,
    fun r s b hr => ⟨fun hq => ?_, fun hv hmq => ?_⟩, fun s k mode use shape hlen hk => ?_⟩
  · obtain ⟨f, hf⟩ := amoForms_ordered p hp r
    exact hf.holds hr hm
  · have hfence : OrderedWord r.g r.gn [] WordEnd.done (.fence r) := fun _ => rfl
    exact hfence.ready hr
  · rw [← xReady_vq hr, ← xReady_mq hr] at hq
    rw [exec_bankMode hr, bankModeEnd_wait hq, readyEnd]
  · rw [← xReady_vq hr] at hv
    rw [← xReady_mq hr] at hmq
    rw [exec_bankMode hr, bankModeEnd_idle hv hmq]
    exact ⟨fun c hc => by rw [hc, readyEnd], fun hc => by rw [hc, readyEnd]⟩
  · intro o t
    have ht : t = _ := bankSwitch_bank (hlen ▸ hk)
    rw [ht]
    split
    · rename_i h
      obtain ⟨hmode, huse, hshape⟩ := h
      exact ⟨hmode, huse, hshape, rfl, fun _ _ => rfl, fun _ hne => absurd ⟨hmode, huse, hshape⟩ hne, fun j => bankSwitch_bank_ne⟩
    · refine ⟨rfl, rfl, rfl, rfl, switchedBank_data_kept, fun hnot _ => ?_, fun j => bankSwitch_bank_ne⟩
      rw [switchedBank_data_free hnot]
      exact ⟨rfl, rfl⟩

end Sys2Proof.Proofs
end

section
/-! Elements of the element-wise forms (05 R114-R117): the opcode picks the family of forms, the function the form, and the type
its integer or floating-point side. -/

namespace Sys2Proof.Proofs

open Sys2Proof.Machine Sys2Proof.Claims

/-! ### Families -/

section

variable {v : VCmd} (a b c : Nat)

theorem element_binary (h : v.op = 0x40) : v.element [a, b, c] = binaryFn v.fn v.r.t.toNat v.r.rm.toNat a b c := by
  simp only [VCmd.element, h]; rfl

theorem element_unary (h : v.op = 0x41) : v.element [a, b, c] = unaryFn v.fn v.r.t.toNat v.r.rm.toNat a := by
  simp only [VCmd.element, h]; rfl

theorem element_scalar (h : v.op = 0x42) :
    v.element [a, b] = scalarFn v.fn v.r.t.toNat v.r.rm.toNat a b (v.scalar.toNat % 2 ^ tyWidth v.r.t.toNat) := by
  simp only [VCmd.element, h]; rfl

theorem element_compare (h : v.op = 0x43) : v.element [a, b, c] = compareFn v.fn v.r.t.toNat a b c := by
  simp only [VCmd.element, h]; rfl

end

/-! ### Forms on the integer types -/

/-- The form `fn` of `op` computes `f` on the integer types, and raises no flag. -/
def IntegerElement (op fn : Nat) (f : Nat → Nat → Nat → Nat → Nat) : Prop :=
  ∀ (v : VCmd) (a b c : Nat), v.op = op → v.fn = fn → tyFloat v.r.t.toNat = false → v.element [a, b, c] = (f v.r.t.toNat a b c, 0)

section

variable {fn : Nat} {f : Nat → Nat → Nat → Nat → Nat}

theorem integerElement_binary (h : ∀ t rm a b c, tyFloat t = false → binaryFn fn t rm a b c = (f t a b c, 0)) :
    IntegerElement 0x40 fn f := by
  rintro v a b c hop rfl ht
  rw [element_binary a b c hop, h _ _ a b c ht]

theorem integerElement_unary (h : ∀ t rm a b c, tyFloat t = false → unaryFn fn t rm a = (f t a b c, 0)) : IntegerElement 0x41 fn f := by
  rintro v a b c hop rfl ht
  rw [element_unary a b c hop, h _ _ a b c ht]

theorem integerElement_compare (h : ∀ t a b c, tyFloat t = false → compareFn fn t a b c = (f t a b c, 0)) :
    IntegerElement 0x43 fn f := by
  rintro v a b c hop rfl ht
  rw [element_compare a b c hop, h _ a b c ht]

end

theorem integerElements_computed : ∀ p ∈ integerElements, IntegerElement p.1 p.2.1 p.2.2 := by
  iterate 14
    refine List.forall_mem_cons.mpr ⟨integerElement_binary fun t rm a b c ht => if_neg (Bool.eq_false_iff.mp ht), ?_⟩
  iterate 3
    refine List.forall_mem_cons.mpr ⟨integerElement_unary fun t rm a b c ht => by simp [unaryFn, ht], ?_⟩
  iterate 5
    refine List.forall_mem_cons.mpr ⟨integerElement_compare fun t a b c ht => by simp [compareFn, ht], ?_⟩
  exact List.forall_mem_nil _

/-! ### Forms on the floating-point types -/

/-- The form `fn` of `op` computes `f` and raises its flags on the floating-point types. -/
def FloatElement (op fn : Nat) (f : Nat → Nat → Nat → Nat → Nat → Nat × Flags) : Prop :=
  ∀ (v : VCmd) (a b c : Nat), v.op = op → v.fn = fn → tyFloat v.r.t.toNat = true →
    v.element [a, b, c] = f v.r.t.toNat v.r.rm.toNat a b c

section

variable {fn : Nat} {f : Nat → Nat → Nat → Nat → Nat → Nat × Flags}

theorem floatElement_binary (h : ∀ t rm a b c, tyFloat t = true → binaryFn fn t rm a b c = f t rm a b c) : FloatElement 0x40 fn f := by
  rintro v a b c hop rfl ht
  rw [element_binary a b c hop, h _ _ a b c ht]

theorem floatElement_unary (h : ∀ t rm a b c, tyFloat t = true → unaryFn fn t rm a = f t rm a b c) : FloatElement 0x41 fn f := by
  rintro v a b c hop rfl ht
  rw [element_unary a b c hop, h _ _ a b c ht]

theorem floatElement_compare (h : ∀ t rm a b c, tyFloat t = true → compareFn fn t a b c = f t rm a b c) : FloatElement 0x43 fn f := by
  rintro v a b c hop rfl ht
  rw [element_compare a b c hop, h _ v.r.rm.toNat a b c ht]

end

theorem floatElements_computed : ∀ p ∈ floatElements, FloatElement p.1 p.2.1 p.2.2 := by
  iterate 9
    refine List.forall_mem_cons.mpr ⟨floatElement_binary fun t rm a b c ht => if_pos ht, ?_⟩
  iterate 2
    refine List.forall_mem_cons.mpr ⟨floatElement_unary fun t rm a b c ht => by simp [unaryFn, ht], ?_⟩
  iterate 2
    refine List.forall_mem_cons.mpr ⟨floatElement_compare fun t rm a b c ht => by simp [compareFn, ht], ?_⟩
  exact List.forall_mem_nil _

/-! ### Forms with a scalar operand -/

section

variable {t : Nat} (rm a b c : Nat) (ht : tyFloat t = false)

include ht

/-- A span-scalar form is the binary form with the scalar in the place of the second source. -/
theorem scalarFn_integer :
    scalarFn 0 t rm a b c = (wrapT t (decInt t a + decInt t c), 0) ∧ scalarFn 1 t rm a b c = (wrapT t (decInt t a - decInt t c), 0) ∧
      scalarFn 2 t rm a b c = (wrapT t (decInt t a * decInt t c), 0) ∧
      scalarFn 5 t rm a b c = (wrapT t (decInt t a * decInt t c + decInt t b), 0) ∧ scalarFn 6 t rm a b c = (c, 0) :=
  have hint : ¬ tyFloat t = true := Bool.eq_false_iff.mp ht
  ⟨if_neg hint, if_neg hint, if_neg hint, if_neg hint, rfl⟩

end

/-- Settles O30: form by form, the side of the type decides. -/
theorem elementsAreComputedByTheirForm : Obligations.ElementsAreComputedByTheirForm := by
  refine ⟨integerElements_computed, floatElements_computed, fun v a b hop ht => ?_⟩
  rw [element_scalar a b hop]
  obtain ⟨hadd, hsub, hmul, hfma, hfill⟩ :=
    scalarFn_integer v.r.rm.toNat a b (v.scalar.toNat % 2 ^ tyWidth v.r.t.toNat) ht
  exact ⟨fun h => by rw [h, hadd], fun h => by rw [h, hsub], fun h => by rw [h, hmul], fun h => by rw [h, hfma], fun h => by rw [h, hfill]⟩

end Sys2Proof.Proofs
end

section
/-! What the engines' words leave alone (05 R104, R108, R128; 06 R142, R143, R151): the shell of a word keeps what its place in the
stream does not touch, and the word's own effect is one update of the core. -/

namespace Sys2Proof.Proofs

open Sys2Proof.Machine Sys2Proof.Claims Sys2Proof.Laws

/-! ### What the shell of a word moves -/

/-- The core `c` with the stream's place and what it waits for taken from `d`. -/
def withPlace (c d : Core) : Core :=
  { c with xpc := d.xpc, rstack := d.rstack, spilled := d.spilled, xcycle := d.xcycle, xdoubt := d.xdoubt, xhold := d.xhold }

/-- From `t` to `u` the stream moves on, waits or asks to leave, and corrected words are counted; nothing else happens. -/
structure ShellMoves (t u : State) : Prop where
  rest : u = { t with core := u.core, ctxs := u.ctxs, doms := u.doms }
  counts : SameButCounts t u
  core : u.core = withPlace t.core u.core

theorem StreamMoves.shell {t u : State} (h : StreamMoves t u) : ShellMoves t u where
  rest := by rw [h.rest]
  counts := h.counts
  core := by
    rw [h.core]
    rfl

theorem shellMoves_raise (t : State) (kind : AskKind) (data : Word) (code : BitVec 32) :
    ShellMoves t (t.raiseLeave false kind data code) := by
  rcases raiseLeave_cases t kind data code with heq | ⟨k, c, a, -, -, heq⟩
  · rw [heq]
    exact ⟨rfl, sameButCounts_refl t, rfl⟩
  · rw [heq]
    exact ⟨rfl, sameButCounts_refl t, rfl⟩

/-- A word ends in a trap, or goes on from a state of which `P` holds. -/
def EndsIn (P : State → Prop) : WordEnd → Prop
  | .done t => P t
  | .wait t => P t
  | .trap _ _ => True
  | .jump _ _ => False
  | .leave _ _ _ => False

section

variable {P : State → Prop} (hP : ∀ t u, ShellMoves t u → P t → P u)

include hP

theorem xEnd_keeps {u : State} {len : Nat} {e : WordEnd} (hu : P u) (he : EndsIn P e) : P (u.xEnd len e) := by
  cases e with
  | done t =>
    cases hstep : u.stepPoisoned len with
    | none =>
      rw [xEnd_done hstep]
      exact hP _ _ (streamMoves_xDone t len).shell he
    | some z =>
      simp only [State.xEnd, hstep]
      exact hP _ _ (shellMoves_raise u _ _ _) hu
  | wait t => exact hP _ _ (streamMoves_xWait t).shell he
  | trap c d => exact hP _ _ (shellMoves_raise u _ _ _) hu
  | jump t pc => exact he.elim
  | leave k d c => exact he.elim

/-- What the shell keeps and the word's effect keeps, the word keeps, whichever way it goes. -/
theorem xWordN_keeps {s : State} {len : Nat} {g : BitVec 7} {gn : Bool} {uses : List Nat} {f : State → WordEnd}
    (h0 : P s.landDue) (hf : P (s.landDue.takeX uses) → EndsIn P (f (s.landDue.takeX uses))) : P (s.xWordN len g gn uses f) := by
  have htaken : P (s.landDue.takeX uses) := hP _ _ (streamMoves_takeX _ uses).shell h0
  refine xWordN_ind (fun z => ?_) ?_ ?_ ?_
  · exact hP _ _ (shellMoves_raise _ _ _ _) h0
  · exact hP _ _ (streamMoves_xWait _).shell h0
  · exact hP _ _ (streamMoves_xDone _ len).shell h0
  · exact xEnd_keeps hP htaken (hf htaken)

end

/-! ### The frame -/

/-- What a word may change besides its place in the stream does not depend on that place. -/
def OffShell (keep : Core → Core → Core) : Prop := ∀ c d e : Core, keep c (withPlace d e) = keep c d

theorem issueFrame_shell {keep : Core → Core → Core} (hkeep : OffShell keep) {s t u : State} (h : IssueFrame s t keep)
    (hm : ShellMoves t u) : IssueFrame s u keep := by
  obtain ⟨hrest, hcounts, hcore⟩ := hm
  have hsame : keep s.core u.core = keep s.core t.core := by rw [hcore, hkeep]
  exact
    { rest := by rw [hrest, h.rest]
      counts := sameButCounts_trans h.counts hcounts
      core := by
        rw [hsame]
        exact hcore.trans (congrArg (withPlace · u.core) h.core)
      memory := fun a => by rw [hrest]; exact h.memory a }

/-- A word that acts on the core alone, from the state that it takes to a core `c`. -/
theorem issueFrame_setCore {keep : Core → Core → Core} (s : State) (uses : List Nat) {c : Core}
    (hc : c = withPlace { keep s.core c with xflags := s.landDue.core.xflags, wins := s.landDue.core.wins } c) :
    IssueFrame s { s.landDue.takeX uses with core := c } keep where
  rest := by rw [takeX_frame]; rfl
  counts := sameButCounts_fixed s.landDue _
  core := hc
  memory := fun a => by rw [takeX_frame]; rfl

/-! ### Words that queue a command -/

/-- Of the core, only a queue has changed, by at most one command at its end. -/
def Adds {α : Type} (keep : Core → Core → Core) (queue : Core → List α) (s t : State) : Prop :=
  IssueFrame s t keep ∧ (queue t.core = queue s.core ∨ ∃ v, queue t.core = queue s.core ++ [v])

theorem adds_shell {α : Type} {keep : Core → Core → Core} {queue : Core → List α} (hkeep : OffShell keep)
    (hqueue : ∀ c d, queue (withPlace c d) = queue c) {s : State} (t u : State) (hm : ShellMoves t u) (h : Adds keep queue s t) :
    Adds keep queue s u := by
  obtain ⟨hframe, hq⟩ := h
  refine ⟨issueFrame_shell hkeep hframe hm, ?_⟩
  rw [hm.core, hqueue]
  exact hq

/-- The vector queue has taken at most one command. -/
def AddsVector : State → State → Prop := Adds (fun c d => { c with vq := d.vq }) Core.vq

/-- The matrix queue has taken at most one command. -/
def AddsMatrix : State → State → Prop := Adds (fun c d => { c with mq := d.mq }) Core.mq

section

variable {s : State} {uses : List Nat}

theorem addsVector_landDue : AddsVector s s.landDue := ⟨⟨rfl, sameButCounts_refl s, rfl, fun _ => rfl⟩, .inl rfl⟩

theorem addsMatrix_landDue : AddsMatrix s s.landDue := ⟨⟨rfl, sameButCounts_refl s, rfl, fun _ => rfl⟩, .inl rfl⟩

theorem addsVector_vPush (v : VCmd) : AddsVector s ((s.landDue.takeX uses).vPush v) := by
  refine ⟨issueFrame_setCore s uses ?_, .inr ⟨v, ?_⟩⟩
  · rw [takeX_core]
    rfl
  · rw [State.vPush, takeX_core]
    rfl

theorem vIssue_endsIn {ok : State → VCmd → Bool} {extra : State → VCmd → Option Nat} {v : VCmd}
    (h : AddsVector s (s.landDue.takeX uses)) : EndsIn (AddsVector s) ((s.landDue.takeX uses).vIssue ok extra v) := by
  cases hok : ok (s.landDue.takeX uses) v with
  | false =>
    rw [vIssue_illegal hok]
    trivial
  | true =>
    cases hx : extra (s.landDue.takeX uses) v with
    | some c =>
      rw [vIssue_trap hok hx]
      trivial
    | none =>
      rw [vIssue_legal hok hx]
      split
      · exact h
      · exact addsVector_vPush v

theorem mIssue_endsIn (m : MCmd) (h : AddsMatrix s (s.landDue.takeX uses)) :
    EndsIn (AddsMatrix s) ((s.landDue.takeX uses).mIssue m) := by
  unfold State.mIssue
  split
  · exact h
  · refine ⟨issueFrame_setCore s uses ?_, .inr ⟨m, ?_⟩⟩
    · rw [takeX_core]
      rfl
    · rw [takeX_core]
      rfl

theorem QueuesVector.frame {len : Nat} {g : BitVec 7} {gn : Bool} {ok : State → VCmd → Bool} {extra : State → VCmd → Option Nat}
    {v : State → VCmd} {i : Instr} {t : State} (h : QueuesVector len g gn uses ok extra v i) (he : exec i s = .next t) :
    AddsVector s t := by
  rw [h s] at he
  cases he
  exact xWordN_keeps (adds_shell (fun _ _ _ => rfl) fun _ _ => rfl) addsVector_landDue vIssue_endsIn

end

/-- Whatever the state, the word traps or tries to queue a matrix command. -/
def QueuesMatrix (g : BitVec 7) (gn : Bool) (i : Instr) : Prop :=
  ∀ s, ∃ uses f, exec i s = .next (s.xWord g gn uses f) ∧ ∀ u, (∃ c d, f u = .trap c d) ∨ ∃ m, f u = u.mIssue m

theorem QueuesMatrix.frame {g : BitVec 7} {gn : Bool} {i : Instr} {s t : State} (h : QueuesMatrix g gn i) (he : exec i s = .next t) :
    AddsMatrix s t := by
  obtain ⟨uses, f, hexec, hf⟩ := h s
  rw [hexec] at he
  cases he
  refine xWordN_keeps (adds_shell (fun _ _ _ => rfl) fun _ _ => rfl) addsMatrix_landDue fun htaken => ?_
  rcases hf (s.landDue.takeX uses) with ⟨c, d, htrap⟩ | ⟨m, hissue⟩
  · rw [htrap]
    trivial
  · rw [hissue]
    exact mIssue_endsIn m htaken

theorem xMatrix_queues (kind : MKind) (r : Xr) (i : Instr) (h : ∀ s, exec i s = .next (xMatrix kind r s)) : QueuesMatrix r.g r.gn i := by
  refine fun s => ⟨_, _, h s, fun u => ?_⟩
  dsimp only
  split
  · exact .inl ⟨_, _, rfl⟩
  · split
    · exact .inl ⟨_, _, rfl⟩
    · exact .inr ⟨_, rfl⟩

theorem matrixWords_queue : ∀ c ∈ [Instr.mmGo, Instr.mmZero, Instr.mmDrain, Instr.tset, Instr.tclr], ∀ r : Xr,
    QueuesMatrix r.g r.gn (c r) := by
  refine List.forall_mem_cons.mpr ⟨fun r => xMatrix_queues .go r _ fun _ => rfl, List.forall_mem_cons.mpr
    ⟨fun r => xMatrix_queues .zero r _ fun _ => rfl, ?_⟩⟩
  repeat refine List.forall_mem_cons.mpr ⟨fun r s => ⟨_, _, rfl, fun u => .inr ⟨_, rfl⟩⟩, ?_⟩
  exact List.forall_mem_nil _

theorem mmCfg_queues (r : Xi) : QueuesMatrix r.g r.gn (.mmCfg r) := fun _ => ⟨_, _, rfl, fun _ => .inr ⟨_, rfl⟩⟩

/-! ### Words that write a span register or the nest tables -/

/-- Of the core, only the span register `d` has changed. -/
def WritesS (s t : State) (d : Nat) : Prop :=
  IssueFrame s t (fun c d => { c with sp := d.sp }) ∧ t.core.sp.undef = s.core.sp.undef ∧
    ∀ i, i ≠ d → tget t.core.sp.cells i = tget s.core.sp.cells i

theorem SetsS.frame {use hi lo : Nat} {v : State → Nat} {r : Xs} {i : Instr} {s t : State} (h : SetsS use hi lo v r i)
    (hwf : s.core.sp.wf = true) (he : exec i s = .next t) : WritesS s t r.sd.toNat := by
  rw [h s] at he
  cases he
  refine xWordN_keeps (P := (WritesS s · r.sd.toNat)) ?_ ?_ fun _ => ⟨issueFrame_setCore s [use] ?_, ?_, fun i hi => ?_⟩
  · rintro t u hm ⟨hframe, hundef, hothers⟩
    refine ⟨issueFrame_shell (fun _ _ _ => rfl) hframe hm, ?_, ?_⟩
    · rw [hm.core]
      exact hundef
    · rw [hm.core]
      exact hothers
  · exact ⟨⟨rfl, sameButCounts_refl s, rfl, fun _ => rfl⟩, rfl, fun _ _ => rfl⟩
  · rw [takeX_core]
    rfl
  · rw [State.putS, takeX_core]
    rfl
  · rw [State.putS, takeX_core]
    exact tget_cells_put_ne hwf _ hi

theorem vsetWords_set : ∀ c ∈ [Instr.vsetb, Instr.vsets, Instr.vsetn, Instr.vsett], ∀ r : Xs, ∃ use hi lo v, SetsS use hi lo v r (c r) := by
  repeat refine List.forall_mem_cons.mpr ⟨fun r => ⟨_, _, _, _, fun s => rfl⟩, ?_⟩
  exact List.forall_mem_nil _

/-- A word that consumes no scalar register and whose effect is `f` on the core. -/
theorem issueFrame_xWord_setCore {keep : Core → Core → Core} (hkeep : OffShell keep) {s : State} (h0 : IssueFrame s s.landDue keep)
    {g : BitVec 7} {gn : Bool} {f : Core → Core}
    (hf : f s.landDue.core = withPlace { keep s.core (f s.landDue.core) with
      xflags := s.landDue.core.xflags, wins := s.landDue.core.wins } (f s.landDue.core)) :
    IssueFrame s (s.xWord g gn [] fun u => .done { u with core := f u.core }) keep :=
  xWordN_keeps (fun _ _ hm h => issueFrame_shell hkeep h hm) h0 fun _ => issueFrame_setCore s [] (by rw [takeX_core]; exact hf)

/-- `mm.swap` exchanges the tables (06 R143). -/
theorem mmSwap_frame {r : Xr} {s t : State} (he : exec (.mmSwap r) s = .next t) :
    IssueFrame s t (fun c d => { c with shadow := d.shadow, active := d.active }) := by
  cases he
  exact issueFrame_xWord_setCore (f := fun c => { c with shadow := c.active, active := c.shadow }) (fun _ _ _ => rfl)
    ⟨rfl, sameButCounts_refl s, rfl, fun _ => rfl⟩ rfl

/-- `mm.nest` writes the shadow table (06 R142). -/
theorem mmNest_frame {r : Xm} {s t : State} (he : exec (.mmNest r) s = .next t) :
    IssueFrame s t (fun c d => { c with shadow := d.shadow }) := by
  cases he
  exact issueFrame_xWord_setCore
    (f := fun c => { c with shadow := setAt c.shadow r.l.toNat ((c.shadow.getD r.l.toNat NestLevel.reset).put r.fld.toNat r.v) })
    (fun _ _ _ => rfl) ⟨rfl, sameButCounts_refl s, rfl, fun _ => rfl⟩ rfl

/-- Settles O34: each family of words is one update of the core in the shell of a word. -/
theorem engineWordsLeaveTheRestAlone : Obligations.EngineWordsLeaveTheRestAlone := by
  refine ⟨List.forall_mem_append.mpr ⟨List.forall_mem_map.mpr ?_, List.forall_mem_map.mpr ?_⟩, ?_,
    fun c hc r s t hwf he => ?_, ?_, ?_, ?_, ?_⟩
  · exact fun p hp r s t => (spanForms_queue p hp r).frame
  · exact fun p hp r s t => (rowForms_queue p hp r).frame
  · exact fun r s t => (vchain_queues r).frame
  · obtain ⟨use, hi, lo, v, h⟩ := vsetWords_set c hc r
    exact h.frame hwf he
  · exact fun c hc r s t => (matrixWords_queue c hc r).frame
  · exact fun r s t => (mmCfg_queues r).frame
  · exact fun r s t => mmSwap_frame
  · exact fun r s t => mmNest_frame

end Sys2Proof.Proofs
end

section
/-! The vector engine (05 R108, R111, R112, R131; 13 R335-R337): it gathers the window of the command at its head and, when the window
runs, attempts it once. -/

namespace Sys2Proof.Proofs

open Sys2Proof.Machine Sys2Proof.Claims Sys2Proof.Laws

/-! ### Gathering a window -/

/-- One operand's part of `State.gather`: pop what the window of `m` elements still lacks, as far as the queue holds it. -/
def popLacking (m : Nat) (x : State × VCmd) (o : Operand) : State × VCmd :=
  let k := min (x.1.qOffer o.queue).length (x.2.lacks o m)
  if k = 0 then x
  else (x.1.qTake o.queue k, { x.2 with took := tset x.2.took o.queue (x.2.tookFrom o ++ (x.1.qOffer o.queue).take k) })

/-- Popping leaves the core, and of the command all but the words popped. -/
theorem foldl_popLacking_frame (m : Nat) (l : List Operand) (x : State × VCmd) :
    (l.foldl (popLacking m) x).1.core = x.1.core ∧ (l.foldl (popLacking m) x).2 = { x.2 with took := (l.foldl (popLacking m) x).2.took } := by
  induction l generalizing x with
  | nil => exact ⟨rfl, rfl⟩
  | cons o l ih =>
    obtain ⟨hcore, hcmd⟩ := ih (popLacking m x o)
    have hstep : (popLacking m x o).1.core = x.1.core ∧ (popLacking m x o).2 = { x.2 with took := (popLacking m x o).2.took } := by
      unfold popLacking
      dsimp only
      split
      · exact ⟨rfl, rfl⟩
      · exact ⟨rfl, rfl⟩
    rw [List.foldl_cons]
    exact ⟨hcore.trans hstep.1, hcmd.trans (by rw [hstep.2])⟩

theorem gather_core (s : State) (v : VCmd) : (s.gather v).1.core = s.core :=
  (foldl_popLacking_frame v.want v.queueSrcs (s, v)).1

theorem gather_cmd (s : State) (v : VCmd) :
    (s.gather v).2 = { v with took := (s.gather v).2.took, ready := (s.gather v).2.ready } :=
  congrArg (fun w : VCmd => { w with ready := (s.gather v).2.ready }) (foldl_popLacking_frame v.want v.queueSrcs (s, v)).2

/-- Whether a command's attempts take no elements does not depend on what has been popped. -/
theorem byItself_gather (s : State) (v : VCmd) : byItself (s.gather v).2 ↔ byItself v := by
  rw [gather_cmd]
  rfl

/-! ### One attempt -/

/-- What the engine makes of one attempt of a window of `m` elements (13 R335-R337). -/
def attempted (s : State) (v : VCmd) (m : Nat) : State :=
  match s.vectorAttempt v m with
  | .ok (t, w) =>
    let u := (t.setVHead { w with started := true }).transients s.core.strike
    { u with core := { u.core with strike := [], vdog := false } }
  | a => s.vectorFail v m a

section

variable {s : State} {v : VCmd} {m : Nat}

theorem vectorFail_viol {t : State} {x y : Nat} (h : s.granuleRemains v m (.viol x) = (t, .viol y)) :
    s.vectorFail v m (.viol x) = frozenWith t v (s.core.strike.filter (fun e => decide (e.1 ≠ y))) causeViol y 0 := by
  simp only [State.vectorFail, Attempt.faults, if_true, h]
  rfl

theorem vectorFail_data_transient {x : Nat} {z : BitVec 8} (hnew : ∀ y ∈ s.core.strike, y.1 ≠ x) (hfew : s.core.strike.length < 3) :
    s.vectorFail v m (.data x z) =
      let u := s.setVHead { v with started := true }
      { u with core := { u.core with strike := (x, z) :: s.core.strike } } := by
  simp only [State.vectorFail, List.any_eq_true, decide_eq_true_eq]
  refine if_neg (not_or.mpr ⟨?_, Nat.not_le.mpr hfew⟩)
  rintro ⟨y, hy, hyx⟩
  exact hnew y hy hyx

theorem vectorFail_data_lasting {x : Nat} {z : BitVec 8} (h : (∃ y ∈ s.core.strike, y.1 = x) ∨ 3 ≤ s.core.strike.length) :
    s.vectorFail v m (.data x z) = frozenWith s v (s.core.strike.filter (fun y => decide (y.1 ≠ x))) causeData x z := by
  simp only [State.vectorFail, List.any_eq_true, decide_eq_true_eq]
  exact if_pos h

/-- An attempt comes through, or it fails in one of the ways of 05 R112 and 13 R336. -/
theorem windowEnds_attempted (s : State) (v : VCmd) (m : Nat) : WindowEnds s v m s.core.strike (.next (attempted s v m)) := by
  refine ⟨fun t w hok => ?_, fun x t y hviol hrem => ?_, fun x z hdata hnew hfew => ?_, fun x z hdata hlast => ?_⟩
  · simp only [attempted, hok]
  · simp only [attempted, hviol]
    rw [vectorFail_viol hrem]
  · simp only [attempted, hdata]
    rw [vectorFail_data_transient hnew hfew]
  · simp only [attempted, hdata]
    rw [vectorFail_data_lasting hlast]

/-! ### The command at the head -/

theorem vectorRun_finished (hf : v.finished = true) : s.vectorRun v = s.setVHead { v with started := true } := if_pos hf

theorem vectorRun_held (hf : v.finished = false) (hh : v.held ≠ []) :
    s.vectorRun v = (s.pushHeld v).1.setVHead { (s.pushHeld v).2 with started := true } :=
  (if_neg (Bool.eq_false_iff.mp hf)).trans (if_pos hh)

theorem byItself_iff (v : VCmd) : (decide (v.op = 0x58) || decide (v.op = 0x54) && decide (v.fn = 1)) = true ↔ byItself v := by
  simp only [Bool.or_eq_true, Bool.and_eq_true, decide_eq_true_eq, byItself]

/-- A row, and a drain of the deferral queue, is attempted as it stands. -/
theorem vectorRun_byItself (hf : v.finished = false) (hh : v.held = []) (hv : byItself v) :
    s.vectorRun v = attempted (s.setVHead { v with started := true }) v 0 := by
  refine (if_neg (Bool.eq_false_iff.mp hf)).trans ((if_neg (not_not.mpr hh)).trans ?_)
  simp only [(byItself_iff v).mpr hv, if_true, Bool.true_or]
  rfl

/-- Another command's window is gathered, and attempted when it is whole or a leave ends it (05 R131). -/
theorem vectorRun_gathered (hf : v.finished = false) (hh : v.held = []) (hv : ¬ byItself v) {t : State} {w : VCmd}
    (hw : w = (s.gather { v with started := true }).2)
    (ht : t = (s.gather { v with started := true }).1.setVHead { w with started := true }) :
    s.vectorRun v = if w.ready = w.want ∨ (t.leaving = true ∧ w.ready ≠ 0) then attempted t w w.ready else t := by
  subst hw ht
  refine (if_neg (Bool.eq_false_iff.mp hf)).trans ((if_neg (not_not.mpr hh)).trans ?_)
  simp only [Bool.eq_false_iff.mpr (mt (byItself_iff v).mp hv), Bool.false_eq_true, if_false, Bool.false_or, Bool.or_eq_true,
    Bool.and_eq_true, decide_eq_true_eq]
  rfl

/-- Gathering leaves the words that have failed in the window. -/
theorem gathered_strike {t : State} {w : VCmd} {k : Nat} (hg : Gathered s v t w k) : t.core.strike = s.core.strike := by
  obtain ⟨hself, hother⟩ := hg
  by_cases hv : byItself v
  · obtain ⟨-, -, rfl⟩ := hself hv
    rfl
  · obtain ⟨-, -, rfl⟩ := hother hv
    show (s.gather { v with started := true }).1.core.strike = _
    rw [gather_core]

variable {t : State} {w : VCmd} {k : Nat} (hf : v.finished = false) (hh : v.held = []) (hg : Gathered s v t w k)

include hf hh hg

/-- The window that has been gathered is attempted once, if it runs. -/
theorem vectorRun_window : (¬ WindowRuns t w k → s.vectorRun v = t) ∧ (WindowRuns t w k → s.vectorRun v = attempted t w k) := by
  obtain ⟨hself, hother⟩ := hg
  by_cases hv : byItself v
  · obtain ⟨rfl, rfl, rfl⟩ := hself hv
    exact ⟨fun hruns => absurd (.inl hv) hruns, fun _ => vectorRun_byItself hf hh hv⟩
  · obtain ⟨hw, rfl, ht⟩ := hother hv
    have hw' : ¬ byItself w := by rw [hw, byItself_gather]; exact hv
    have hruns : WindowRuns t w w.ready ↔ w.ready = w.want ∨ (t.leaving = true ∧ w.ready ≠ 0) := or_iff_right hw'
    rw [vectorRun_gathered hf hh hv hw ht, hruns]
    exact ⟨fun h => if_neg h, fun h => if_pos h⟩

theorem windowEnds_vectorRun (hruns : WindowRuns t w k) : WindowEnds t w k s.core.strike (.next (s.vectorRun v)) := by
  rw [(vectorRun_window hf hh hg).2 hruns, ← gathered_strike hg]
  exact windowEnds_attempted t w k

end

/-! ### The engine's steps -/

section

variable {s : State} {v : VCmd} {rest : List VCmd} (hq : s.core.vq = v :: rest)

include hq

/-- The engine takes up the command at the head when it may, no replay is due, and no leave stops it but at a window that can end. -/
theorem exec_vectorCommandStart : exec .vectorCommandStart s =
    .next (if s.core.vectorMay v && decide (s.core.strike = []) && (!s.leaving || s.core.windowEnds) then s.vectorRun v else s) := by
  refine congrArg Host.Outcome.next ?_
  rw [hq]

/-- The span and row engines replay the window of a command of their own, once a word of it has failed. -/
theorem exec_windowReplay {e : LaneEngine} (he : e ≠ .matrix) : exec (.windowReplay e) s =
    .next (if s.core.vectorMay v && decide (s.core.strike ≠ []) && !s.leaving && decide (e = .row ↔ v.op = 0x58) then s.vectorRun v
      else s) := by
  refine congrArg Host.Outcome.next ?_
  cases e with
  | matrix => exact absurd rfl he
  | _ => simp only [hq]

/-- A command at the head that has not started, is frozen or has work left stays there. -/
theorem exec_vectorCommandComplete_stays (h : v.started = false ∨ v.frozen = true ∨ v.finished = false) :
    exec .vectorCommandComplete s = .next s := by
  have hdone : (v.started && !v.frozen && v.finished) = false := by
    rcases h with h | h | h <;> simp [h]
  show execVectorCommandComplete s = _
  simp only [execVectorCommandComplete, hq, hdone, Bool.false_eq_true, if_false]

section

variable (hstarted : v.started = true) (hfrozen : v.frozen = false) (hfinished : v.finished = true)

include hstarted hfrozen hfinished

theorem exec_vectorCommandComplete_none (hp : v.pends = none) : exec .vectorCommandComplete s =
    .next { s with core := { s.core with vq := rest, xflags := s.core.xflags ||| v.flags } } := by
  show execVectorCommandComplete s = _
  simp only [execVectorCommandComplete, hq, hstarted, hfrozen, hfinished, Bool.not_false, Bool.and_self, if_true, hp]

theorem exec_vectorCommandComplete_some {d : Nat} {x : Word} (hp : v.pends = some d) (hx : v.result = some x) :
    exec .vectorCommandComplete s =
      .next (({ s with core := { s.core with vq := rest, xflags := s.core.xflags ||| v.flags } } : State).setX d x) := by
  show execVectorCommandComplete s = _
  simp only [execVectorCommandComplete, hq, hstarted, hfrozen, hfinished, Bool.not_false, Bool.and_self, if_true, hp, hx]

end

/-- A step that the engine may take runs the command. -/
theorem exec_vectorCommandStart_runs (hmay : s.core.vectorMay v = true) (hstrike : s.core.strike = [])
    (hleave : s.leaving = false ∨ s.core.windowEnds = true) : exec .vectorCommandStart s = .next (s.vectorRun v) := by
  rw [exec_vectorCommandStart hq, if_pos]
  rw [hmay, decide_eq_true hstrike]
  rcases hleave with h | h <;> simp [h]

theorem exec_vectorCommandStart_holds (h : s.core.vectorMay v = false ∨ (s.leaving = true ∧ s.core.windowEnds = false)) :
    exec .vectorCommandStart s = .next s := by
  rw [exec_vectorCommandStart hq, if_neg]
  rcases h with h | ⟨h, h'⟩
  · simp [h]
  · simp [h, h']

theorem exec_windowReplay_runs {e : LaneEngine} (he : e ≠ .matrix) (hmay : s.core.vectorMay v = true) (hstrike : s.core.strike ≠ [])
    (hleave : s.leaving = false) (hrow : e = .row ↔ v.op = 0x58) : exec (.windowReplay e) s = .next (s.vectorRun v) := by
  rw [exec_windowReplay hq he, if_pos]
  simp [hmay, hstrike, hleave, hrow]

theorem exec_windowReplay_holds {e : LaneEngine} (he : e ≠ .matrix)
    (h : s.core.vectorMay v = false ∨ s.core.strike = [] ∨ s.leaving = true ∨ ¬ (e = .row ↔ v.op = 0x58)) :
    exec (.windowReplay e) s = .next s := by
  rw [exec_windowReplay hq he, if_neg]
  simp only [Bool.and_eq_true, decide_eq_true_eq, Bool.not_eq_true']
  rintro ⟨⟨⟨hmay, hstrike⟩, hleave⟩, hrow⟩
  rcases h with h | h | h | h
  · exact absurd hmay (Bool.eq_false_iff.mp h)
  · exact hstrike h
  · exact absurd h (Bool.eq_false_iff.mp hleave)
  · exact h hrow

end

/-- Settles O31: a step that may be taken runs the command at the head, and its window ends as one attempt of it does. -/
theorem vectorEngineRunsTheHead : Obligations.VectorEngineRunsTheHead := by
  refine ⟨fun s hq => ⟨?_, ?_⟩, fun s v rest hq hmay hstrike hleave => ?_, fun s v rest hq => exec_vectorCommandStart_holds hq,
    fun s v rest e hq he => ⟨exec_windowReplay_holds hq he, fun t w m hmay hstrike hleave hrow hf hh hg hruns => ?_⟩,
    fun s v rest hq hstarted hfrozen hf => ?_, fun s v rest hq => exec_vectorCommandComplete_stays hq⟩
  · exact congrArg Host.Outcome.next (by rw [hq])
  · exact congrArg Host.Outcome.next (by rw [hq])
  · rw [exec_vectorCommandStart_runs hq hmay hstrike hleave]
    refine ⟨fun hf => congrArg _ (vectorRun_finished hf), fun hf hh => congrArg _ (vectorRun_held hf hh), fun t w m hf hh hg => ?_⟩
    exact ⟨fun hnot => congrArg _ ((vectorRun_window hf hh hg).1 hnot), fun hruns => hstrike ▸ windowEnds_vectorRun hf hh hg hruns⟩
  · rw [exec_windowReplay_runs hq he hmay hstrike hleave hrow]
    exact windowEnds_vectorRun hf hh hg hruns
  · exact ⟨exec_vectorCommandComplete_none hq hstarted hfrozen hf, fun d x => exec_vectorCommandComplete_some hq hstarted hfrozen hf⟩

end Sys2Proof.Proofs
end

section
/-! Matrix words (06 R142, R143, R149-R154, R156, R158): each is the shell of a word around a write of the nest tables or around
`State.mIssue`. -/

namespace Sys2Proof.Proofs

open Sys2Proof.Machine Sys2Proof.Claims Sys2Proof.Laws

section

variable {s b : State} {len : Nat} {g : BitVec 7} {gn : Bool} {uses : List Nat} (hr : s.XReady len g gn uses b)

include hr

/-! ### What a ready matrix word finds -/

theorem xReady_shadow : b.core.shadow = s.core.shadow := by
  rw [xReady_core hr, landDue_core_shadow]

theorem xReady_active : b.core.active = s.core.active := by
  rw [xReady_core hr, landDue_core_active]

theorem xReady_redundantAt : b.core.redundantAt = s.core.redundantAt := by
  rw [Core.redundantAt, Core.redundantAt, xReady_core hr, landDue_core_mq, landDue_core_redundant]

/-- A ready word that queues a command waits while four are queued (06 R151). -/
theorem readyEnd_mIssue (m : MCmd) : readyEnd b len (b.mIssue m) =
    if 4 ≤ s.core.mq.length then b.xWait
    else ({ b with core := { b.core with mq := s.core.mq ++ [m] } } : State).xDone len := by
  rw [State.mIssue, xReady_mq hr]
  split <;> rfl

end

/-! ### Words that queue whatever they find -/

/-- Whatever the state, the word's effect is to queue the command `m`, unchecked. -/
def IssuesMatrix (g : BitVec 7) (gn : Bool) (uses : List Nat) (m : State → MCmd) (i : Instr) : Prop :=
  ∀ s, exec i s = .next (s.xWord g gn uses fun u => u.mIssue (m u))

theorem IssuesMatrix.ready {g : BitVec 7} {gn : Bool} {uses : List Nat} {m : State → MCmd} {i : Instr} {s b : State}
    (h : IssuesMatrix g gn uses m i) (hr : s.XReady 1 g gn uses b) : exec i s =
      .next (if 4 ≤ s.core.mq.length then b.xWait
        else ({ b with core := { b.core with mq := s.core.mq ++ [m b] } } : State).xDone 1) := by
  rw [h s, xWord_ready _ hr, readyEnd_mIssue hr]

theorem mmDrain_issues (r : Xr) : IssuesMatrix r.g r.gn (if r.m.getLsbD 0 then [64 + r.b.toNat] else []) (fun u => u.mSnap .drain r 0)
    (.mmDrain r) := fun _ => rfl

theorem mmCfg_issues (r : Xi) : IssuesMatrix r.g r.gn [] (fun u => u.mSnap .cfg default (r.imm.toNat % 2)) (.mmCfg r) := fun _ => rfl

theorem tileForms_issue : ∀ p ∈ tileForms, ∀ r : Xr, IssuesMatrix r.g r.gn [] (fun u => u.mSnap p.2 r (r.d.toNat % 16)) (p.1 r) := by
  repeat refine List.forall_mem_cons.mpr ⟨fun r s => rfl, ?_⟩
  exact List.forall_mem_nil _

/-! ### `mm.go` and `mm.zero` -/

theorem nestForms_run : ∀ p ∈ [(Instr.mmGo, MKind.go), (Instr.mmZero, MKind.zero)], ∀ (r : Xr) (s : State),
    exec (p.1 r) s = .next (xMatrix p.2 r s) := by
  repeat refine List.forall_mem_cons.mpr ⟨fun r s => rfl, ?_⟩
  exact List.forall_mem_nil _

section

variable {kind : MKind} {r : Xr} {s b : State} (hr : s.XReady 1 r.g r.gn s.mUses b)

include hr

/-- A nest that breaks the rules of 06 R150 is illegal. -/
theorem xMatrix_illegal (hok : (b.mSnap kind r 0).ok s.core.redundantAt = false) :
    xMatrix kind r s = b.raiseLeave false (.fault causeIll) 0 0 := by
  rw [xMatrix, xWord_ready _ hr]
  simp only [xReady_redundantAt hr, hok, Bool.not_false, if_true, readyEnd]

variable (hok : (b.mSnap kind r 0).ok s.core.redundantAt = true)

include hok

/-- A granule whose work exceeds the pre-emption budget traps (06 R156). -/
theorem xMatrix_overBudget (hover : b.overBudget ((b.mSnap kind r 0).work s.core.redundantAt) = true) :
    xMatrix kind r s = b.raiseLeave false (.fault causeBudget) 0 0 := by
  rw [xMatrix, xWord_ready _ hr]
  simp only [xReady_redundantAt hr, hok, hover, Bool.not_true, Bool.false_eq_true, if_false, if_true, readyEnd]

/-- Any other nest is queued, with what it will know of memory (06 R151; log 54). -/
theorem xMatrix_issues (hwithin : b.overBudget ((b.mSnap kind r 0).work s.core.redundantAt) = false) :
    xMatrix kind r s = readyEnd b 1 (b.mIssue
      { b.mSnap kind r 0 with seen := if (b.mSnap kind r 0).readsMem then some (b.mem, b.stores) else none }) := by
  rw [xMatrix, xWord_ready _ hr]
  simp only [xReady_redundantAt hr, hok, hwithin, Bool.not_true, Bool.false_eq_true, if_false]

end

/-! ### The nest tables -/

theorem exec_mmNest {r : Xm} {s b : State} (hr : s.XReady 1 r.g r.gn [] b) : exec (.mmNest r) s =
    .next (({ b with core := { b.core with
      shadow := setAt s.core.shadow r.l.toNat ((s.core.shadow.getD r.l.toNat NestLevel.reset).put r.fld.toNat r.v) } } : State).xDone 1) := by
  show execMmNest r s = _
  rw [execMmNest, xWord_ready _ hr, readyEnd, xReady_shadow hr]

theorem exec_mmSwap {r : Xr} {s b : State} (hr : s.XReady 1 r.g r.gn [] b) : exec (.mmSwap r) s =
    .next (({ b with core := { b.core with shadow := s.core.active, active := s.core.shadow } } : State).xDone 1) := by
  show execMmSwap r s = _
  rw [execMmSwap, xWord_ready _ hr, readyEnd, xReady_shadow hr, xReady_active hr]

/-- Settles O32: a word writes a nest table, or it queues a command; `mm.go` and `mm.zero` check theirs first. -/
theorem matrixWordsSetTheNestOrQueue : Obligations.MatrixWordsSetTheNestOrQueue := by
  refine ⟨fun r s b => exec_mmNest, fun r s b => exec_mmSwap, fun p hp r s b hr => ?_, fun r s b => (mmDrain_issues r).ready,
    fun r s b => (mmCfg_issues r).ready, fun p hp r s b => (tileForms_issue p hp r).ready⟩
  rw [nestForms_run p hp r s]
  refine ⟨fun hok => congrArg _ (xMatrix_illegal hr hok), fun hok hover => congrArg _ (xMatrix_overBudget hr hok hover),
    fun hok hwithin hfull => ?_, fun hok hwithin hroom => ?_⟩
  · rw [xMatrix_issues hr hok hwithin, readyEnd_mIssue hr, if_pos hfull]
  · rw [xMatrix_issues hr hok hwithin, readyEnd_mIssue hr, if_neg (Nat.not_le.mpr hroom)]

end Sys2Proof.Proofs
end

section
/-! The matrix engine (06 R151-R154, R157-R160; 03 R71; 13 R336): it runs the command at the head of its queue when it may, ends
granules, and completes a command that has done all its steps. -/

namespace Sys2Proof.Proofs

open Sys2Proof.Machine Sys2Proof.Laws

/-! ### What parking a context and recording a fault leave alone -/

theorem engineAsk_frame (s : State) (word addr : Word) (cause data : Nat) (syn : BitVec 8) :
    s.engineAsk word addr cause data syn = { s with ctxs := (s.engineAsk word addr cause data syn).ctxs } := by
  unfold State.engineAsk
  split <;> rfl

theorem domRecord_frame (s : State) (d addr handle core syn tier kind : Nat) :
    s.domRecord d addr handle core syn tier kind = { s with doms := (s.domRecord d addr handle core syn tier kind).doms } := by
  unfold State.domRecord
  split <;> rfl

/-! ### What an unresolved granule leaves -/

/-- The command of an unresolved granule, back at the granule's start (06 R160). -/
def backAtStart (m : MCmd) (q : List Nat) : MCmd :=
  { m with cursor := m.granStart, touched := q, release := [], granFlags := 0, check := none, fetched := [] }

theorem granuleDrop_checked {c : Core} {m : MCmd} {q : List Nat} {d : Memory} (hcheck : m.check = some (q, d)) :
    c.granuleDrop m = ({ c with adata := d }, backAtStart m q) := by
  simp only [Core.granuleDrop, hcheck, backAtStart]

theorem mem_withdrawn_withdrawCore (s : State) (i : Nat) : i ∈ (s.withdrawCore i).withdrawn := by
  unfold State.withdrawCore
  split
  next hthere => exact List.contains_iff_mem.mp hthere
  next => exact List.mem_cons_self

/-- The domain notes the accumulators and the start of a granule that is not resolved, and the core is withdrawn (06 R160). -/
def noteUnresolved (s : State) (d : Nat) (accs : List Nat) (start : Nat) : State :=
  let t := match s.dom d with
    | some x => s.setDom d { x with unresolved := x.unresolved ++ [(s.here, accs, start)] }
    | none => s
  t.withdrawCore t.here

theorem noteUnresolved_frame (s : State) (d : Nat) (accs : List Nat) (start : Nat) :
    noteUnresolved s d accs start = ({ s with doms := (noteUnresolved s d accs start).doms } : State).withdrawCore s.here := by
  unfold noteUnresolved
  cases s.dom d <;> rfl

section

variable {s : State} {m : MCmd} {rest : List MCmd} (hq : s.core.mq = m :: rest)

include hq

theorem setMHead_cons (h : MCmd) : s.setMHead h = { s with core := { s.core with mq := h :: rest } } := by
  rw [State.setMHead, hq]
  rfl

/-! ### The command at the head -/

theorem matrixRun_cfg (hkind : m.kind = .cfg) : s.matrixRun m =
    { s with core := { s.core with mq := { m with started := true, cursor := 1 } :: rest, redundant := decide (m.arg = 1) } } := by
  simp only [State.matrixRun, hkind, setMHead_cons hq]

theorem matrixRun_tset (hkind : m.kind = .tset) : s.matrixRun m =
    { s with core := { s.core with mq := { m with started := true, cursor := 1 } :: rest, tfull := tset s.core.tfull m.arg .full } } := by
  simp only [State.matrixRun, hkind, setMHead_cons hq]

theorem matrixRun_tclr (hkind : m.kind = .tclr) : s.matrixRun m =
    { s with core := { s.core with mq := { m with started := true, cursor := 1 } :: rest, tfull := tdel s.core.tfull m.arg } } := by
  simp only [State.matrixRun, hkind, setMHead_cons hq]

theorem matrixRun_drain_waits (hkind : m.kind = .drain) (hfull : (tget s.core.tfull (m.r.d.toNat % 16)).isSome = true) :
    s.matrixRun m = { s with core := { s.core with mq := { m with started := true } :: rest } } := by
  simp only [State.matrixRun, hkind, hfull, if_true, setMHead_cons hq]

omit hq

theorem matrixRun_drain_runs (hkind : m.kind = .drain) (hempty : tget s.core.tfull (m.r.d.toNat % 16) = none) (hsound : s.drainBad m = none) :
    s.matrixRun m = (s.drainRun { m with started := true }).1.setMHead (s.drainRun { m with started := true }).2 := by
  simp only [State.matrixRun, hkind, hempty, Option.isSome_none, Bool.false_eq_true, if_false, State.drainNow, hsound]

/-- An attempt that comes through with no word struck has nothing to record. -/
theorem granulePass_unstruck (hstrike : s.core.mstrike = []) : s.granulePass m =
    { s.setMHead { m with started := true } with core := { (s.setMHead { m with started := true }).core with mdog := false } } := by
  have hnone : (s.setMHead { m with started := true }).core.mstrike = [] := hstrike
  simp only [State.granulePass, hstrike, hnone, State.transients, List.foldl_nil]

/-- `mm.go` and `mm.zero` attempt a granule. -/
theorem matrixRun_granule (hkind : m.kind = .go ∨ m.kind = .zero) {t : State} {w : MCmd} (hok : s.granuleAttempt m = .ok (t, w)) :
    s.matrixRun m = t.granulePass w := by
  rcases hkind with hkind | hkind <;> simp only [State.matrixRun, hkind, hok]

theorem matrixRun_granule_waits (hkind : m.kind = .go ∨ m.kind = .zero) (hwait : s.granuleAttempt m = .wait) : s.matrixRun m = s := by
  rcases hkind with hkind | hkind <;> simp only [State.matrixRun, hkind, hwait]

include hq

theorem exec_matrixCommandStart : exec .matrixCommandStart s =
    .next (if s.core.matrixMay m && decide (s.core.mstrike = []) && !s.leaving then s.matrixRun m else s) := by
  show execMatrixCommandStart s = _
  rw [execMatrixCommandStart, hq]

/-- The engine takes up the command at the head when it may, no replay is due, and no leave stops it. -/
theorem exec_matrixCommandStart_runs (hmay : s.core.matrixMay m = true) (hstrike : s.core.mstrike = []) (hleave : s.leaving = false) :
    exec .matrixCommandStart s = .next (s.matrixRun m) := by
  rw [exec_matrixCommandStart hq, if_pos]
  rw [hmay, decide_eq_true hstrike, hleave]
  rfl

theorem exec_matrixCommandStart_holds (h : s.core.matrixMay m = false ∨ s.core.mstrike ≠ [] ∨ s.leaving = true) :
    exec .matrixCommandStart s = .next s := by
  rw [exec_matrixCommandStart hq, if_neg]
  rcases h with h | h | h <;> simp [h]

/-! ### The end of a granule -/

theorem exec_matrixGranuleEnd_holds {w : Twin} (hends : s.core.granuleEnds s.leaving = false) :
    exec (.matrixGranuleEnd w) s = .next s := by
  show execMatrixGranuleEnd w s = _
  simp only [execMatrixGranuleEnd, hq, hends, Bool.false_eq_true, if_false]

/-- Keeping a granule's results empties the tiles that it releases, and keeps its command for a replay of the drain lane. -/
theorem granuleKeep_cons : s.granuleKeep m = { s with core := { s.core with
    tfull := s.core.tfull.filter (fun t => !m.release.contains t.1)
    lastGran := some { m with fetched := [] }
    mq := { m with release := [], check := none, fetched := [], flags := m.flags ||| m.granFlags, granFlags := 0 } :: rest } } := by
  rw [State.granuleKeep, hq]
  rfl

variable (hends : s.core.granuleEnds s.leaving = true)

include hends

theorem exec_matrixGranuleEnd_keeps {w : Twin} (h : s.core.redundant = false ∨ w = .agree) :
    exec (.matrixGranuleEnd w) s = .next (s.granuleKeep m) := by
  show execMatrixGranuleEnd w s = _
  rcases h with h | rfl
  · simp only [execMatrixGranuleEnd, hq, hends, h, if_true, Bool.not_false]
  · simp only [execMatrixGranuleEnd, hq, hends, if_true, ite_self]

variable (hred : s.core.redundant = true)

include hred

/-- What redundant mode has resolved is kept, with a record. -/
theorem exec_matrixGranuleEnd_transient : exec (.matrixGranuleEnd .transient) s =
    .next ((s.granuleKeep m).domRecord s.domHere 0 (s.handleOf (s.core.ctx.getD 0)) s.here 0 8 5) := by
  show execMatrixGranuleEnd .transient s = _
  simp only [execMatrixGranuleEnd, hq, hends, hred, if_true, Bool.not_true, Bool.false_eq_true, if_false]

theorem exec_matrixGranuleEnd_unresolved {q : List Nat} {d : Memory} (hcheck : m.check = some (q, d)) :
    exec (.matrixGranuleEnd .unresolved) s = .next (noteUnresolved
      (((({ s with core := { s.core with adata := d } } : State).setMHead { backAtStart m q with frozen := true }).engineAsk
        m.word m.addr causeArith 0 0).domRecord s.domHere 0 (s.handleOf (s.core.ctx.getD 0)) s.here 0 8 6)
      s.domHere m.granAccs m.granStart) := by
  show execMatrixGranuleEnd .unresolved s = _
  rw [execMatrixGranuleEnd, hq]
  refine congrArg _ ((if_pos hends).trans ((if_neg (by simp [hred])).trans ?_))
  dsimp only
  rw [granuleDrop_checked hcheck, engineAsk_frame]
  rfl

/-- The command of an unresolved granule stands frozen at the granule's start, over the accumulators that it found there; beside the core,
only the contexts' requests, the domains' notes and the withdrawn cores change (06 R160). -/
theorem exec_matrixGranuleEnd_unresolved_frame {q : List Nat} {d : Memory} (hcheck : m.check = some (q, d)) :
    ∃ ctxs doms, exec (.matrixGranuleEnd .unresolved) s = .next (({ s with
      core := { s.core with adata := d, mq := { backAtStart m q with frozen := true } :: rest }
      ctxs := ctxs
      doms := doms } : State).withdrawCore s.here) := by
  have hrest : ({ s with core := { s.core with adata := d } } : State).core.mq = m :: rest := hq
  rw [exec_matrixGranuleEnd_unresolved hq hends hred hcheck, setMHead_cons hrest, noteUnresolved_frame, domRecord_frame, engineAsk_frame]
  exact ⟨_, _, rfl⟩

end

/-! ### Completion -/

section

variable {s : State} {m : MCmd} {rest : List MCmd} (hq : s.core.mq = m :: rest) (hstarted : m.started = true) (hfrozen : m.frozen = false)
  (hdone : m.cursor = m.total) (hcheck : m.check = none)

include hq hstarted hfrozen hdone hcheck

theorem exec_matrixCommandComplete_none (hp : m.pends = none) : exec .matrixCommandComplete s =
    .next { s with core := { s.core with mq := rest, xflags := s.core.xflags ||| m.flags } } := by
  show execMatrixCommandComplete s = _
  simp only [execMatrixCommandComplete, hq, hstarted, hfrozen, hdone, hcheck, Bool.not_false, decide_true, Option.isNone_none,
    Bool.and_self, if_true, hp]

theorem exec_matrixCommandComplete_some {d : Nat} {v : Word} (hp : m.pends = some d) (hv : m.amax = some v) :
    exec .matrixCommandComplete s =
      .next (({ s with core := { s.core with mq := rest, xflags := s.core.xflags ||| m.flags } } : State).setX d v) := by
  show execMatrixCommandComplete s = _
  simp only [execMatrixCommandComplete, hq, hstarted, hfrozen, hdone, hcheck, Bool.not_false, decide_true, Option.isNone_none,
    Bool.and_self, if_true, hp, hv]

end

/-- Settles O33: a step that may be taken runs the command at the head by its kind; a granule's end keeps or drops what it computed. -/
theorem matrixEngineRunsTheHead : Obligations.MatrixEngineRunsTheHead := by
  refine ⟨fun s hq => ⟨?_, ?_, fun w => ?_⟩, fun s m rest hq hmay hstrike hleave => ?_, fun s m rest hq => exec_matrixCommandStart_holds hq,
    fun s m rest w hq hends => ⟨fun h => ?_, fun hred => ?_, fun q d hred hcheck => ?_⟩, fun s m rest w hq => exec_matrixGranuleEnd_holds hq,
    fun s m rest hq hstarted hfrozen hdone hcheck => ⟨exec_matrixCommandComplete_none hq hstarted hfrozen hdone hcheck,
      fun d v => exec_matrixCommandComplete_some hq hstarted hfrozen hdone hcheck⟩⟩
  · exact congrArg Host.Outcome.next (by rw [hq])
  · exact congrArg Host.Outcome.next (by rw [hq])
  · exact congrArg Host.Outcome.next (by rw [hq])
  · rw [exec_matrixCommandStart_runs hq hmay hstrike hleave]
    exact ⟨fun hk => congrArg _ (matrixRun_cfg hq hk), fun hk => congrArg _ (matrixRun_tset hq hk), fun hk => congrArg _ (matrixRun_tclr hq hk),
      fun hk hfull => congrArg _ (matrixRun_drain_waits hq hk hfull),
      fun hk hempty hsound => congrArg _ (matrixRun_drain_runs hk hempty hsound),
      fun t w hk hok ht => congrArg _ ((matrixRun_granule hk hok).trans (granulePass_unstruck ht)), fun hk hwait => congrArg _ (matrixRun_granule_waits hk hwait)⟩
  · rw [exec_matrixGranuleEnd_keeps hq hends h, granuleKeep_cons hq]
  · rw [exec_matrixGranuleEnd_transient hq hends hred, granuleKeep_cons hq]
  · obtain ⟨ctxs, doms, hexec⟩ := exec_matrixGranuleEnd_unresolved_frame hq hends hred hcheck
    exact ⟨_, _, hexec, rfl, rfl, rfl, rfl, rfl, rfl, rfl, mem_withdrawn_withdrawCore _ _, rfl⟩

end Sys2Proof.Proofs
end

section
/-! Reads after stores (07 R169; 08 R199, R200; 10 R247): a store changes only the data of the bank or the words of memory that it is
given, so what says where the same bytes lie answers as before, and memory's own read-after-write laws apply. -/

namespace Sys2Proof.Proofs

open Sys2Proof.Machine Sys2Proof.Laws

/-! ### Store space -/

theorem storeDecode_bank_lt {pos a p k off : Nat} (h : storeDecode pos a = some (p, k, off)) : k < 16 := by
  rcases Nat.lt_or_ge a (2 ^ 25) with ha | ha
  · rw [storeDecode_of_lt pos ha] at h
    cases h
    rw [bits_eq_div_mod]
    exact Nat.mod_lt _ (by decide)
  · rw [storeDecode_of_le pos ha] at h
    cases h

/-- Where a store address lies, it was decoded to, in a store of the issuer's slot. -/
theorem storeDecode_of_storeTarget {s : State} {w : Who} {a n key k off : Nat} (h : s.storeTarget w a n = some (key, k, off)) :
    ∃ pos, storeDecode w.pos a = some (pos, k, off) ∧ key = storeKey w.slot pos := by
  cases hdecode : storeDecode w.pos a with
  | none => rw [storeTarget_of_storeDecode_none n hdecode] at h; cases h
  | some named =>
    obtain ⟨pos, bank, off'⟩ := named
    obtain ⟨⟨⟩, _⟩ := (storeTarget_of_storeDecode n hdecode _).mp h
    exact ⟨pos, rfl, rfl⟩

section

variable {s : State} {w : Who} {a n key k off : Nat} {m : Memory}

@[simp] theorem storeAt_setStore_same (t : Store) : (s.setStore key t).storeAt key = t := by
  show (tget (tset s.stores key t) key).getD _ = t
  rw [tget_tset_same, Option.getD_some]

/-- Of the bank whose bytes are replaced, only the bytes change. -/
theorem bank_setBankData_same (hk : k < (s.storeAt key).banks.length) :
    ((s.setBankData key k m).storeAt key).bank k = { (s.storeAt key).bank k with data := m } := by
  rw [State.setBankData, storeAt_setStore_same, bank_setBank_same hk]

/-- Whether and where an access is allowed does not depend on the bytes of the bank. -/
theorem storeTarget_setBankData (hlen : (s.storeAt key).banks.length = 16) (h : s.storeTarget w a n = some (key, k, off)) :
    k < (s.storeAt key).banks.length ∧ (s.setBankData key k m).storeTarget w a n = some (key, k, off) := by
  obtain ⟨pos, hdecode, rfl⟩ := storeDecode_of_storeTarget h
  have hk : k < (s.storeAt (storeKey w.slot pos)).banks.length := hlen ▸ storeDecode_bank_lt hdecode
  rw [storeTarget_of_storeDecode n hdecode] at h ⊢
  rw [bank_setBankData_same hk]
  exact ⟨hk, h⟩

end

/-- A lane's store to a bank without errors replaces its bytes. -/
theorem sWrite_clean {s : State} {w : Who} {a key k off : Nat} {bs : List Byte} (h : s.storeTarget w a bs.length = some (key, k, off))
    (hbad : ((s.storeAt key).bank k).data.bad = []) :
    s.sWrite w a bs = (s.setBankData key k (((s.storeAt key).bank k).data.setBytes off bs), .ok ()) := by
  simp only [State.sWrite, h, store_clean hbad, postMerge_clean hbad]

theorem sRead_of_storeTarget {s : State} {w : Who} {a n key k off : Nat} {bs : List Byte}
    (h : s.storeTarget w a n = some (key, k, off)) (hlane : ((s.storeAt key).bank k).data.lane off n = .ok bs) :
    s.sRead w a n = .ok bs := by
  simp only [State.sRead, h, hlane]

theorem sWriteWords_one {s : State} {w : Who} {a key k off : Nat} (c : CWord) (h : s.storeTarget w a 8 = some (key, k, off)) :
    s.sWriteWords w a [c] = (s.setBankData key k (((s.storeAt key).bank k).data.setWord off c), .ok ()) := by
  simp [State.sWriteWords, h]

theorem sReadWords_one {s : State} {w : Who} {a key k off : Nat} (h : s.storeTarget w a 8 = some (key, k, off)) :
    s.sReadWords w a 1 = .ok [((s.storeAt key).bank k).data.word off] := by
  simp only [State.sReadWords, h]

theorem sRead_sWrite {s t : State} {w : Who} {a : Nat} {bs : List Byte} (hwf : ∀ key k, ((s.storeAt key).bank k).data.wf = true)
    (hbad : ∀ key k, ((s.storeAt key).bank k).data.bad = []) (hlen : ∀ key, (s.storeAt key).banks.length = 16)
    (h : s.sWrite w a bs = (t, .ok ())) : t.sRead w a bs.length = .ok bs := by
  cases htarget : s.storeTarget w a bs.length with
  | none => simp [State.sWrite, htarget] at h
  | some target =>
    obtain ⟨key, k, off⟩ := target
    rw [sWrite_clean htarget (hbad key k)] at h
    cases h
    obtain ⟨hk, hsame⟩ := storeTarget_setBankData (hlen key) htarget
    refine sRead_of_storeTarget hsame ?_
    rw [bank_setBankData_same hk, lane_clean (by rw [setBytes_bad, hbad]), bytes_setBytes_same _ (hwf key k)]

theorem sReadWords_sWriteWords {s t : State} {w : Who} {a : Nat} {c : CWord} (hwf : ∀ key k, ((s.storeAt key).bank k).data.wf = true)
    (hlen : ∀ key, (s.storeAt key).banks.length = 16) (h : s.sWriteWords w a [c] = (t, .ok ())) : t.sReadWords w a 1 = .ok [c] := by
  cases htarget : s.storeTarget w a 8 with
  | none => simp [State.sWriteWords, htarget] at h
  | some target =>
    obtain ⟨key, k, off⟩ := target
    rw [sWriteWords_one c htarget] at h
    cases h
    obtain ⟨hk, hsame⟩ := storeTarget_setBankData (hlen key) htarget
    rw [sReadWords_one hsame, bank_setBankData_same hk, word_setWord_same _ (hwf key k)]

/-! ### Physical memory -/

theorem clearScrub_frame (s : State) (pa n : Nat) : s.clearScrub pa n = { s with scrubTags := (s.clearScrub pa n).scrubTags } := by
  unfold State.clearScrub
  split <;> rfl

section

variable {s : State} {pa : Nat}

theorem dirAt_clearScrub_with_mem (n : Nat) (m : Memory) : ({ s.clearScrub pa n with mem := m } : State).dirAt pa = s.dirAt pa := by
  rw [clearScrub_frame]
  rfl

theorem physRead_outside_dir (hdir : s.dirAt pa = none) (n : Nat) : s.physRead pa n = s.mem.lane pa n := by
  simp only [State.physRead, hdir]

theorem physWord_outside_dir (hdir : s.dirAt pa = none) : s.physWord pa = s.mem.word pa := by
  simp only [State.physWord, hdir]

theorem physRead_physStore {t : State} {bs : List Byte} (hwf : s.mem.wf = true) (hbad : s.mem.bad = []) (hdir : s.dirAt pa = none)
    (hblock : s.meetsBlock pa bs.length = false) (h : s.physStore pa bs = .ok t) :
    t.physRead pa bs.length = .ok bs ∧ ∀ a, a < pa ∨ pa + bs.length ≤ a → t.mem.byte a = s.mem.byte a := by
  rw [physStore_clean hdir hblock hbad] at h
  cases h
  refine ⟨?_, fun a ha => byte_setBytes_outside s.mem hwf pa bs ha⟩
  rw [physRead_outside_dir ((dirAt_clearScrub_with_mem _ _).trans hdir), lane_clean (by rw [setBytes_bad, hbad]), bytes_setBytes_same _ hwf]

theorem physWord_physSetWords {c : CWord} (hwf : s.mem.wf = true) (hdir : s.dirAt pa = none) (hblock : s.meetsBlock pa 8 = false) :
    (s.physSetWords pa [c]).physWord pa = c ∧
      ∀ a, a < pa ∨ pa + 8 ≤ a → (s.physSetWords pa [c]).mem.byte a = s.mem.byte a := by
  rw [physSetWords_clean hdir hblock]
  refine ⟨?_, byte_setWord_outside s.mem hwf pa c⟩
  rw [physWord_outside_dir ((dirAt_clearScrub_with_mem _ _).trans hdir), word_setWord_same _ hwf]

/-! ### Control blocks (10 R247, Table 10-3) -/

variable {k : Nat} {c : Ctx}

theorem meetsBlock_of_cbSlot (h : s.cbSlot pa = some (k, c)) {n : Nat} (hn : 0 < n) : s.meetsBlock pa n = true := by
  have hholds := List.find?_some h
  simp only [Bool.and_eq_true, decide_eq_true_eq] at hholds
  refine List.any_eq_true.mpr ⟨(k, c), List.mem_of_find?_eq_some h, ?_⟩
  simp only [Bool.and_eq_true, decide_eq_true_eq]
  omega

/-- The words that an aligned word of eight bytes meets are it alone. -/
theorem cbFilters_word (old : Memory) (halign : pa % 8 = 0) (hblock : s.meetsBlock pa 8 = true) :
    s.cbFilters old pa 8 = s.cbFilter (old.word pa) pa := by
  have hone : (pa + 8 + 7) / 8 - pa / 8 = 1 := by omega
  have haddr : 8 * (pa / 8) = pa := by omega
  simp only [State.cbFilters, hblock, if_true, hone, from', List.foldl_cons, List.foldl_nil, haddr]

theorem cbFilter_mem {old : CWord} (h : s.cbSlot pa = some (k, c)) :
    (s.cbFilter old pa).mem = s.mem.setWord pa (cbMerge (cbMask (pa - c.cb)) old (s.mem.word pa)) := by
  simp only [State.cbFilter, h]
  split <;> rfl

/-- Only the word that holds ASID and SPAN reaches the context itself. -/
theorem cbFilter_ctxs {old : CWord} (h : s.cbSlot pa = some (k, c)) (hpa : pa ≠ c.cb) : (s.cbFilter old pa).ctxs = s.ctxs := by
  simp only [State.cbFilter, h, if_neg hpa]

theorem cbMerge_v {mask v : Word} {old new : CWord} (h : old.use = some v) :
    (cbMerge mask old new).v = (v &&& ~~~mask) ||| (new.v &&& mask) := by
  simp only [cbMerge, h]

theorem physPut_mem (ws : List CWord) : (s.physPut pa ws).mem = s.mem.setWords pa ws := rfl

theorem physPut_ctxs (ws : List CWord) : (s.physPut pa ws).ctxs = s.ctxs := by
  rw [State.physPut, clearScrub_frame]

theorem physSetWords_block {w : CWord} (hdir : s.dirAt pa = none) (h : s.cbSlot pa = some (k, c)) (halign : pa % 8 = 0) :
    s.physSetWords pa [w] = (s.physPut pa [w]).cbFilter (s.mem.word pa) pa := by
  have hblock : (s.physPut pa [w]).meetsBlock pa 8 = true := by
    rw [State.meetsBlock, physPut_ctxs]
    exact meetsBlock_of_cbSlot h (by decide)
  rw [State.physSetWords, if_neg (by rw [hdir]; decide)]
  exact cbFilters_word s.mem halign hblock

theorem physSetWords_block_merges {w : CWord} {v : Word} (hwf : s.mem.wf = true) (hdir : s.dirAt pa = none)
    (h : s.cbSlot pa = some (k, c)) (halign : pa % 8 = 0) (huse : (s.mem.word pa).use = some v) :
    ((s.physSetWords pa [w]).mem.word pa).v = (v &&& ~~~cbMask (pa - c.cb)) ||| (w.v &&& cbMask (pa - c.cb)) ∧
      (pa ≠ c.cb → (s.physSetWords pa [w]).ctxs = s.ctxs) ∧
      ∀ a, a < pa ∨ pa + 8 ≤ a → (s.physSetWords pa [w]).mem.byte a = s.mem.byte a := by
  have hput : (s.physPut pa [w]).mem = s.mem.setWord pa w := physPut_mem _
  have hwfPut : (s.mem.setWord pa w).wf = true := wf_setWord _ hwf _ _
  have hslot : (s.physPut pa [w]).cbSlot pa = some (k, c) := by rw [State.cbSlot, physPut_ctxs]; exact h
  rw [physSetWords_block hdir h halign, cbFilter_mem hslot, hput, word_setWord_same _ hwfPut, cbMerge_v huse, word_setWord_same _ hwf]
  refine ⟨rfl, fun hpa => (cbFilter_ctxs hslot hpa).trans (physPut_ctxs _), fun a ha => ?_⟩
  rw [byte_setWord_outside _ hwfPut _ _ _ ha, byte_setWord_outside _ hwf _ _ _ ha]

end

/-- Settles O23: read after write in store space, in memory outside the control blocks, and in a control block's word. -/
theorem storedBytesReadBack : Obligations.StoredBytesReadBack :=
  ⟨fun _ _ _ _ _ => sRead_sWrite, fun _ _ _ _ _ hwf hlen _ => sReadWords_sWriteWords hwf hlen, fun _ _ _ _ => physRead_physStore,
    fun _ _ _ => physWord_physSetWords, fun _ _ _ _ _ _ => physSetWords_block_merges⟩

end Sys2Proof.Proofs
end

section
/-! Words of the A stream that compute (08 R183, R185, R186). -/

namespace Sys2Proof.Proofs

open Sys2Proof.Machine Sys2Proof.Claims Sys2Proof.Laws

/-! ### The shell of an A word, by its effect -/

/-- Whatever the state, the word is the effect `f` in the A stream's shell. -/
def ActsA (l f : Bool) (reads : List Nat) (commits : Bool) (fn : State → WordEnd) (i : Instr) : Prop :=
  ∀ s, exec i s = .next (s.aWord l f reads commits fn)

section

variable {l f commits : Bool} {reads : List Nat} {fn : State → WordEnd} {i : Instr} {s : State} (h : ActsA l f reads commits fn i)
  (hr : s.AReady l f reads commits)

include h hr

theorem ActsA.ready : exec i s = .next (s.aEnd (fn s)) := by
  rw [h s, aWord_ready _ hr]

theorem ActsA.done {t : State} (he : fn s = .done t) : exec i s = .next t.aDone := by
  rw [h.ready hr, he, State.aEnd]

theorem ActsA.wait {t : State} (he : fn s = .wait t) : exec i s = .next t := by
  rw [h.ready hr, he, State.aEnd]

theorem ActsA.trap {cause : Nat} {data : Word} (he : fn s = .trap cause data) :
    exec i s = .next (s.raiseLeave true (.fault cause) data 0) := by
  rw [h.ready hr, he, State.aEnd]

theorem ActsA.leave {kind : AskKind} {data : Word} {code : BitVec 32} (he : fn s = .leave kind data code) :
    exec i s = .next (s.raiseLeave true kind data code) := by
  rw [h.ready hr, he, State.aEnd]

end

/-- The effect of a word that sets a[d] to `v`. -/
def SetsA (l f : Bool) (reads : List Nat) (d : Nat) (v : State → Word) (i : Instr) : Prop :=
  ActsA l f reads false (fun u => .done (u.setA d (v u))) i

theorem SetsA.ready {l f : Bool} {reads : List Nat} {d : Nat} {v : State → Word} {i : Instr} {s : State} (h : SetsA l f reads d v i)
    (hr : s.AReady l f reads false) : exec i s = .next (s.setA d (v s)).aDone :=
  ActsA.done h hr rfl

/-! ### Products, minima and maxima by their signed and unsigned values -/

theorem ofInt_mul_toInt (a b : Word) : BitVec.ofInt 64 (a.toInt * b.toInt) = a * b := by
  rw [BitVec.ofInt_mul, BitVec.ofInt_toInt, BitVec.ofInt_toInt]

theorem ofInt_min_toInt (a b : Word) : BitVec.ofInt 64 (min a.toInt b.toInt) = if a.toInt ≤ b.toInt then a else b := by
  rw [min_def, apply_ite (BitVec.ofInt 64), BitVec.ofInt_toInt, BitVec.ofInt_toInt]

theorem ofInt_max_toInt (a b : Word) : BitVec.ofInt 64 (max a.toInt b.toInt) = if a.toInt ≤ b.toInt then b else a := by
  rw [max_def, apply_ite (BitVec.ofInt 64), BitVec.ofInt_toInt, BitVec.ofInt_toInt]

theorem ofNat_min_toNat (a b : Word) : BitVec.ofNat 64 (min a.toNat b.toNat) = if a.toNat ≤ b.toNat then a else b := by
  rw [min_def, apply_ite (BitVec.ofNat 64), BitVec.ofNat_toNat, BitVec.ofNat_toNat, BitVec.setWidth_eq, BitVec.setWidth_eq]

theorem ofNat_max_toNat (a b : Word) : BitVec.ofNat 64 (max a.toNat b.toNat) = if a.toNat ≤ b.toNat then b else a := by
  rw [max_def, apply_ite (BitVec.ofNat 64), BitVec.ofNat_toNat, BitVec.ofNat_toNat, BitVec.setWidth_eq, BitVec.setWidth_eq]

/-- The upper bits of an immediate stand 14 places up (08 R186). -/
theorem shiftLeft_14 (i : Word) : i <<< 14 = i * 16384 := by
  rw [BitVec.shiftLeft_eq_mul_twoPow]
  rfl

theorem toNat_signExtend_low6 (i : BitVec 14) : (i.signExtend 64).toNat % 64 = i.toNat % 64 := by
  rw [BitVec.toNat_signExtend, BitVec.toNat_setWidth]
  split <;> omega

theorem addressForms_set : ∀ p ∈ addressForms, ∀ r : Ar, SetsA r.l r.f [r.a.toNat, r.b.toNat, r.d.toNat] r.d.toNat
    (fun u => p.2 (u.getA 0 r.a.toNat) (u.getA 1 r.b.toNat)) (p.1 r) := by
  iterate 8
    refine List.forall_mem_cons.mpr ⟨fun r s => rfl, ?_⟩
  simp only [List.forall_mem_cons, ofInt_mul_toInt, ofInt_min_toInt, ofInt_max_toInt, ofNat_min_toNat, ofNat_max_toNat]
  repeat refine ⟨fun r s => rfl, ?_⟩
  exact List.forall_mem_nil _

theorem addressImmForms_set : ∀ p ∈ addressImmForms, ∀ r : Ai, SetsA r.l r.f [r.a.toNat, r.d.toNat] r.d.toNat
    (fun u => p.2 (u.getA 0 r.a.toNat) (r.imm.signExtend 64)) (p.1 r) := by
  simp only [addressImmForms, List.forall_mem_cons, toNat_signExtend_low6, ← shiftLeft_14]
  repeat refine ⟨fun r s => rfl, ?_⟩
  exact List.forall_mem_nil _

/-! ### Reads of address registers after a write -/

section

variable {s : State} {d i : Nat} (p : Nat) (v : Word) (hwf : s.core.a.wf = true)

include hwf

theorem getA_setA_same (hd : d ≠ 0) : (s.setA d v).getA p d = v := by
  rw [State.getA, if_neg hd, State.setA, if_neg hd]
  exact get_put_same _ hwf _ _ _ _

theorem getA_setA_ne (hi : d ≠ i) : (s.setA d v).getA p i = s.getA p i := by
  unfold State.getA State.setA
  split
  · rfl
  · split
    · rfl
    · exact get_put_ne _ hwf _ _ _ hi.symm

end

/-- Settles O43: each word is one write of a[D] in the A stream's shell. -/
theorem addressWordsWriteTheirResult : Obligations.AddressWordsWriteTheirResult :=
  ⟨fun p hp r _ => (addressForms_set p hp r).ready, fun p hp r _ => (addressImmForms_set p hp r).ready,
    fun s _ p _ v => ⟨setA_zero s v, getA_zero s p, fun hd hwf => getA_setA_same p v hwf hd, fun hi hwf => getA_setA_ne p v hwf hi⟩⟩

end Sys2Proof.Proofs
end

section
/-! Branches, nests and binds of the A stream (08 R187-R191; 02 R40). -/

namespace Sys2Proof.Proofs

open Sys2Proof.Machine Sys2Proof.Claims Sys2Proof.Laws

/-! ### Branches (08 R187, R191) -/

/-- The target of a branch by the signed value of its offset. -/
theorem aTarget_eq (s : State) (r : Sys2Proof.Ab) : s.aTarget r = s.core.apc + BitVec.ofInt 64 (4 * r.off.toInt) := by
  have hoff : r.off.signExtend 64 <<< 2 = BitVec.ofInt 64 (4 * r.off.toInt) := by
    rw [BitVec.shiftLeft_eq_mul_twoPow, BitVec.ofInt_mul, BitVec.mul_comm]
    rfl
  rw [State.aTarget, hoff]

theorem leaveLevels_eq_dropWhile (target : Word) (t : Table ALevel) : leaveLevels target t =
    t.dropWhile fun v => !(decide (v.2.start.toNat ≤ target.toNat) && decide (target.toNat ≤ v.2.stop.toNat)) := by
  induction t with
  | nil => rfl
  | cons v t ih =>
    rw [leaveLevels, List.dropWhile_cons, ← ih]
    by_cases h : v.2.start.toNat ≤ target.toNat ∧ target.toNat ≤ v.2.stop.toNat
    · simp [h]
    · rw [if_neg h, if_pos (by rw [← Bool.decide_and, Bool.not_eq_true', decide_eq_false h])]

/-- Where a taken branch leaves the stream. -/
def branchTaken (r : Sys2Proof.Ab) (s : State) : State :=
  { s with core := { s.core with
    apc := s.core.apc + BitVec.ofInt 64 (4 * r.off.toInt), adoubt := false
    levels := s.core.levels.dropWhile fun v =>
      !(decide (v.2.start.toNat ≤ (s.core.apc + BitVec.ofInt 64 (4 * r.off.toInt)).toNat) &&
        decide ((s.core.apc + BitVec.ofInt 64 (4 * r.off.toInt)).toNat ≤ v.2.stop.toNat)) } }

theorem aEnd_jump_aTarget (r : Sys2Proof.Ab) (s t : State) : t.aEnd (.jump s (s.aTarget r)) = branchTaken r s := by
  rw [State.aEnd, aTarget_eq, leaveLevels_eq_dropWhile]
  rfl

theorem aBranch_ready {r : Sys2Proof.Ab} {s : State} (taken : Word → Bool) (h : s.AReady false false [r.a.toNat] false) :
    aBranch taken r s = if taken (s.getA 0 r.a.toNat) then branchTaken r s else s.aDone := by
  rw [aBranch, aWord_ready _ h]
  split
  · exact aEnd_jump_aTarget r s s
  · rfl

/-! ### `nest` and `bind` (08 R188, R189) -/

theorem nestBad_iff (c : Core) (l : Nat) (stop : Word) : c.nestBad l stop = true ↔
    (tget c.levels l).isSome = true ∨ ∃ v ∈ c.levels, v.2.start.toNat ≤ c.apc.toNat ∧ c.apc.toNat ≤ v.2.stop.toNat ∧
      (v.1 ≤ l ∨ v.2.stop.toNat < stop.toNat) := by
  simp only [Core.nestBad, Bool.or_eq_true, List.any_eq_true, Bool.and_eq_true, decide_eq_true_eq, and_assoc]

/-- The word after the body of a `nest` is the one after `stop` (08 R188). -/
def nestStop (r : An) (s : State) : Word := s.core.apc + BitVec.ofNat 64 (4 * r.k.toNat)

/-- The number of iterations of a `nest` (08 R188). -/
def nestCount (r : An) (s : State) : Nat := (s.getA 0 r.a.toNat).toNat % 2 ^ 32

/-- The effect of a `nest` (08 R188). -/
def nestEnd (r : An) (s : State) : WordEnd :=
  if s.core.nestBad r.d.toNat (nestStop r s) then .trap causeIll 0
  else if nestCount r s = 0 then
    if (s.core.endBindsAt (nestStop r s)).any s.pendingA then .wait s
    else .done { s with core := { s.core with apc := nestStop r s, adoubt := false } }
  else .done { s with core := { s.core with
    levels := tset s.core.levels r.d.toNat { start := s.core.apc + 4, stop := nestStop r s, idx := 0, count := nestCount r s } } }

theorem nest_acts (r : An) : ActsA false false [r.a.toNat] false (nestEnd r) (.nest r) := fun _ => rfl

section

variable {r : An} {s : State}

theorem nestEnd_bad (h : s.core.nestBad r.d.toNat (nestStop r s) = true) : nestEnd r s = .trap causeIll 0 := if_pos h

variable (h : ¬ s.core.nestBad r.d.toNat (nestStop r s) = true)

include h

theorem nestEnd_passes (hn : nestCount r s = 0) (hb : (s.core.endBindsAt (nestStop r s)).any s.pendingA = false) :
    nestEnd r s = .done { s with core := { s.core with apc := nestStop r s, adoubt := false } } := by
  rw [nestEnd, if_neg h, if_pos hn, if_neg (Bool.eq_false_iff.mp hb)]

theorem nestEnd_waits (hn : nestCount r s = 0) (hb : (s.core.endBindsAt (nestStop r s)).any s.pendingA = true) :
    nestEnd r s = .wait s := by
  rw [nestEnd, if_neg h, if_pos hn, if_pos hb]

theorem nestEnd_activates (hn : nestCount r s ≠ 0) : nestEnd r s = .done { s with core := { s.core with
    levels := tset s.core.levels r.d.toNat { start := s.core.apc + 4, stop := nestStop r s, idx := 0, count := nestCount r s } } } := by
  rw [nestEnd, if_neg h, if_neg hn]

end

/-- The binds but the pair of a level and a register. -/
def bindsBut (bs : List Bind) (l d : Nat) : List Bind := bs.filter fun b => !(decide (b.level = l) && decide (b.d = d))

/-- The pairs of a level but the one that a `bind` names are those of the level among the pairs that it keeps. -/
theorem filter_bindsBut (bs : List Bind) (l d : Nat) : ((bindsBut bs l d).filter fun b => decide (b.level = l)) =
    bs.filter fun b => decide (b.level = l) && decide (b.d ≠ d) := by
  rw [bindsBut, List.filter_filter]
  refine List.filter_congr fun b _ => ?_
  by_cases hl : b.level = l <;> simp [hl]

/-- The effect of a `bind` (08 R189). -/
def bindEnd (v : BitVec 3) (r : Ar) (s : State) : WordEnd :=
  if r.d = 0 then .trap causeIll 0
  else if r.a = 0 then .done { s with core := { s.core with binds := bindsBut s.core.binds v.toNat r.d.toNat } }
  else if 4 ≤ ((bindsBut s.core.binds v.toNat r.d.toNat).filter fun b => decide (b.level = v.toNat)).length then .trap causeIll 0
  else .done { s with core := { s.core with
    binds := bindsBut s.core.binds v.toNat r.d.toNat ++ [{ level := v.toNat, d := r.d.toNat, inc := s.getA 0 r.a.toNat }] } }

theorem bind_acts (v : BitVec 3) (r : Ar) : ActsA false false [r.a.toNat] false (bindEnd v r) (.bind v r) := by
  intro s
  have hzero : r.d = 0 ↔ r.d.toNat = 0 := BitVec.toNat_inj.symm
  refine congrArg (fun fn => Host.Outcome.next (s.aWord false false [r.a.toNat] false fn)) (funext fun u => ?_)
  simp only [bindEnd, filter_bindsBut, hzero]
  rfl

section

variable {v : BitVec 3} {r : Ar} {s : State}

theorem bindEnd_zero (hd : r.d = 0) : bindEnd v r s = .trap causeIll 0 := if_pos hd

variable (hd : r.d ≠ 0)

include hd

theorem bindEnd_removes (ha : r.a = 0) :
    bindEnd v r s = .done { s with core := { s.core with binds := bindsBut s.core.binds v.toNat r.d.toNat } } := by
  rw [bindEnd, if_neg hd, if_pos ha]

theorem bindEnd_full (ha : r.a ≠ 0)
    (hf : 4 ≤ ((bindsBut s.core.binds v.toNat r.d.toNat).filter fun b => decide (b.level = v.toNat)).length) :
    bindEnd v r s = .trap causeIll 0 := by
  rw [bindEnd, if_neg hd, if_neg ha, if_pos hf]

theorem bindEnd_adds (ha : r.a ≠ 0)
    (hf : ¬ 4 ≤ ((bindsBut s.core.binds v.toNat r.d.toNat).filter fun b => decide (b.level = v.toNat)).length) :
    bindEnd v r s = .done { s with core := { s.core with
      binds := bindsBut s.core.binds v.toNat r.d.toNat ++ [{ level := v.toNat, d := r.d.toNat, inc := s.getA 0 r.a.toNat }] } } := by
  rw [bindEnd, if_neg hd, if_neg ha, if_neg hf]

end

/-! ### The end of a body (08 R190) -/

section

variable {s : State} {l : Nat} {v : ALevel} {rest : Table ALevel} (h : s.core.levels = (l, v) :: rest)

include h

theorem aDone_inside (hstop : v.stop ≠ s.core.apc) :
    s.aDone = { s with core := { s.core with apc := s.core.apc + 4, adoubt := false } } := by
  refine aDone_plain fun w hw => ?_
  rw [Core.innermost, h, List.head?_cons, Option.mem_some_iff] at hw
  rw [← hw]
  exact hstop

theorem aDone_again (hstop : v.stop = s.core.apc) (hidx : v.idx + 1 < v.count) :
    s.aDone = { s with core := { s.core.applyBinds l s.tick with
      apc := v.start, adoubt := false, levels := (l, { v with idx := v.idx + 1 }) :: rest } } := by
  simp only [State.aDone, Core.nestStep, Core.innermost, h, List.head?_cons, hstop, if_true, if_pos hidx, Core.applyBinds, tset,
    beq_self_eq_true]

theorem aDone_over (hstop : v.stop = s.core.apc) (hidx : v.count ≤ v.idx + 1) (hrest : ∀ o ∈ rest.head?, o.2.stop ≠ v.stop) :
    s.aDone = { s with core := { s.core.applyBinds l s.tick with apc := v.stop + 4, adoubt := false, levels := rest } } := by
  have hdel : tdel ((l, v) :: rest) l = rest := by simp only [tdel, beq_self_eq_true, if_true]
  rw [hstop] at hrest
  simp only [State.aDone, Core.nestStep, Core.innermost, h, List.head?_cons, hstop, if_true, if_neg (Nat.not_lt.mpr hidx),
    Core.applyBinds, hdel]
  cases hhead : rest.head? with
  | none => rfl
  | some o => simp only [if_neg (hrest o hhead)]

end

/-! ### Binds applied (08 R189, R190) -/

/-- The register file after the binds of a list, each of its own register. -/
def bindRegs (t : Nat) (a : Regs 64) (bs : List Bind) : Regs 64 :=
  bs.foldl (fun r b => r.put b.d (r.get b.d t (4096 + b.d) + b.inc)) a

section

variable {t : Nat} {a : Regs 64} {bs : List Bind}

theorem get_bindRegs_ne (hwf : a.wf = true) {d : Nat} (p : Nat) (hd : ∀ b ∈ bs, b.d ≠ d) :
    (bindRegs t a bs).get d t p = a.get d t p := by
  induction bs generalizing a with
  | nil => rfl
  | cons b bs ih =>
    obtain ⟨hb, hbs⟩ := List.forall_mem_cons.mp hd
    rw [bindRegs, List.foldl_cons, ← bindRegs, ih (regs_wf_put _ hwf _ _) hbs, get_put_ne _ hwf _ _ _ hb.symm]

theorem get_bindRegs_mem (hwf : a.wf = true) (hnodup : (bs.map (fun b => b.d)).Nodup) {b : Bind} (hb : b ∈ bs) :
    (bindRegs t a bs).get b.d t (4096 + b.d) = a.get b.d t (4096 + b.d) + b.inc := by
  induction bs generalizing a with
  | nil => cases hb
  | cons c bs ih =>
    rw [List.map_cons, List.nodup_cons] at hnodup
    obtain ⟨hc, hnodup⟩ := hnodup
    have hwf' := regs_wf_put _ hwf c.d (a.get c.d t (4096 + c.d) + c.inc)
    rw [bindRegs, List.foldl_cons, ← bindRegs]
    rcases List.mem_cons.mp hb with rfl | hb
    · rw [get_bindRegs_ne hwf' _ fun e he hd => hc (List.mem_map.mpr ⟨e, he, hd⟩), get_put_same _ hwf]
    · have hne : b.d ≠ c.d := fun hd => hc (List.mem_map.mpr ⟨b, hb, hd⟩)
      rw [ih hwf' hnodup hb, get_put_ne _ hwf _ _ _ hne]

end

theorem applyBinds_eq (c : Core) (l t : Nat) :
    c.applyBinds l t = { c with a := bindRegs t c.a (c.binds.filter fun b => decide (b.level = l)) } := rfl

/-- Of the pairs of one level each has its own register. -/
theorem nodup_level_regs {bs : List Bind} (h : (bs.map (fun b => (b.level, b.d))).Nodup) (l : Nat) :
    ((bs.filter fun b => decide (b.level = l)).map (fun b => b.d)).Nodup := by
  have hfilter := h.sublist (List.filter_sublist (l := bs) (p := fun b => decide (b.level = l)) |>.map fun b => (b.level, b.d))
  refine List.Nodup.of_map (fun d => (l, d)) ?_
  rw [List.map_map]
  refine (List.map_congr_left fun b hb => ?_) ▸ hfilter
  rw [← of_decide_eq_true (List.mem_filter.mp hb).2]
  rfl

/-! ### The issue bits (02 R40) -/

theorem issues_iff (c : Core) (l f : Bool) :
    c.issues l f = true ↔ ∀ v ∈ c.levels.head?, (f = true → v.2.idx = 0) ∧ (l = true → v.2.idx + 1 = v.2.count) := by
  rw [Core.issues, Core.innermost]
  cases c.levels.head? with
  | none => simp
  | some v => cases f <;> cases l <;> simp

/-- Settles O44: each word is its effect in the A stream's shell, and the end of a body one step of its level. -/
theorem branchesNestsAndBindsStepTheStream : Obligations.BranchesNestsAndBindsStepTheStream := by
  refine ⟨fun r s hr => ⟨?_, ?_, ?_⟩, fun r s hr => ?_, fun v r s hr => ?_, fun s l v rest h => ?_, fun c l t hwf hnodup => ?_,
    issues_iff, fun p hp r s hi hb => ?_⟩
  · exact congrArg Host.Outcome.next (aBranch_ready (fun _ => true) hr)
  · exact congrArg Host.Outcome.next ((aBranch_ready (fun a => decide (a = 0)) hr).trans (by simp only [decide_eq_true_eq]; rfl))
  · exact congrArg Host.Outcome.next ((aBranch_ready (fun a => decide (a ≠ 0)) hr).trans
      (by simp only [decide_eq_true_eq, ne_eq, ite_not]; rfl))
  · intro l pc stop n bad
    have hbad : s.core.nestBad r.d.toNat (nestStop r s) = true ↔ bad := nestBad_iff _ _ _
    have h := nest_acts r
    exact ⟨fun hb => h.trap hr (nestEnd_bad (hbad.mpr hb)), fun hb hn hw => h.done hr (nestEnd_passes (mt hbad.mp hb) hn hw),
      fun hb hn hw => h.wait hr (nestEnd_waits (mt hbad.mp hb) hn hw), fun hb hn => h.done hr (nestEnd_activates (mt hbad.mp hb) hn)⟩
  · have h := bind_acts v r
    exact ⟨fun hd => h.trap hr (bindEnd_zero hd), fun hd ha => h.done hr (bindEnd_removes hd ha),
      fun hd ha hf => h.trap hr (bindEnd_full hd ha hf), fun hd ha hf => h.done hr (bindEnd_adds hd ha hf)⟩
  · exact ⟨aDone_inside h, aDone_again h, aDone_over h⟩
  · rw [applyBinds_eq]
    refine ⟨rfl, fun b hb hl => ?_, fun d p hd => ?_⟩
    · exact get_bindRegs_mem hwf (nodup_level_regs hnodup l) (List.mem_filter.mpr ⟨hb, decide_eq_true hl⟩)
    · exact get_bindRegs_ne hwf p fun b hb => hd b (List.mem_filter.mp hb).1 (of_decide_eq_true (List.mem_filter.mp hb).2)
  · rw [addressForms_set p hp r s, aWord_skip _ hi hb]

end Sys2Proof.Proofs
end

section
/-! Words of both streams that wait for tags, accesses and time (08 R187, R206, R211, R212, R223, R224; 12 R305). -/

namespace Sys2Proof.Proofs

open Sys2Proof.Machine Sys2Proof.Claims Sys2Proof.Laws

/-! ### The shell of an X word, by its effect -/

/-- Whatever the state, the word is the effect `f` in the X stream's shell. -/
def ActsX (g : BitVec 7) (gn : Bool) (uses : List Nat) (f : State → WordEnd) (i : Instr) : Prop :=
  ∀ s, exec i s = .next (s.xWord g gn uses f)

section

variable {g : BitVec 7} {gn : Bool} {uses : List Nat} {f : State → WordEnd} {i : Instr} {s b : State} (h : ActsX g gn uses f i)
  (hr : s.XReady 1 g gn uses b)

include h hr

theorem ActsX.ready : exec i s = .next (readyEnd b 1 (f b)) := by
  rw [h s, xWord_ready _ hr]

theorem ActsX.done {t : State} (he : f b = .done t) : exec i s = .next (t.xDone 1) := by
  rw [h.ready hr, he, readyEnd]

theorem ActsX.wait {t : State} (he : f b = .wait t) : exec i s = .next t.xWait := by
  rw [h.ready hr, he, readyEnd]

theorem ActsX.trap {cause : Nat} {data : Word} (he : f b = .trap cause data) :
    exec i s = .next (b.raiseLeave false (.fault cause) data 0) := by
  rw [h.ready hr, he, readyEnd]

theorem ActsX.leave {kind : AskKind} {data : Word} {code : BitVec 32} (he : f b = .leave kind data code) :
    exec i s = .next (b.raiseLeave false kind data code) := by
  rw [h.ready hr, he, readyEnd]

end

/-! ### Tag waits -/

/-- The tags of a list that are not done. -/
def openTags (s : State) (ts : List Nat) : List Nat := ts.filter fun t => !(s.own.tag t).done

section

variable {s : State} {ts : List Nat} {t : Nat} {f : State → WordEnd}

theorem openTags_eq_nil : openTags s ts = [] ↔ ts.all (fun t => (s.own.tag t).done) = true := by
  simp [openTags]

theorem openTags_one (h : (s.own.tag t).done = false) : openTags s [t] = [t] := by
  simp [openTags, h]

theorem openTags_done (h : (s.own.tag t).done = true) : openTags s [t] = [] := by
  simp [openTags, h]

theorem tagWait_done (h : openTags s ts = []) : s.tagWait ts f = f s := if_pos (openTags_eq_nil.mp h)

variable (h : openTags s ts ≠ [])

include h

theorem tagWait_open : s.tagWait ts f = match (openTags s ts).findSome? s.tagPage with
    | some k => .leave (.fault causePages) (BitVec.ofNat 64 k) 1
    | none => .wait s :=
  if_neg (mt openTags_eq_nil.mpr h)

theorem tagWait_waits (hp : (openTags s ts).findSome? s.tagPage = none) : s.tagWait ts f = .wait s := by
  rw [tagWait_open h, hp]

theorem tagWait_leaves {k : Nat} (hp : (openTags s ts).findSome? s.tagPage = some k) :
    s.tagWait ts f = .leave (.fault causePages) (BitVec.ofNat 64 k) 1 := by
  rw [tagWait_open h, hp]

end

section

variable {s : State} {t : Nat} {f : State → WordEnd}

theorem tagWait_one_done (h : (s.own.tag t).done = true) : s.tagWait [t] f = f s := tagWait_done (openTags_done h)

variable (h : (s.own.tag t).done = false)

include h

theorem tagWait_one_waits (hp : s.tagPage t = none) : s.tagWait [t] f = .wait s := by
  refine tagWait_waits (by simp [openTags_one h]) ?_
  rw [openTags_one h, List.findSome?_cons, hp, List.findSome?_nil]

theorem tagWait_one_leaves {k : Nat} (hp : s.tagPage t = some k) :
    s.tagWait [t] f = .leave (.fault causePages) (BitVec.ofNat 64 k) 1 := by
  refine tagWait_leaves (by simp [openTags_one h]) ?_
  rw [openTags_one h, List.findSome?_cons, hp]

end

/-! ### The X stream: what its shell leaves of the tags -/

section

variable {s b : State} {len : Nat} {g : BitVec 7} {gn : Bool} {uses : List Nat} (h : s.XReady len g gn uses b)

include h

theorem xReady_own : b.own = s.own := by
  obtain ⟨⟨rfl, -, -, -⟩, -⟩ := h
  rw [takeX_frame]
  rfl

theorem xReady_tagPage : b.tagPage = s.tagPage := by
  obtain ⟨⟨rfl, -, -, -⟩, -⟩ := h
  rw [takeX_frame]
  rfl

theorem xReady_tagErrs : b.tagErrs = s.tagErrs := by
  rw [State.tagErrs, State.tagErrs, xReady_own h]

theorem xReady_cycle : b.cycle = s.cycle := by
  obtain ⟨⟨rfl, -, -, -⟩, -⟩ := h
  rw [takeX_cycle]
  rfl

end

theorem tw_acts (r : Xk) : ActsX r.g r.gn [64 + r.d.toNat] (fun u => u.tagWait [r.imm.toNat % 64] fun u =>
    .done (u.setX r.d.toNat (if (u.own.tag (r.imm.toNat % 64)).err then 1 else 0))) (.tw r) := fun _ => rfl

theorem twa_acts (r : Xk) : ActsX r.g r.gn [r.d.toNat] (fun u => u.tagWait (maskTags (u.getX 0 r.d.toNat)) fun v =>
    .done (v.setX r.d.toNat (v.tagErrs &&& u.getX 0 r.d.toNat))) (.twa r) := fun _ => rfl

/-- The effect of a `pause` (08 R224). -/
theorem pause_acts (r : Xk) : ActsX r.g r.gn [] (fun u => .done { u with core := { u.core with
    xclk := u.core.xclk.map (fun c => c + r.imm.toNat), xhold := .paused (u.cycle + r.imm.toNat), xcycle := u.core.xcycle + r.imm.toNat } })
    (.pause r) := fun _ => rfl

/-! ### The end of a pause -/

/-- What becomes of a stream's hold when pauses that have run out end. -/
def holdAfter (cycle : Nat) (h : Hold) : Hold :=
  match h with
  | .paused n => if n ≤ cycle then .none else h
  | _ => h

theorem holdAfter_over {cycle n : Nat} (h : n ≤ cycle) : holdAfter cycle (.paused n) = .none := if_pos h

theorem holdAfter_same {cycle : Nat} {h : Hold} (hn : ∀ n, h = .paused n → cycle < n) : holdAfter cycle h = h := by
  cases h with
  | paused n => exact if_neg (Nat.not_le.mpr (hn n rfl))
  | none => rfl
  | queue => rfl
  | asking => rfl
  | access g => rfl

theorem exec_pauseExpiry_x (s : State) :
    exec (.pauseExpiry false) s = .next { s with core := { s.core with xhold := holdAfter s.cycle s.core.xhold } } := rfl

theorem exec_pauseExpiry_a (s : State) :
    exec (.pauseExpiry true) s = .next { s with core := { s.core with ahold := holdAfter s.cycle s.core.ahold } } := rfl

/-- Settles O39: a tag wait looks at the tags of the core's own store, which the shell of a word leaves alone. -/
theorem pausesAndTagWaitsHoldTheStream : Obligations.PausesAndTagWaitsHoldTheStream := by
  refine ⟨fun r s b hr => ?_, fun s n hh hn => ?_, fun s n hh hn => ?_, fun s hn => ?_, fun s hn => ?_, fun r s b hr => ?_,
    fun r s b hr => ?_, fun s i w hw => ?_, fun s i hw => ?_⟩
  · intro n c
    refine ((pause_acts r).done hr rfl).trans ?_
    rw [xReady_cycle hr, show b.core.xclk = s.core.xclk by rw [xReady_core hr]; rfl,
      show b.core.xcycle = s.core.xcycle by rw [xReady_core hr]; rfl]
  · rw [exec_pauseExpiry_x, hh, holdAfter_over hn]
  · rw [exec_pauseExpiry_a, hh, holdAfter_over hn]
  · rw [exec_pauseExpiry_x, holdAfter_same hn]
  · rw [exec_pauseExpiry_a, holdAfter_same hn]
  · rw [← xReady_own hr, ← xReady_tagPage hr]
    exact ⟨fun hd => (tw_acts r).done hr (tagWait_one_done hd), fun hd hp => (tw_acts r).wait hr (tagWait_one_waits hd hp),
      fun k hd hp => (tw_acts r).leave hr (tagWait_one_leaves hd hp)⟩
  · rw [← xReady_own hr, ← xReady_tagPage hr, ← xReady_tagErrs hr]
    exact ⟨fun ho => (twa_acts r).done hr (tagWait_done ho), fun ho hp => (twa_acts r).wait hr (tagWait_waits ho hp),
      fun k ho hp => (twa_acts r).leave hr (tagWait_leaves ho hp)⟩
  · show execResultLand i s = _
    rw [execResultLand, hw]
  · show execResultLand i s = _
    rw [execResultLand, hw]

/-! ### The A stream -/

/-- Stepping nest levels touches the address registers, the place and the levels only. -/
theorem nestStep_frame (t : Nat) (a : Word) (n : Nat) (c : Core) : Core.nestStep t a n c =
    { c with a := (Core.nestStep t a n c).a, apc := (Core.nestStep t a n c).apc, levels := (Core.nestStep t a n c).levels } := by
  induction n generalizing c with
  | zero => rfl
  | succ n ih =>
    rw [Core.nestStep]
    split
    · rfl
    · split
      · split
        · rfl
        · rw [ih]
          rfl
      · rfl

theorem aDone_aexited (s : State) : s.aDone.core.aexited = s.core.aexited := by
  rw [State.aDone, nestStep_frame]

theorem aTw_acts (r : An) : ActsA r.l r.f [] false (fun u => u.tagWait [r.k.toNat % 64] .done) (.aTw r) := fun _ => rfl

theorem aTwa_acts (r : An) : ActsA r.l r.f [r.a.toNat, r.d.toNat] false (fun u => u.tagWait (maskTags (u.getA 0 r.a.toNat)) fun v =>
    .done (v.setA r.d.toNat (v.tagErrs &&& u.getA 0 r.a.toNat))) (.aTwa r) := fun _ => rfl

/-- The effect of a `tclr` of the A stream (08 R211). -/
def tclrEnd (t : Nat) (s : State) : WordEnd :=
  if (s.own.tag t).pend ≠ 0 then .wait s else .done (s.setOwn (s.own.setTag t { pend := 0, done := true, err := false }))

theorem aTclr_acts (r : An) : ActsA r.l r.f [] true (tclrEnd (r.k.toNat % 64)) (.aTclr r) := fun _ => rfl

/-- Whether a remote atomic of the A stream in focus is under way. -/
def sentHere (s : State) : Bool := s.ramos.any fun m => decide (some m.slot = s.core.ctx) && decide (m.pos = s.core.pos)

theorem sentHere_iff (s : State) : sentHere s = true ↔ ∃ m ∈ s.ramos, some m.slot = s.core.ctx ∧ m.pos = s.core.pos := by
  simp only [sentHere, List.any_eq_true, Bool.and_eq_true, decide_eq_true_eq]

/-- The effect of a `fence` of the A stream (07 R179). -/
def aFenceEnd (s : State) : WordEnd := if sentHere s then .wait s else .done s

theorem aFence_acts (r : An) : ActsA r.l r.f [] true aFenceEnd (.aFence r) := fun _ => rfl

theorem pf_acts (r : Am) : ActsA r.l r.f [] false .done (.pf r) := fun _ => rfl

theorem aPause_acts (r : Ai) : ActsA r.l r.f [] false (fun u => .done { u with core := { u.core with
    aclk := u.core.aclk.map (fun c => c + r.imm.toNat), ahold := .paused (u.cycle + r.imm.toNat) } }) (.aPause r) := fun _ => rfl

theorem aBusy_iff (s : State) : s.aBusy = true ↔ s.core.amos ≠ [] ∨ (∃ m ∈ s.ramos, some m.slot = s.core.ctx ∧ m.pos = s.core.pos) ∨
    ∃ c ∈ s.cmds, some c.slot = s.core.ctx ∧ c.pos = s.core.pos ∧ c.launch = s.launchId := by
  simp only [State.aBusy, Bool.or_eq_true, List.any_eq_true, Bool.and_eq_true, decide_eq_true_eq, and_assoc, or_assoc]
  exact or_congr_right or_comm

section

variable {r : Sys2Proof.Ab} {s : State} (hr : s.AReady false false [] true)

include hr

theorem exec_aExit_busy (he : s.core.aexited = false) (hb : s.aBusy = true) : exec (.aExit r) s = .next s := by
  show execAExit r s = _
  simp only [execAExit, aWord_ready _ hr, hb, if_true, State.aEnd, he, Bool.false_eq_true, if_false]

theorem exec_aExit_idle (hb : s.aBusy = false) : exec (.aExit r) s =
    .next (({ s with core := { s.core with aexited := true } } : State).aDone.checkEnd (s.core.ctx.getD 0)) := by
  show execAExit r s = _
  simp only [execAExit, aWord_ready _ hr, hb, Bool.false_eq_true, if_false, State.aEnd, aDone_aexited, if_true]

end

/-- Settles O45: each word is its effect in the A stream's shell. -/
theorem addressWordsThatWait : Obligations.AddressWordsThatWait := by
  refine ⟨fun r s hr => ?_, fun r s hr => ?_, fun r s hr => ?_, fun r s hr => (pf_acts r).done hr rfl,
    fun r s hr => (aPause_acts r).done hr rfl, fun r s hr he => ?_⟩
  · exact ⟨fun hd => (aTw_acts r).done hr (tagWait_one_done hd), fun hd hp => (aTw_acts r).wait hr (tagWait_one_waits hd hp),
      fun k hd hp => (aTw_acts r).leave hr (tagWait_one_leaves hd hp)⟩
  · exact ⟨fun ho => (aTwa_acts r).done hr (tagWait_done ho), fun ho hp => (aTwa_acts r).wait hr (tagWait_waits ho hp),
      fun k ho hp => (aTwa_acts r).leave hr (tagWait_leaves ho hp)⟩
  · intro t sent
    have hsent : sentHere s = true ↔ sent := sentHere_iff s
    exact ⟨fun hp => (aTclr_acts r).wait hr (if_pos hp), fun hp => (aTclr_acts r).done hr (if_neg (not_not_intro hp)),
      fun h => (aFence_acts r).wait hr (if_pos (hsent.mpr h)), fun h => (aFence_acts r).done hr (if_neg (mt hsent.mp h))⟩
  · intro busy
    have hbusy : s.aBusy = true ↔ busy := aBusy_iff s
    exact ⟨fun h => exec_aExit_busy hr he (hbusy.mpr h), fun h => exec_aExit_idle hr (Bool.eq_false_iff.mpr (mt hbusy.mp h))⟩

end Sys2Proof.Proofs
end

section
/-! What the A words that compute, branch, sequence or wait leave alone (08 R185-R190, R224). -/

namespace Sys2Proof.Proofs

open Sys2Proof.Machine Sys2Proof.Claims Sys2Proof.Laws

/-! ### Ways that a word of the A stream can go -/

/-- What holds of the state itself, of a completion without effect and of the word's own end, holds of the word. -/
theorem aWord_ind {P : State → Prop} {s : State} {l f commits : Bool} {reads : List Nat} {fn : State → WordEnd} (hs : P s)
    (hd : P s.aDone) (hf : P (s.aEnd (fn s))) : P (s.aWord l f reads commits fn) := by
  unfold State.aWord
  split
  · split
    · exact hs
    · split
      · exact hs
      · exact hf
  · split
    · exact hs
    · exact hd

/-! ### The end of a body -/

theorem bindRegs_undef (t : Nat) (a : Regs 64) (bs : List Bind) : (bindRegs t a bs).undef = a.undef := by
  induction bs generalizing a with
  | nil => rfl
  | cons b bs ih => exact ih _

theorem nestStep_undef (t : Nat) (a : Word) (n : Nat) (c : Core) : (Core.nestStep t a n c).a.undef = c.a.undef := by
  induction n generalizing c with
  | zero => rfl
  | succ n ih =>
    rw [Core.nestStep]
    split
    · rfl
    · split
      · split
        · exact bindRegs_undef _ _ _
        · exact (ih _).trans (bindRegs_undef _ _ _)
      · rfl

/-- Without binds the address registers stay. -/
theorem nestStep_regs (t : Nat) (a : Word) (n : Nat) (c : Core) (h : c.binds = []) : (Core.nestStep t a n c).a = c.a := by
  induction n generalizing c with
  | zero => rfl
  | succ n ih =>
    have hnone : ∀ l, (c.applyBinds l t).a = c.a := fun l => by rw [applyBinds_eq, h]; rfl
    rw [Core.nestStep]
    split
    · rfl
    · split
      · split
        · exact hnone _
        · refine (ih _ ?_).trans (hnone _)
          exact h
      · rfl

/-- A word steps an address register only by a bind at its end. -/
theorem aDone_regs {s : State} (h : s.core.endBinds = []) : s.aDone.core.a = s.core.a := by
  by_cases hend : s.core.innermost.any (fun v => decide (v.2.stop = s.core.apc)) = true
  · rw [Core.endBinds, Core.endBindsAt, if_pos hend, List.map_eq_nil_iff] at h
    exact nestStep_regs _ _ _ _ h
  · have hplain : ∀ v ∈ s.core.innermost, v.2.stop ≠ s.core.apc := fun v hv hstop => hend (by
      rw [Option.mem_def.mp hv, Option.any_some, decide_eq_true hstop])
    rw [aDone_plain hplain]

theorem aDone_core (s : State) : s.aDone.core = { s.core with
    a := s.aDone.core.a, apc := s.aDone.core.apc, adoubt := s.aDone.core.adoubt, levels := s.aDone.core.levels } := by
  rw [State.aDone, nestStep_frame]

theorem aDone_undef (s : State) : s.aDone.core.a.undef = s.core.a.undef := nestStep_undef _ _ _ _

/-! ### The frame -/

section

variable {s t : State} {d : Option Nat}

theorem addressFrame_refl (s : State) (d : Option Nat) : AddressFrame s s d := ⟨rfl, rfl, rfl, fun _ _ _ => rfl⟩

theorem addressFrame_raise (s : State) (kind : AskKind) (data : Word) (code : BitVec 32) :
    AddressFrame s (s.raiseLeave true kind data code) d := by
  unfold State.raiseLeave
  split
  · exact addressFrame_refl s d
  · exact ⟨rfl, rfl, rfl, fun _ _ _ => rfl⟩

theorem addressFrame_moves {u : State} (h : AddressFrame s t d) (hrest : u = { t with core := u.core })
    (hcore : u.core = { t.core with
      a := u.core.a, apc := u.core.apc, adoubt := u.core.adoubt, levels := u.core.levels, binds := u.core.binds,
      ahold := u.core.ahold, aclk := u.core.aclk })
    (hundef : u.core.a.undef = t.core.a.undef)
    (hregs : s.core.endBinds = [] → ∀ i, some i ≠ d → tget u.core.a.cells i = tget t.core.a.cells i) : AddressFrame s u d where
  rest := by rw [hrest, h.rest]
  core := by rw [hcore, h.core]
  undef := hundef.trans h.undef
  others he i hi := (hregs he i hi).trans (h.others he i hi)

theorem addressFrame_aDone (h : AddressFrame s t d) (hbinds : s.core.endBinds = [] → t.core.endBinds = []) : AddressFrame s t.aDone d :=
  addressFrame_moves h rfl (by rw [aDone_core]) (aDone_undef t) fun he i _ => by rw [aDone_regs (hbinds he)]

theorem addressFrame_setA (h : s.core.a.wf = true) (i : Nat) (v : Word) : AddressFrame s (s.setA i v) (some i) := by
  unfold State.setA
  split
  · exact addressFrame_refl s _
  · exact ⟨rfl, rfl, rfl, fun _ j hj => tget_cells_put_ne h v fun hji => hj (congrArg some hji)⟩

theorem setA_endBinds (i : Nat) (v : Word) : (s.setA i v).core.endBinds = s.core.endBinds := by
  unfold State.setA
  split <;> rfl

/-- A word whose own end keeps the frame keeps it whichever way it goes. -/
theorem ActsA.frame {l f commits : Bool} {reads : List Nat} {fn : State → WordEnd} {i : Instr} (h : ActsA l f reads commits fn i)
    (he : exec i s = .next t) (hf : AddressFrame s (s.aEnd (fn s)) d) : AddressFrame s t d := by
  rw [h s] at he
  cases he
  exact aWord_ind (P := (AddressFrame s · d)) (addressFrame_refl s d) (addressFrame_aDone (addressFrame_refl s d) id) hf

theorem SetsA.frame {l f : Bool} {reads : List Nat} {i : Nat} {v : State → Word} {e : Instr} (h : SetsA l f reads i v e)
    (hwf : s.core.a.wf = true) (he : exec e s = .next t) : AddressFrame s t (some i) :=
  ActsA.frame h he (addressFrame_aDone (addressFrame_setA hwf i _) fun hs => (setA_endBinds i _).trans hs)

end

/-! ### Branches, nests and binds -/

theorem addressFrame_branch (r : Sys2Proof.Ab) (s : State) : AddressFrame s (branchTaken r s) none := ⟨rfl, rfl, rfl, fun _ _ _ => rfl⟩

theorem aBranch_frame (taken : Word → Bool) (r : Sys2Proof.Ab) (s : State) : AddressFrame s (aBranch taken r s) none := by
  refine aWord_ind (P := (AddressFrame s · none)) (addressFrame_refl s _) (addressFrame_aDone (addressFrame_refl s _) id) ?_
  split
  · rw [aEnd_jump_aTarget]
    exact addressFrame_branch r s
  · exact addressFrame_aDone (addressFrame_refl s _) id

/-- Inside the innermost body no bind is due. -/
theorem endBinds_of_inside {c : Core} (h : ∀ v ∈ c.levels.head?, v.2.stop ≠ c.apc) : c.endBinds = [] := by
  rw [Core.endBinds, Core.endBindsAt, Core.innermost]
  cases hv : c.levels.head? with
  | none => rfl
  | some v => exact if_neg (by rw [Option.any_some, decide_eq_false (h v hv)]; decide)

/-- The level entered, or the one that was innermost, is the innermost after a level is entered. -/
theorem head?_tset {α : Type} (t : Table α) (k : Nat) (v : α) : (tset t k v).head? = some (k, v) ∨ (tset t k v).head? = t.head? := by
  cases t with
  | nil => exact .inl rfl
  | cons c t =>
    rw [tset]
    split
    · exact .inl rfl
    · split
      · exact .inl rfl
      · exact .inr rfl

/-- A `nest` with a body keeps the frame where neither the word nor its body's last word ends the innermost body. -/
theorem nestEnd_frame {r : An} {s : State} (hk : r.k ≠ 0)
    (hin : ∀ v ∈ s.core.levels.head?, v.2.stop ≠ s.core.apc ∧ v.2.stop ≠ nestStop r s) : AddressFrame s (s.aEnd (nestEnd r s)) none := by
  have hstop : nestStop r s ≠ s.core.apc := by
    have hk' : r.k.toNat ≠ 0 := fun h => hk (BitVec.toNat_inj.mp h)
    rw [nestStop]
    bv_omega
  unfold nestEnd
  split
  · exact addressFrame_raise s _ _ _
  · split
    · split
      · exact addressFrame_refl s _
      · exact addressFrame_aDone (t := { s with core := { s.core with apc := nestStop r s, adoubt := false } })
          ⟨rfl, rfl, rfl, fun _ _ _ => rfl⟩ fun _ => endBinds_of_inside fun v hv => (hin v hv).2
    · refine addressFrame_aDone ⟨rfl, rfl, rfl, fun _ _ _ => rfl⟩ fun _ => endBinds_of_inside ?_
      rcases head?_tset s.core.levels r.d.toNat
        ({ start := s.core.apc + 4, stop := nestStop r s, idx := 0, count := nestCount r s } : ALevel) with h | h
      · rw [h]
        exact fun v hv => Option.mem_some_iff.mp hv ▸ hstop
      · rw [h]
        exact fun v hv => (hin v hv).1

theorem bindEnd_frame {v : BitVec 3} {r : Ar} {s : State} (hin : ∀ v ∈ s.core.levels.head?, v.2.stop ≠ s.core.apc) :
    AddressFrame s (s.aEnd (bindEnd v r s)) none := by
  have hkept : ∀ bs, AddressFrame s ({ s with core := { s.core with binds := bs } } : State).aDone none := fun bs =>
    addressFrame_aDone ⟨rfl, rfl, rfl, fun _ _ _ => rfl⟩ fun _ => endBinds_of_inside hin
  unfold bindEnd
  split
  · exact addressFrame_raise s _ _ _
  · split
    · exact hkept _
    · split
      · exact addressFrame_raise s _ _ _
      · exact hkept _

/-! ### Words that wait -/

theorem tagWait_frame {s : State} {ts : List Nat} {f : State → WordEnd} {d : Option Nat} (hf : AddressFrame s (s.aEnd (f s)) d) :
    AddressFrame s (s.aEnd (s.tagWait ts f)) d := by
  unfold State.tagWait
  split
  · exact hf
  · split
    · exact addressFrame_raise s _ _ _
    · exact addressFrame_refl s d

/-- Settles O50: the shell of an A word keeps the frame, and each word's own end changes only what the frame names. -/
theorem addressWordsLeaveTheRestAlone : Obligations.AddressWordsLeaveTheRestAlone := by
  have hdone : ∀ s, AddressFrame s s.aDone none := fun s => addressFrame_aDone (addressFrame_refl s _) id
  refine ⟨fun p hp r s t hwf => (addressForms_set p hp r).frame hwf, fun p hp r s t hwf => (addressImmForms_set p hp r).frame hwf, ?_,
    fun r s t _ hk hin he => (nest_acts r).frame he (nestEnd_frame hk hin),
    fun v r s t _ hin he => (bind_acts v r).frame he (bindEnd_frame hin),
    fun r s t _ he => (aTw_acts r).frame he (tagWait_frame (hdone s)), fun r s t hwf he => (aTwa_acts r).frame he (tagWait_frame ?_),
    fun r s t _ he => (pf_acts r).frame he (hdone s), fun r s t _ he => (aPause_acts r).frame he ?_⟩
  · refine List.forall_mem_cons.mpr ⟨?_, List.forall_mem_cons.mpr ⟨?_, List.forall_mem_singleton.mpr ?_⟩⟩ <;>
    · intro r s t _ he
      cases he
      exact aBranch_frame _ r s
  · exact addressFrame_aDone (addressFrame_setA hwf _ _) fun hs => (setA_endBinds _ _).trans hs
  · exact addressFrame_aDone ⟨rfl, rfl, rfl, fun _ _ _ => rfl⟩ id

end Sys2Proof.Proofs
end

section
/-! Store-space words and queue words of the X stream (08 R199, R200, R202; 07 R167, R169). -/

namespace Sys2Proof.Proofs

open Sys2Proof.Machine Sys2Proof.Claims Sys2Proof.Laws

/-! ### Words that wait for the engines, once these are ready -/

section

variable {g : BitVec 7} {gn : Bool} {uses : List Nat} {f : State → WordEnd} {i : Instr} {s b : State} (h : OrderedWord g gn uses f i)
  (hr : s.XReady 1 g gn uses b) (hm : s.core.memReady = true)

include h hr hm

theorem OrderedWord.ends : exec i s = .next (readyEnd b 1 (f b)) := by
  rw [h.ready hr, if_pos hm]

theorem OrderedWord.done {t : State} (he : f b = .done t) : exec i s = .next (t.xDone 1) := by
  rw [h.ends hr hm, he, readyEnd]

theorem OrderedWord.wait {t : State} (he : f b = .wait t) : exec i s = .next t.xWait := by
  rw [h.ends hr hm, he, readyEnd]

theorem OrderedWord.trap {cause : Nat} {data : Word} (he : f b = .trap cause data) :
    exec i s = .next (b.raiseLeave false (.fault cause) data 0) := by
  rw [h.ends hr hm, he, readyEnd]

end

/-! ### Store space -/

theorem lds_ordered (fn : BitVec 6) (r : Xi) : OrderedWord r.g r.gn [r.a.toNat, 64 + r.d.toNat]
    (fun u => u.xLoadStore (sizeBytes (fn.toNat % 8)) false r) (.lds fn r) := fun _ => rfl

theorem ldsx_ordered (fn : BitVec 6) (r : Xi) : OrderedWord r.g r.gn [r.a.toNat, 64 + r.d.toNat]
    (fun u => u.xLoadStore (sizeBytes (fn.toNat % 8)) true r) (.ldsx fn r) := fun _ => rfl

theorem sts_ordered (fn : BitVec 6) (r : Xi) : OrderedWord r.g r.gn [r.a.toNat, (if fn.toNat % 8 = 3 then 64 else 0) + r.d.toNat]
    (fun u => u.xStoreStore (sizeBytes (fn.toNat % 8)) r) (.sts fn r) := fun _ => rfl

section

variable {u : State} {n : Nat} {sext : Bool} {r : Xi}

theorem xStoreAddr_outside (h : ¬ (0 ≤ (u.getX 0 r.a.toNat).toInt + r.imm.toInt ∧ (u.getX 0 r.a.toNat).toInt + r.imm.toInt < 2 ^ 32)) :
    u.xStoreAddr r = none := if_neg h

theorem xStoreAddr_inside {a : Nat} (h : (u.getX 0 r.a.toNat).toInt + r.imm.toInt = a) (ha : a < 2 ^ 32) : u.xStoreAddr r = some a := by
  simp only [State.xStoreAddr, h, Int.toNat_natCast]
  exact if_pos (by omega)

theorem xLoadStore_outside (h : u.xStoreAddr r = none) : u.xLoadStore n sext r = .trap causeViol (u.xStoreWord r) := by
  rw [State.xLoadStore, h]

theorem xStoreStore_outside (h : u.xStoreAddr r = none) : u.xStoreStore n r = .trap causeViol (u.xStoreWord r) := by
  rw [State.xStoreStore, h]

variable {a key k off : Nat} (h : u.xStoreAddr r = some a)

include h

theorem xLoadStore_forbidden (ht : u.storeTarget u.who a n = none) :
    u.xLoadStore n sext r = .trap causeViol (BitVec.ofNat 64 a) := by
  simp only [State.xLoadStore, h, State.sRead, ht]

variable (ht : u.storeTarget u.who a n = some (key, k, off))

include ht

theorem xLoadStore_reads {bs : List Byte} (hl : ((u.storeAt key).bank k).data.lane off n = .ok bs) :
    u.xLoadStore n sext r = .done ((u.postBank u.who.dom key k off n).putX r.d.toNat (extend sext bs) r.lb 0) := by
  simp only [State.xLoadStore, h, State.sRead, ht, hl, State.postStore]

theorem xLoadStore_contained {e : Nat} (hl : ((u.storeAt key).bank k).data.lane off n = .error e) :
    u.xLoadStore n sext r = .trap causeData (BitVec.ofNat 64 (a - off + e + 2 ^ 56)) := by
  simp only [State.xLoadStore, h, State.sRead, ht, hl]

end

/-- What an `sts` of `n` bytes makes of its access (08 R200; 13 R329; 07 R169). -/
def stsAccess (n a : Nat) (r : Xi) (u : State) : State × Got Unit :=
  if n = 8 ∧ a % 8 = 0 then u.sWriteWords u.who a [u.rawX 1 r.d.toNat] else u.sWrite u.who a (toBytes n (u.getX 1 r.d.toNat).toNat)

section

variable {u t : State} {n a : Nat} {r : Xi} (h : u.xStoreAddr r = some a)

include h

theorem xStoreStore_stores (ho : stsAccess n a r u = (t, .ok ())) : u.xStoreStore n r = .done t := by
  rw [stsAccess] at ho
  simp only [State.xStoreStore, h, ho]

theorem xStoreStore_forbidden {v : Nat} (ho : stsAccess n a r u = (t, .viol v)) : u.xStoreStore n r = .trap causeViol (BitVec.ofNat 64 a) := by
  rw [stsAccess] at ho
  simp only [State.xStoreStore, h, ho]

theorem xStoreStore_contained {e : Nat} (ho : stsAccess n a r u = (t, .data e)) : u.xStoreStore n r = .trap causeData (BitVec.ofNat 64 e) := by
  rw [stsAccess] at ho
  simp only [State.xStoreStore, h, ho]

end

section

variable {u : State} {n a key k off : Nat} {r : Xi}

theorem stsAccess_forbidden (ht : u.storeTarget u.who a n = none) : ∃ v, stsAccess n a r u = (u, .viol v) := by
  unfold stsAccess
  split
  · rename_i hw
    obtain ⟨rfl, -⟩ := hw
    exact ⟨a, by simp [State.sWriteWords, ht]⟩
  · exact ⟨a, by simp only [State.sWrite, toBytes_length, ht]⟩

variable (ht : u.storeTarget u.who a n = some (key, k, off))

include ht

theorem stsAccess_word (hn : n = 8) (ha : a % 8 = 0) : stsAccess n a r u =
    (u.setBankData key k (((u.storeAt key).bank k).data.setWord off (u.rawX 1 r.d.toNat)), .ok ()) := by
  subst hn
  rw [stsAccess, if_pos ⟨rfl, ha⟩, sWriteWords_one _ ht]

variable (hw : ¬ (n = 8 ∧ a % 8 = 0))

include hw

theorem stsAccess_bytes {q : Memory} (hs : ((u.storeAt key).bank k).data.store off (toBytes n (u.getX 1 r.d.toNat).toNat) = .ok q) :
    stsAccess n a r u =
      ((u.postMerge u.who.dom ((u.storeAt key).bank k).data (scrubStore key k) off n).setBankData key k q, .ok ()) := by
  simp only [stsAccess, if_neg hw, State.sWrite, toBytes_length, ht, hs]

theorem stsAccess_contained {e : Nat} (hs : ((u.storeAt key).bank k).data.store off (toBytes n (u.getX 1 r.d.toNat).toNat) = .error e) :
    stsAccess n a r u = (u, .data (a - off + e + 2 ^ 56)) := by
  simp only [stsAccess, if_neg hw, State.sWrite, toBytes_length, ht, hs]

end

/-- Settles O21: where the address lies decides what the access does. -/
theorem storeSpaceWordsAccessTheStore : Obligations.StoreSpaceWordsAccessTheStore := by
  refine ⟨fun fn r s b hr hm => ?_, fun fn r s b hr hm => ?_⟩
  · intro n sum
    have lds := lds_ordered fn r
    have ldsx := ldsx_ordered fn r
    refine ⟨fun hout => ?_, fun a hsum ha => ⟨fun ht => ?_, fun key k off ht => ⟨fun bs hl => ?_, fun hbad => ?_, fun e hl => ?_⟩⟩⟩
    · have haddr := xStoreAddr_outside hout
      exact ⟨lds.trap hr hm (xLoadStore_outside haddr), ldsx.trap hr hm (xLoadStore_outside haddr)⟩
    · have haddr := xStoreAddr_inside hsum ha
      exact ⟨lds.trap hr hm (xLoadStore_forbidden haddr ht), ldsx.trap hr hm (xLoadStore_forbidden haddr ht)⟩
    · have haddr := xStoreAddr_inside hsum ha
      exact ⟨lds.done hr hm (xLoadStore_reads haddr ht hl), ldsx.done hr hm (xLoadStore_reads haddr ht hl)⟩
    · exact ⟨lane_clean hbad _ _, post_clean hbad _ _ _⟩
    · have haddr := xStoreAddr_inside hsum ha
      exact ⟨lds.trap hr hm (xLoadStore_contained haddr ht hl), ldsx.trap hr hm (xLoadStore_contained haddr ht hl)⟩
  · intro n sum
    have sts := sts_ordered fn r
    refine ⟨fun hout => sts.trap hr hm (xStoreStore_outside (xStoreAddr_outside hout)), fun a hsum ha => ?_⟩
    have haddr := xStoreAddr_inside hsum ha
    refine ⟨fun ht => ?_, fun key k off ht => ⟨fun hn hal => ?_, fun hw => ⟨fun q hs => ?_, fun hbad => ?_, fun e hs => ?_⟩⟩⟩
    · obtain ⟨v, ho⟩ := stsAccess_forbidden (r := r) ht
      exact sts.trap hr hm (xStoreStore_forbidden haddr ho)
    · exact sts.done hr hm (xStoreStore_stores haddr (stsAccess_word ht hn hal))
    · exact sts.done hr hm (xStoreStore_stores haddr (stsAccess_bytes ht hw hs))
    · exact ⟨store_clean hbad _ _, postMerge_clean hbad _ _ _⟩
    · exact sts.trap hr hm (xStoreStore_contained haddr (stsAccess_contained ht hw hs))

/-! ### Queues -/

section

variable {u : State} {q : Nat} {r : Xr}

/-- The effect of a `pop` (08 R202). -/
def popEnd (r : Xr) (u : State) : WordEnd :=
  match u.qHome (r.a.toNat % 16) with
  | .none => .trap causeIll 0
  | _ => match u.qOffer (r.a.toNat % 16) with
    | [] => .wait { u with core := { u.core with xhold := .queue } }
    | w :: _ => .done ((u.qTake (r.a.toNat % 16) 1).setRawX r.d.toNat w)

/-- The effect of a `push` (08 R202). -/
def pushEnd (r : Xr) (u : State) : WordEnd :=
  match u.qHome (r.a.toNat % 16) with
  | .queue =>
    if u.qRoom (r.a.toNat % 16) = 0 then .wait { u with core := { u.core with xhold := .queue } }
    else .done (u.qPush (r.a.toNat % 16) [u.rawX 0 r.b.toNat])
  | _ => .trap causeIll 0

theorem pop_acts (r : Xr) : ActsX r.g r.gn [64 + r.d.toNat] (popEnd r) (.pop r) := fun _ => rfl

theorem push_acts (r : Xr) : ActsX r.g r.gn [64 + r.b.toNat] (pushEnd r) (.push r) := fun _ => rfl

theorem popEnd_no_queue (h : u.qHome (r.a.toNat % 16) = .none) : popEnd r u = .trap causeIll 0 := by
  rw [popEnd, h]

theorem popEnd_empty (h : u.qHome (r.a.toNat % 16) ≠ .none) (ho : u.qOffer (r.a.toNat % 16) = []) :
    popEnd r u = .wait { u with core := { u.core with xhold := .queue } } := by
  rw [popEnd, ho]
  split
  · contradiction
  · rfl

theorem popEnd_takes {w : CWord} {rest : List CWord} (h : u.qHome (r.a.toNat % 16) ≠ .none)
    (ho : u.qOffer (r.a.toNat % 16) = w :: rest) : popEnd r u =
      .done ((u.setOwn (u.own.setQ (u.qHome (r.a.toNat % 16)) (r.a.toNat % 16) rest)).setRawX r.d.toNat w) := by
  rw [popEnd, ho, State.qTake, ho]
  split
  · contradiction
  · rfl

theorem pushEnd_no_queue (h : u.qHome (r.a.toNat % 16) ≠ .queue) : pushEnd r u = .trap causeIll 0 := by
  unfold pushEnd
  split
  · contradiction
  · rfl

theorem qRoom_eq_zero : u.qRoom q = 0 ↔ 256 ≤ (u.own.qWords .queue q).length + u.core.reserved q := Nat.sub_eq_zero_iff_le

theorem pushEnd_queue (h : u.qHome (r.a.toNat % 16) = .queue) : pushEnd r u =
    if u.qRoom (r.a.toNat % 16) = 0 then .wait { u with core := { u.core with xhold := .queue } }
    else .done (u.qPush (r.a.toNat % 16) [u.rawX 0 r.b.toNat]) := by
  rw [pushEnd, h]

end

/-- Settles O26: what the queue number names and holds decides between the ends of the word. -/
theorem queueWordsTakeAndAppend : Obligations.QueueWordsTakeAndAppend := by
  refine ⟨fun r s b hr => ?_, fun r s b hr => ?_⟩
  · have pop := pop_acts r
    exact ⟨fun h => pop.trap hr (popEnd_no_queue h), fun h ho => pop.wait hr (popEnd_empty h ho),
      fun w rest h ho => pop.done hr (popEnd_takes h ho)⟩
  · have push := push_acts r
    exact ⟨fun h => push.trap hr (pushEnd_no_queue h),
      fun h hfull => push.wait hr ((pushEnd_queue h).trans (if_pos (qRoom_eq_zero.mpr hfull))),
      fun h hroom => push.done hr ((pushEnd_queue h).trans (if_neg (mt qRoom_eq_zero.mp (Nat.not_le.mpr hroom))))⟩

end Sys2Proof.Proofs
end

section
/-! The frame of the store-space words (08 R199, R200) does not hold as stated: the undefined contents of a store that its context has not
used yet may be those of a bank of another of the context's stores (01 R17, 12 R296; log 2), and so they change with that bank. -/

namespace Sys2Proof.Proofs

open Sys2Proof.Machine Sys2Proof.Claims Sys2Proof.Laws

/-- The free number by which the unused store 2 takes the contents of its bank 0. -/
def freshIndex : Nat := (Config.freeBits 32 (State.reset.epoch 2 0) (2 ^ 35)).toNat

/-- A store with the banks `bs`. -/
def storeOf (bs : List Bank) : Store := { banks := bs, queues := [], windows := [], defer := [], tags := [] }

/-- A store of `freshIndex` zero banks at position 0, so that the free number names the one bank of the store at position 1. -/
def twoStores (b : Bank) : Table Store := [(0, storeOf (List.replicate freshIndex (Bank.fresh Memory.zero 0))), (1, storeOf [b])]

theorem freshData_twoStores {s : State} {b : Bank} (hs : s.stores = twoStores b) (ht : s.tick = 0) : s.freshData 2 0 = b.data := by
  have hindex : (Config.freeBits 32 (s.epoch 2 0) (2 ^ 35)).toNat = freshIndex := by rw [State.epoch, ht]; rfl
  have hown : (s.stores.filter (fun t => decide (t.1 / 4096 = 2 / 4096))).flatMap (fun t => t.2.banks.map (fun b => b.data)) =
      List.replicate freshIndex Memory.zero ++ [b.data] := by
    simp [hs, twoStores, storeOf, Bank.fresh]
  have hlt : freshIndex < freshIndex + 1 + 1 := by omega
  simp only [State.freshData, hown, hindex, List.length_append, List.length_replicate, List.length_singleton, Nat.mod_eq_of_lt hlt]
  simp

/-- The context of the core at position 0, with a partition of two columns. -/
def twoColumns : Ctx where
  state := .running
  asid := 0
  span := false
  tdom := 0
  super := false
  cb := 0
  events := 0
  evWait := none
  timer := none
  launch := some
    { nodePa := 0, frames := [], inHbm := false, origin := 0, started := 0, since := 0, fresh := none
      record :=
        { ncase := 0, node := 0, weight := 0, level := 0, cls := 0, handle := 0, rect := 0x1000, xentry := 0, aentry := 0, args := 0,
          deadline := 0, wait := 0, set := 0, cond := 0, succ0 := 0, succ1 := 0, live := 0, spans := [] } }
  nodes := []
  barAt := []
  bars := []
  asks := []
  leave := none
  parkCause := 0
  parkPassed := false
  parkedAt := 0
  woken := 0
  readied := 0
  order := 0
  pbudget := 0
  pagesOf := none

/-- A bank whose byte 0 is 1. -/
def markedBank : Bank := Bank.fresh { cells := [(0, 1)], fill := none, bad := [] } 0

/-- The core at position 0 is about to store to the store at position 1. -/
def beforeStore : State :=
  { State.reset with core := { Core.reset with ctx := some 0 }, ctxs := [(0, twoColumns)], stores := twoStores markedBank }

/-- The word stores x0's low byte at byte 0 of bank 0 at position 1. -/
def clearByte : Xi := { g := 0, gn := false, lb := 0, imm := 0x400000, a := 0, d := 0 }

def afterStore : State := beforeStore.setBankData 1 0 (markedBank.data.setBytes 0 [0])

theorem exec_clearByte : exec (.sts 0 clearByte) beforeStore = .next (afterStore.xDone 1) := by
  have hr : beforeStore.XReady 1 0 false [0, 0] beforeStore := ⟨⟨rfl, rfl, rfl, rfl⟩, rfl⟩
  have haddr : beforeStore.xStoreAddr clearByte = some 0x400000 := rfl
  have htarget : beforeStore.storeTarget beforeStore.who 0x400000 1 = some (1, 0, 0) := rfl
  exact (sts_ordered 0 clearByte).done hr rfl (xStoreStore_stores haddr (stsAccess_bytes htarget (by decide) rfl))

/-- The unused store 2 reads as the one bank of the store at position 1. -/
theorem freshBank_twoStores {s : State} {b : Bank} (hs : s.stores = twoStores b) (ht : s.tick = 0) :
    ((s.storeAt 2).bank 0).data = b.data := by
  have hunused : s.storeAt 2 = s.freshStore 2 := by rw [State.storeAt, hs]; rfl
  rw [hunused, ← freshData_twoStores hs ht]
  rfl

theorem getD_induction {α : Type} {P : α → Prop} {l : List α} {d : α} (hl : ∀ x ∈ l, P x) (hd : P d) (i : Nat) : P (l.getD i d) := by
  rw [List.getD_eq_getElem?_getD]
  cases h : l[i]? with
  | none => exact hd
  | some x => exact hl x (List.mem_of_getElem? h)

theorem mem_of_tget {α : Type} {t : Table α} {k : Nat} {v : α} (h : tget t k = some v) : (k, v) ∈ t := by
  induction t with
  | nil => cases h
  | cons c t ih =>
    obtain ⟨j, u⟩ := c
    rw [tget] at h
    split at h
    · rename_i hj
      cases h
      rw [beq_iff_eq.mp hj]
      exact List.mem_cons_self
    · split at h
      · cases h
      · exact List.mem_cons_of_mem _ (ih h)

/-- Where every bank that is listed is in canonical form, so is every other. -/
theorem storeAt_wf {s : State} (h : ∀ t ∈ s.stores, ∀ b ∈ t.2.banks, b.data.wf = true) (key k : Nat) :
    ((s.storeAt key).bank k).data.wf = true := by
  have hfresh : ∀ j, (s.freshData key j).wf = true := fun j => by
    refine getD_induction (P := fun m : Memory => m.wf = true) (fun m hm => ?_) rfl _
    obtain ⟨t, ht, hmt⟩ := List.mem_flatMap.mp hm
    obtain ⟨b, hb, rfl⟩ := List.mem_map.mp hmt
    exact h t (List.mem_filter.mp ht).1 b hb
  refine getD_induction (P := fun b : Bank => b.data.wf = true) (fun b hb => ?_) rfl k
  cases hkey : tget s.stores key with
  | some t =>
    rw [State.storeAt, hkey] at hb
    exact h _ (mem_of_tget hkey) b hb
  | none =>
    rw [State.storeAt, hkey] at hb
    obtain ⟨j, -, rfl⟩ := List.mem_map.mp hb
    exact hfresh j

theorem beforeStore_wf (key k : Nat) : ((beforeStore.storeAt key).bank k).data.wf = true := by
  refine storeAt_wf (fun t ht b hb => ?_) key k
  rcases List.mem_pair.mp ht with rfl | rfl
  · rw [List.eq_of_mem_replicate hb]
    rfl
  · rw [List.mem_singleton.mp hb]
    rfl

/-- Refutes O22: a store to the bank of position 1 changes what the unused store of position 2 reads as. -/
theorem not_storeSpaceWordsLeaveTheRestAlone : ¬ Obligations.StoreSpaceWordsLeaveTheRestAlone := by
  intro h
  obtain ⟨-, -, -, -, hbanks, -⟩ := h.2 0 clearByte beforeStore _ beforeStore_wf exec_clearByte
  obtain ⟨hothers, -⟩ := hbanks 0x400000 1 0 0 rfl rfl
  have hsame := hothers 2 0 0 (by decide)
  have hbefore : ((beforeStore.storeAt 2).bank 0).data.byte 0 = 1 := by rw [freshBank_twoStores rfl rfl]; rfl
  have hafter : (((afterStore.xDone 1).storeAt 2).bank 0).data.byte 0 = 0 := by
    rw [freshBank_twoStores (b := { markedBank with data := markedBank.data.setBytes 0 [0] }) (by rw [xDone_stores]; rfl)
      (by rw [xDone_tick]; rfl)]
    rfl
  rw [hbefore, hafter] at hsame
  exact absurd hsame (by decide)

end Sys2Proof.Proofs
end

section
/-! Blocking global words and atomics of the X stream (08 R201, R217-R219; 07 R163; 12 R300, R301, R304). -/

namespace Sys2Proof.Proofs

open Sys2Proof.Machine Sys2Proof.Claims Sys2Proof.Laws

/-! ### What each outcome of the access does -/

theorem ldg_ordered (fn : BitVec 6) (r : Xr) : OrderedWord r.g r.gn [r.a.toNat, r.b.toNat, 64 + r.d.toNat]
    (fun u => u.xLoadGlobal (sizeBytes (fn.toNat % 8)) r) (.ldg fn r) := fun _ => rfl

theorem stg_ordered (fn : BitVec 6) (r : Xr) : OrderedWord r.g r.gn
    [r.a.toNat, r.b.toNat, (if fn.toNat % 8 = 3 then 64 else 0) + r.d.toNat]
    (fun u => u.xStoreGlobal (sizeBytes (fn.toNat % 8)) r) (.stg fn r) := fun _ => rfl

/-- The address of a blocking global word: x[A] + x[B], wrapped to 64 bits (08 R201). -/
def xGlobalAddr (r : Xr) (u : State) : Nat := (u.getX 0 r.a.toNat + u.getX 1 r.b.toNat).toNat

section

variable {u t : State} {n v : Nat} {r : Xr}

theorem xLoadGlobal_ok {bs : List Byte} (h : u.gRead u.who needR (xGlobalAddr r u) n = (t, .ok bs)) :
    u.xLoadGlobal n r = .done (t.setX r.d.toNat (BitVec.ofNat 64 (ofBytes bs))) := by
  rw [xGlobalAddr] at h
  simp only [State.xLoadGlobal, h]
  rfl

theorem xLoadGlobal_stops {c : Nat} {o : Got (List Byte)} (h : u.gRead u.who needR (xGlobalAddr r u) n = (t, o))
    (ho : stopOf o = some (c, v)) : u.xLoadGlobal n r = .trap c (BitVec.ofNat 64 v) := by
  rw [xGlobalAddr] at h
  simp only [State.xLoadGlobal, h]
  cases o <;> cases ho <;> rfl

theorem xLoadGlobal_dev (h : u.gRead u.who needR (xGlobalAddr r u) n = (t, .dev v)) (hd : u.devOk v = true) :
    u.xLoadGlobal n r = .done (t.setX r.d.toNat (BitVec.ofNat 64 (ofBytes (t.mgmtRead (devOffset v) n)))) := by
  rw [xGlobalAddr] at h
  simp only [State.xLoadGlobal, h, hd, if_true]
  rfl

theorem xLoadGlobal_forbidden (h : u.gRead u.who needR (xGlobalAddr r u) n = (t, .dev v)) (hd : u.devOk v = false) :
    u.xLoadGlobal n r = .trap causeViol (BitVec.ofNat 64 (xGlobalAddr r u)) := by
  rw [xGlobalAddr] at h ⊢
  simp only [State.xLoadGlobal, h, hd, Bool.false_eq_true, if_false]

theorem xLoadGlobal_far (h : u.gRead u.who needR (xGlobalAddr r u) n = (t, .far v)) :
    u.xLoadGlobal n r = t.xFar (.load r.d.toNat) (xGlobalAddr r u) v n := by
  rw [xGlobalAddr] at h ⊢
  simp only [State.xLoadGlobal, h]

/-- What an `stg` of `n` bytes makes of its access: a whole aligned word goes with its code (08 R201; 13 R329). -/
def stgAccess (n : Nat) (r : Xr) (u : State) : State × Got Unit :=
  if n = 8 ∧ xGlobalAddr r u % 8 = 0 then u.gWriteWords u.who (xGlobalAddr r u) [u.rawX 2 r.d.toNat]
  else u.gWrite u.who (xGlobalAddr r u) (toBytes n (u.getX 2 r.d.toNat).toNat)

theorem xStoreGlobal_eq (n : Nat) (r : Xr) (u : State) : u.xStoreGlobal n r =
    match stgAccess n r u with
    | (t, .ok ()) => .done t
    | (_, .pages v) => .trap causePages (BitVec.ofNat 64 v)
    | (_, .viol v) => .trap causeViol (BitVec.ofNat 64 v)
    | (_, .data p) => .trap causeData (BitVec.ofNat 64 p)
    | (t, .dev pa) =>
      if u.devOk pa then .done (t.mgmtWrite (devOffset pa) (toBytes n (u.getX 2 r.d.toNat).toNat))
      else .trap causeViol (BitVec.ofNat 64 (xGlobalAddr r u))
    | (t, .far pa) => t.xFar (if n = 8 ∧ xGlobalAddr r u % 8 = 0 then .storeWords [t.rawX 2 r.d.toNat]
        else .store (toBytes n (u.getX 2 r.d.toNat).toNat)) (xGlobalAddr r u) pa n := by
  simp only [State.xStoreGlobal, stgAccess, xGlobalAddr, ← Bool.decide_and, decide_eq_true_eq]
  rfl

end

/-- Settles O24: the outcome of the one access decides between the ends of the word. -/
theorem globalWordsMakeOneAccess : Obligations.GlobalWordsMakeOneAccess := by
  refine ⟨fun fn r s b u hr hm => ?_, fun fn r s b u hr hm => ?_⟩
  · intro n a
    have ldg := ldg_ordered fn r
    exact ⟨fun bs h => ldg.done hr hm (xLoadGlobal_ok h), fun v h => ldg.trap hr hm (xLoadGlobal_stops h rfl),
      fun v h => ldg.trap hr hm (xLoadGlobal_stops h rfl), fun v h => ldg.trap hr hm (xLoadGlobal_stops h rfl),
      fun v h hd => ldg.done hr hm (xLoadGlobal_dev h hd), fun v h hd => ldg.trap hr hm (xLoadGlobal_forbidden h hd),
      fun v h => ldg.wait hr hm (xLoadGlobal_far h)⟩
  · intro n a bs o
    have stg := stg_ordered fn r
    have hend : b.xStoreGlobal n r = _ := xStoreGlobal_eq n r b
    have ho : stgAccess n r b = o := rfl
    rw [ho] at hend
    refine ⟨fun h => stg.done hr hm (hend.trans ?_), fun v h => stg.trap hr hm (hend.trans ?_), fun v h => stg.trap hr hm (hend.trans ?_),
      fun v h => stg.trap hr hm (hend.trans ?_), fun v h hd => stg.done hr hm (hend.trans ?_),
      fun v h hd => stg.trap hr hm (hend.trans ?_), fun v h => stg.wait hr hm (hend.trans ?_)⟩
    · rw [h]
    · rw [h]
    · rw [h]
    · rw [h]
    · rw [h]
      exact if_pos hd
    · rw [h]
      exact if_neg (Bool.eq_false_iff.mp hd)
    · rw [h]
      rfl

end Sys2Proof.Proofs
end

section
/-! Aligned blocking accesses and atomics to HBM4E outside the directory and the control blocks, with no word in error (08 R201,
R217-R219; 07 R163). -/

namespace Sys2Proof.Proofs

open Sys2Proof.Machine Sys2Proof.Claims Sys2Proof.Laws

/-! ### One aligned access -/

/-- The sizes of an access divide a page. -/
theorem page_mod_sizeBytes (z : Nat) : 65536 % sizeBytes z = 0 := by
  rcases Nat.lt_or_ge z 5 with hz | hz
  · interval_cases z <;> rfl
  · rw [sizeBytes, List.getD_eq_default _ _ hz]

theorem pieces_aligned {va n : Nat} (ha : va % n = 0) (hn : 65536 % n = 0) : pieces va n = [(va, n)] := if_pos ⟨ha, hn⟩

/-- What an atomic makes of the word at `pa`. -/
def amoHere (u : State) (pa op ty b c : Nat) : AmoOut :=
  amoApply op ty (ofBytes (u.mem.bytes pa (tyWidth ty / 8))) (b % 2 ^ tyWidth ty) (c % 2 ^ tyWidth ty)

/-- The state after an atomic on the `n` bytes at `pa` that writes `new`, if anything. -/
def amoWritten (u : State) (pa n : Nat) (new : Option Nat) : State :=
  ({ (if new.isSome then u.clearScrub pa n else u) with
    mem := match new with
      | none => u.mem
      | some x => u.mem.setBytes pa (toBytes n x) } : State).note pa n

theorem amoWritten_outside {u : State} {pa n o : Nat} {new : Option Nat} (hwf : u.mem.wf = true) (ho : o < pa ∨ pa + n ≤ o) :
    (amoWritten u pa n new).mem.byte o = u.mem.byte o := by
  rw [show (amoWritten u pa n new).mem = _ from note_mem _ _ _]
  cases new with
  | none => rfl
  | some x => exact byte_setBytes_outside _ hwf _ _ (by rwa [toBytes_length])

section

variable {s u : State} {w : Who} {va n pa ty : Nat} (hplace : placeOf pa = .hbm) (hdir : u.dirAt pa = none) (hbad : u.mem.bad = [])

include hplace hdir hbad

theorem gRead_aligned {need : Need} (ha : va % n = 0) (hn : 65536 % n = 0) (htr : s.translate w need va = (u, .ok pa ty)) :
    s.gRead w need va n = (u.note pa n, .ok (u.mem.bytes pa n)) := by
  have hread : u.physRead pa n = .ok (u.mem.bytes pa n) := by rw [physRead_outside_dir hdir, lane_clean hbad]
  have hpost : (u.note pa n).postPhys w.dom pa n = u.note pa n := post_clean (by rw [note_mem, hbad]) _ _ _
  simp only [State.gRead, pieces_aligned ha hn, translateAll_one htr hplace, State.readPieces, hread, hpost, List.append_nil]

theorem gWrite_aligned {bs : List Byte} (ha : va % bs.length = 0) (hn : 65536 % bs.length = 0)
    (hblock : u.meetsBlock pa bs.length = false) (htr : s.translate w needW va = (u, .ok pa ty)) :
    s.gWrite w va bs =
      (({ u.clearScrub pa bs.length with mem := u.mem.setBytes pa bs } : State).note pa bs.length, .ok ()) := by
  simp only [State.gWrite, pieces_aligned ha hn, translateAll_one htr hplace, State.writePieces, List.take_length,
    postMerge_clean hbad, physStore_clean hdir hblock hbad]

omit hbad in
theorem gWriteWords_one {c : CWord} (hblock : u.meetsBlock pa 8 = false) (htr : s.translate w needW va = (u, .ok pa ty)) :
    s.gWriteWords w va [c] = (({ u.clearScrub pa 8 with mem := u.mem.setWord pa c } : State).note pa 8, .ok ()) := by
  simp [State.gWriteWords, State.gWordAddrs, translateAll_one htr hplace, physSetWords_clean hdir hblock]

theorem atomic_aligned {op aty b c : Nat} (hblock : u.meetsBlock pa (tyWidth aty / 8) = false)
    (htr : s.translate w needRW va = (u, .ok pa ty)) : s.atomic w va op aty b c =
      (amoWritten u pa (tyWidth aty / 8) (amoHere u pa op aty b c).new, .ok (amoHere u pa op aty b c)) := by
  have hat : u.atomicAt w.dom pa op aty b c = _ := atomicAt_clean hdir hblock hbad
  simp only [State.atomic, translateAll_one htr hplace, List.head?_cons, Option.map_some, Option.getD_some]
  exact hat

end

/-! ### Atomics -/

/-- Atomic number `op` has the effect `e`: what it writes, its result and its flags. -/
def AmoEffect (op : Nat) (e : Nat → Nat → Nat → Nat → Option Nat × Nat × Flags) : Prop :=
  ∀ ty old b c, amoApply op ty old b c = { new := (e ty old b c).1, res := (e ty old b c).2.1, flags := (e ty old b c).2.2 }

/-- The words of `amoForms`, each with the number of its atomic. -/
theorem amoForms_effect : ∀ p ∈ amoForms, ∃ op, (∀ r : Xr, OrderedWord r.g r.gn [r.a.toNat, r.b.toNat, r.c.toNat, 64 + r.d.toNat]
    (fun u => u.xAmoAt op r) (p.1 r)) ∧ AmoEffect op p.2 := by
  repeat refine List.forall_mem_cons.mpr ⟨⟨_, fun r s => rfl, fun _ _ _ _ => by simp only [amoApply, decide_eq_true_eq]⟩, ?_⟩
  exact List.forall_mem_nil _

section

variable {u t : State} {op : Nat} {r : Xr}

theorem xAmoAt_misaligned (h : (u.getX 0 r.a.toNat).toNat % (tyWidth r.t.toNat / 8) ≠ 0) : u.xAmoAt op r = .trap causeIll 0 := if_pos h

/-- What an atomic word of the X stream makes of its access. -/
def amoAccess (op : Nat) (r : Xr) (u : State) : State × Got AmoOut :=
  u.atomic u.who (u.getX 0 r.a.toNat).toNat op r.t.toNat (u.getX 1 r.b.toNat).toNat (u.getX 2 r.c.toNat).toNat

variable (ha : (u.getX 0 r.a.toNat).toNat % (tyWidth r.t.toNat / 8) = 0)

include ha

theorem xAmoAt_ok {o : AmoOut} (h : amoAccess op r u = (t, .ok o)) :
    u.xAmoAt op r = .done ((t.setX r.d.toNat (amoExt r.t.toNat o.res)).orFlags false o.flags) := by
  rw [amoAccess] at h
  simp only [State.xAmoAt, ha, ne_eq, not_true_eq_false, if_false, h]

theorem xAmoAt_stops {o : Got AmoOut} {c v : Nat} (h : amoAccess op r u = (t, o)) (ho : stopOf o = some (c, v)) :
    u.xAmoAt op r = .trap c (BitVec.ofNat 64 v) := by
  rw [amoAccess] at h
  simp only [State.xAmoAt, ha, ne_eq, not_true_eq_false, if_false, h]
  cases o <;> cases ho <;> rfl

end

/-- The outcome of an access of one piece whose translation stops it. -/
theorem atomic_fault {s u : State} {w : Who} {va op ty b c : Nat} (h : s.translate w needRW va = (u, .fault)) :
    s.atomic w va op ty b c = (u, .pages va) := by
  simp only [State.atomic, State.translateAll, h]

theorem atomic_viol {s u : State} {w : Who} {va op ty b c v : Nat} (h : s.translate w needRW va = (u, .viol v)) :
    s.atomic w va op ty b c = (u, .viol v) := by
  simp only [State.atomic, State.translateAll, h]

theorem xReady_mem {s b : State} {len : Nat} {g : BitVec 7} {gn : Bool} {uses : List Nat} (h : s.XReady len g gn uses b) :
    b.mem = s.mem := by
  obtain ⟨⟨rfl, -, -, -⟩, -⟩ := h
  rw [takeX_mem]
  rfl

/-- Settles O25: an aligned access is one piece, and memory's own laws say what it reads and what a write leaves alone. -/
theorem alignedGlobalWordsReachMemory : Obligations.AlignedGlobalWordsReachMemory := by
  refine ⟨fun fn r s b u pa ty hr hm => ?_, fun fn r s b u pa ty hr hm hwf => ?_, fun p hp r s b hr hm => ?_⟩
  · intro n a ha htr hplace hdir hbad
    have hmem : u.mem = s.mem := (translate_keeps_mem htr).trans (xReady_mem hr)
    rw [← hmem]
    exact (ldg_ordered fn r).done hr hm (xLoadGlobal_ok (gRead_aligned hplace hdir hbad ha (page_mod_sizeBytes _) htr))
  · intro n a ha htr hplace hdir hbad hblock bs m v
    have hmem : u.mem = s.mem := (translate_keeps_mem htr).trans (xReady_mem hr)
    have hlen : bs.length = n := toBytes_length _ _
    have hv : v.mem = m := note_mem _ _ _
    have haccess : stgAccess n r b = (v, .ok ()) := by
      by_cases hn : n = 8
      · have hval : v = ({ u.clearScrub pa 8 with mem := u.mem.setWord pa (b.rawX 2 r.d.toNat) } : State).note pa 8 := by
          simp only [v, m, if_pos hn, hn, hmem]
        rw [hval]
        exact (if_pos ⟨hn, hn ▸ ha⟩).trans (gWriteWords_one hplace hdir (hn ▸ hblock) htr)
      · have hval : v = ({ u.clearScrub pa bs.length with mem := u.mem.setBytes pa bs } : State).note pa bs.length := by
          simp only [v, m, if_neg hn, hlen, hmem]
        rw [hval]
        exact (if_neg fun h => hn h.1).trans
          (gWrite_aligned (bs := bs) hplace hdir hbad (by rw [hlen]; exact ha) (by rw [hlen]; exact page_mod_sizeBytes _)
            (by rw [hlen]; exact hblock) htr)
    rw [hv]
    refine ⟨(stg_ordered fn r).done hr hm ?_, fun hn => ?_, fun hn => ?_, fun o ho => ?_⟩
    · rw [xStoreGlobal_eq, haccess]
    · rw [show m = s.mem.setBytes pa bs from if_neg hn, ← hlen, bytes_setBytes_same _ hwf]
    · rw [show m = s.mem.setWord pa _ from if_pos hn, word_setWord_same _ hwf]
    · by_cases hn : n = 8
      · rw [show m = s.mem.setWord pa _ from if_pos hn]
        exact byte_setWord_outside _ hwf _ _ _ (hn ▸ ho)
      · rw [show m = s.mem.setBytes pa bs from if_neg hn]
        exact byte_setBytes_outside _ hwf _ _ (hlen ▸ ho)
  · obtain ⟨op, hword, heffect⟩ := amoForms_effect p hp
    intro w a
    refine ⟨fun ha => (hword r).trap hr hm (xAmoAt_misaligned ha), fun u pa ty ha htr hplace hdir hbad hblock hwf => ?_,
      fun u ha htr => (hword r).trap hr hm (xAmoAt_stops ha (atomic_fault htr) rfl),
      fun u v ha htr => (hword r).trap hr hm (xAmoAt_stops ha (atomic_viol htr) rfl)⟩
    have hmem : u.mem = s.mem := (translate_keeps_mem htr).trans (xReady_mem hr)
    intro o m v
    have hout : amoHere u pa op r.t.toNat (b.getX 1 r.b.toNat).toNat (b.getX 2 r.c.toNat).toNat =
        { new := o.1, res := o.2.1, flags := o.2.2 } := by
      rw [amoHere, heffect, hmem]
    have hv : amoWritten u pa (w / 8) o.1 = v := by
      simp only [v, m, ← hmem]
      rfl
    clear_value v m o
    refine ⟨(hword r).done hr hm ?_, fun c hc => ?_⟩
    · have haccess : amoAccess op r b = _ := atomic_aligned (aty := r.t.toNat) hplace hdir hbad hblock htr
      rw [hout, hv] at haccess
      have hend := xAmoAt_ok ha haccess
      exact hend
    · rw [← hv, amoWritten_outside (hmem ▸ hwf) hc, hmem]

end Sys2Proof.Proofs
end

section
/-! Atomics of the A stream (08 R217-R220; 07 R163). -/

namespace Sys2Proof.Proofs

open Sys2Proof.Machine Sys2Proof.Claims Sys2Proof.Laws

/-! ### The words, by the number of their atomic -/

theorem addressAmoForms_effect : ∀ p ∈ addressAmoForms, ∃ op,
    (∀ r : Ar, ActsA r.l r.f [r.a.toNat, r.b.toNat, r.d.toNat] true
      (fun u => u.aAtomic op r none fun _ _ => .trap causeViol (u.getA 0 r.a.toNat)) (p.1 r)) ∧
    (∀ x : BitVec 4, aAmoType op x = p.2.1 (x.getLsbD 0)) ∧ AmoEffect op p.2.2 := by
  repeat refine List.forall_mem_cons.mpr ⟨⟨_, fun r s => rfl, fun x => rfl, fun _ _ _ _ =>
    by simp only [amoApply, decide_eq_true_eq]⟩, ?_⟩
  exact List.forall_mem_nil _

/-- The effect of a remote atomic (08 R220). -/
def ramoEffect (op : Nat) (r : Ar) (u : State) : WordEnd :=
  if (u.getA 2 r.d.toNat).extractLsb' 17 47 ≠ 0 then .trap causeIll 0
  else u.aAtomic op r (some 0) fun t pa => .done (t.ramoSend op r pa)

theorem remoteAmoForms_effect : ∀ p ∈ remoteAmoForms,
    (∀ r : Ar, ActsA r.l r.f [r.a.toNat, r.b.toNat, r.d.toNat, r.d.toNat + 1] true (ramoEffect p.1.2 r) (p.1.1 r)) ∧
    (∀ x : BitVec 4, aAmoType p.1.2 x = p.2.1 (x.getLsbD 0)) ∧ AmoEffect p.1.2 p.2.2 := by
  repeat refine List.forall_mem_cons.mpr ⟨⟨fun r s => rfl, fun x => rfl, fun _ _ _ _ =>
    by simp only [amoApply, decide_eq_true_eq]⟩, ?_⟩
  exact List.forall_mem_nil _

theorem request_reserved_iff (v : Word) : v.extractLsb' 17 47 ≠ 0 ↔ 2 ^ 17 ≤ v.toNat := by
  rw [ne_eq, ← BitVec.toNat_inj, BitVec.extractLsb'_toNat, Nat.shiftRight_eq_div_pow]
  have hlt := v.isLt
  simp only [BitVec.ofNat_eq_ofNat, BitVec.toNat_ofNat]
  omega

/-! ### What each outcome of the access does -/

section

variable {u t : State} {op : Nat} {r : Ar} {status : Option (BitVec 2)} {remote : State → Nat → WordEnd}

/-- What an atomic of the A stream makes of its access. -/
def aAmoAccess (op : Nat) (r : Ar) (u : State) : State × Got AmoOut :=
  u.atomic u.who (u.getA 0 r.a.toNat).toNat op (aAmoType op r.x) (u.getA 1 r.b.toNat).toNat (u.getA 2 r.d.toNat).toNat

theorem aAtomic_misaligned (h : (u.getA 0 r.a.toNat).toNat % (tyWidth (aAmoType op r.x) / 8) ≠ 0) :
    u.aAtomic op r status remote = .trap causeIll 0 := if_pos h

variable (ha : (u.getA 0 r.a.toNat).toNat % (tyWidth (aAmoType op r.x) / 8) = 0)

include ha

theorem aAtomic_ok {o : AmoOut} (h : aAmoAccess op r u = (t, .ok o)) :
    u.aAtomic op r status remote = .done (t.pendAmo r.d.toNat (amoExt (aAmoType op r.x) o.res) status o.flags) := by
  rw [aAmoAccess] at h
  simp only [State.aAtomic, ha, ne_eq, not_true_eq_false, if_false, h]

theorem aAtomic_pages {v : Nat} (h : aAmoAccess op r u = (t, .pages v)) :
    u.aAtomic op r status remote = .trap causePages (BitVec.ofNat 64 v) := by
  rw [aAmoAccess] at h
  simp only [State.aAtomic, ha, ne_eq, not_true_eq_false, if_false, h]

theorem aAtomic_remote {pa k : Nat} (h : aAmoAccess op r u = (t, .far pa)) (hp : placeOf pa = .remote k) :
    u.aAtomic op r status remote = remote t pa := by
  rw [aAmoAccess] at h
  simp only [State.aAtomic, ha, ne_eq, not_true_eq_false, if_false, h, hp]

end

theorem atomic_remote {s u : State} {w : Who} {va op ty b c pa mt k : Nat} (h : s.translate w needRW va = (u, .ok pa mt))
    (hp : placeOf pa = .remote k) : s.atomic w va op ty b c = (u, .far pa) := by
  simp only [State.atomic, State.translateAll, h, hp]

/-- The state that an aligned atomic on HBM4E leaves. -/
theorem performed_eq (u : State) (pa ty d : Nat) (o : Option Nat × Nat × Flags) (status : Option (BitVec 2)) :
    performed u pa ty d o status = (amoWritten u pa (tyWidth ty / 8) o.1).pendAmo d (amoExt ty o.2.1) status o.2.2 := rfl

theorem aAtomic_performed {s u : State} {op pa mt : Nat} {r : Ar} {e : Nat → Nat → Nat → Nat → Option Nat × Nat × Flags}
    {status : Option (BitVec 2)} {remote : State → Nat → WordEnd} (he : AmoEffect op e)
    (ha : (s.getA 0 r.a.toNat).toNat % (tyWidth (aAmoType op r.x) / 8) = 0)
    (htr : s.translate s.who needRW (s.getA 0 r.a.toNat).toNat = (u, .ok pa mt)) (hplace : placeOf pa = .hbm) (hdir : u.dirAt pa = none)
    (hbad : u.mem.bad = []) (hblock : u.meetsBlock pa (tyWidth (aAmoType op r.x) / 8) = false) :
    s.aAtomic op r status remote = .done (performed u pa (aAmoType op r.x) r.d.toNat
      (e (aAmoType op r.x) (ofBytes (s.mem.bytes pa (tyWidth (aAmoType op r.x) / 8)))
        ((s.getA 1 r.b.toNat).toNat % 2 ^ tyWidth (aAmoType op r.x)) ((s.getA 2 r.d.toNat).toNat % 2 ^ tyWidth (aAmoType op r.x)))
      status) := by
  have haccess : aAmoAccess op r s = _ := atomic_aligned hplace hdir hbad hblock htr
  rw [aAtomic_ok ha haccess, performed_eq, amoHere, he, translate_keeps_mem htr]

/-! ### The results -/

/-- The address registers after the result of an atomic is written. -/
def amoRegs (m : PendAmo) (a : Regs 64) : Regs 64 :=
  let first := if m.d = 0 then a else a.put m.d m.value
  match m.status with
  | none => first
  | some v => first.put (m.d + 1) (v.zeroExtend 64)

/-- The result reaches the registers, and those that a rollback of the loads under way restores (08 R197, R218). -/
theorem landAmo_eq (c : Core) (m : PendAmo) : c.landAmo m = { c with
    aflags := c.aflags ||| m.flags, a := amoRegs m c.a, loads := c.loads.map fun (l : PendLoad) => { l with a := amoRegs m l.a } } := by
  unfold Core.landAmo amoRegs
  cases m.status <;> by_cases hd : m.d = 0 <;> simp [hd, Core.lateA, Function.comp_def]

/-- Settles O47: an aligned access is one piece, whose outcome decides; a result is written with those that a rollback restores. -/
theorem addressAtomicsPendTheirResult : Obligations.AddressAtomicsPendTheirResult := by
  refine ⟨fun p hp r s hr => ?_, fun p hp r s hr => ?_, fun s => ⟨fun h => ?_, fun m rest h => ?_⟩⟩
  · obtain ⟨op, hacts, hty, heffect⟩ := addressAmoForms_effect p hp
    intro ty w a
    have htype : ty = aAmoType op r.x := (hty r.x).symm
    simp only [w, htype]
    exact ⟨fun ha => (hacts r).trap hr (aAtomic_misaligned ha),
      fun u pa mt ha htr hplace hdir hbad hblock _ => (hacts r).done hr (aAtomic_performed heffect ha htr hplace hdir hbad hblock),
      fun u ha htr => (hacts r).trap hr (aAtomic_pages ha (atomic_fault htr)),
      fun u pa mt k ha htr hplace => (hacts r).trap hr (aAtomic_remote ha (atomic_remote htr hplace) hplace)⟩
  · obtain ⟨hacts, hty, heffect⟩ := remoteAmoForms_effect p hp
    intro ty w a req
    have htype : ty = aAmoType p.1.2 r.x := (hty r.x).symm
    have hlegal : ∀ {u : WordEnd}, req.toNat < 2 ^ 17 → (if req.extractLsb' 17 47 ≠ 0 then .trap causeIll 0 else u) = u :=
      fun h => if_neg (mt (request_reserved_iff req).mp (Nat.not_le.mpr h))
    simp only [w, htype]
    refine ⟨fun h => (hacts r).trap hr (if_pos ((request_reserved_iff req).mpr h)),
      fun u pa mt h ha htr hplace hdir hbad hblock _ =>
        (hacts r).done hr ((hlegal h).trans (aAtomic_performed heffect ha htr hplace hdir hbad hblock)),
      fun u pa mt k h ha htr hplace =>
        (hacts r).done hr ((hlegal h).trans ((aAtomic_remote ha (atomic_remote htr hplace) hplace).trans ?_))⟩
    simp only [State.ramoSend, hplace]
    rfl
  · show execAAmoComplete s = _
    rw [execAAmoComplete, h]
  · show execAAmoComplete s = _
    rw [execAAmoComplete, h]
    exact congrArg (fun c => Host.Outcome.next { s with core := c }) (landAmo_eq _ m)

end Sys2Proof.Proofs
end

section
/-! Memory words of the A stream, and the answers that end a word that waits for one (08 R192-R196, R201; 13 R329, R331; 14 R356,
R357). -/

namespace Sys2Proof.Proofs

open Sys2Proof.Machine Sys2Proof.Claims Sys2Proof.Laws

/-! ### A word that makes one access -/

theorem stopOf_trap {α : Type} {o : State × Got α} {c v : Nat} (h : stopOf o.2 = some (c, v)) (va size : Nat) (kind : State → GlobalKind)
    (dev : State → Nat → WordEnd) (ok : State → α → WordEnd) : State.aGot o va size kind dev ok = .trap c (BitVec.ofNat 64 v) := by
  obtain ⟨t, o⟩ := o
  cases o <;> cases h <;> rfl

theorem ActsA.accessEnds {α : Type} {l f commits : Bool} {reads : List Nat} {fn : State → WordEnd} {i : Instr} {s : State}
    (h : ActsA l f reads commits fn i) (hr : s.AReady l f reads commits) {o : State × Got α} {va size : Nat} {kind : GlobalKind}
    {dev : State → Nat → State} {ok : State → α → State}
    (he : fn s = State.aGot o va size (fun _ => kind) (fun t p => .done (dev t p)) (fun t v => .done (ok t v))) :
    AccessEnds s (exec i s) o va size kind dev ok := by
  refine ⟨fun t v ho => h.done hr ?_, fun c v ho => h.trap hr (he.trans (stopOf_trap ho _ _ _ _ _)), fun t pa ho => ?_,
    fun t pa ho => h.wait hr ?_⟩
  · rw [he, ho, State.aGot]
  · rw [ho, State.aGot] at he
    split
    · rename_i hd
      exact h.done hr (he.trans (if_pos hd))
    · rename_i hd
      exact h.trap hr (he.trans (if_neg hd))
  · rw [he, ho, State.aGot]

/-! ### Address registers (08 R195) -/

/-- The effect of an `lda`. -/
def ldaEnd (r : Am) (u : State) : WordEnd :=
  State.aGot (u.amRead r (sizeBytes r.sz.toNat)) (u.amAddr r).toNat (sizeBytes r.sz.toNat) (fun _ => .lda r.d.toNat)
    (fun t o => .done (t.setA r.d.toNat (BitVec.ofNat 64 (ofBytes (t.mgmtRead o (sizeBytes r.sz.toNat))))))
    (fun t bs => .done (t.setA r.d.toNat (BitVec.ofNat 64 (ofBytes bs))))

theorem lda_acts (r : Am) : ActsA r.l r.f (r.d.toNat :: amReads r) false (ldaEnd r) (.lda r) := fun _ => rfl

/-- The effect of an `sta`. -/
def staEnd (r : Am) (u : State) : WordEnd :=
  State.aGot (u.amWrite r (toBytes (sizeBytes r.sz.toNat) (u.getA 2 r.d.toNat).toNat)) (u.amAddr r).toNat (sizeBytes r.sz.toNat)
    (fun _ => .store (toBytes (sizeBytes r.sz.toNat) (u.getA 2 r.d.toNat).toNat))
    (fun t o => .done (t.mgmtWrite o (toBytes (sizeBytes r.sz.toNat) (u.getA 2 r.d.toNat).toNat))) (fun t _ => .done t)

theorem sta_acts (r : Am) : ActsA r.l r.f (r.d.toNat :: amReads r) true (staEnd r) (.sta r) := fun _ => rfl

/-! ### Queues (08 R193) -/

/-- The words of a queue access. -/
def amCount (r : Am) : Nat := if r.sz = 4 then 8 else 1

theorem amCount_pos (r : Am) : 0 < amCount r := by
  unfold amCount
  split <;> decide

/-- The effect of an `ldq`. -/
def ldqEnd (r : Am) (u : State) : WordEnd :=
  match u.qHome r.d.toNat with
  | .queue =>
    if u.qRoom r.d.toNat < amCount r then u.aQueueWait
    else if r.sz = 4 then
      State.aGot (u.amReadWords r 8) (u.amAddr r).toNat (sizeBytes r.sz.toNat) (fun _ => .ldq r.d.toNat 8)
        (fun t o => .done (t.pend (.queue r.d.toNat (packWords (t.mgmtRead o (sizeBytes r.sz.toNat))))))
        (fun t ws => .done (t.pend (.queue r.d.toNat ws)))
    else
      State.aGot (u.amRead r (sizeBytes r.sz.toNat)) (u.amAddr r).toNat (sizeBytes r.sz.toNat) (fun _ => .ldq r.d.toNat 1)
        (fun t o => .done (t.pend (.queue r.d.toNat (packWords (t.mgmtRead o (sizeBytes r.sz.toNat))))))
        (fun t bs => .done (t.pend (.queue r.d.toNat (packWords bs))))
  | _ => .trap causeIll 0

theorem ldq_acts (r : Am) : ActsA r.l r.f (amReads r) false (ldqEnd r) (.ldq r) := fun _ => rfl

section

variable {u : State} {r : Am}

theorem ldqEnd_no_queue (h : u.qHome r.d.toNat ≠ .queue) : ldqEnd r u = .trap causeIll 0 := by
  unfold ldqEnd
  split
  · contradiction
  · rfl

theorem qRoom_lt (q : Nat) : u.qRoom q < amCount r ↔ 256 < (u.own.qWords .queue q).length + u.core.reserved q + amCount r := by
  have := amCount_pos r
  rw [State.qRoom]
  omega

variable (h : u.qHome r.d.toNat = .queue)

include h

theorem ldqEnd_full (hroom : u.qRoom r.d.toNat < amCount r) : ldqEnd r u = u.aQueueWait := by
  simp only [ldqEnd, h, if_pos hroom]

variable (hroom : ¬ u.qRoom r.d.toNat < amCount r)

include hroom

theorem ldqEnd_line (hz : r.sz = 4) : ldqEnd r u =
    State.aGot (u.amReadWords r 8) (u.amAddr r).toNat (sizeBytes r.sz.toNat) (fun _ => .ldq r.d.toNat 8)
      (fun t o => .done (t.pend (.queue r.d.toNat (packWords (t.mgmtRead o (sizeBytes r.sz.toNat))))))
      (fun t ws => .done (t.pend (.queue r.d.toNat ws))) := by
  simp only [ldqEnd, h, if_neg hroom, if_pos hz]

theorem ldqEnd_word (hz : r.sz ≠ 4) : ldqEnd r u =
    State.aGot (u.amRead r (sizeBytes r.sz.toNat)) (u.amAddr r).toNat (sizeBytes r.sz.toNat) (fun _ => .ldq r.d.toNat 1)
      (fun t o => .done (t.pend (.queue r.d.toNat (packWords (t.mgmtRead o (sizeBytes r.sz.toNat))))))
      (fun t bs => .done (t.pend (.queue r.d.toNat (packWords bs)))) := by
  simp only [ldqEnd, h, if_neg hroom, if_neg hz]

end

/-- The effect of an `stq` whose queue offers the words `ws`. -/
def stqWords (r : Am) (ws : List CWord) (u : State) : WordEnd :=
  if r.sz = 4 then
    State.aGot (u.amWriteWords r ws) (u.amAddr r).toNat (sizeBytes r.sz.toNat) (fun _ => .stq r.d.toNat ws)
      (fun t o => .done ((t.mgmtWrite o (wordBytes ws)).qTake r.d.toNat (amCount r))) (fun t _ => .done (t.qTake r.d.toNat (amCount r)))
  else if sizeBytes r.sz.toNat = 8 ∧ (u.amAddr r).toNat % 8 = 0 then
    State.aGot (if r.s = 1 then u.sWriteWords u.who (u.amAddr r).toNat ws else u.gWriteWords u.who (u.amAddr r).toNat ws)
      (u.amAddr r).toNat (sizeBytes r.sz.toNat) (fun _ => .stq r.d.toNat ws)
      (fun t o => .done ((t.mgmtWrite o (wordBytes ws)).qTake r.d.toNat (amCount r))) (fun t _ => .done (t.qTake r.d.toNat (amCount r)))
  else match ws.head?.bind CWord.use with
    | none => .leave (.fault causeData) 0 (((ws.head?.map CWord.syn).getD 0).zeroExtend 32)
    | some v =>
      State.aGot ((u.fixed (if ws.head?.any (fun w => fixable w.syn) then 1 else 0)).amWrite r (toBytes (sizeBytes r.sz.toNat) v.toNat))
        (u.amAddr r).toNat (sizeBytes r.sz.toNat) (fun _ => .stq r.d.toNat ws)
        (fun t o => .done ((t.mgmtWrite o (toBytes (sizeBytes r.sz.toNat) v.toNat)).qTake r.d.toNat (amCount r)))
        (fun t _ => .done (t.qTake r.d.toNat (amCount r)))

/-- The effect of an `stq`. -/
def stqEnd (r : Am) (u : State) : WordEnd :=
  match u.qHome r.d.toNat with
  | .none => .trap causeIll 0
  | _ =>
    if ((u.qOffer r.d.toNat).take (amCount r)).length < amCount r then u.aQueueWait
    else stqWords r ((u.qOffer r.d.toNat).take (amCount r)) u

theorem stq_acts (r : Am) : ActsA r.l r.f (amReads r) true (stqEnd r) (.stq r) := fun _ => rfl

section

variable {u : State} {r : Am}

theorem stqEnd_no_queue (h : u.qHome r.d.toNat = .none) : stqEnd r u = .trap causeIll 0 := by
  simp only [stqEnd, h]

variable (h : u.qHome r.d.toNat ≠ .none)

include h

theorem stqEnd_short (hl : (u.qOffer r.d.toNat).length < amCount r) : stqEnd r u = u.aQueueWait := by
  unfold stqEnd
  split
  · contradiction
  · exact if_pos (by rw [List.length_take]; omega)

theorem stqEnd_words (hl : amCount r ≤ (u.qOffer r.d.toNat).length) :
    stqEnd r u = stqWords r ((u.qOffer r.d.toNat).take (amCount r)) u := by
  unfold stqEnd
  split
  · contradiction
  · exact if_neg (by rw [List.length_take]; omega)

theorem stqEnd_line (hz : r.sz = 4) (hl : 8 ≤ (u.qOffer r.d.toNat).length) : stqEnd r u =
    State.aGot (u.amWriteWords r ((u.qOffer r.d.toNat).take 8)) (u.amAddr r).toNat (sizeBytes r.sz.toNat)
      (fun _ => .stq r.d.toNat ((u.qOffer r.d.toNat).take 8))
      (fun t o => .done ((t.mgmtWrite o (wordBytes ((u.qOffer r.d.toNat).take 8))).qTake r.d.toNat 8))
      (fun t _ => .done (t.qTake r.d.toNat 8)) := by
  have hn : amCount r = 8 := if_pos hz
  rw [stqEnd_words h (hn ▸ hl), hn, stqWords, if_pos hz, hn]

variable (hz : r.sz ≠ 4) {w : CWord} {rest : List CWord} (ho : u.qOffer r.d.toNat = w :: rest)

include hz ho

theorem stqEnd_one : stqEnd r u = stqWords r [w] u := by
  have hn : amCount r = 1 := if_neg hz
  rw [stqEnd_words h (by rw [hn, ho]; exact Nat.le_add_left _ _), hn, ho]
  rfl

theorem stqEnd_word (ha : sizeBytes r.sz.toNat = 8 ∧ (u.amAddr r).toNat % 8 = 0) : stqEnd r u =
    State.aGot (if r.s = 1 then u.sWriteWords u.who (u.amAddr r).toNat [w] else u.gWriteWords u.who (u.amAddr r).toNat [w])
      (u.amAddr r).toNat (sizeBytes r.sz.toNat) (fun _ => .stq r.d.toNat [w])
      (fun t o => .done ((t.mgmtWrite o (toBytes 8 w.v.toNat)).qTake r.d.toNat 1)) (fun t _ => .done (t.qTake r.d.toNat 1)) := by
  have hn : amCount r = 1 := if_neg hz
  have hb : wordBytes [w] = toBytes 8 w.v.toNat := List.append_nil _
  rw [stqEnd_one h hz ho, stqWords, if_neg hz, if_pos ha, hn, hb]

variable (ha : ¬ (sizeBytes r.sz.toNat = 8 ∧ (u.amAddr r).toNat % 8 = 0))

include ha

theorem stqEnd_lost (hu : w.use = none) : stqEnd r u = .leave (.fault causeData) 0 (w.syn.zeroExtend 32) := by
  rw [stqEnd_one h hz ho, stqWords, if_neg hz, if_neg ha]
  simp [hu]

theorem stqEnd_bytes {v : Word} (hu : w.use = some v) : stqEnd r u =
    State.aGot ((u.fixed (if fixable w.syn then 1 else 0)).amWrite r (toBytes (sizeBytes r.sz.toNat) v.toNat))
      (u.amAddr r).toNat (sizeBytes r.sz.toNat) (fun _ => .stq r.d.toNat [w])
      (fun t o => .done ((t.mgmtWrite o (toBytes (sizeBytes r.sz.toNat) v.toNat)).qTake r.d.toNat 1))
      (fun t _ => .done (t.qTake r.d.toNat 1)) := by
  have hn : amCount r = 1 := if_neg hz
  rw [stqEnd_one h hz ho, stqWords, if_neg hz, if_neg ha, hn]
  simp only [List.head?_cons, Option.bind_some, hu]
  rfl

end

/-! ### Tiles (08 R194) -/

/-- The effect of an `ldt`. -/
def ldtEnd (r : Am) (u : State) : WordEnd :=
  if !u.core.tileFree r.d.toNat then .wait u
  else
    State.aGot (u.amReadWords r 512) (u.amAddr r).toNat 4096 (fun _ => .ldt r.d.toNat)
      (fun t o => .done (t.pendTile r.d.toNat (packWords (t.mgmtRead o 4096)))) (fun t ws => .done (t.pendTile r.d.toNat ws))

theorem ldt_acts (r : Am) : ActsA r.l r.f (amReads r) false (ldtEnd r) (.ldt r) := fun _ => rfl

/-- Tile `k` is set empty. -/
def emptied (k : Nat) (t : State) : State := { t with core := { t.core with tfull := tdel t.core.tfull k } }

/-- The effect of an `stt`. -/
def sttEnd (r : Am) (u : State) : WordEnd :=
  if tget u.core.tfull r.d.toNat ≠ some .full then .wait u
  else
    State.aGot (u.amWriteWords r (u.core.tdata.words (r.d.toNat * 4096) 512)) (u.amAddr r).toNat 4096
      (fun _ => .stt r.d.toNat (u.core.tdata.words (r.d.toNat * 4096) 512))
      (fun t o => .done (emptied r.d.toNat (t.mgmtWrite o (wordBytes (u.core.tdata.words (r.d.toNat * 4096) 512)))))
      (fun t _ => .done (emptied r.d.toNat t))

theorem stt_acts (r : Am) : ActsA r.l r.f (amReads r) true (sttEnd r) (.stt r) := fun _ => rfl

/-! ### Commits, and streams that hold on a queue (08 R196, 10 R277) -/

theorem commitLoad_none {s : State} (h : s.core.loads = []) : s.commitLoad = s := by
  simp only [State.commitLoad, h]

section

variable {s : State} {l : PendLoad} {rest : List PendLoad} {ws : List CWord} (h : s.core.loads = l :: rest)

include h

theorem commitLoad_queue {q : Nat} (hd : l.dest = .queue q ws) :
    s.commitLoad = ({ s with core := { s.core with loads := rest } } : State).qPush q ws := by
  simp only [State.commitLoad, h, hd]

theorem commitLoad_tile {k : Nat} (hd : l.dest = .tile k ws) : s.commitLoad = { s with core := { s.core with
    loads := rest, tdata := s.core.tdata.setWords (k * 4096) ws, tfull := tset s.core.tfull k .full } } := by
  simp only [State.commitLoad, h, hd]

end

/-- A stream's hold once it tries the word that holds on a queue again. -/
def triedAgain (h : Hold) : Hold :=
  match h with
  | .queue => .none
  | _ => h

theorem triedAgain_queue {h : Hold} (hq : h = .queue) : triedAgain h = .none := by
  rw [hq, triedAgain]

theorem triedAgain_same {h : Hold} (hq : h ≠ .queue) : triedAgain h = h := by
  unfold triedAgain
  split
  · contradiction
  · rfl

theorem queueWordProceed_x (s : State) :
    exec (.queueWordProceed false) s = .next { s with core := { s.core with xhold := triedAgain s.core.xhold } } := rfl

theorem queueWordProceed_a (s : State) :
    exec (.queueWordProceed true) s = .next { s with core := { s.core with ahold := triedAgain s.core.ahold } } := rfl

/-! ### Answers (08 R201; 14 R356, R357) -/

section

variable {s : State} {g : GlobalAccess} {ans : Answer} {e : WordEnd}

theorem answer_x (h : s.core.xhold = .access g)
    (he : ({ s with core := { s.core with xhold := .none } } : State).answerEnd g ans = some e) :
    exec (.globalAccessComplete ans) s = .next (({ s with core := { s.core with xhold := .none } } : State).xEnd 1 e) := by
  have hx : s.answerX ans = ({ s with core := { s.core with xhold := .none } } : State).xEnd 1 e := by
    simp only [State.answerX, h, he]
  rw [← hx]
  refine congrArg Host.Outcome.next ?_
  simp only [State.answer, h, he, Option.isSome_some, if_true]

theorem answer_a (hx : ∀ h, s.core.xhold ≠ .access h) : exec (.globalAccessComplete ans) s = .next (s.answerA ans) := by
  refine congrArg Host.Outcome.next ?_
  unfold State.answer
  split
  · exact absurd ‹_› (hx _)
  · rfl

theorem answerA_ends (h : s.core.ahold = .access g)
    (he : ({ s with core := { s.core with ahold := .none } } : State).answerEnd g ans = some e) :
    s.answerA ans = ({ s with core := { s.core with ahold := .none } } : State).aEnd e := by
  simp only [State.answerA, h, he]

theorem answerA_none (ha : ∀ h, s.core.ahold ≠ .access h) : s.answerA ans = s := by
  unfold State.answerA
  split
  · exact absurd ‹_› (ha _)
  · rfl

end

section

variable {t : State} {g : GlobalAccess} (hp : placeOf g.pa ≠ .pool)

include hp

theorem answerEnd_refused : t.answerEnd g .refused = some (.trap causeViol g.va) := if_neg hp

theorem answerEnd_poisoned : t.answerEnd g .poisoned = t.poisonEnd g (t.farWords 512 CWord.poison) := if_neg hp

theorem answerEnd_value (v : Word) : t.answerEnd g (.value v) = t.farEnd g (t.farWords 512 (CWord.good v)) := if_neg hp

/-- A lane consumes a poisoned answer (13 R334). -/
theorem answerEnd_poisoned_register {d : Nat} (hk : g.kind = .load d ∨ g.kind = .lda d) :
    t.answerEnd g .poisoned = some (.trap causeData (BitVec.ofNat 64 g.pa)) := by
  rw [answerEnd_poisoned hp]
  obtain hk | hk := hk <;> simp [State.poisonEnd, GlobalAccess.carries, hk]

theorem answerEnd_load {d : Nat} (hk : g.kind = .load d) (v : Word) :
    t.answerEnd g (.value v) = some (.done (t.setX d (BitVec.ofNat 64 (v.toNat % 2 ^ (8 * g.size))))) := by
  rw [answerEnd_value hp]
  simp only [State.farEnd, hk]
  rfl

theorem answerEnd_lda {d : Nat} (hk : g.kind = .lda d) (v : Word) :
    t.answerEnd g (.value v) = some (.done (t.setA d (BitVec.ofNat 64 (v.toNat % 2 ^ (8 * g.size))))) := by
  rw [answerEnd_value hp]
  simp only [State.farEnd, hk]
  rfl

/-- A store ends with its answer, poisoned or not (14 R356). -/
theorem answerEnd_store (hk : (∃ bs, g.kind = .store bs) ∨ ∃ ws, g.kind = .storeWords ws) :
    t.answerEnd g .poisoned = some (.done t) ∧ ∀ v, t.answerEnd g (.value v) = some (.done t) := by
  simp only [answerEnd_poisoned hp, answerEnd_value hp]
  obtain ⟨bs, hk⟩ | ⟨ws, hk⟩ := hk <;> simp [State.poisonEnd, State.farEnd, hk]

theorem answerEnd_stq {q : Nat} {ws : List CWord} (hk : g.kind = .stq q ws) :
    t.answerEnd g .poisoned = some (.done (t.qTake q ws.length)) ∧ ∀ v, t.answerEnd g (.value v) = some (.done (t.qTake q ws.length)) := by
  simp [answerEnd_poisoned hp, answerEnd_value hp, State.poisonEnd, State.farEnd, hk]

end

theorem answerEnd_pool {t : State} {g : GlobalAccess} (hp : placeOf g.pa = .pool) (hd : t.downPort g.pa = none) (ans : Answer) :
    t.answerEnd g ans = some (.wait t) := by
  simp only [State.answerEnd, hp, if_true, hd]

/-- Settles O46, word by word: each is one access in the shell of its stream, and an answer gives the end that the access waited for. -/
theorem addressMemoryWordsMakeOneAccess : Obligations.AddressMemoryWordsMakeOneAccess := by
  refine ⟨fun r s hr => (lda_acts r).accessEnds hr rfl, fun r s hr => (sta_acts r).accessEnds hr rfl, fun r s hr => ?ldq,
    fun r s hr => ?stq, fun r s hr => ?ldt, fun r s hr => ?stt, fun s => ?commit, fun s g hx hp => ?answersX, fun s g hx ha hp => ?answersA,
    fun s g ans hx hp hd => ?pool, fun s ans hx ha => ?nothing, fun s => ?again⟩
  case ldq =>
    have ldq := ldq_acts r
    intro q n k a held load land
    refine ⟨fun h => ldq.trap hr (ldqEnd_no_queue h), fun h hroom => ldq.wait hr (ldqEnd_full h ((qRoom_lt _).mpr hroom)),
      fun h hroom hz => ldq.accessEnds hr (ldqEnd_line h (mt (qRoom_lt _).mp (Nat.not_lt.mpr hroom)) hz),
      fun h hroom hz => ldq.accessEnds hr (ldqEnd_word h (mt (qRoom_lt _).mp (Nat.not_lt.mpr hroom)) hz)⟩
  case stq =>
    have stq := stq_acts r
    exact ⟨fun h => stq.trap hr (stqEnd_no_queue h), fun h hl => stq.wait hr (stqEnd_short h hl),
      fun h hz hl => stq.accessEnds hr (stqEnd_line h hz hl), fun w rest h hz ho hn ha => stq.accessEnds hr (stqEnd_word h hz ho ⟨hn, ha⟩),
      fun w rest h hz ho ha => ⟨fun hu => stq.leave hr (stqEnd_lost h hz ho ha hu),
        fun v hu => stq.accessEnds hr (stqEnd_bytes h hz ho ha hu)⟩⟩
  case ldt =>
    exact ⟨fun h => (ldt_acts r).wait hr (if_pos (by rw [h]; rfl)), fun h => (ldt_acts r).accessEnds hr (if_neg (by rw [h]; decide))⟩
  case stt =>
    exact ⟨fun h => (stt_acts r).wait hr (if_pos h), fun h => (stt_acts r).accessEnds hr (if_neg (not_not.mpr h))⟩
  case commit =>
    exact ⟨fun h => congrArg Host.Outcome.next (commitLoad_none h), fun l rest q ws h hd => congrArg Host.Outcome.next (commitLoad_queue h hd),
      fun l rest k ws h hd => congrArg Host.Outcome.next (commitLoad_tile h hd)⟩
  case answersX =>
    refine ⟨answer_x hx (answerEnd_refused hp), fun d hk => ⟨answer_x hx (answerEnd_poisoned_register hp (.inl hk)), fun v hs => ?_⟩,
      fun v hs hk => ⟨?_, ?_⟩⟩
    · rw [answer_x hx (answerEnd_load hp hk v), xEnd_done hs]
    · rw [answer_x hx (answerEnd_store hp hk).1, xEnd_done hs]
    · rw [answer_x hx ((answerEnd_store hp hk).2 v), xEnd_done hs]
  case answersA =>
    simp only [answer_a hx]
    exact ⟨congrArg Host.Outcome.next (answerA_ends ha (answerEnd_refused hp)),
      fun d hk => ⟨congrArg Host.Outcome.next (answerA_ends ha (answerEnd_poisoned_register hp (.inr hk))),
        fun v => congrArg Host.Outcome.next (answerA_ends ha (answerEnd_lda hp hk v))⟩,
      fun v q ws hk => ⟨congrArg Host.Outcome.next (answerA_ends ha (answerEnd_stq hp hk).1),
        congrArg Host.Outcome.next (answerA_ends ha ((answerEnd_stq hp hk).2 v))⟩⟩
  case pool => exact answer_x hx (answerEnd_pool hp (by exact hd) ans)
  case nothing => rw [answer_a hx, answerA_none ha]
  case again =>
    rw [queueWordProceed_x, queueWordProceed_a]
    exact ⟨fun h => by rw [triedAgain_queue h], fun h => by rw [triedAgain_queue h], fun h => by rw [triedAgain_same h],
      fun h => by rw [triedAgain_same h]⟩

end Sys2Proof.Proofs
end

section
/-! Push words: engine and KV commands, and those of the near-bank units (08 R205-R209, R213-R216; 09 R227-R237). -/

namespace Sys2Proof.Proofs

open Sys2Proof.Machine Sys2Proof.Claims Sys2Proof.Laws

theorem extractLsb'_eq_zero_iff {w : Word} {hi lo len : Nat} (h : hi + 1 - lo = len) :
    w.extractLsb' lo len = 0 ↔ bits w.toNat hi lo = 0 := by
  subst h
  rw [← BitVec.toNat_inj, BitVec.extractLsb'_toNat]
  rfl

/-! ### Pushing -/

theorem pushCmd_full {s : State} {c : EngCmd} (h : (s.own.tag c.tag).pend = 255) : s.pushCmd c = .wait s := if_pos h

theorem pushCmd_room {s : State} {c : EngCmd} (h : (s.own.tag c.tag).pend ≠ 255) : s.pushCmd c = .done (pushed s c) := if_neg h

section

variable {l f commits : Bool} {reads : List Nat} {fn : State → WordEnd} {i : Instr} {s : State} {bad : Prop} {c : EngCmd}
  (h : ActsA l f reads commits fn i) (hr : s.AReady l f reads commits) (hbad : bad → fn s = .trap causeIll 0)

include h hr hbad

/-- A word that pushes a command unless an operand is illegal. -/
theorem ActsA.pushes (hok : ¬ bad → fn s = s.pushCmd c) :
    (bad → exec i s = .next (s.raiseLeave true (.fault causeIll) 0 0)) ∧
      (¬ bad → (s.own.tag c.tag).pend = 255 → exec i s = .next s) ∧
      (¬ bad → (s.own.tag c.tag).pend ≠ 255 → exec i s = .next (pushed s c).aDone) :=
  ⟨fun hb => h.trap hr (hbad hb), fun hb hp => h.wait hr ((hok hb).trans (pushCmd_full hp)),
    fun hb hp => h.done hr ((hok hb).trans (pushCmd_room hp))⟩

/-- The same of a near-bank unit, which takes no more than 16 commands that are not fully forwarded. -/
theorem ActsA.nbPushes (hok : ¬ bad → fn s = s.nbPush c) :
    let waiting := (s.own.tag c.tag).pend = 255 ∨ 16 ≤ (s.cmds.filter (fun k => k.kind.nearBank && k.sameStream c && !k.segs.isEmpty)).length
    (bad → exec i s = .next (s.raiseLeave true (.fault causeIll) 0 0)) ∧ (¬ bad → waiting → exec i s = .next s) ∧
      (¬ bad → ¬ waiting → exec i s = .next (pushed s c).aDone) := by
  refine ⟨fun hb => h.trap hr (hbad hb), fun hb hw => h.wait hr ((hok hb).trans ?_), fun hb hw => h.done hr ((hok hb).trans ?_)⟩
  · rw [State.nbPush]
    split
    · rfl
    · rename_i hn
      exact pushCmd_full (hw.resolve_right hn)
  · obtain ⟨hp, hn⟩ := not_or.mp hw
    exact (if_neg hn).trans (pushCmd_room hp)

end

/-! ### Copies, gathers and KV commands (08 R207-R209, R213-R216) -/

/-- The effect of a `cp`. -/
def cpEnd (r : An) (s : State) : WordEnd :=
  if (s.getA 2 r.b.toNat).toNat % 2 ^ 32 = 0 then (if (s.own.tag (anTag r)).pend = 255 then .wait s else .done s)
  else s.pushCmd (s.newCmd .cp (anTag r) (anHi r) 0 (s.getA 0 r.d.toNat) (s.getA 1 r.a.toNat) (s.getA 2 r.b.toNat)
    (transferSegs (s.getA 0 r.d.toNat) (s.getA 1 r.a.toNat) ((s.getA 2 r.b.toNat).toNat % 2 ^ 32) s.core.pos 0))

theorem cp_acts (r : An) : ActsA r.l r.f [r.d.toNat, r.a.toNat, r.b.toNat] true (cpEnd r) (.cp r) := fun _ => rfl

/-- Whether a[B] of an `mcast` is illegal: reserved bits, or a rectangle that is not the partition's (08 R208). -/
def mcastBad (r : An) (s : State) : Prop :=
  bits (s.getA 2 r.b.toNat).toNat 63 50 ≠ 0 ∨ subRect (bits (s.getA 2 r.b.toNat).toNat 49 32) s.partition = false

/-- The command of an `mcast`. -/
def mcastCmd (r : An) (s : State) : EngCmd :=
  s.newCmd .mcast (anTag r) (anHi r) 0 (s.getA 0 r.d.toNat) (s.getA 1 r.a.toNat) (s.getA 2 r.b.toNat)
    ((rectCores (bits (s.getA 2 r.b.toNat).toNat 49 32)).zipIdx.flatMap (fun p =>
      transferSegs (mcastDst (s.getA 0 r.d.toNat) p.2 ((s.getA 2 r.b.toNat).toNat % 2 ^ 32) p.1) (s.getA 1 r.a.toNat)
        ((s.getA 2 r.b.toNat).toNat % 2 ^ 32) p.1 (p.2 * 2 ^ 32)))

/-- The effect of an `mcast`. -/
def mcastEnd (r : An) (s : State) : WordEnd :=
  if (s.getA 2 r.b.toNat).extractLsb' 50 14 ≠ 0 ∨ !subRect (bits (s.getA 2 r.b.toNat).toNat 49 32) s.partition then .trap causeIll 0
  else s.pushCmd (mcastCmd r s)

theorem mcast_acts (r : An) : ActsA r.l r.f [r.d.toNat, r.a.toNat, r.b.toNat] true (mcastEnd r) (.mcast r) := fun _ => rfl

theorem mcastBad_iff {r : An} {s : State} : mcastBad r s ↔
    (s.getA 2 r.b.toNat).extractLsb' 50 14 ≠ 0 ∨ (!subRect (bits (s.getA 2 r.b.toNat).toNat 49 32) s.partition) = true := by
  rw [mcastBad, Ne, Ne, extractLsb'_eq_zero_iff (w := s.getA 2 r.b.toNat) (hi := 63) (lo := 50) (len := 14) rfl, Bool.not_eq_true']

/-- The command of a `gat` or an `sct`. -/
def gatherCmd (kind : EngKind) (r : An) (s : State) : EngCmd :=
  let c := s.newCmd kind (anTag r) (anHi r) 0 (s.getA 0 r.d.toNat) (s.getA 1 r.a.toNat) (s.getA 2 r.b.toNat) []
  { c with segs := elemSegs c.src c.length c.elemBytes s.core.pos }

/-- The effect of a `gat` or an `sct`. -/
def gatherEnd (kind : EngKind) (r : An) (s : State) : WordEnd :=
  if (s.getA 2 r.b.toNat).extractLsb' 35 29 ≠ 0 ∨ 5 ≤ ((s.getA 2 r.b.toNat).extractLsb' 32 3).toNat then .trap causeIll 0
  else s.pushCmd (gatherCmd kind r s)

theorem gat_acts (r : An) : ActsA r.l r.f [r.d.toNat, r.a.toNat, r.b.toNat] true (gatherEnd .gat r) (.gat r) := fun _ => rfl

theorem sct_acts (r : An) : ActsA r.l r.f [r.d.toNat, r.a.toNat, r.b.toNat] true (gatherEnd .sct r) (.sct r) := fun _ => rfl

theorem gatherBad_iff {b : Word} : bits b.toNat 63 35 ≠ 0 ∨ 5 ≤ bits b.toNat 34 32 ↔
    b.extractLsb' 35 29 ≠ 0 ∨ 5 ≤ (b.extractLsb' 32 3).toNat := by
  rw [Ne, Ne, extractLsb'_eq_zero_iff (w := b) (hi := 63) (lo := 35) (len := 29) rfl, BitVec.extractLsb'_toNat]
  rfl

/-- The effect of a KV word whose a[B] is illegal under `bad`. -/
def kvEnd (kind : EngKind) (bad : Word → Bool) (r : An) (s : State) : WordEnd :=
  if (s.getA 1 r.a.toNat).extractLsb' 56 8 ≠ 0 ∨ bad (s.getA 2 r.b.toNat) then .trap causeIll 0
  else s.pushCmd (s.newCmd kind (anTag r) 3 0 (s.getA 0 r.d.toNat) (s.getA 1 r.a.toNat) (s.getA 2 r.b.toNat) [kvStartSeg s.core.pos])

/-- Each KV word acts as `kvEnd` says, for its command and its illegal a[B]. -/
theorem kvForms_acts : ∀ p ∈ kvForms, ∃ bad : Word → Bool, (∀ b, bad b = true ↔ p.2.2 b.toNat) ∧
    ∀ r, ActsA r.l r.f [r.d.toNat, r.a.toNat, r.b.toNat] true (kvEnd p.2.1 bad r) (p.1 r) := by
  refine List.forall_mem_cons.mpr ⟨⟨fun b => decide (b.extractLsb' 48 16 ≠ 0) || decide (b.extractLsb' 32 16 = 0), fun b => ?_, fun _ _ => rfl⟩,
    List.forall_mem_cons.mpr ⟨⟨fun b => decide (b.extractLsb' 16 48 ≠ 0) || decide (b.extractLsb' 0 16 = 0), fun b => ?_, fun _ _ => rfl⟩,
      List.forall_mem_singleton.mpr ⟨fun b => decide (b.extractLsb' 32 32 ≠ 0), fun b => ?_, fun _ _ => rfl⟩⟩⟩
  · rw [Bool.or_eq_true, decide_eq_true_eq, decide_eq_true_eq, Ne, extractLsb'_eq_zero_iff (hi := 63) rfl,
      extractLsb'_eq_zero_iff (hi := 47) rfl]
  · rw [Bool.or_eq_true, decide_eq_true_eq, decide_eq_true_eq, Ne, extractLsb'_eq_zero_iff (hi := 63) rfl,
      extractLsb'_eq_zero_iff (hi := 15) rfl]
  · rw [decide_eq_true_eq, Ne, extractLsb'_eq_zero_iff (hi := 63) rfl]

/-! ### Near-bank commands (09 R230, R233, R236, R237) -/

/-- The command of a row word, with the parameter `op`. -/
def rowCmd (kind : EngKind) (op : Nat) (r : An) (s : State) : EngCmd :=
  { (s.newCmd kind (anTag r) 0 op (s.getA 0 r.d.toNat) (s.getA 1 r.a.toNat) (s.getA 2 r.b.toNat) []).withRows
      ((s.getA 2 r.b.toNat).toNat % 8192) with prog := s.core.nbprog }

/-- The effect of a row word. -/
def rowsEnd (kind : EngKind) (top op : Nat) (bad : State → Bool) (r : An) (s : State) : WordEnd :=
  if !rowOperand (s.getA 0 r.d.toNat) ∨ !rowOperand (s.getA 1 r.a.toNat) ∨ (s.getA 2 r.b.toNat).toNat % 8192 = 0 ∨
      4096 < (s.getA 2 r.b.toNat).toNat % 8192 ∨ bits (s.getA 2 r.b.toNat).toNat (top - 1) 13 ≠ 0 ∨ bad s then .trap causeIll 0
  else s.nbPush (rowCmd kind op r s)

/-- Whether the operands of a row word are illegal. -/
def rowsBad (kind : EngKind) (typed : Bool) (r : An) (s : State) : Prop :=
  2 ^ 63 ≤ (s.getA 0 r.d.toNat).toNat ∨ (s.getA 0 r.d.toNat).toNat % 2048 ≠ 0 ∨ 2 ^ 63 ≤ (s.getA 1 r.a.toNat).toNat ∨
    (s.getA 1 r.a.toNat).toNat % 2048 ≠ 0 ∨ (s.getA 2 r.b.toNat).toNat % 8192 = 0 ∨ 4096 < (s.getA 2 r.b.toNat).toNat % 8192 ∨
    bits (s.getA 2 r.b.toNat).toNat (if typed then 31 else 63) 13 ≠ 0 ∨ (kind = .nbRun ∧ s.core.nbprog = [])

theorem not_rowOperand_iff (w : Word) : (!rowOperand w) = true ↔ 2 ^ 63 ≤ w.toNat ∨ w.toNat % 2048 ≠ 0 := by
  have h : w.getLsbD 63 = decide (2 ^ 63 ≤ w.toNat) := BitVec.msb_eq_decide w
  rw [rowOperand, h, Bool.not_and, Bool.not_not, Bool.or_eq_true, decide_eq_true_eq, Bool.not_eq_true', decide_eq_false_iff_not]

theorem rowsBad_iff {kind : EngKind} {typed : Bool} {top : Nat} {bad : State → Bool} {r : An} {s : State}
    (ht : top - 1 = if typed then 31 else 63) (hb : bad s = true ↔ kind = .nbRun ∧ s.core.nbprog = []) :
    rowsBad kind typed r s ↔ (!rowOperand (s.getA 0 r.d.toNat)) = true ∨ (!rowOperand (s.getA 1 r.a.toNat)) = true ∨
      (s.getA 2 r.b.toNat).toNat % 8192 = 0 ∨ 4096 < (s.getA 2 r.b.toNat).toNat % 8192 ∨
      bits (s.getA 2 r.b.toNat).toNat (top - 1) 13 ≠ 0 ∨ bad s = true := by
  rw [rowsBad, not_rowOperand_iff, not_rowOperand_iff, ht, hb, or_assoc, or_assoc]

/-- Each row word acts as `rowsEnd` says, for its command, its parameter and its illegal operands. -/
theorem rowCommandForms_act : ∀ p ∈ rowCommandForms, ∃ (top : Nat) (bad : State → Bool), (top - 1 = if p.2.2 then 31 else 63) ∧
    (∀ s, bad s = true ↔ p.2.1 = .nbRun ∧ s.core.nbprog = []) ∧
    ∀ r, ActsA r.l r.f [r.d.toNat, r.a.toNat, r.b.toNat] true (rowsEnd p.2.1 top (if p.2.2 then r.k.toNat / 64 else 0) bad r) (p.1 r) := by
  refine List.forall_mem_cons.mpr ⟨⟨64, fun _ => false, rfl, fun s => ?_, fun _ _ => rfl⟩,
    List.forall_mem_cons.mpr ⟨⟨64, fun _ => false, rfl, fun s => ?_, fun _ _ => rfl⟩,
      List.forall_mem_cons.mpr ⟨⟨32, fun _ => false, rfl, fun s => ?_, fun _ _ => rfl⟩,
        List.forall_mem_singleton.mpr ⟨32, fun s => s.core.nbprog.isEmpty, rfl, fun s => ?_, fun _ _ => rfl⟩⟩⟩⟩ <;> simp

/-- The effect of a near-bank atomic. -/
def nbAmoEnd (op : Nat) (r : An) (s : State) : WordEnd :=
  if (s.getA 2 r.b.toNat).toNat % 65536 = 0 ∨ (s.getA 2 r.b.toNat).extractLsb' 17 47 ≠ 0 then .trap causeIll 0
  else s.nbPush ((s.newCmd .nbAmo (anTag r) 0 op (s.getA 0 r.d.toNat) (s.getA 1 r.a.toNat) (s.getA 2 r.b.toNat) []).withRows
    ((s.getA 2 r.b.toNat).toNat % 65536))

theorem nearAmoForms_act : ∀ p ∈ nearAmoForms, ∀ r, ActsA r.l r.f [r.d.toNat, r.a.toNat, r.b.toNat] true (nbAmoEnd p.2 r) (p.1 r) := by
  repeat refine List.forall_mem_cons.mpr ⟨fun _ _ => rfl, ?_⟩
  exact List.forall_mem_nil _

theorem nbAmoBad_iff {b : Word} : b.toNat % 65536 = 0 ∨ bits b.toNat 63 17 ≠ 0 ↔ b.toNat % 65536 = 0 ∨ b.extractLsb' 17 47 ≠ 0 := by
  rw [Ne, Ne, extractLsb'_eq_zero_iff (w := b) (hi := 63) (lo := 17) (len := 47) rfl]

/-- Settles O48, word by word: each takes its operands and pushes one command, unless an operand is illegal. -/
theorem pushWordsQueueTheirCommand : Obligations.PushWordsQueueTheirCommand := by
  refine ⟨fun r s hr => ?_, fun r s hr => ?_⟩
  · intro d a b tag sc n rect ill push
    refine ⟨fun h hp => (cp_acts r).done hr ?_, fun h hp => (cp_acts r).wait hr ?_,
      fun h => (cp_acts r).pushes hr False.elim fun _ => if_neg h,
      (mcast_acts r).pushes hr (fun h => if_pos (mcastBad_iff.mp h)) (fun h => if_neg (mt mcastBad_iff.mpr h)),
      ⟨(gat_acts r).pushes hr (fun h => if_pos (gatherBad_iff.mp h)) (fun h => if_neg (mt gatherBad_iff.mpr h)),
        (sct_acts r).pushes hr (fun h => if_pos (gatherBad_iff.mp h)) (fun h => if_neg (mt gatherBad_iff.mpr h))⟩,
      fun p hp => ?_, ⟨rfl, rfl, rfl, rfl, rfl, rfl, rfl, rfl, rfl⟩⟩
    · exact (if_pos h).trans (if_neg hp)
    · exact (if_pos h).trans (if_pos hp)
    · obtain ⟨bad, hbad, hp⟩ := kvForms_acts p hp
      have hiff : bits a.toNat 63 56 ≠ 0 ∨ p.2.2 b.toNat ↔ a.extractLsb' 56 8 ≠ 0 ∨ bad b = true := by
        rw [hbad, Ne, Ne, extractLsb'_eq_zero_iff (w := a) (hi := 63) (lo := 56) (len := 8) rfl]
      exact (hp r).pushes hr (fun h => if_pos (hiff.mp h)) (fun h => if_neg (mt hiff.mpr h))
  · intro d a b tag waiting push
    refine ⟨fun p hp => ?_, fun p hp => ?_⟩
    · obtain ⟨top, bad, htop, hbad, hp⟩ := rowCommandForms_act p hp
      have hiff := rowsBad_iff (r := r) htop (hbad s)
      exact (hp r).nbPushes hr (fun h => if_pos (hiff.mp h)) (fun h => if_neg (mt hiff.mpr h))
    · exact (nearAmoForms_act p hp r).nbPushes hr (fun h => if_pos (nbAmoBad_iff.mp h)) (fun h => if_neg (mt nbAmoBad_iff.mpr h))

end Sys2Proof.Proofs
end

section
/-! Collectives, and the words that fence, query and program the near-bank units (08 R221, R222; 09 R234, R238, R239). -/

namespace Sys2Proof.Proofs

open Sys2Proof.Machine Sys2Proof.Claims Sys2Proof.Laws

/-! ### Descriptors -/

theorem readDesc_described {s t : State} {op : Word} {v : Nat} (h : described s op = some (t, v)) (f : State → Nat → WordEnd) :
    s.readDesc op f = f t v := by
  unfold described at h
  split at h
  · rename_i u rs hr
    rw [Option.ite_none_right_eq_some] at h
    obtain ⟨hn, h⟩ := h
    cases h
    simp only [State.readDesc, hr, Option.isNone_iff_eq_none.mp hn]
  · cases h

/-! ### Collectives (08 R221, R222) -/

/-- The part of a member whose descriptor reads `v`. -/
def descPart (op : Nat) (r : An) (t : State) (v : Nat) : CollPart :=
  { op := op, ty := (r.k.extractLsb' 4 4).toNat, reach := r.k.getLsbD 8, count := bits v 63 0, group := groupKey (r.k.getLsbD 8) v,
    root := bits v 143 136, attempt := bits v 223 192,
    size := if r.k.getLsbD 8 then Config.groupSize (bits v 95 64) else rectSize (bits v 81 64),
    rank := if r.k.getLsbD 8 then Config.groupRank (bits v 95 64)
      else ((rectCores (bits v 81 64)).findIdx? (fun p => decide (p = t.core.pos))).getD 0,
    got := [], since := t.ptp, sent := false, closed := false, aborted := false }

/-- The command of a collective whose descriptor reads `v`. -/
def collCmd (op : Nat) (r : An) (d a b : Word) (t : State) (v : Nat) : EngCmd :=
  { t.newCmd .coll (bits v 133 128) (if r.k.getLsbD 8 then 4 else 3) op d a b [] with
    coll := some (descPart op r t v)
    err := decide (bits v 223 192 ≤ t.highest (t.core.ctx.getD 0) (groupKey (r.k.getLsbD 8) v)) }

/-- The end of a collective whose descriptor reads `v`. -/
def collDescEnd (op : Nat) (r : An) (d a b : Word) (t : State) (v : Nat) : WordEnd :=
  if v / 2 ^ 224 ≠ 0 ∨ (!r.k.getLsbD 8 ∧ (!subRect (bits v 81 64) t.partition ∨ !inRect (bits v 81 64) t.core.pos)) then .trap causeIll 0
  else t.pushCmd (collCmd op r d a b t v)

/-- The effect of a collective. -/
def collEnd (op : Nat) (r : An) (s : State) : WordEnd :=
  s.readDesc (s.getA 2 r.b.toNat) (collDescEnd op r (s.getA 0 r.d.toNat) (s.getA 1 r.a.toNat) (s.getA 2 r.b.toNat))

theorem collForms_act : ∀ p ∈ collForms, ∀ r, ActsA r.l r.f [r.d.toNat, r.a.toNat, r.b.toNat] true (collEnd p.2 r) (p.1 r) := by
  repeat refine List.forall_mem_cons.mpr ⟨fun _ _ => rfl, ?_⟩
  exact List.forall_mem_nil _

theorem collBad_iff {k : BitVec 9} {v : Nat} {t : State} :
    2 ^ 224 ≤ v ∨ (k.getLsbD 8 = false ∧ (subRect (bits v 81 64) t.partition = false ∨ inRect (bits v 81 64) t.core.pos = false)) ↔
      v / 2 ^ 224 ≠ 0 ∨ ((!k.getLsbD 8) = true ∧
        ((!subRect (bits v 81 64) t.partition) = true ∨ (!inRect (bits v 81 64) t.core.pos) = true)) := by
  simp only [Bool.not_eq_true', Nat.ne_zero_iff_zero_lt, Nat.div_pos_iff, Nat.two_pow_pos, true_and]

/-- The effect of a `coll.abort`. -/
def collAbortEnd (r : An) (s : State) : WordEnd :=
  s.readDesc (s.getA 0 r.a.toNat) fun t v =>
    .done ((t.collAbort (t.core.ctx.getD 0) (groupKey false v) (bits v 223 192)).collAbort (t.core.ctx.getD 0) (groupKey true v) (bits v 223 192))

theorem collAbort_acts (r : An) : ActsA r.l r.f [r.a.toNat] true (collAbortEnd r) (.collAbort r) := fun _ => rfl

/-- The effect of a `coll.att`. -/
def collAttEnd (r : An) (s : State) : WordEnd :=
  s.readDesc (s.getA 0 r.a.toNat) fun t v =>
    .done (t.setA r.d.toNat (BitVec.ofNat 64
      (max (t.highest (t.core.ctx.getD 0) (groupKey false v)) (t.highest (t.core.ctx.getD 0) (groupKey true v)))))

theorem collAtt_acts (r : An) : ActsA r.l r.f [r.a.toNat, r.d.toNat] false (collAttEnd r) (.collAtt r) := fun _ => rfl

/-! ### Near-bank queries (09 R234, R238, R239) -/

/-- The near-bank commands of the core in focus, of the launch that it runs. -/
def nearHere (s : State) (c : EngCmd) : Bool :=
  c.kind.nearBank && decide (some c.slot = s.core.ctx) && decide (c.pos = s.core.pos) && decide (c.launch = s.launchId)

theorem nearHere_any {s : State} : s.cmds.any (nearHere s) = true ↔
    ∃ c ∈ s.cmds, c.kind.nearBank = true ∧ some c.slot = s.core.ctx ∧ c.pos = s.core.pos ∧ c.launch = s.launchId := by
  simp [nearHere, and_assoc]

theorem nbFence_acts (r : An) :
    ActsA r.l r.f [] true (fun s => if s.cmds.any (nearHere s) then .wait s else .done s) (.nbFence r) := fun _ => rfl

/-- The effect of an `nb.stat`. -/
def nbStatEnd (r : An) (s : State) : WordEnd :=
  match s.translate s.who needR (s.getA 0 r.a.toNat).toNat with
  | (_, .fault) => .trap causePages (s.getA 0 r.a.toNat)
  | (_, .viol a) => .trap causeViol (BitVec.ofNat 64 a)
  | (_, .data a) => .trap causeData (BitVec.ofNat 64 a)
  | (t, .ok pa _) => .done (t.setA r.d.toNat (if placeOf pa = .hbm then t.nbStatus (t.core.ctx.getD 0) (bankOf pa) else 0))

theorem nbStat_acts (r : An) : ActsA r.l r.f [r.a.toNat, r.d.toNat] false (nbStatEnd r) (.nbStat r) := fun _ => rfl

/-- The bytes that an `nb.prog` takes its program from. -/
def progAccess (r : An) (s : State) : State × Got (List Byte) :=
  match engAddr (s.getA 0 r.a.toNat) with
  | .bad => (s, .viol (s.getA 0 r.a.toNat).toNat)
  | .store a => (s, s.sRead s.who a (2 * (r.k.toNat % 16 + 1)))
  | .global a => s.gRead s.who needR a (2 * (r.k.toNat % 16 + 1))

/-- The effect of an `nb.prog`. -/
def nbProgEnd (r : An) (s : State) : WordEnd :=
  if (s.getA 0 r.a.toNat).getLsbD 0 then .trap causeIll 0
  else State.aGot (progAccess r s) (s.getA 0 r.a.toNat).toNat (2 * (r.k.toNat % 16 + 1)) (fun _ => .prog (r.k.toNat % 16 + 1))
    (fun t o => t.takeProg (r.k.toNat % 16 + 1) (t.mgmtRead o (2 * (r.k.toNat % 16 + 1))))
    (fun t bs => t.takeProg (r.k.toNat % 16 + 1) bs)

theorem nbProg_acts (r : An) : ActsA r.l r.f [r.a.toNat] false (nbProgEnd r) (.nbProg r) := fun _ => rfl

theorem progAccess_ok {r : An} {s t : State} {a : Nat} {bs : List Byte}
    (h : (engAddr (s.getA 0 r.a.toNat) = .store a ∧ t = s ∧ s.sRead s.who a (2 * (r.k.toNat % 16 + 1)) = .ok bs) ∨
      (engAddr (s.getA 0 r.a.toNat) = .global a ∧ s.gRead s.who needR a (2 * (r.k.toNat % 16 + 1)) = (t, .ok bs))) :
    progAccess r s = (t, .ok bs) := by
  obtain ⟨he, rfl, hs⟩ | ⟨he, hg⟩ := h
  · simp only [progAccess, he, hs]
  · simp only [progAccess, he, hg]

/-- The halfwords of a program of `n` microinstructions. -/
def halfwords (n : Nat) (bs : List Byte) : List (BitVec 16) :=
  (List.range n).map (fun i => BitVec.ofNat 16 (ofBytes ((bs.drop (2 * i)).take 2)))

section

variable {t : State} {n : Nat} {bs : List Byte}

theorem takeProg_ok (h : ∀ w ∈ halfwords n bs, microOk w = true) :
    t.takeProg n bs = .done { t with core := { t.core with nbprog := halfwords n bs } } :=
  if_pos (List.all_eq_true.mpr h)

theorem takeProg_ill (h : ∃ w ∈ halfwords n bs, microOk w = false) : t.takeProg n bs = .trap causeIll 0 := by
  obtain ⟨w, hw, hm⟩ := h
  exact if_neg fun ha => Bool.false_ne_true (hm.symm.trans (List.all_eq_true.mp ha w hw))

end

theorem nbProgEnd_takes {r : An} {s t : State} {bs : List Byte} (he : (s.getA 0 r.a.toNat).getLsbD 0 = false)
    (h : progAccess r s = (t, .ok bs)) : nbProgEnd r s = t.takeProg (r.k.toNat % 16 + 1) bs := by
  rw [nbProgEnd, he, h]
  rfl

/-- Settles O49, word by word: a descriptor that is read decides what a collective's word does, and a near-bank query looks at the unit
of its bank. -/
theorem collectiveAndNearBankQueryWordsAct : Obligations.CollectiveAndNearBankQueryWordsAct := by
  refine ⟨fun p hp r s t v hr hd => ?coll, fun r s t v hr hd => ?abort, fun r s t v hr hd => ?att, fun r s hr => ?fence,
    fun r s t pa ty hr => ?stat, fun r s t bs a hr => ?prog⟩
  case coll =>
    have acts := collForms_act p hp r
    have hend : collEnd p.2 r s = _ := readDesc_described hd _
    intro reach rect device group tag bad part c e
    have hty : part = descPart p.2 r t v := by
      simp only [part, descPart, group, reach, device, rect, groupKey, BitVec.extractLsb'_toNat]
      rfl
    refine ⟨fun hb => acts.trap hr (hend.trans (if_pos (collBad_iff.mp hb))),
      fun hb hf => acts.wait hr ?_, fun hb hf => acts.done hr ?_⟩
    · exact hend.trans ((if_neg (mt collBad_iff.mpr hb)).trans (pushCmd_full hf))
    · exact hend.trans ((if_neg (mt collBad_iff.mpr hb)).trans (hty ▸ pushCmd_room hf))
  case abort => exact (collAbort_acts r).done hr (readDesc_described hd _)
  case att => exact (collAtt_acts r).done hr (readDesc_described hd _)
  case fence =>
    exact ⟨fun h => (nbFence_acts r).wait hr (if_pos (nearHere_any.mpr h)), fun h => (nbFence_acts r).done hr (if_neg (mt nearHere_any.mp h))⟩
  case stat =>
    refine ⟨fun h => (nbStat_acts r).done hr ?_, fun h => (nbStat_acts r).trap hr ?_, fun h => (nbStat_acts r).trap hr ?_,
      fun h => (nbStat_acts r).trap hr ?_⟩ <;> rw [nbStatEnd, h]
  case prog =>
    refine ⟨fun he => (nbProg_acts r).trap hr (if_pos he), fun he ho => ?_⟩
    have hend := nbProgEnd_takes he (progAccess_ok ho)
    exact ⟨fun h => (nbProg_acts r).done hr (hend.trans (takeProg_ok h)), fun h => (nbProg_acts r).trap hr (hend.trans (takeProg_ill h))⟩

end Sys2Proof.Proofs
end

section
/-! Engine commands: segments, fix-up lists, completions and the forwarding of near-bank items (08 R205-R210, R214, R221; 09 R227,
R232). -/

namespace Sys2Proof.Proofs

open Sys2Proof.Machine Sys2Proof.Claims Sys2Proof.Laws

/-! ### Commands by their number -/

theorem cmd_id {s : State} {k : Nat} {c : EngCmd} (h : s.cmd k = some c) : c.id = k := by
  have hp := List.find?_some (p := fun x : EngCmd => decide (x.id = k)) h
  exact of_decide_eq_true hp

/-! ### One segment (08 R205, R210) -/

/-- What performing a segment comes to. -/
def segAct (s : State) (c : EngCmd) (g : Seg) : State × EngRes :=
  match c.kind with
  | .cp | .mcast => s.copySeg c g
  | .gat | .sct => s.elemSeg c g
  | _ => if g.len = 0 then s.kvStart c else s.kvRow c g

theorem segment_eq {s : State} {c : EngCmd} {i : Nat} {g : Seg} (h : c.segs[i]? = some g) :
    s.segment c i = (segAct s c g).1.segEnd c i g (segAct s c g).2 := by
  simp only [State.segment, h]
  rfl

theorem segAct_copy {s : State} {c : EngCmd} {g : Seg} (h : c.kind = .cp ∨ c.kind = .mcast) : segAct s c g = s.copySeg c g := by
  obtain h | h := h <;> rw [segAct, h]

theorem segAct_elem {s : State} {c : EngCmd} {g : Seg} (h : c.kind = .gat ∨ c.kind = .sct) : segAct s c g = s.elemSeg c g := by
  obtain h | h := h <;> rw [segAct, h]

theorem segAct_rows {s : State} {c : EngCmd} {g : Seg} (h : c.kind = .kvg ∨ c.kind = .kva) (hl : g.len ≠ 0) :
    segAct s c g = s.kvRow c g := by
  obtain h | h := h <;> simp only [segAct, h, if_neg hl]

theorem copySeg_source {s : State} {c : EngCmd} {g : Seg} (h : sameSpace c.src g.src = false) :
    s.copySeg c g = (s, .viol g.src.toNat) := by
  rw [State.copySeg, h]
  rfl

section

variable {s u v : State} {c : EngCmd} {g : Seg} {rs rd : List (Loc × Nat)} (h : sameSpace c.src g.src = true ∧ sameSpace c.dst g.dst = true)

include h

theorem copySeg_move : s.copySeg c g =
    s.move (s.cmdWho c c.pos) (s.cmdWho c g.pos) g.dst g.src g.len 0 (allWords c.dst c.src c.length) (s.clash c) := by
  rw [State.copySeg, h.1, h.2]
  rfl

/-- A source that is not reached decides the outcome. -/
theorem copySeg_stops {o : Got (List (Loc × Nat))} (hs : s.runs (s.cmdWho c c.pos) needR g.src g.len = (u, o)) (ho : ∀ rs, o ≠ .ok rs) :
    s.copySeg c g = (u, o.res) := by
  rw [copySeg_move h, State.move, hs]
  cases o with
  | ok rs => exact absurd rfl (ho rs)
  | _ => rfl

/-- A copy of check words whose operands are reached and apart. -/
theorem copySeg_words (hs : s.runs (s.cmdWho c c.pos) needR g.src g.len = (u, .ok rs))
    (hd : u.runs (s.cmdWho c g.pos) needW g.dst g.len = (v, .ok rd)) (hw : allWords c.dst c.src c.length = true) (hc : s.clash c = false)
    (hm : runsMeet rs rd = false) :
    s.copySeg c g = (v.putWords rd (rs.zipIdx.flatMap (fun r => v.runWords (2 ^ 20 * r.2) r.1)), .done) := by
  have hm' : (rs.any fun a => rd.any fun b => Loc.meets a b) = false := hm
  simp only [copySeg_move h, State.move, hs, Nat.add_zero, hd, hw, hc, State.moveRuns, hm', Bool.or_false, if_true,
    Bool.false_eq_true, if_false]

end

/-! ### What an outcome leaves of its command -/

theorem segEnd_done {t : State} {c : EngCmd} {i : Nat} {g : Seg} (h : ∀ x ∈ c.strike, x.1 ≠ g) :
    t.segEnd c i g .done = t.updCmd c.id (segDone i g) := by
  have hs : c.strike.filter (fun x => decide (x.1 = g)) = [] := List.filter_eq_nil_iff.mpr fun x hx => by simp [h x hx]
  rw [State.segEnd, hs]
  rfl

theorem segEnd_fix {t : State} {c : EngCmd} {i : Nat} {g : Seg} {p : Option Nat} (h : c.fixups.length < 32) :
    t.segEnd c i g (.fix p) = (t.updCmd c.id (segFix i g p)).sample (t.whoOf c.slot 0).dom 8 (c.fixups.length + 1) := if_pos h

/-! ### The steps of a command -/

section

variable {s : State} {k i : Nat} {c : EngCmd} (h : s.cmd k = some c)

include h

theorem engineSegment_eq : exec (.engineSegment k i) s = .next
    (if c.frozen.isSome ∨ s.quiesced ∨ c.kind.nearBank ∨ (c.kind = .kvg ∧ i ≠ 0) then s else s.segment c i) := by
  refine congrArg Host.Outcome.next ?_
  simp only [h]

theorem engineSegment_holds (hf : c.frozen.isSome ∨ s.quiesced ∨ c.kind.nearBank ∨ (c.kind = .kvg ∧ i ≠ 0)) :
    exec (.engineSegment k i) s = .next s := by
  rw [engineSegment_eq h, if_pos hf]

theorem engineSegment_acts {g : Seg} (hf : c.frozen = none) (hq : s.quiesced = false) (hg : c.segs[i]? = some g)
    (hk : ¬ (c.kind.nearBank = true ∨ (c.kind = .kvg ∧ i ≠ 0))) :
    exec (.engineSegment k i) s = .next ((segAct s c g).1.segEnd c i g (segAct s c g).2) := by
  rw [engineSegment_eq h, segment_eq hg, if_neg]
  simpa [hf, hq] using hk

theorem fixupReplay_eq {f : Fixup} {q : Nat} (hf : c.fixups[i]? = some f) (hq : f.promote = some q) :
    exec (.fixupReplay k i) s = .next
      (if c.frozen.isNone ∧ !s.quiesced ∧ eTier (s.dirEntry q) ≤ 1 ∧ !eMoving (s.dirEntry q) then
        (s.updCmd k (fun _ => fixBack i f.seg c)).segment (fixBack i f.seg c) 0
      else s) := by
  refine congrArg Host.Outcome.next ?_
  simp only [h, hf, hq]
  rfl

theorem fixupReplay_holds (hf : c.frozen ≠ none ∨ s.quiesced = true) : exec (.fixupReplay k i) s = .next s := by
  cases hx : c.fixups[i]? with
  | none =>
    refine congrArg Host.Outcome.next ?_
    simp only [h, hx]
  | some f =>
    cases hq : f.promote with
    | none =>
      refine congrArg Host.Outcome.next ?_
      simp only [h, hx, hq]
    | some q =>
      rw [fixupReplay_eq h hx hq, if_neg]
      rintro ⟨hn, hr, -⟩
      obtain hf | hf := hf
      · exact hf (Option.isNone_iff_eq_none.mp hn)
      · rw [hf] at hr
        cases hr

theorem fixupFail_lost {f : Fixup} (hf : c.fixups[i]? = some f) (hn : c.frozen = none) (hp : f.promote = none) :
    exec (.fixupFail k i) s = .next (s.updCmd k (fixLost i)) := by
  refine congrArg Host.Outcome.next ?_
  simp only [h, hf, hn, hp, Option.isSome_none, Bool.false_eq_true, or_self, if_false]
  rfl

/-! ### Completion (08 R206) -/

theorem engineCommandComplete_holds (hr : c.ready = false) : exec (.engineCommandComplete k) s = .next s := by
  refine congrArg Host.Outcome.next ?_
  simp only [h, hr]
  rfl

theorem engineCommandComplete_posts (hr : c.ready = true) (hk : c.kind ≠ .kva) (hf : c.flags = 0) (hc : c.coll = none) :
    exec (.engineCommandComplete k) s = .next (s.finishCmd c) := by
  have hl : s.lastAct c = (s, .done) := if_neg (fun hkva => hk hkva.1)
  refine congrArg Host.Outcome.next ?_
  simp only [h, hr, hl, hf, hc]
  rfl

theorem nbInvalidationDone_eq (hs : c.segs = []) (hf : c.fixups = []) (hi : c.items = 0) :
    exec (.nbInvalidationDone k) s = .next (s.updCmd k (fun c => { c with invalid := false })) := by
  refine congrArg Host.Outcome.next ?_
  simp only [h, hs, hf, hi]
  rfl

/-! ### Forwarding (09 R227) -/

/-- The near-bank rows of the stream of `c` that wait to be forwarded, in push order. -/
theorem nbItemForward_eq (hf : c.frozen = none) (hq : s.quiesced = false) (hn : c.kind.nearBank = true) :
    exec (.nbItemForward k) s = .next (s.forwardFrom k []
      ((s.cmds.filter (fun e => e.kind.nearBank && e.sameStream c && e.frozen.isNone)).flatMap
        (fun e => (List.range e.segs.length).map (fun j => (e, j))))) := by
  refine congrArg Host.Outcome.next ?_
  simp [h, hf, hq, hn]

theorem nbItemForward_holds (hf : c.frozen ≠ none ∨ s.quiesced = true) : exec (.nbItemForward k) s = .next s := by
  refine congrArg Host.Outcome.next ?_
  simp only [h]
  refine if_pos (hf.imp Option.ne_none_iff_isSome.mp .inl)

end

section

variable {s t : State} {k j : Nat} {c : EngCmd} {g : Seg} {more : List Seg} {it : NbItem} {copies : Bool} {full : List Nat}
  {rest : List (EngCmd × Nat)} (hg : c.segs.drop j = g :: more) (hi : s.nbItem c g more = (t, .ok (it, copies)))

include hg hi

/-- An item bound for a full queue lets the later ones pass. -/
theorem forwardFrom_full (hl : 8 ≤ (s.nbUnit (bankOf it.dst)).queue.length) :
    s.forwardFrom k full ((c, j) :: rest) = s.forwardFrom k (bankOf it.dst :: full) rest := by
  simp only [State.forwardFrom, hg, hi, if_pos hl]

/-- One whose rows lie in one bank with room goes there. -/
theorem forwardFrom_room (hl : (s.nbUnit (bankOf it.dst)).queue.length < 8) (hk : c.id = k) (hb : bankOf it.src = bankOf it.dst) :
    s.forwardFrom k full ((c, j) :: rest) = t.enqueue c j it copies := by
  simp only [State.forwardFrom, hg, hi, if_neg (Nat.not_le.mpr hl), hk, hb, ne_eq, not_true_eq_false, false_and, or_self, if_false]

end

/-- The rows of the oldest command come first. -/
theorem rows_of_head {l : List EngCmd} {c : EngCmd} (h : l.head? = some c) :
    ∃ rest, l.flatMap (fun e => (List.range e.segs.length).map (fun j => (e, j))) =
      (List.range c.segs.length).map (fun j => (c, j)) ++ rest := by
  obtain ⟨l', rfl⟩ := List.head?_eq_some_iff.mp h
  exact ⟨_, List.flatMap_cons⟩

theorem rows_cons {c : EngCmd} {n : Nat} : (List.range (n + 1)).map (fun j => (c, j)) =
    (c, 0) :: (List.range n).map (fun j => (c, j + 1)) := by
  rw [List.range_succ_eq_map, List.map_cons, List.map_map]
  rfl

/-- Settles O52: a segment's outcome decides what is left of its command, and a command that waits for nothing posts its completion. -/
theorem engineCommandsMoveTheirSegments : Obligations.EngineCommandsMoveTheirSegments := by
  refine ⟨fun s k i c g h hf hq hg => ?segment, fun s k i c h hf => ?frozen, fun s k j q c f h hx hf hq hp => ?replay,
    fun s k j c f h hx hf hp => fixupFail_lost h hx hf hp, fun s k c h => ?complete, fun s k c h hs hx hi => nbInvalidationDone_eq h hs hx hi,
    fun s t k c g r it copies h hf hq hn hg hm hi => ?forward⟩
  case segment =>
    have hcopy (hk : c.kind = .cp ∨ c.kind = .mcast) : exec (.engineSegment k i) s =
        .next ((s.copySeg c g).1.segEnd c i g (s.copySeg c g).2) := by
      rw [engineSegment_acts h hf hq hg (by obtain hk | hk := hk <;> simp [hk, EngKind.nearBank]), segAct_copy hk]
    refine ⟨fun hk hsame u v rs rd hs hd hst hw hc hm => ?_, fun hk hsame u a hs hl => ?_, fun hk hsame u a hs => ?_, fun hk hsp => ?_,
      fun hk => ?_, fun hk hl hi => ?_, fun hk hi => ?_, fun hk => ?_⟩
    · rw [hcopy hk, copySeg_words hsame hs hd hw hc hm, segEnd_done hst]
    · rw [hcopy hk, copySeg_stops hsame hs (fun _ => nofun)]
      exact congrArg Host.Outcome.next (segEnd_fix hl)
    · rw [hcopy hk, copySeg_stops hsame hs (fun _ => nofun)]
      rfl
    · rw [hcopy hk, copySeg_source hsp]
      rfl
    · rw [engineSegment_acts h hf hq hg (by obtain hk | hk := hk <;> simp [hk, EngKind.nearBank]), segAct_elem hk]
    · rw [engineSegment_acts h hf hq hg ?_, segAct_rows hk hl]
      obtain hi | rfl := hi
      · simp [hi, EngKind.nearBank]
      · obtain hk | hk := hk <;> simp [hk, EngKind.nearBank]
    · exact engineSegment_holds h (.inr (.inr (.inr ⟨hk, hi⟩)))
    · exact engineSegment_holds h (.inr (.inr (.inl hk)))
  case frozen =>
    exact ⟨engineSegment_holds h (hf.imp Option.ne_none_iff_isSome.mp .inl), fixupReplay_holds h hf, nbItemForward_holds h hf⟩
  case replay =>
    rw [fixupReplay_eq h hx hp]
    refine ⟨fun ht hm => by rw [if_pos (by simp [hf, hq, ht, hm])], fun hb => congrArg Host.Outcome.next (if_neg ?_)⟩
    rintro ⟨-, -, ht, hm⟩
    obtain hb | hb := hb
    · omega
    · rw [hb] at hm
      cases hm
  case complete =>
    refine ⟨engineCommandComplete_holds h, fun hr hk hfl hc => ⟨_, engineCommandComplete_posts h hr hk hfl hc, ?_, rfl, rfl, rfl, rfl⟩⟩
    exact tget_tset_same _ _ _
  case forward =>
    obtain ⟨rest, hrows⟩ := rows_of_head hm
    rw [nbItemForward_eq h hf hq hn, hrows, hg, List.length_cons, rows_cons]
    refine ⟨fun hl hb => congrArg Host.Outcome.next (forwardFrom_room (j := 0) hg hi hl (cmd_id h) hb), fun u g' q jt more hl hr hj hl' hb => ?_⟩
    subst hr
    rw [List.cons_append, forwardFrom_full (j := 0) hg hi hl, List.length_cons, List.range_succ_eq_map]
    exact congrArg Host.Outcome.next (forwardFrom_room (j := 1) (by rw [hg]; rfl) hj hl' (cmd_id h) hb)

end Sys2Proof.Proofs
end

section
/-! Other packages, collectives, scrubber, checker, watchdogs, images and bring-up (08 R220, R221; 12 R321, R322; 13 R338-R349; 14 R357,
R363). -/

namespace Sys2Proof.Proofs

open Sys2Proof.Machine Sys2Proof.Claims Sys2Proof.Laws

/-! ### Requests of other packages (14 R357; 13 R347) -/

section

variable {s : State} {src a n : Nat} {bs : List Byte} {q : RemoteReq}

theorem remoteRequest_early (h : s.ready = false) : exec (.remoteRequest src q) s = .next s := by
  refine congrArg Host.Outcome.next ?_
  rw [h]
  rfl

theorem remoteRequest_busy (hr : s.ready = true) (hq : s.quiesced = true) : exec (.remoteRequest src q) s = .next (s.replying .busy) := by
  refine congrArg Host.Outcome.next ?_
  rw [hr, hq]
  rfl

variable (hr : s.ready = true) (hq : s.quiesced = false)

include hr hq

theorem remoteRequest_read : exec (.remoteRequest src (.read a n)) s = .next (if s.exported src a n true false then
    (s.note a n).replying (.words (s.mem.words (a / 8 * 8) ((a + n + 7) / 8 - a / 8))) else s.replying .refused) := by
  refine congrArg Host.Outcome.next ?_
  rw [hr, hq]
  rfl

theorem remoteRequest_write : exec (.remoteRequest src (.write a bs)) s = .next (if s.exported src a bs.length false true then
    (match (s.postMerge 4 s.mem 0 a bs.length).physStore a bs with
      | .ok t => (t.note a bs.length).replying .done
      | .error x => (s.hostEvent x).replying .done)
    else s.replying .refused) := by
  refine congrArg Host.Outcome.next ?_
  rw [hr, hq]
  rfl

theorem remoteRequest_writeWords {ws : List CodedWord} : exec (.remoteRequest src (.writeWords a ws)) s = .next
    (if a % 8 = 0 ∧ s.exported src a (8 * ws.length) false true then
      ((s.physSetWords a (ws.map CWord.coded)).note a (8 * ws.length)).replying .done
    else s.replying .refused) := by
  refine congrArg Host.Outcome.next ?_
  rw [hr, hq]
  rfl

end

/-- The record of a request that is performed with the outcome `o`. -/
def ramoRecord (src : Nat) (q : RamoReq) (t : State) (o : AmoOut) : Dedup :=
  { src := src, id := q.id, wide := q.wide, old := amoExt (aAmoType q.op (if q.wide then 1 else 0)) o.res, ends := t.ptp + 64000 }

/-- An atomic of another package without a live record (08 R220). -/
def ramoFresh (src : Nat) (q : RamoReq) (s : State) : State :=
  let ty := aAmoType q.op (if q.wide then 1 else 0)
  if !s.ready then s
  else if q.retry then s.replying (.ramo .indet)
  else if s.quiesced ∨ 65536 ≤ s.dedup.length then s.replying (.ramo .busy)
  else if !s.exported src q.addr (tyWidth ty / 8) true true then s.replying (.ramo .refused)
  else match s.atomicAt 4 q.addr q.op ty q.b.toNat 0 with
    | (t, .ok o) =>
      ({ t with dedup := t.dedup ++ [ramoRecord src q t o] } : State).replying (.ramo (.performed (amoExt ty o.res)))
    | (t, .data a) => (t.hostEvent a).replying (.ramo .indet)
    | (t, _) => t.replying (.ramo .refused)

theorem ramoRequest_eq (src : Nat) (q : RamoReq) (s : State) : exec (.ramoRequest src q) s = .next (match recorded s src q.id with
    | some d => s.replying (.ramo (.earlier d.old))
    | none => ramoFresh src q s) := rfl

section

variable {s : State} {src : Nat} {q : RamoReq}

theorem ramoFresh_early (h : s.ready = false) : ramoFresh src q s = s := by
  rw [ramoFresh, h]
  rfl

variable (hr : s.ready = true)

include hr

theorem ramoFresh_retry (h : q.retry = true) : ramoFresh src q s = s.replying (.ramo .indet) := by
  rw [ramoFresh, hr, h]
  rfl

variable (hf : q.retry = false)

include hf

theorem ramoFresh_busy (h : s.quiesced = true ∨ 65536 ≤ s.dedup.length) : ramoFresh src q s = s.replying (.ramo .busy) := by
  rw [ramoFresh, hr, hf]
  exact if_pos h

variable (hq : s.quiesced = false) (hl : s.dedup.length < 65536)

include hq hl

theorem ramoFresh_refused (he : s.exported src q.addr (tyWidth (aAmoType q.op (if q.wide then 1 else 0)) / 8) true true = false) :
    ramoFresh src q s = s.replying (.ramo .refused) := by
  simp only [ramoFresh, hr, hf, hq, Nat.not_le.mpr hl, he]
  rfl

theorem ramoFresh_performs (he : s.exported src q.addr (tyWidth (aAmoType q.op (if q.wide then 1 else 0)) / 8) true true = true) {t : State}
    {o : AmoOut} (ho : s.atomicAt 4 q.addr q.op (aAmoType q.op (if q.wide then 1 else 0)) q.b.toNat 0 = (t, .ok o)) :
    ramoFresh src q s = ({ t with dedup := t.dedup ++ [ramoRecord src q t o] } : State).replying
      (.ramo (.performed (amoExt (aAmoType q.op (if q.wide then 1 else 0)) o.res))) := by
  simp only [ramoFresh, hr, hf, hq, Nat.not_le.mpr hl, he, ho]
  rfl

end

/-! ### Remote atomics of this package (08 R220) -/

@[simp] theorem sample_core (s : State) (d i v : Nat) : (s.sample d i v).core = s.core := by
  unfold State.sample
  split <;> rfl

theorem updCore_here {s : State} {slot pos : Nat} (hc : s.core.ctx = some slot) (hp : s.core.pos = pos) (f : Core → Core) :
    s.updCore slot pos f = { s with core := f s.core } := by
  have h : s.placedAt slot pos = some s.here := if_pos ⟨hc, hp⟩
  simp only [State.updCore, h, State.setCoreAt, State.coreAt, if_true]

/-- The flags that a remote atomic raises in its stream: none where it is not known to have been performed. -/
def ramoFlags (o : RamoOut) (v : Word) (st : Nat) : Flags :=
  if st = 2 then 0 else
    (amoApply o.op (aAmoType o.op (if o.wide then 1 else 0)) (v.toNat % 2 ^ tyWidth (aAmoType o.op (if o.wide then 1 else 0)))
      (o.b.toNat % 2 ^ tyWidth (aAmoType o.op (if o.wide then 1 else 0))) 0).flags

theorem ramoEnd_core {s : State} {o : RamoOut} {v : Word} {st : Nat} (hc : s.core.ctx = some o.slot) (hp : s.core.pos = o.pos) :
    (s.ramoEnd o v st).core =
      ((if o.d = 0 then s.core else s.core.lateA o.d v).lateA (o.d + 1) (BitVec.ofNat 64 st)).orFlags true (ramoFlags o v st) := by
  unfold State.ramoEnd
  rw [sample_core, updCore_here (s := { s with ramos := s.ramos.filter (fun x => decide (x.id ≠ o.id)) }) hc hp]
  rfl

theorem ramoEnd_a {s : State} {o : RamoOut} {v : Word} {st : Nat} (hc : s.core.ctx = some o.slot) (hp : s.core.pos = o.pos) :
    (s.ramoEnd o v st).core.a = (if o.d = 0 then s.core.a else s.core.a.put o.d v).put (o.d + 1) (BitVec.ofNat 64 st) := by
  rw [ramoEnd_core hc hp]
  split <;> rfl

theorem ramoEnd_aflags {s : State} {o : RamoOut} {v : Word} {st : Nat} (hc : s.core.ctx = some o.slot) (hp : s.core.pos = o.pos) :
    (s.ramoEnd o v st).core.aflags = s.core.aflags ||| ramoFlags o v st := by
  rw [ramoEnd_core hc hp]
  split <;> rfl

section

variable {s : State} {k : Nat} {o : RamoOut} (h : s.ramo k = some o)

include h

theorem ramoRetryTimeout_eq : exec (.ramoRetryTimeout k) s = .next (if o.busy ∨ s.ptp < o.last + 8000 then s
    else if o.sends < 8 then s.updRamo k (resent s) else s.ramoEnd o 0 2) := by
  refine congrArg Host.Outcome.next ?_
  simp only [h]
  rfl

theorem busyRetryTimer_eq : exec (.busyRetryTimer k) s = .next (if !o.busy ∨ s.ptp < o.last + 2000 then s
    else if o.first + 64000 ≤ s.ptp then s.ramoEnd o 0 2
    else s.updRamo k (fun o => { o with busy := false, retry := false, last := s.ptp })) := by
  refine congrArg Host.Outcome.next ?_
  simp only [h]

theorem ramoResponse_ends (v : Word) : exec (.ramoResponse k (.performed v)) s = .next (s.ramoEnd o v 0) ∧
    exec (.ramoResponse k (.earlier v)) s = .next (s.ramoEnd o v 1) ∧ exec (.ramoResponse k .indet) s = .next (s.ramoEnd o 0 2) ∧
    exec (.ramoResponse k .busy) s = .next (s.updRamo k (fun o => { o with busy := true, last := s.ptp })) := by
  refine ⟨congrArg Host.Outcome.next ?_, congrArg Host.Outcome.next ?_, congrArg Host.Outcome.next ?_, congrArg Host.Outcome.next ?_⟩ <;> simp only [h]

end

theorem dedupRecordExpiry_eq {s : State} {i : Nat} {d : Dedup} (h : s.dedup[i]? = some d) :
    exec (.dedupRecordExpiry i) s = .next (if d.ends ≤ s.ptp then { s with dedup := s.dedup.eraseIdx i } else s) := by
  refine congrArg Host.Outcome.next ?_
  simp only [h]

/-! ### Collectives (08 R221; 13 R345, R346) -/

/-- The close of an attempt is sent to its members. -/
def closeSent (s : State) (slot group attempt : Nat) : State :=
  { s with cmds := s.cmds.map (fun (x : EngCmd) =>
    if x.inAttempt slot group attempt then { x with coll := x.coll.map (fun (q : CollPart) => { q with sent := true }) } else x) }

section

variable {s : State} {k rank attempt : Nat} {data : List CodedWord} {c : EngCmd} {p : CollPart} (h : s.cmd k = some c) (hp : c.coll = some p)

include h hp

theorem contributionToken_discarded (hd : p.attempt ≠ attempt ∨ attempt ≤ s.highest c.slot p.group ∨ c.err = true) :
    exec (.contributionToken k rank attempt data) s = .next s := by
  refine congrArg Host.Outcome.next ?_
  simp only [h, hp]
  refine if_pos ?_
  tauto

theorem contributionToken_away (ha : p.attempt = attempt) (hs : s.highest c.slot p.group < attempt) (he : c.err = false) (hf : c.frozen = none)
    (hc : p.closed = false) (hrk : rank < p.size) (hr : p.reach = true) (hn : rank ≠ p.rank) (hl : data.length = (p.bytes + 7) / 8) :
    exec (.contributionToken k rank attempt data) s = .next (s.collTake c rank (data.map CWord.coded)) := by
  refine congrArg Host.Outcome.next ?_
  simp only [h, hp]
  rw [if_neg (by simp [ha, he, hf, hc, hs, hrk]), if_pos ⟨hr, hn⟩, if_pos hl]

theorem closeToken_discarded (hd : p.attempt ≠ attempt ∨ c.err = true ∨ p.closed = true) : exec (.closeToken k attempt) s = .next s := by
  refine congrArg Host.Outcome.next ?_
  simp only [h, hp]
  refine if_pos ?_
  tauto

theorem colltoExpiry_eq : exec (.colltoExpiry k) s = .next
    (if !c.err && !p.closed && decide (p.since + 10000000 ≤ s.ptp) then s.collAbort c.slot p.group p.attempt else s) := by
  refine congrArg Host.Outcome.next ?_
  simp only [h, hp]

variable (ha : p.attempt = attempt) (he : c.err = false) (hf : c.frozen = none) (hc : p.closed = false)

include ha he hf hc

theorem closeToken_writes (hs : p.sent = true) : exec (.closeToken k attempt) s = .next (s.collWrite c p) := by
  refine congrArg Host.Outcome.next ?_
  simp [h, hp, ha, he, hf, hc, hs]

variable (hs : p.sent = false)

include hs

theorem closeToken_waits (hg : s.collAgreed c p = false) : exec (.closeToken k attempt) s = .next s := by
  refine congrArg Host.Outcome.next ?_
  simp [h, hp, ha, he, hf, hc, hs, hg]

theorem closeToken_closes (hg : s.collAgreed c p = true) (hb : s.collBlocked (s.collMembers c p) = none) :
    exec (.closeToken k attempt) s =
      .next (((closeSent s c.slot p.group attempt).settleAttempt c.slot p.group attempt).collWrite c p) := by
  refine congrArg Host.Outcome.next ?_
  simp only [h, hp, ha, he, hf, hc, hs, hg, hb, Option.isSome_none, Bool.false_eq_true, ne_eq, not_true_eq_false, or_self, Bool.not_true, if_false]
  rfl

end

theorem collAbort_settled {s : State} {slot group attempt : Nat} (h : attempt ≤ s.highest slot group) : s.collAbort slot group attempt = s :=
  if_pos (.inl h)

theorem abortToken_named {s : State} {slot group attempt : Nat} (h : group < 2 ^ 33) :
    exec (.abortToken (slot * 2 ^ 33 + group) attempt) s = .next (s.collAbort slot group attempt) := by
  have hslot : (slot * 2 ^ 33 + group) / 2 ^ 33 = slot := by omega
  have hgroup : (slot * 2 ^ 33 + group) % 2 ^ 33 = group := by omega
  refine congrArg Host.Outcome.next ?_
  rw [hslot, hgroup]

/-! ### The scrubber (13 R342-R344) -/

theorem syndromeFix_poison : syndromeFix 0xFF = none := by decide

section

variable {s : State} {a : Nat} {directed : Bool}

theorem scrubRead_skips (h : (s.scrubWord a).syn = 0 ∨ (s.scrubWord a).syn = 0xFF ∨ scrubs a = false) : s.scrubRead a directed = s := by
  rw [State.scrubRead, if_pos]
  simp only [Bool.or_eq_true, Bool.not_eq_true', decide_eq_true_eq]
  tauto

theorem scrubRead_tags (ha : scrubs a = true) (hz : (s.scrubWord a).syn ≠ 0) (hf : (syndromeFix (s.scrubWord a).syn).isSome = true) :
    s.scrubRead a directed = { s with scrubTags := tset s.scrubTags (a / 8) (s.scrubWord a, directed) } := by
  have hp : (s.scrubWord a).syn ≠ 0xFF := fun h => by rw [h, syndromeFix_poison] at hf; cases hf
  obtain ⟨m, hm⟩ := Option.isSome_iff_exists.mp hf
  rw [State.scrubRead, if_neg (by simpa [ha] using ⟨hz, hp⟩), hm]

end

theorem directedScrub_none {s : State} (h : s.directed = []) : exec .directedScrub s = .next s := by
  refine congrArg Host.Outcome.next ?_
  simp only [h]

theorem directedScrub_next {s : State} {b : Nat} {r : List Nat} (h : s.directed = b :: r) :
    exec .directedScrub s = .next (({ s with directed := r } : State).scrubRead b true) := by
  refine congrArg Host.Outcome.next ?_
  simp only [h]

theorem scrubWriteBack_none {s : State} {w : Nat} (h : tget s.scrubTags w = none) : exec (.scrubWriteBack w) s = .next s := by
  refine congrArg Host.Outcome.next ?_
  simp only [h]

theorem scrubWriteBack_patrol {s : State} {w : Nat} {c : CWord} {v : Word} (h : tget s.scrubTags w = some (c, false)) (hv : c.use = some v) :
    exec (.scrubWriteBack w) s = .next (if ({ s with scrubTags := tdel s.scrubTags w } : State).scrubWord (8 * w) = c then
      ({ s with scrubTags := tdel s.scrubTags w } : State).scrubSet (8 * w) (CWord.good v)
    else { s with scrubTags := tdel s.scrubTags w }) := by
  refine congrArg Host.Outcome.next ?_
  simp only [h, hv]
  rfl

/-! ### The checker and the watchdogs (13 R338-R341) -/

section

variable {s : State} {b second : Bool}

theorem checkerMismatch_no_step (h : s.core.issuing b = false ∨ s.item b = none ∨ second ≠ s.core.doubts b) :
    exec (.checkerMismatch b second) s = .next s := by
  refine congrArg Host.Outcome.next ?_
  split
  · rfl
  · rename_i hn
    simp only [Bool.or_eq_true, Bool.not_eq_true', bne_iff_ne, not_or, Bool.not_eq_false, not_not] at hn
    have hi : s.item b = none := by
      obtain h | h | h := h
      · exact absurd (hn.1.symm.trans h) (by decide)
      · exact h
      · exact absurd hn.2 h
    rw [hi]

theorem checkerMismatch_item {t : State} (hs : s.core.issuing b = true) (ht : s.item b = some t) :
    exec (.checkerMismatch b (s.core.doubts b)) s = .next (if s.core.doubts b then
      ((t.coreRecord 4).raiseLeave b (.fault causeCheck) 0 0).withdrawCore s.here else { s.coreRecord 4 with core := s.core.doubt b }) := by
  refine congrArg Host.Outcome.next ?_
  rw [hs, bne_self_eq_false, ht]
  rfl

end

theorem stackedMore_ok {k j : Nat} {r : Stacked} {d : Core} (h : Stacked.more k r = .ok (d, j)) : ∃ n, r = .ok (d, n) := by
  cases r with
  | error z => cases h
  | ok p =>
    cases h
    exact ⟨_, rfl⟩

/-- A word that completes is no longer in doubt (13 R339). -/
theorem complete_xdoubt {m : Memory} {n j : Nat} {c d : Core} (h : Core.complete m n c = .ok (d, j)) : d.xdoubt = false := by
  rw [loopStep_frame _ _ _ _ _ _ h]

theorem watchdogFiring_no_step {s : State} {what : Watchdog} {second : Bool} (h : second ≠ s.dogFired what) :
    exec (.watchdogFiring what second) s = .next s :=
  congrArg Host.Outcome.next (if_pos (bne_iff_ne.mpr h))

theorem watchdogFiring_lane {s : State} {e : LaneEngine} {w a : Word} (h : s.core.atWork e = some (w, a)) :
    let t := (s.toMarker e).coreRecord 7
    let u : State := { t with core := t.core.setDog e (!s.core.dog e) }
    exec (.watchdogFiring (.lane e) (s.core.dog e)) s =
      .next (if s.core.dog e then ((u.freezeHead e).engineAsk w a causeWdog 0 0).withdrawCore s.here else u) := by
  intro t u
  refine congrArg Host.Outcome.next ?_
  rw [State.dogFired, bne_self_eq_false]
  simp only [h]
  rfl

theorem watchdogFiring_engine {s : State} {k : Nat} {c : EngCmd} (h : s.cmd k = some c) (hn : c.kind.nearBank = false) (hc : c.kind ≠ .coll)
    (hf : c.frozen = none) (he : c.err = false) : exec (.watchdogFiring (.engine k) c.fired) s = .next (s.cmdWdog c) := by
  have hd : s.dogFired (.engine k) = c.fired := by rw [State.dogFired, h]; rfl
  refine congrArg Host.Outcome.next ?_
  rw [hd, bne_self_eq_false]
  simp [h, hn, hc, hf, he]

/-! ### Checkpoints (13 R348) -/

/-- Recalling items that have not started changes units and commands alone. -/
theorem recall_frame (s : State) : s.recall = { s with units := s.recall.units, cmds := s.recall.cmds } := by
  refine List.foldlRecOn (motive := fun (t : State) => t = { s with units := t.units, cmds := t.cmds }) s.cmds _ rfl fun t ht c _ => ?_
  split
  · rw [State.withdraw, State.updCmd, ht]
  · exact ht

theorem checkpointRequest_eq (b : Nat) (s : State) : exec (.checkpointRequest b) s = .next (if (s.poolSeg b).isNone then s
    else if s.quiet then
      { ({ s with quiesced := true } : State).recall with
        images := tset ({ s with quiesced := true } : State).recall.images b ({ s with quiesced := true } : State).recall.image, quiesced := false }
    else s.quiesce) := rfl

theorem checkpointRestore_none {s : State} {b : Nat} (h : tget s.images b = none) : exec (.checkpointRestore b) s = .next s := by
  refine congrArg Host.Outcome.next ?_
  simp only [h]

theorem checkpointRestore_foreign {s : State} {b : Nat} {i : Image} (h : tget s.images b = some i) (hl : i.layout ≠ s.layout) :
    exec (.checkpointRestore b) s = .next s := by
  refine congrArg Host.Outcome.next ?_
  simp only [h, if_pos hl]

/-- The state that an image brings back: memory that is not HBM4E stays. -/
def restored (s : State) (i : Image) : State :=
  { s with
    core := Core.reset, cores := [], units := [], reqs := [], tlb := [], leases := [], scrubTags := [], groups := [], ramos := []
    mem := { cells := i.mem.cells ++ (s.mem.part false).cells, fill := s.mem.fill, bad := i.mem.bad ++ (s.mem.part false).bad }
    dir := i.dir, moves := i.moves, moveQueue := i.moveQueue, fences := i.fences, homes := i.homes, stores := i.stores, bound := i.bound
    ctxs := i.ctxs, links := i.links, instars := i.instars, cmds := i.cmds, quiesced := false }

theorem checkpointRestore_image {s : State} {b : Nat} {i : Image} (h : tget s.images b = some i) (hl : i.layout = s.layout) (hq : s.quiet = true) :
    exec (.checkpointRestore b) s = .next (restored s i) := by
  refine congrArg Host.Outcome.next ?_
  simp only [h, if_neg (not_not.mpr hl), if_pos hq]
  rfl

/-! ### Bring-up (12 R321, R322; 14 R363) -/

/-- Records in use settle parameters alone. -/
theorem applyRecords_frame (s : State) (rs : List FlashRecord) (frames : List Nat) : s.applyRecords rs frames =
    { s with
      ports := (s.applyRecords rs frames).ports, res := (s.applyRecords rs frames).res, lease := (s.applyRecords rs frames).lease
      pkg := (s.applyRecords rs frames).pkg, doms := (s.applyRecords rs frames).doms } := by
  unfold State.applyRecords
  split <;> rfl

section

variable {s : State} {b : Boot}

theorem powerOn_firmware (h : b.fwOk = false ∨ b.fwVersion < s.flashFw) : s.powerOn b = { s.kept with recovery := true, step := 0 } := by
  refine if_pos ?_
  rw [Bool.or_eq_true, Bool.not_eq_true', decide_eq_true_eq]
  exact h

variable (hf : b.fwOk = true) (hv : s.flashFw ≤ b.fwVersion)

include hf hv

theorem powerOn_pcie (h : b.pcieOk = false) : s.powerOn b = { s.kept with recovery := true, step := 1 } := by
  have hv' : ¬ b.fwVersion < s.kept.flashFw := Nat.not_lt.mpr hv
  simp only [State.powerOn, hf, hv', h]
  rfl

variable (hp : b.pcieOk = true)

include hp

theorem powerOn_records (h : s.kept.taken = []) : s.powerOn b = { s.kept with recovery := true, step := 2 } := by
  have hv' : ¬ b.fwVersion < s.kept.flashFw := Nat.not_lt.mpr hv
  simp only [State.powerOn, hf, hv', hp, h]
  rfl

variable (ht : ∀ n, n = 1 ∨ n = 2 ∨ n = 5 → ∃ r ∈ s.taken, r.type = n)

include ht

/-- Bring-up with the records that it needs. -/
theorem powerOn_configured : s.powerOn b =
    if !b.dieOk then { s.kept with recovery := true, step := 3 }
    else if !b.linksOk then { s.kept with recovery := true, step := 5 }
    else
      let t := { s.kept.applyRecords s.taken b.kvFrames with
        inUse := s.taken, step := 7, ready := true, flashFw := b.fwVersion, fwDigest := b.fwDigest }
      (b.supers.zipIdx).foldl (fun s x => s.makeSuper x.2 x.1)
        { t with counters := s.taken.foldl (fun c r => tset c r.type r.version) t.counters } := by
  have hv' : ¬ b.fwVersion < s.kept.flashFw := Nat.not_lt.mpr hv
  have hk : s.kept.taken = s.taken := rfl
  have has (n : Nat) (hn : n = 1 ∨ n = 2 ∨ n = 5) : s.taken.any (fun r => decide (r.type = n)) = true := by
    obtain ⟨r, hr, he⟩ := ht n hn
    exact List.any_eq_true.mpr ⟨r, hr, decide_eq_true he⟩
  simp only [State.powerOn, hf, hv', hp, hk, has 1 (.inl rfl), has 2 (.inr (.inl rfl)), has 5 (.inr (.inr rfl))]
  rfl

theorem powerOn_up (hd : b.dieOk = true) (hl : b.linksOk = true) (hs : b.supers = []) :
    let t := s.powerOn b
    t.ready = true ∧ t.step = 7 ∧ t.recovery = false ∧ t.inUse = s.taken ∧ t.flashFw = b.fwVersion ∧ t.fwDigest = b.fwDigest ∧
      t.flash = s.flash ∧ t.plog = s.plog := by
  intro t
  have he : t = _ := powerOn_configured hf hv hp ht
  rw [hd, hl, hs, applyRecords_frame] at he
  clear_value t
  subst he
  exact ⟨rfl, rfl, rfl, rfl, rfl, rfl, rfl, rfl⟩

end

/-! ### The record of a type (12 R322) -/

/-- The better of the record taken so far and the next. -/
def newer (b : Option FlashRecord) (r : FlashRecord) : Option FlashRecord :=
  match b with
  | none => some r
  | some q => some (if q.version < r.version then r else q)

theorem foldl_newer_mem {l : List FlashRecord} {r : FlashRecord} : ∀ {b : Option FlashRecord}, l.foldl newer b = some r → b = some r ∨ r ∈ l := by
  induction l with
  | nil => exact fun h => .inl h
  | cons a l ih =>
    intro b h
    obtain h | h := ih h
    · cases b with
      | none =>
        cases h
        exact .inr List.mem_cons_self
      | some q =>
        rw [newer] at h
        split at h
        · cases h
          exact .inr List.mem_cons_self
        · exact .inl h
    · exact .inr (List.mem_cons_of_mem a h)

/-- Bring-up takes a valid record of the type at or above the counter, and the only one of its version. -/
theorem pickRecord_mem {keys : Option FlashRecord} {flash : List FlashRecord} {type n : Nat} {r : FlashRecord}
    (h : pickRecord keys flash type n = some r) : r ∈ flash ∧ r.type = type ∧ n ≤ r.version ∧ recordValid keys r = true ∧
      ∀ q ∈ flash, q.type = type → recordValid keys q = true → q.version = r.version → q = r := by
  have hmem := (foldl_newer_mem (b := none) h).resolve_left nofun
  obtain ⟨hok, hone⟩ := List.mem_filter.mp hmem
  obtain ⟨hr, hgood⟩ := List.mem_filter.mp hok
  simp only [Bool.and_eq_true, decide_eq_true_eq] at hgood
  obtain ⟨⟨htype, hvalid⟩, hn⟩ := hgood
  refine ⟨hr, htype, hn, hvalid, fun q hq hqt hqv hqn => ?_⟩
  by_contra hne
  rw [Bool.not_eq_true', List.any_eq_false] at hone
  refine hone q (List.mem_filter.mpr ⟨hq, ?_⟩) ?_
  · simp [hqt, hqv, hqn, hn]
  · simp [hqn, hne]

theorem pickRecord_none {keys : Option FlashRecord} {flash : List FlashRecord} (h : ∀ r ∈ flash, recordValid keys r = false) (type n : Nat) :
    pickRecord keys flash type n = none := by
  refine Option.eq_none_iff_forall_ne_some.mpr fun r hr => ?_
  obtain ⟨hf, -, -, hv, -⟩ := pickRecord_mem hr
  rw [h r hf] at hv
  cases hv

theorem taken_none {s : State} (h : ∀ keys, ∀ r ∈ s.flash, recordValid keys r = false) : s.taken = [] := by
  simp [State.taken, pickRecord_none (h _)]

/-- Settles O58, step by step: what a step that serves the outside does follows the branches of its rule. -/
theorem otherPackagesAndRecoveryAreServed : Obligations.OtherPackagesAndRecoveryAreServed := by
  refine ⟨fun s src a n bs => ?remote, fun s src q => ?ramoRequest, fun s k o v h => ?ramo, fun s i d h => ?dedup,
    fun s k rank attempt data c p h hp => ?coll, fun s slot group attempt hg => ⟨abortToken_named hg, collAbort_settled⟩, fun s w => ?scrub,
    fun s b second => ?checker, fun m n j c d h => complete_xdoubt h, fun s e w a k c => ?watchdog, fun s what second h => watchdogFiring_no_step h,
    fun s b => ?image, fun s r => rfl, fun s b => ?boot⟩
  case remote =>
    refine ⟨fun hr => ⟨remoteRequest_early hr, remoteRequest_early hr⟩, fun hr hq => ⟨remoteRequest_busy hr hq, remoteRequest_busy hr hq⟩,
      fun hr hq he => ?_, fun hr hq he => ?_, fun hr hq he t ht => ?_, fun ws hr hq ha he => ?_, fun hr hq he => ?_⟩
    · rw [remoteRequest_read hr hq, if_pos he]
    · rw [remoteRequest_read hr hq, he]
      rfl
    · rw [remoteRequest_write hr hq, if_pos he, ht]
    · rw [remoteRequest_writeWords hr hq, if_pos ⟨ha, he⟩]
    · rw [remoteRequest_write hr hq, he]
      rfl
  case ramoRequest =>
    intro ty
    refine ⟨fun d hd => by rw [ramoRequest_eq, hd], fun hr hn => ?_, fun hr hn => ?_⟩
    · rw [ramoRequest_eq, hn]
      exact congrArg Host.Outcome.next (ramoFresh_early hr)
    · rw [ramoRequest_eq, hn]
      exact ⟨fun hy => congrArg Host.Outcome.next (ramoFresh_retry hr hy), fun hy hb => congrArg Host.Outcome.next (ramoFresh_busy hr hy hb),
        fun hy hq hl he => congrArg Host.Outcome.next (ramoFresh_refused hr hy hq hl he),
        fun hy hq hl he t o ho => congrArg Host.Outcome.next (ramoFresh_performs hr hy hq hl he ho)⟩
  case ramo =>
    obtain ⟨hperformed, hearlier, hindet, hbusy⟩ := ramoResponse_ends h v
    rw [ramoRetryTimeout_eq h, busyRetryTimer_eq h]
    refine ⟨hperformed, hearlier, hindet, hbusy, fun hb hl => ?_, fun hb hl => ?_, fun hc hp st => ⟨ramoEnd_a hc hp, fun hst => ?_⟩⟩
    · rw [if_neg (by simp [hb, hl])]
      exact ⟨fun hn => by rw [if_pos hn], fun hn => by rw [if_neg (Nat.not_lt.mpr hn)]⟩
    · rw [if_neg (by simp [hb, hl])]
      exact ⟨fun hn => by rw [if_pos hn], fun hn => by rw [if_neg (Nat.not_le.mpr hn)]⟩
    · rw [ramoEnd_aflags hc hp, ramoFlags, if_neg hst]
  case dedup =>
    rw [dedupRecordExpiry_eq h]
    exact ⟨fun he => by rw [if_pos he], fun he => by rw [if_neg (Nat.not_le.mpr he)]⟩
  case coll =>
    refine ⟨contributionToken_discarded h hp, contributionToken_away h hp, closeToken_discarded h hp, closeToken_writes h hp,
      fun ha he hf hc hs => ⟨closeToken_waits h hp ha he hf hc hs, fun hg hb => ⟨_, closeToken_closes h hp ha he hf hc hs hg hb, rfl⟩⟩,
      fun hl => ?_, fun he hc hl => ?_⟩
    · rw [colltoExpiry_eq h hp, decide_eq_false (Nat.not_le.mpr hl), Bool.and_false]
      rfl
    · rw [colltoExpiry_eq h hp, he, hc, decide_eq_true hl]
      rfl
  case scrub =>
    refine ⟨fun hz => congrArg Host.Outcome.next (scrubRead_skips hz), fun ha hz hf => ?_, directedScrub_none, fun b r => directedScrub_next,
      scrubWriteBack_none, fun c v hc hv => ?_⟩
    · have hw : 8 * w / 8 = w := Nat.mul_div_cancel_left w (by decide)
      refine congrArg Host.Outcome.next ((scrubRead_tags (s := { s with patrol := w + 1 }) ha hz hf).trans ?_)
      rw [hw]
      rfl
    · rw [scrubWriteBack_patrol hc hv]
      exact ⟨fun hs => by rw [if_pos hs], fun hs => by rw [if_neg hs]⟩
  case checker =>
    refine ⟨checkerMismatch_no_step, fun hi t ht => ⟨fun hd => ?_, fun hd => ?_⟩⟩
    all_goals
      have hitem := checkerMismatch_item hi ht
      rw [hd] at hitem
      exact hitem
  case watchdog =>
    refine ⟨fun h => ⟨fun hd => ?_, fun hd => ?_⟩, watchdogFiring_engine⟩
    all_goals
      have hlane := watchdogFiring_lane h
      rw [hd] at hlane
      exact hlane
  case image =>
    rw [checkpointRequest_eq]
    refine ⟨fun hp => by rw [hp]; rfl, fun hp hq => ?_, fun hp hq => ?_, checkpointRestore_none, fun i hi hl => checkpointRestore_foreign hi hl,
      fun i hi hl hq => ⟨_, checkpointRestore_image hi hl hq, rfl, rfl, rfl, rfl, rfl⟩⟩
    · rw [if_neg (by simpa using hp), hq]
      rfl
    · rw [if_neg (by simpa using hp), if_pos hq, recall_frame]
      exact ⟨_, rfl, rfl, _, tget_tset_same _ _ _, rfl, rfl, rfl, rfl, rfl, rfl, rfl⟩
  case boot =>
    refine ⟨fun h => congrArg Host.Outcome.next (powerOn_firmware h), fun hf hv hp => congrArg Host.Outcome.next (powerOn_pcie hf hv hp),
      fun hf hv hp h => congrArg Host.Outcome.next (powerOn_records hf hv hp (taken_none h)), fun hf hv hp ht => ⟨fun hd => ?_, fun hd hl => ?_,
        fun hd hl hs => ⟨_, rfl, powerOn_up hf hv hp ht hd hl hs⟩⟩, fun keys type n r hr => pickRecord_mem hr, rfl, rfl, rfl, rfl⟩
    · refine congrArg Host.Outcome.next ((powerOn_configured hf hv hp ht).trans ?_)
      rw [hd]
      rfl
    · refine congrArg Host.Outcome.next ((powerOn_configured hf hv hp ht).trans ?_)
      rw [hd, hl]
      rfl

end Sys2Proof.Proofs
end

section
/-! Near-bank units: microinstructions at the bank in focus (09 R233, R235, R236, R240). -/

namespace Sys2Proof.Proofs

open Sys2Proof.Machine Sys2Proof.Claims

/-! ### A microinstruction as the next step of the item at the head -/

theorem micro_of_no_head {s : State} {k : Nat} (h : s.nbHead k = none) (op : Nat) (d b : Bool) : s.micro k op d b = s := by
  rw [State.micro, h]

section

variable {s : State} {k : Nat} {it : NbItem} {c : EngCmd} (h : s.nbHead k = some (it, c)) (hk : c.kind = .nbRun) (hs : it.started = true)

include h hk hs

theorem micro_head (op : Nat) (d b : Bool) : s.micro k op d b =
    if op = 0 then s.nbFinish k c false
    else if s.mayStep k k (microHolds op) then goesOn k c (microHolds op) (s.microStep k it c op d b) else s := by
  simp only [State.micro, h, if_pos (And.intro hk hs)]
  rfl

theorem micro_ends (d b : Bool) : s.micro k 0 d b = s.nbFinish k c false :=
  (micro_head h hk hs 0 d b).trans (if_pos rfl)

theorem micro_goes_on {op : Nat} (ho : op ≠ 0) (hm : s.mayStep k k (microHolds op) = true) (d b : Bool) :
    s.micro k op d b = goesOn k c (microHolds op) (s.microStep k it c op d b) := by
  rw [micro_head h hk hs, if_neg ho, if_pos hm]

theorem micro_waits {op : Nat} (ho : op ≠ 0) (hm : s.mayStep k k (microHolds op) = false) (d b : Bool) : s.micro k op d b = s := by
  rw [micro_head h hk hs, if_neg ho, hm, if_neg Bool.false_ne_true]

end

/-! ### Which step each microinstruction is (09 Table 09-2) -/

/-- An instruction that is the microinstruction `op` of its accumulators. -/
def IsMicro (op : Nat) (i : Instr) : Prop := ∃ d b : Bool, ∀ s : State, exec i s = .next (s.micro s.bankHere op d b)

theorem rowMicros (d b : Bool) : ∀ i ∈ [Instr.nbuLdx d, Instr.nbuLdy d, Instr.nbuSty b, Instr.nbuAccy b, Instr.nbuAxpy b],
    ∃ op, op ≠ 0 ∧ microHolds op = true ∧ IsMicro op i := by
  simp only [List.forall_mem_cons]
  exact ⟨⟨1, by decide, rfl, d, false, fun _ => rfl⟩, ⟨2, by decide, rfl, d, false, fun _ => rfl⟩,
    ⟨3, by decide, rfl, false, b, fun _ => rfl⟩, ⟨10, by decide, rfl, false, b, fun _ => rfl⟩,
    ⟨11, by decide, rfl, false, b, fun _ => rfl⟩, nofun⟩

theorem accumulatorMicros (d b : Bool) :
    ∀ i ∈ [Instr.nbuAdd d b, Instr.nbuMul d b, Instr.nbuMax d b, Instr.nbuScl d, Instr.nbuFill d, Instr.nbuFma d b],
      ∃ op, op ≠ 0 ∧ microHolds op = false ∧ IsMicro op i := by
  simp only [List.forall_mem_cons]
  exact ⟨⟨4, by decide, rfl, d, b, fun _ => rfl⟩, ⟨5, by decide, rfl, d, b, fun _ => rfl⟩, ⟨6, by decide, rfl, d, b, fun _ => rfl⟩,
    ⟨7, by decide, rfl, d, false, fun _ => rfl⟩, ⟨8, by decide, rfl, d, false, fun _ => rfl⟩, ⟨9, by decide, rfl, d, b, fun _ => rfl⟩, nofun⟩

theorem micros (d b : Bool) : ∀ i ∈ [Instr.nbuEnd, Instr.nbuLdx d, Instr.nbuLdy d, Instr.nbuSty b, Instr.nbuAdd d b, Instr.nbuMul d b,
    Instr.nbuMax d b, Instr.nbuScl d, Instr.nbuFill d, Instr.nbuFma d b, Instr.nbuAccy b, Instr.nbuAxpy b], ∃ op, IsMicro op i := by
  simp only [List.forall_mem_cons]
  exact ⟨⟨0, false, false, fun _ => rfl⟩, ⟨1, d, false, fun _ => rfl⟩, ⟨2, d, false, fun _ => rfl⟩, ⟨3, false, b, fun _ => rfl⟩,
    ⟨4, d, b, fun _ => rfl⟩, ⟨5, d, b, fun _ => rfl⟩, ⟨6, d, b, fun _ => rfl⟩, ⟨7, d, false, fun _ => rfl⟩, ⟨8, d, false, fun _ => rfl⟩,
    ⟨9, d, b, fun _ => rfl⟩, ⟨10, false, b, fun _ => rfl⟩, ⟨11, false, b, fun _ => rfl⟩, nofun⟩

/-! ### Element results (09 R236) -/

section

variable {ty : Nat} (p a b : Nat)

theorem nbElements_int (h : tyInt ty = true) :
    nbAdd ty a b = (nbInt ty (decInt ty a + decInt ty b), 0) ∧ nbMul ty a b = (nbInt ty (decInt ty a * decInt ty b), 0) ∧
      nbMax ty a b = (if decInt ty a ≤ decInt ty b then b else a, 0) ∧ nbScl ty p a = (nbInt ty (decInt 2 p * decInt ty a), 0) ∧
      nbFma ty p a b = (nbInt ty (decInt 2 p * decInt ty a + decInt ty b), 0) :=
  ⟨if_pos h, if_pos h, if_pos h, if_pos h, if_pos h⟩

theorem nbElements_float (h : tyInt ty = false) :
    nbAdd ty a b = fAdd ty 0 a b ∧ nbMax ty a b = minMax ty true a b ∧
      nbFma ty p a b = fusedV ty 0 false false (decF 10 p) (decF ty a) (decF ty b) := by
  have hn : ¬ tyInt ty = true := by rw [h]; exact Bool.false_ne_true
  exact ⟨if_neg hn, if_neg hn, if_neg hn⟩

end

/-- Settles O51: a microinstruction that may step has the effect that its code names, and UPC goes on. -/
theorem microinstructionsActOnTheirAccumulators : Obligations.MicroinstructionsActOnTheirAccumulators := by
  refine ⟨fun s it c d b h hk hs => ?head, fun s d b h => ?idle, fun ty p a b => nbElements_int p a b, fun ty p a b => nbElements_float p a b⟩
  case head =>
    have acts {op : Nat} (ho : op ≠ 0) (hm : s.mayStep s.bankHere s.bankHere (microHolds op) = true) (d b : Bool) :
        (.next (s.micro s.bankHere op d b) : Out) = .next (goesOn s.bankHere c (microHolds op) (s.microStep s.bankHere it c op d b)) :=
      congrArg Host.Outcome.next (micro_goes_on h hk hs ho hm d b)
    have waits {op : Nat} {i : Instr} (hi : IsMicro op i) (ho : op ≠ 0)
        (hm : s.mayStep s.bankHere s.bankHere (microHolds op) = false) : exec i s = .next s := by
      obtain ⟨d, b, hi⟩ := hi
      rw [hi, micro_waits h hk hs ho hm]
    refine ⟨congrArg Host.Outcome.next (micro_ends h hk hs false false), fun hm => ⟨?_, ?_, ?_, ?_, ?_⟩, fun hm => ⟨?_, ?_, ?_, ?_, ?_, ?_⟩,
      fun hm i hi => ?_, fun hm i hi => ?_⟩
    · exact acts (op := 1) (by decide) hm d false
    · exact acts (op := 2) (by decide) hm d false
    · exact acts (op := 3) (by decide) hm false b
    · exact acts (op := 10) (by decide) hm false b
    · exact acts (op := 11) (by decide) hm false b
    · exact acts (op := 4) (by decide) hm d b
    · exact acts (op := 5) (by decide) hm d b
    · exact acts (op := 6) (by decide) hm d b
    · exact acts (op := 7) (by decide) hm d false
    · exact acts (op := 8) (by decide) hm d false
    · exact acts (op := 9) (by decide) hm d b
    · obtain ⟨op, ho, hh, hop⟩ := rowMicros d b i hi
      exact waits hop ho (hh ▸ hm)
    · obtain ⟨op, ho, hh, hop⟩ := accumulatorMicros d b i hi
      exact waits hop ho (hh ▸ hm)
  case idle =>
    intro i hi
    obtain ⟨op, d', b', hop⟩ := micros d b i hi
    rw [hop, micro_of_no_head h]

end Sys2Proof.Proofs
end

section
/-! Near-bank units: row steps, and the sharing of a bank with its ordinary requests (09 R229-R233, R236, R237, R240, R241; 11 R291,
R293-R295). -/

namespace Sys2Proof.Proofs

open Sys2Proof.Machine Sys2Proof.Claims Sys2Proof.Laws

/-! ### Units by their bank -/

@[simp] theorem nbUnit_setUnit_same (s : State) (k : Nat) (u : NbUnit) : (s.setUnit k u).nbUnit k = u := by
  simp [State.nbUnit, State.setUnit]

theorem nbUnit_setUnit_ne (s : State) {k b : Nat} (u : NbUnit) (hb : k ≠ b) : (s.setUnit b u).nbUnit k = s.nbUnit k := by
  rw [State.nbUnit, State.setUnit, tget_tset_ne s.units u hb]
  rfl

/-! ### When a step may go (09 R240, R241) -/

theorem mayStep_of_heldBack {s : State} {k place : Nat}
    (h : s.heldBack k = true ∨ s.heldBack place = true ∨ ∃ r ∈ (tget s.reqs place).getD [], r.owed = true) : s.mayStep k place true = false := by
  obtain h | h | h := h
  · simp [State.mayStep, h]
  · simp [State.mayStep, h]
  · have ho : ((tget s.reqs place).getD []).any BankReq.owed = true := List.any_eq_true.mpr h
    simp [State.mayStep, ho]

section

variable {s : State} {k : Nat} {c : EngCmd}

theorem lastStep_ends (hm : s.mayStep k k true = true) (f : State → State) : s.lastStep k c f = rowDone (f s) k c false := if_pos hm

theorem lastStep_waits (hm : s.mayStep k k true = false) (f : State → State) : s.lastStep k c f = s :=
  if_neg (by rw [hm]; exact Bool.false_ne_true)

end

/-! ### The step of an item by the kind of its command (09 R229) -/

/-- The step of an item of a microprogram: its start, or the microinstruction at UPC. -/
def runStep (s : State) (k : Nat) (it : NbItem) (c : EngCmd) : State :=
  if !it.started then (if s.heldBack k then s else s.runStart k it c)
  else match (s.nbUnit k).store[(s.nbUnit k).upc]? with
    | none => s.nbFinish k c false
    | some w => s.micro k (w.extractLsb' 12 4).toNat (w.getLsbD 11) (w.getLsbD 10)

/-- What the next step of an item comes to. -/
def rowAct (s : State) (k : Nat) (it : NbItem) (c : EngCmd) : State :=
  match c.kind with
  | .nbZero => s.lastStep k c (fun s => s.physSetWords it.dst (List.replicate 256 (CWord.good 0)))
  | .nbCopy => s.copyStep k it c
  | .nbAxpy => s.axpyStep k it c
  | .nbAmo => s.amoStep k it c
  | .nbRun => runStep s k it c
  | _ => s

theorem nbRowStep_idle {s : State} {k : Nat} (h : s.nbHead k = none) : exec (.nbRowStep k) s = .next s := by
  refine congrArg Host.Outcome.next ?_
  simp only [h]

section

variable {s : State} {k : Nat} {it : NbItem} {c : EngCmd}

section

variable (h : s.nbHead k = some (it, c))

include h

theorem nbRowStep_head : exec (.nbRowStep k) s = .next (if s.quiesced && !it.started then s else rowAct s k it c) := by
  refine congrArg Host.Outcome.next ?_
  simp only [h]
  rfl

theorem nbRowStep_acts (hq : s.quiesced = false ∨ it.started = true) : exec (.nbRowStep k) s = .next (rowAct s k it c) := by
  rw [nbRowStep_head h, if_neg]
  obtain hq | hq := hq <;> simp [hq]

theorem nbRowStep_waits (ha : rowAct s k it c = s) : exec (.nbRowStep k) s = .next s := by
  rw [nbRowStep_head h, ha, ite_self]

end

theorem rowAct_zero (hk : c.kind = .nbZero) :
    rowAct s k it c = s.lastStep k c (fun s => s.physSetWords it.dst (List.replicate 256 (CWord.good 0))) := by
  rw [rowAct, hk]

theorem rowAct_copy (hk : c.kind = .nbCopy) : rowAct s k it c = s.copyStep k it c := by
  rw [rowAct, hk]

theorem rowAct_axpy (hk : c.kind = .nbAxpy) : rowAct s k it c = s.axpyStep k it c := by
  rw [rowAct, hk]

theorem rowAct_amo (hk : c.kind = .nbAmo) : rowAct s k it c = s.amoStep k it c := by
  rw [rowAct, hk]

theorem rowAct_run (hk : c.kind = .nbRun) : rowAct s k it c = runStep s k it c := by
  rw [rowAct, hk]

/-! ### Copies (09 R230, R231) -/

theorem copyRow_apart (hc : s.rowsClash c = false) (ws : List CWord) : s.copyRow c ws = ws :=
  if_neg (by rw [hc]; exact Bool.false_ne_true)

theorem copyStep_within (hs : bankOf it.src = k ∧ subarrayOf it.src = subarrayOf it.dst) :
    s.copyStep k it c = s.lastStep k c (fun s => s.physSetWords it.dst (s.copyRow c (s.rowRaw it.src))) := if_pos hs

theorem copyStep_buffered (hs : bankOf it.src ≠ k ∨ subarrayOf it.src ≠ subarrayOf it.dst) {w : CWord} {ws : List CWord}
    (hb : it.buffer = some (w :: ws)) : s.copyStep k it c = s.lastStep k c (fun s => s.physSetWords it.dst (s.copyRow c (w :: ws))) := by
  rw [State.copyStep, if_neg (not_and_or.mpr hs), hb]

/-- A source row that is not in a buffer yet goes towards one. -/
theorem copyStep_fetches (hs : bankOf it.src ≠ k ∨ subarrayOf it.src ≠ subarrayOf it.dst) (hb : it.buffer = none ∨ it.buffer = some []) :
    s.copyStep k it c = s.bufferStep k it := by
  rw [State.copyStep, if_neg (not_and_or.mpr hs)]
  obtain hb | hb := hb <;> rw [hb]

/-! ### Scaled additions (09 R233) -/

theorem axpyStep_second (hu : (s.nbUnit k).upc ≠ 0) :
    s.axpyStep k it c = s.lastStep k c (fun s => s.microStep k it c 11 false false) := if_pos hu

theorem axpyStep_first (hu : (s.nbUnit k).upc = 0) (hb : bankOf it.src = k) (hm : s.mayStep k k true = true) :
    s.axpyStep k it c =
      let t := ((s.microStep k it c 1 false false).setHead k { it with started := true }).stepped k k true
      t.setUnit k { t.nbUnit k with upc := 1 } := by
  rw [State.axpyStep, if_neg (not_not.mpr hu), if_pos hb, if_pos hm]

theorem axpyStep_fetches (hu : (s.nbUnit k).upc = 0) (hs : bankOf it.src ≠ k) (hb : it.buffer = none ∨ it.buffer = some []) :
    s.axpyStep k it c = s.bufferStep k it := by
  rw [State.axpyStep, if_neg (not_not.mpr hu), if_neg hs]
  obtain hb | hb := hb <;> rw [hb]

/-! ### Base-die buffers (09 R231) -/

/-- A source row elsewhere goes through a buffer, for a copy as for a scaled addition. -/
theorem rowAct_fetches
    (hk : (c.kind = .nbCopy ∧ (bankOf it.src ≠ k ∨ subarrayOf it.src ≠ subarrayOf it.dst)) ∨
      (c.kind = .nbAxpy ∧ (s.nbUnit k).upc = 0 ∧ bankOf it.src ≠ k))
    (hb : it.buffer = none ∨ it.buffer = some []) : rowAct s k it c = s.bufferStep k it := by
  obtain ⟨hk, hs⟩ | ⟨hk, hu, hs⟩ := hk
  · rw [rowAct_copy hk, copyStep_fetches hs hb]
  · rw [rowAct_axpy hk, axpyStep_fetches hu hs hb]

theorem bufferStep_free (hb : it.buffer = none) : s.bufferStep k it =
    if s.buffersUsed (stackOf it.src) < 16 then
      (s.setUnit k { s.nbUnit k with since := s.ptp }).setHead k { it with buffer := some [] }
    else s := by
  rw [State.bufferStep, hb]

theorem bufferStep_taken {ws : List CWord} (hb : it.buffer = some ws) : s.bufferStep k it =
    if s.mayStep k (bankOf it.src) true then
      (s.setHead k { it with started := true, buffer := some (s.rowRaw it.src) }).stepped k (bankOf it.src) true
    else s := by
  rw [State.bufferStep, hb]

/-! ### Microprograms (09 R236) -/

theorem runStep_next (hs : it.started = true) {w : BitVec 16} (hw : (s.nbUnit k).store[(s.nbUnit k).upc]? = some w) :
    runStep s k it c = s.micro k (w.extractLsb' 12 4).toNat (w.getLsbD 11) (w.getLsbD 10) := by
  rw [runStep, hs, hw]
  rfl

theorem runStep_starts (hs : it.started = false) : runStep s k it c = if s.heldBack k then s else s.runStart k it c := by
  rw [runStep, hs]
  rfl

end

/-! ### Suspension (09 R241) -/

theorem suspend_frame (s : State) (b : Nat) : s.suspend b = { s with units := (s.suspend b).units } := by
  unfold State.suspend
  dsimp only
  split <;> rfl

theorem suspend_not_due {s : State} {k : Nat} (ho : s.olderThan k s.res.agecap = false) : s.suspend k = s := by
  simp [State.suspend, ho]

theorem suspend_head {s : State} {k : Nat} {it : NbItem} {q : List NbItem} (hq : (s.nbUnit k).queue = it :: q)
    (hs : (s.nbUnit k).suspended = false) (ho : s.olderThan k s.res.agecap = true) :
    s.suspend k = s.setUnit k { s.nbUnit k with suspended := true, queue := { it with suspends := it.suspends + 1 } :: q } := by
  simp [State.suspend, hs, ho, hq]

/-- A unit that is suspended when due, or that is suspended already, stands suspended. -/
theorem suspend_suspends {s : State} {k : Nat} (h : (s.nbUnit k).suspended = true ∨ s.olderThan k s.res.agecap = true) :
    ((s.suspend k).nbUnit k).suspended = true := by
  cases hs : (s.nbUnit k).suspended with
  | true => simp [State.suspend, hs]
  | false =>
    have ho : s.olderThan k s.res.agecap = true := h.resolve_left (by simp [hs])
    simp [State.suspend, hs, ho]

theorem nbUnit_suspend_ne {s : State} {k b : Nat} (hb : k ≠ b) : (s.suspend b).nbUnit k = s.nbUnit k := by
  unfold State.suspend
  dsimp only
  split
  · exact nbUnit_setUnit_ne s _ hb
  · rfl

theorem foldl_suspend_frame (s : State) (l : List Nat) : l.foldl State.suspend s = { s with units := (l.foldl State.suspend s).units } := by
  induction l generalizing s with
  | nil => rfl
  | cons b l ih =>
    rw [List.foldl_cons, ih (s.suspend b), suspend_frame s b]

/-- A suspended unit stays suspended while the banks of a list are looked at. -/
theorem foldl_suspend_keeps {s : State} {k : Nat} (l : List Nat) (h : (s.nbUnit k).suspended = true) :
    ((l.foldl State.suspend s).nbUnit k).suspended = true := by
  induction l generalizing s with
  | nil => exact h
  | cons b l ih =>
    refine ih ?_
    by_cases hb : k = b
    · exact hb ▸ suspend_suspends (.inl (hb ▸ h))
    · rw [nbUnit_suspend_ne hb, h]

/-- A unit that is due is suspended by a look at its bank, whichever banks come before. -/
theorem foldl_suspend_suspends {s : State} {k : Nat} {l : List Nat} (hk : k ∈ l) (ho : s.olderThan k s.res.agecap = true) :
    ((l.foldl State.suspend s).nbUnit k).suspended = true := by
  induction l generalizing s with
  | nil => cases hk
  | cons b l ih =>
    by_cases hb : k = b
    · exact foldl_suspend_keeps l (hb ▸ suspend_suspends (.inr (hb ▸ ho)))
    · refine ih ((List.mem_cons.mp hk).resolve_left hb) ?_
      rw [suspend_frame s b]
      exact ho

/-! ### Requests that issue (11 R291, R294) -/

theorem mem_from' {x a n : Nat} (h₁ : a ≤ x) (h₂ : x < a + n) : x ∈ from' a n := by
  induction n generalizing a with
  | zero => omega
  | succ n ih =>
    obtain rfl | hlt := h₁.eq_or_lt
    · exact List.mem_cons_self
    · exact List.mem_cons_of_mem _ (ih hlt (by omega))

theorem dieSample_frame (s : State) (die i v : Nat) : s.dieSample die i v = { s with doms := (s.dieSample die i v).doms } := by
  unfold State.dieSample State.sample
  split
  · rfl
  · split <;> rfl

/-- A package whose units at the pseudo-channel of a bank are suspended where their requests have waited too long. -/
def channelSuspended (s : State) (k : Nat) : State := (from' (k / 16 * 16) 16).foldl State.suspend s

/-- The monitor of waits takes that of a request, or not. -/
def waitSampled (s : State) (k : Nat) (r : BankReq) : State :=
  if Config.freeBits 10 s.tick (2 ^ 36) = 0 then s.dieSample (k / 2048) 4 (s.ptp - r.since) else s

/-- A queue without its request number `i`; the next one waiting enters the four. -/
def withoutReq (now : Nat) (q : List BankReq) (i : Nat) : List BankReq :=
  let rest := q.eraseIdx i
  rest.take 3 ++ (rest.drop 3).mapIdx (fun k (x : BankReq) => if k = 0 then { x with since := now } else x)

/-- A package after the request `r` of a bank has issued, which leaves `rest`. -/
def issued (s : State) (k : Nat) (r : BankReq) (rest : List BankReq) : State :=
  { s with
    reqs := if rest = [] then tdel s.reqs k else tset s.reqs k rest
    openRow := tset s.openRow k r.row
    hbm := tset s.hbm (k / 1024) ((s.stack (k / 1024)).count r.pn) }

section

variable {s : State} {k : Nat} {r : BankReq} {rest : List BankReq}

theorem issued_openRow : tget (issued s k r rest).openRow k = some r.row := tget_tset_same _ _ _

theorem issued_hbm : tget (issued s k r rest).hbm (k / 1024) = some ((s.stack (k / 1024)).count r.pn) := tget_tset_same _ _ _

theorem issued_mem : (issued s k r rest).mem = s.mem := rfl

theorem issued_nbUnit (b : Nat) : (issued s k r rest).nbUnit b = s.nbUnit b := rfl

theorem waitSampled_frame : waitSampled s k r = { s with doms := (waitSampled s k r).doms } := by
  unfold waitSampled
  split
  · exact dieSample_frame _ _ _ _
  · rfl

theorem waitSampled_mem : (waitSampled s k r).mem = s.mem := by rw [waitSampled_frame]

theorem waitSampled_nbUnit (b : Nat) : (waitSampled s k r).nbUnit b = s.nbUnit b := by rw [waitSampled_frame, State.nbUnit, State.nbUnit]

theorem waitSampled_stack (b : Nat) : (waitSampled s k r).stack b = s.stack b := by rw [waitSampled_frame, State.stack, State.stack]

theorem channelSuspended_frame : channelSuspended s k = { s with units := (channelSuspended s k).units } := foldl_suspend_frame _ _

theorem channelSuspended_mem : (channelSuspended s k).mem = s.mem := by rw [channelSuspended_frame]

theorem channelSuspended_stack (b : Nat) : (channelSuspended s k).stack b = s.stack b := by
  rw [channelSuspended_frame, State.stack, State.stack]

theorem channelSuspended_suspends (ho : s.olderThan k s.res.agecap = true) : ((channelSuspended s k).nbUnit k).suspended = true :=
  foldl_suspend_suspends (mem_from' (by omega) (by omega)) ho

theorem bankRequestIssue_issues {q : List BankReq} (hq : tget s.reqs k = some q)
    (hr : q[nextReq q (tget s.openRow k) s.ptp s.res.agecap]? = some r) :
    exec (.bankRequestIssue k) s = .next (issued (waitSampled (channelSuspended s k) k r) k r
      (withoutReq s.ptp q (nextReq q (tget s.openRow k) s.ptp s.res.agecap))) := by
  have hu : channelSuspended s k = { s with units := (channelSuspended s k).units } := channelSuspended_frame
  refine congrArg Host.Outcome.next ?_
  dsimp only
  change _ = issued (waitSampled ((from' (k / 16 * 16) 16).foldl State.suspend s) k r) k r _
  unfold channelSuspended at hu
  generalize (from' (k / 16 * 16) 16).foldl State.suspend s = u at hu ⊢
  have hreqs : u.reqs = s.reqs := by rw [hu]
  have hrow : u.openRow = s.openRow := by rw [hu]
  have hptp : u.ptp = s.ptp := by rw [hu]
  have hres : u.res = s.res := by rw [hu]
  simp only [hreqs, hrow, hptp, hres, hq, Option.getD_some, hr]
  rw [← hptp]
  rfl

end

@[simp] theorem stack_tset_same (s : State) (k : Nat) (t : Stack) : ({ s with hbm := tset s.hbm k t } : State).stack k = t := by
  simp [State.stack]

/-- Settles O53: an item's step is that of its command's kind, and one that holds a bank waits while its requests are owed or late. -/
theorem nearBankUnitsShareTheirBanks : Obligations.NearBankUnitsShareTheirBanks := by
  refine ⟨fun s k it c h hq hm => ?steps, fun s t c e o ha => ?entry, fun s k it c h hs hk w hw => ?program, fun s k it c h hs hq hk => ?start,
    fun s k it c h hq hk => ?buffer, fun s k it c h hm hk => ?waits, fun s k place => mayStep_of_heldBack, fun s k => nbRowStep_idle,
    fun s k it q hq hs => ?suspend, fun s k hs ho => ?resume, fun s k q r hq hr => ?request, fun s k => rfl, fun s k ht => ?publish,
    fun s k hm => ?filter⟩
  case steps =>
    rw [nbRowStep_acts h hq]
    refine ⟨fun hk => ?_, fun hk hb hs hc => ?_, fun hk hs w ws hb hc => ?_, fun hk hu => ?_, fun hk hu hb => ?_, fun hk => ?_⟩
    · rw [rowAct_zero hk, lastStep_ends hm]
    · rw [rowAct_copy hk, copyStep_within ⟨hb, hs⟩, lastStep_ends hm, copyRow_apart hc]
    · rw [rowAct_copy hk, copyStep_buffered hs hb, lastStep_ends hm, copyRow_apart hc]
    · rw [rowAct_axpy hk, axpyStep_second hu, lastStep_ends hm]
    · rw [rowAct_axpy hk, axpyStep_first hu hb hm]
    · rw [rowAct_amo hk, State.amoStep, lastStep_ends hm]
  case entry =>
    rw [State.amoEntry, ha]
  case program =>
    rw [nbRowStep_acts h (.inr hs), rowAct_run hk, runStep_next hs hw]
  case start =>
    rw [nbRowStep_acts h (.inl hq), rowAct_run hk, runStep_starts hs]
    refine ⟨fun hh => by rw [if_pos hh], fun hh hb => ?_, fun hh hb => ?_⟩ <;> rw [hh, if_neg Bool.false_ne_true, State.runStart]
    · rw [if_pos hb]
    · rw [if_neg (not_not.mpr hb)]
      refine ⟨_, rfl, ?_⟩
      rw [State.setHead, nbUnit_setUnit_same, nbUnit_setUnit_same]
      exact ⟨rfl, rfl, rfl, rfl, rfl, rfl⟩
  case buffer =>
    rw [nbRowStep_acts h hq]
    have fetch := rowAct_fetches hk
    refine ⟨fun hb hl => ?_, fun hb hl => ?_, fun hb hm => ?_, fun hb hm => ?_⟩
    · rw [fetch (.inl hb), bufferStep_free hb, if_pos hl]
    · rw [fetch (.inl hb), bufferStep_free hb, if_neg (Nat.not_lt.mpr hl)]
    · rw [fetch (.inr hb), bufferStep_taken hb, if_pos hm]
    · rw [fetch (.inr hb), bufferStep_taken hb, hm, if_neg Bool.false_ne_true]
  case waits =>
    refine nbRowStep_waits h ?_
    obtain hk | hk | ⟨hk, hu⟩ := hk
    · rw [rowAct_zero hk, lastStep_waits hm]
    · rw [rowAct_amo hk, State.amoStep, lastStep_waits hm]
    · rw [rowAct_axpy hk, axpyStep_second hu, lastStep_waits hm]
  case suspend =>
    refine ⟨fun ho => ⟨_, congrArg Host.Outcome.next (suspend_head hq hs ho), ?_⟩, fun ho => congrArg Host.Outcome.next (suspend_not_due ho)⟩
    rw [nbUnit_setUnit_same]
    exact ⟨rfl, rfl, rfl, rfl⟩
  case resume =>
    exact congrArg Host.Outcome.next (if_pos (by simp [hs, ho]))
  case request =>
    refine ⟨_, bankRequestIssue_issues hq hr, issued_openRow, ?_, ?_, fun ho => ?_⟩
    · rw [issued_mem, waitSampled_mem, channelSuspended_mem]
    · rw [issued_hbm, waitSampled_stack, channelSuspended_stack]
    · rw [issued_nbUnit, waitSampled_nbUnit]
      exact channelSuspended_suspends ho
  case publish =>
    refine ⟨_, congrArg Host.Outcome.next (if_pos ht), ?_⟩
    rw [stack_tset_same]
    exact ⟨rfl, rfl, rfl, rfl, rfl⟩
  case filter =>
    refine ⟨_, congrArg Host.Outcome.next (if_pos hm), ?_⟩
    rw [stack_tset_same]
    exact ⟨rfl, rfl, rfl⟩

end Sys2Proof.Proofs
end

section
/-! Leave requests and barriers (10 R245, R275, R276; 01 R25; 12 R304). -/

namespace Sys2Proof.Proofs

open Sys2Proof.Machine Sys2Proof.Claims Sys2Proof.Laws

/-! ### Leave requests -/

theorem here?_of_ctx {s : State} {k : Nat} {c : Ctx} (hk : s.core.ctx = some k) (hc : tget s.ctxs k = some c) :
    s.here? = some (k, c) := by
  simp only [State.here?, hk, hc, Option.map_some]

theorem streamOn_of_not_issuing {s : State} {a : Bool} (h : s.core.issuing a = false) : s.streamOn a = false := by
  rw [State.streamOn, h, Bool.false_and, Bool.false_and]

/-- Settles O15: a leave request enters the context in focus and holds its stream on the answer. -/
theorem leaveRequestsHoldWhatTheParkRecordNeeds : Obligations.LeaveRequestsHoldWhatTheParkRecordNeeds := by
  refine ⟨fun s k c kind data code hk hc => ?_, fun s a kind data code hk => ?_⟩
  · intro x y
    have hhere : s.here? = some (k, c) := here?_of_ctx hk hc
    have hx : s.raiseLeave false kind data code =
        { s with ctxs := tset s.ctxs k { c with asks := c.asks ++ [x] }, core := { s.core with xhold := .asking } } := by
      simp only [State.raiseLeave, hhere]
      rfl
    have hy : s.raiseLeave true kind data code =
        { s with ctxs := tset s.ctxs k { c with asks := c.asks ++ [y] }, core := { s.core with ahold := .asking } } := by
      simp only [State.raiseLeave, hhere]
      rfl
    refine ⟨hx, hy, ?_, ?_⟩
    · rw [hx]
      exact streamOn_of_not_issuing (by simp [Core.issuing])
    · rw [hy]
      exact streamOn_of_not_issuing (by simp [Core.issuing])
  · simp only [State.raiseLeave, State.here?, hk]

/-! ### The arrivals of a barrier -/

section

variable {q : Barrier} {n pos : Nat}

theorem arrive_waits (h : q.arrived + 1 ≠ n) :
    q.arrive n pos = { q with arrived := q.arrived + 1, last := tset q.last pos q.phase } := if_neg h

theorem arrive_completes (h : q.arrived + 1 = n) :
    q.arrive n pos = { arrived := 0, phase := q.phase + 1, last := tset q.last pos q.phase } := if_pos h

/-- The last arrivals are none of them in a phase to come. -/
def ArrivalsPast (q : Barrier) : Prop := ∀ p ph, tget q.last p = some ph → ph ≤ q.phase

theorem last_arrive_le (hq : ArrivalsPast q) {p ph : Nat} (h : tget (tset q.last pos q.phase) p = some ph) : ph ≤ q.phase := by
  by_cases hp : p = pos
  · rw [hp, tget_tset_same] at h
    exact (Option.some.inj h).ge
  · rw [tget_tset_ne _ _ hp] at h
    exact hq p ph h

end

/-- Settles O36: the last arrival of a phase begins the next one, in which nobody has arrived. -/
theorem lastArrivalCompletesThePhase : Obligations.LastArrivalCompletesThePhase := by
  intro q n pos hq
  refine ⟨fun hn => ?_, fun hn => ?_, fun p ph hp => ?_⟩
  · rw [arrive_waits hn]
    refine ⟨?_, rfl, rfl, fun p hp => ?_⟩
    · simp [Barrier.waits]
    · simp [Barrier.waits, tget_tset_ne _ _ hp]
  · rw [arrive_completes hn]
    refine ⟨rfl, rfl, fun p => decide_eq_false fun hp => ?_⟩
    exact Nat.not_succ_le_self _ (last_arrive_le hq hp)
  · by_cases hn : q.arrived + 1 = n
    · rw [arrive_completes hn] at hp ⊢
      exact (last_arrive_le hq hp).trans (Nat.le_succ _)
    · rw [arrive_waits hn] at hp ⊢
      exact last_arrive_le hq hp

/-! ### What a ready word finds of its context -/

section

variable {s b : State} {len : Nat} {g : BitVec 7} {gn : Bool} {uses : List Nat} (h : s.XReady len g gn uses b)

include h

theorem xReady_here? : b.here? = s.here? := by
  rw [h.acts, here?_takeX, here?_landDue]

theorem xReady_pos : b.core.pos = s.core.pos := by
  rw [xReady_core h, landDue_core_pos]

theorem xReady_ctx : b.core.ctx = s.core.ctx := by
  rw [xReady_core h, landDue_core_ctx]

theorem xReady_syncing : b.core.syncing = s.core.syncing := by
  rw [xReady_core h, landDue_core_syncing]

theorem xReady_partition : b.partition = s.partition := by
  rw [State.partition, State.partition, xReady_here? h]

theorem xReady_ctxs : b.ctxs = s.ctxs := by
  rw [h.acts, takeX_ctxs, landDue_ctxs]

theorem xReady_quiesced : b.quiesced = s.quiesced := by
  rw [h.acts, takeX_quiesced, landDue_quiesced]

end

/-! ### Barrier words -/

/-- A descriptor that breaks the rules of 10 R275, for a core at `pos` of partition `part`. -/
def barrierBad (d : Word) (part pos : Nat) : Prop :=
  2 ^ 31 ≤ d.toNat ∨ subRect (bits d.toNat 17 0) part = false ∨ inRect (bits d.toNat 17 0) pos = false ∨ bits d.toNat 30 18 = 0 ∨
    rectSize (bits d.toNat 17 0) < bits d.toNat 30 18

/-- Some member has another barrier under the same number, at which a core has arrived. -/
def barrierBusy (c : Ctx) (k : Nat) (d : Word) : Prop :=
  ∃ p ∈ rectCores (bits d.toNat 17 0), ∃ e, c.barDesc k p = some e ∧ e ≠ d ∧ (c.bar k e).arrived ≠ 0

theorem barrierBusy_iff (c : Ctx) (k : Nat) (d : Word) : barrierBusy c k d ↔ (rectCores (bits d.toNat 17 0)).any (fun p =>
    (c.barDesc k p).any (fun e => decide (e ≠ d) && decide ((c.bar k e).arrived ≠ 0))) = true := by
  simp only [barrierBusy, List.any_eq_true, Option.any_eq_true, Bool.and_eq_true, decide_eq_true_eq]

/-- The effect of `bar.init` (10 R275). -/
def barInitEnd (r : Xk) (u : State) : WordEnd :=
  match u.here? with
  | none => .trap causeIll 0
  | some (slot, c) =>
    let k := r.imm.toNat % 512
    let d := u.getX 0 r.d.toNat
    let g := bits d.toNat 17 0
    if 2 ^ 31 ≤ d.toNat ∨ !subRect g u.partition ∨ !inRect g u.core.pos ∨ bits d.toNat 30 18 = 0 ∨ rectSize g < bits d.toNat 30 18 then
      .trap causeIll 0
    else if (rectCores g).all (fun p => decide (c.barDesc k p = some d)) then .done u
    else if (rectCores g).any (fun p => (c.barDesc k p).any (fun e => decide (e ≠ d) && decide ((c.bar k e).arrived ≠ 0))) then .trap causeIll 0
    else .done (u.setCtx slot (c.install k d))

theorem barInit_acts (r : Xk) : ActsX r.g r.gn [r.d.toNat] (barInitEnd r) (.barInit r) := fun _ => rfl

section

variable {r : Xk} {u : State} {slot : Nat} {c : Ctx} (hhere : u.here? = some (slot, c))

include hhere

theorem barInitEnd_bad (hbad : barrierBad (u.getX 0 r.d.toNat) u.partition u.core.pos) : barInitEnd r u = .trap causeIll 0 := by
  simp only [barInitEnd, hhere, Bool.not_eq_true', if_pos (show _ ∨ _ from hbad)]

variable (hbad : ¬ barrierBad (u.getX 0 r.d.toNat) u.partition u.core.pos)

include hbad

theorem barInitEnd_legal : barInitEnd r u =
    if (rectCores (bits (u.getX 0 r.d.toNat).toNat 17 0)).all
        (fun p => decide (c.barDesc (r.imm.toNat % 512) p = some (u.getX 0 r.d.toNat))) then .done u
    else if (rectCores (bits (u.getX 0 r.d.toNat).toNat 17 0)).any (fun p => (c.barDesc (r.imm.toNat % 512) p).any (fun e =>
        decide (e ≠ u.getX 0 r.d.toNat) && decide ((c.bar (r.imm.toNat % 512) e).arrived ≠ 0))) then .trap causeIll 0
    else .done (u.setCtx slot (c.install (r.imm.toNat % 512) (u.getX 0 r.d.toNat))) := by
  simp only [barInitEnd, hhere, Bool.not_eq_true', if_neg (show ¬ (_ ∨ _) from hbad)]

/-- A descriptor that stands on every member is not installed again. -/
theorem barInitEnd_stands (hall : ∀ p ∈ rectCores (bits (u.getX 0 r.d.toNat).toNat 17 0),
    c.barDesc (r.imm.toNat % 512) p = some (u.getX 0 r.d.toNat)) : barInitEnd r u = .done u := by
  rw [barInitEnd_legal hhere hbad, if_pos (by simpa using hall)]

variable (hnew : ∃ p ∈ rectCores (bits (u.getX 0 r.d.toNat).toNat 17 0), c.barDesc (r.imm.toNat % 512) p ≠ some (u.getX 0 r.d.toNat))

include hnew

theorem barInitEnd_busy (hbusy : barrierBusy c (r.imm.toNat % 512) (u.getX 0 r.d.toNat)) : barInitEnd r u = .trap causeIll 0 := by
  rw [barInitEnd_legal hhere hbad, if_neg (by simpa using hnew), if_pos ((barrierBusy_iff _ _ _).mp hbusy)]

theorem barInitEnd_installs (hbusy : ¬ barrierBusy c (r.imm.toNat % 512) (u.getX 0 r.d.toNat)) :
    barInitEnd r u = .done (u.setCtx slot (c.install (r.imm.toNat % 512) (u.getX 0 r.d.toNat))) := by
  rw [barInitEnd_legal hhere hbad, if_neg (by simpa using hnew), if_neg (mt (barrierBusy_iff _ _ _).mpr hbusy)]

end

/-- The barrier at which the core's `bar.sync` waits: none, or one under a number. -/
def synced (u : State) (k : Option Nat) : State := { u with core := { u.core with syncing := k } }

/-- The effects of the words on the barrier of a number `k`, given what is installed there (10 R276). -/
def barArrEnd (k : Nat) (u : State) (slot : Nat) (c : Ctx) (b : Option (Word × Barrier)) : WordEnd :=
  match b with
  | none => .trap causeIll 0
  | some (d, q) => if q.waits u.core.pos then .wait u else u.xOrdered fun v => .done (v.barArrive slot c k d)

def barWaitEnd (u : State) (_slot : Nat) (_c : Ctx) (b : Option (Word × Barrier)) : WordEnd :=
  match b with
  | none => .done u
  | some (_, q) => if q.waits u.core.pos then .wait u else .done u

def barSyncEnd (k : Nat) (u : State) (slot : Nat) (c : Ctx) (b : Option (Word × Barrier)) : WordEnd :=
  match b with
  | none => .trap causeIll 0
  | some (d, q) =>
    if q.waits u.core.pos then .wait u
    else if u.core.syncing = some k then .done (synced u none)
    else u.xOrdered fun v =>
      if (q.arrive (bits d.toNat 30 18) v.core.pos).waits v.core.pos then .wait (synced (v.barArrive slot c k d) (some k))
      else .done (synced (v.barArrive slot c k d) none)

/-- Whatever the state, the word acts as `f` says on what is installed under its number. -/
def ActsBarrier (r : Xk) (f : State → Nat → Ctx → Option (Word × Barrier) → WordEnd) (i : Instr) : Prop :=
  ∀ s, exec i s = .next (xBarrier r f s)

theorem barArr_acts (r : Xk) : ActsBarrier r (barArrEnd (r.imm.toNat % 512)) (.barArr r) := fun _ => rfl

theorem barWait_acts (r : Xk) : ActsBarrier r barWaitEnd (.barWait r) := fun _ => rfl

theorem barSync_acts (r : Xk) : ActsBarrier r (barSyncEnd (r.imm.toNat % 512)) (.barSync r) := fun _ => rfl

section

variable {r : Xk} {f : State → Nat → Ctx → Option (Word × Barrier) → WordEnd} {i : Instr} {s b : State} {slot : Nat} {c : Ctx}
  {e : WordEnd} (h : ActsBarrier r f i) (hr : s.XReady 1 r.g r.gn [] b) (hhere : s.here? = some (slot, c))

include h hr hhere

theorem ActsBarrier.ready : exec i s =
    .next (readyEnd b 1 (f b slot c ((c.barDesc (r.imm.toNat % 512) s.core.pos).map fun d => (d, c.bar (r.imm.toNat % 512) d)))) := by
  rw [h s, xBarrier, xWord_ready _ hr, xReady_here? hr, hhere, ← xReady_pos hr]

theorem ActsBarrier.absent (hd : c.barDesc (r.imm.toNat % 512) s.core.pos = none) (he : f b slot c none = e) :
    exec i s = .next (readyEnd b 1 e) := by
  rw [h.ready hr hhere, hd, Option.map_none, he]

theorem ActsBarrier.installed {d : Word} (hd : c.barDesc (r.imm.toNat % 512) s.core.pos = some d)
    (he : f b slot c (some (d, c.bar (r.imm.toNat % 512) d)) = e) : exec i s = .next (readyEnd b 1 e) := by
  rw [h.ready hr hhere, hd, Option.map_some, he]

end

section

variable {k slot : Nat} {u : State} {c : Ctx} {d : Word} {q : Barrier}

theorem barWordEnds_wait (hw : q.waits u.core.pos = true) : barArrEnd k u slot c (some (d, q)) = .wait u ∧
    barWaitEnd u slot c (some (d, q)) = .wait u ∧ barSyncEnd k u slot c (some (d, q)) = .wait u :=
  ⟨if_pos hw, if_pos hw, if_pos hw⟩

variable (hw : q.waits u.core.pos = false)

include hw

theorem barArrEnd_arrives : barArrEnd k u slot c (some (d, q)) = u.xOrdered fun v => .done (v.barArrive slot c k d) :=
  if_neg (Bool.eq_false_iff.mp hw)

theorem barWaitEnd_passes : barWaitEnd u slot c (some (d, q)) = .done u := if_neg (Bool.eq_false_iff.mp hw)

theorem barSyncEnd_ends (hs : u.core.syncing = some k) : barSyncEnd k u slot c (some (d, q)) = .done (synced u none) :=
  (if_neg (Bool.eq_false_iff.mp hw)).trans (if_pos hs)

variable (hs : u.core.syncing ≠ some k)

include hs

theorem barSyncEnd_holds (hm : u.core.memReady = false) : barSyncEnd k u slot c (some (d, q)) = .wait u :=
  ((if_neg (Bool.eq_false_iff.mp hw)).trans (if_neg hs)).trans (if_neg (Bool.eq_false_iff.mp hm))

variable (hm : u.core.memReady = true)

include hm

theorem barSyncEnd_arrives : barSyncEnd k u slot c (some (d, q)) =
    if (q.arrive (bits d.toNat 30 18) u.core.pos).waits u.core.pos then .wait (synced (u.barArrive slot c k d) (some k))
    else .done (synced (u.barArrive slot c k d) none) :=
  ((if_neg (Bool.eq_false_iff.mp hw)).trans (if_neg hs)).trans (if_pos hm)

end

theorem barArrive_eq (u : State) (slot : Nat) (c : Ctx) (k : Nat) (d : Word) : u.barArrive slot c k d =
    u.setCtx slot { c with bars := tset c.bars (barKey k d) ((c.bar k d).arrive (bits d.toNat 30 18) u.core.pos) } := rfl

/-- Settles O35: what the number of the barrier names at the core, and where its last arrival is, decides what each word does. -/
theorem barrierWordsCountArrivals : Obligations.BarrierWordsCountArrivals := by
  refine ⟨fun r s b slot c hr hhere => ?_, fun r s b slot c hr hhere => ?_⟩
  · intro k d g bad
    have hhere' : b.here? = some (slot, c) := (xReady_here? hr).trans hhere
    have hbad : barrierBad d b.partition b.core.pos ↔ bad := by rw [xReady_partition hr, xReady_pos hr]; rfl
    have hacts := barInit_acts r
    exact ⟨fun hb => hacts.trap hr (barInitEnd_bad hhere' (hbad.mpr hb)),
      fun hb hall => hacts.done hr (barInitEnd_stands hhere' (mt hbad.mp hb) hall),
      fun hb hnew => ⟨fun hbusy => hacts.trap hr (barInitEnd_busy hhere' (mt hbad.mp hb) hnew hbusy),
        fun hbusy => hacts.done hr (barInitEnd_installs hhere' (mt hbad.mp hb) hnew hbusy)⟩⟩
  · intro k pos
    have harr := barArr_acts r
    have hwait := barWait_acts r
    have hsync := barSync_acts r
    refine ⟨fun hd => ⟨harr.absent hr hhere hd rfl, hsync.absent hr hhere hd rfl, hwait.absent hr hhere hd rfl⟩, fun d hd => ?_⟩
    have hpos : b.core.pos = pos := xReady_pos hr
    rw [← xReady_memReady hr, ← xReady_syncing hr, ← hpos]
    intro q q' t
    refine ⟨fun hw => ?_, fun hw => ⟨?_, hwait.installed hr hhere hd (barWaitEnd_passes hw), fun hs => ?_, fun hs hm => ?_,
      fun hs hm hq => ?_, fun hs hm hq => ?_⟩⟩
    · obtain ⟨ha, hh, hy⟩ := barWordEnds_wait (k := k) (slot := slot) (c := c) (d := d) hw
      exact ⟨harr.installed hr hhere hd ha, hwait.installed hr hhere hd hh, hsync.installed hr hhere hd hy⟩
    · rw [harr.installed hr hhere hd (barArrEnd_arrives hw), State.xOrdered]
      split <;> rfl
    · exact hsync.installed hr hhere hd (barSyncEnd_ends hw hs)
    · exact hsync.installed hr hhere hd (barSyncEnd_holds hw hs hm)
    · exact hsync.installed hr hhere hd ((barSyncEnd_arrives hw hs hm).trans (if_pos hq))
    · exact hsync.installed hr hhere hd ((barSyncEnd_arrives hw hs hm).trans (if_neg (Bool.eq_false_iff.mp hq)))

end Sys2Proof.Proofs
end

section
/-! Events, and the words that hand over, launch, end and identify (10 R248, R255-R261, R269, R270, R279; 02 R44). -/

namespace Sys2Proof.Proofs

open Sys2Proof.Machine Sys2Proof.Claims Sys2Proof.Laws

/-! ### Peers and the contexts that handles name (10 R248) -/

theorem isPeer_iff {s : State} {k y : Nat} {c v : Ctx} (hv : tget s.ctxs y = some v) :
    s.isPeer k c y = true ↔ y = k ∨ (v.tdom = c.tdom ∧ (c.super = true ∨ v.asid = c.asid)) := by
  simp only [State.isPeer, hv, Bool.or_eq_true, Bool.and_eq_true, decide_eq_true_eq]

section

variable {s : State} {k : Nat} {c : Ctx} (hhere : s.here? = some (k, c))

include hhere

theorem eventTarget_zero : s.eventTarget 0 = some k := by
  rw [State.eventTarget, hhere]
  rfl

variable {a : Nat} (ha : a ≠ 0)

include ha

theorem eventTarget_stale (hslot : s.slotOf (s.getX 0 a).toNat = none) : s.eventTarget a = none := by
  simp only [State.eventTarget, hhere, if_neg ha, hslot]

theorem eventTarget_named {y : Nat} (hslot : s.slotOf (s.getX 0 a).toNat = some y) :
    s.eventTarget a = if (s.getX 0 a).toNat < 2 ^ 32 ∧ s.isPeer k c y then some y else none := by
  simp only [State.eventTarget, hhere, if_neg ha, hslot]

theorem eventTarget_wide (hw : 2 ^ 32 ≤ (s.getX 0 a).toNat) : s.eventTarget a = none := by
  cases hslot : s.slotOf (s.getX 0 a).toNat with
  | none => exact eventTarget_stale hhere ha hslot
  | some y => rw [eventTarget_named hhere ha hslot, if_neg fun h => Nat.not_lt.mpr hw h.1]

theorem eventTarget_iff_peer {y : Nat} {v : Ctx} (hw : (s.getX 0 a).toNat < 2 ^ 32) (hslot : s.slotOf (s.getX 0 a).toNat = some y)
    (hv : tget s.ctxs y = some v) :
    s.eventTarget a = some y ↔ y = k ∨ (v.tdom = c.tdom ∧ (c.super = true ∨ v.asid = c.asid)) := by
  rw [eventTarget_named hhere ha hslot, ← isPeer_iff hv]
  simp only [Option.ite_none_right_eq_some, hw, true_and, and_true]

end

/-! ### Event words (10 R260, R261) -/

def evSetEnd (r : Xi) (u : State) : WordEnd :=
  match u.eventTarget r.a.toNat with
  | none => .trap causeViol 0
  | some y => u.xOrdered fun v => .done (v.setEvent y (r.imm.toNat % 256))

def evClrEnd (r : Xi) (u : State) : WordEnd :=
  match u.eventTarget r.a.toNat with
  | none => .trap causeViol 0
  | some y => match tget u.ctxs y with
    | none => .trap causeViol 0
    | some c => .done (u.setCtx y { c with events := c.events &&& ~~~(BitVec.twoPow 256 (r.imm.toNat % 256)) })

def evWaitEnd (r : Xi) (u : State) : WordEnd :=
  let w := (r.imm.extractLsb' 0 2).toNat
  let any := r.imm.getLsbD 2
  let mask := u.getX 0 r.a.toNat
  match u.here? with
  | none => .trap causeIll 0
  | some (k, c) =>
    if any ∧ mask = 0 then .trap causeIll 0
    else if waitSat c.events w any mask then .done (u.setCtx k { c with events := consume c.events w mask })
    else .leave (.wait w any mask (u.getX 1 r.d.toNat).toNat) 0 0

theorem evSet_acts (r : Xi) : ActsX r.g r.gn [r.a.toNat] (evSetEnd r) (.evSet r) := fun _ => rfl

theorem evClr_acts (r : Xi) : ActsX r.g r.gn [r.a.toNat] (evClrEnd r) (.evClr r) := fun _ => rfl

theorem evWait_acts (r : Xi) : ActsX r.g r.gn [r.a.toNat, r.d.toNat] (evWaitEnd r) (.evWait r) := fun _ => rfl

section

variable {r : Xi} {u : State}

theorem evEnds_of_no_target (ht : u.eventTarget r.a.toNat = none) :
    evSetEnd r u = .trap causeViol 0 ∧ evClrEnd r u = .trap causeViol 0 := by
  rw [evSetEnd, evClrEnd, ht]
  exact ⟨rfl, rfl⟩

variable {y : Nat} (ht : u.eventTarget r.a.toNat = some y)

include ht

theorem evSetEnd_sets : evSetEnd r u = u.xOrdered fun v => .done (v.setEvent y (r.imm.toNat % 256)) := by
  rw [evSetEnd, ht]

theorem evClrEnd_clears {c : Ctx} (hc : tget u.ctxs y = some c) : evClrEnd r u =
    .done (u.setCtx y { c with events := c.events &&& ~~~(BitVec.twoPow 256 (r.imm.toNat % 256)) }) := by
  simp only [evClrEnd, ht, hc]

end

theorem waitSat_iff (v : BitVec 256) (w : Nat) (any : Bool) (mask : Word) : waitSat v w any mask = true ↔
    if any then eventWord v w &&& mask ≠ 0 else eventWord v w &&& mask = mask := by
  cases any <;> simp [waitSat]

section

variable {r : Xi} {u : State} {k : Nat} {c : Ctx} (hhere : u.here? = some (k, c))

include hhere

theorem evWaitEnd_empty (h : r.imm.getLsbD 2 = true ∧ u.getX 0 r.a.toNat = 0) : evWaitEnd r u = .trap causeIll 0 := by
  simp only [evWaitEnd, hhere, if_pos h]

variable (h : ¬ (r.imm.getLsbD 2 = true ∧ u.getX 0 r.a.toNat = 0))

include h

theorem evWaitEnd_goes_on (hs : waitSat c.events (r.imm.extractLsb' 0 2).toNat (r.imm.getLsbD 2) (u.getX 0 r.a.toNat) = true) :
    evWaitEnd r u = .done (u.setCtx k { c with events := consume c.events (r.imm.extractLsb' 0 2).toNat (u.getX 0 r.a.toNat) }) := by
  simp only [evWaitEnd, hhere, if_neg h, if_pos hs]

theorem evWaitEnd_leaves (hs : ¬ waitSat c.events (r.imm.extractLsb' 0 2).toNat (r.imm.getLsbD 2) (u.getX 0 r.a.toNat) = true) :
    evWaitEnd r u =
      .leave (.wait (r.imm.extractLsb' 0 2).toNat (r.imm.getLsbD 2) (u.getX 0 r.a.toNat) (u.getX 1 r.d.toNat).toNat) 0 0 := by
  simp only [evWaitEnd, hhere, if_neg h, if_neg hs]

end

/-- Settles O37: the target of an event word, or what the vector of the context holds, decides what the word does. -/
theorem eventWordsSetClearAndWait : Obligations.EventWordsSetClearAndWait := by
  refine ⟨fun r s b hr => ⟨fun ht => ?_, fun y ht => ?_, fun y c ht hc => ?_⟩, fun r s b k c hr hhere => ?_, fun s k a c hhere => ?_⟩
  · obtain ⟨hset, hclr⟩ := evEnds_of_no_target ht
    exact ⟨(evSet_acts r).trap hr hset, (evClr_acts r).trap hr hclr⟩
  · rw [(evSet_acts r).ready hr, evSetEnd_sets ht, State.xOrdered, xReady_memReady hr]
    split <;> rfl
  · rw [← xReady_ctxs hr] at hc
    exact (evClr_acts r).done hr (evClrEnd_clears ht hc)
  · intro w any mask word sat
    have hhere' : b.here? = some (k, c) := (xReady_here? hr).trans hhere
    have hsat : waitSat c.events w any mask = true ↔ sat := waitSat_iff c.events w any mask
    have hacts := evWait_acts r
    exact ⟨fun ha hm => hacts.trap hr (evWaitEnd_empty hhere' ⟨ha, hm⟩),
      fun h hs => hacts.done hr (evWaitEnd_goes_on hhere' h (hsat.mpr hs)),
      fun h hs => hacts.leave hr (evWaitEnd_leaves hhere' h (mt hsat.mp hs))⟩
  · exact ⟨eventTarget_zero hhere, eventTarget_wide hhere, eventTarget_stale hhere,
      fun ha y v hw hslot hv => eventTarget_iff_peer hhere ha hw hslot hv⟩

/-! ### Yield and transfer (10 R269, R270) -/

theorem ctxYield_acts (r : Xr) : ActsX r.g r.gn [] (fun _ => .leave .yield 0 0) (.ctxYield r) := fun _ => rfl

theorem trap_acts (r : Xk) : ActsX r.g r.gn [] (fun _ => .leave (.fault causeTrap) 0 r.imm) (.trap r) := fun _ => rfl

/-- The handle that a transfer's register holds. -/
def xferHandle (r : Xr) (u : State) : Nat := (u.getX 0 r.a.toNat).toNat

/-- A transfer that is refused with a status. -/
def xferAnswer (r : Xr) (u : State) (n : Nat) : WordEnd := .done (u.setX r.d.toNat (BitVec.ofNat 64 n))

def ctxXferEnd (r : Xr) (u : State) : WordEnd :=
  match u.here? with
  | none => xferAnswer r u 1
  | some (k, c) =>
    match (if xferHandle r u < 2 ^ 32 then u.slotOf (xferHandle r u) else none) with
    | none => xferAnswer r u 1
    | some y => match tget u.ctxs y with
      | none => xferAnswer r u 1
      | some cy =>
        if !u.isPeer k c y then xferAnswer r u 3
        else match cy.nextLaunch with
          | none => xferAnswer r u 2
          | some (_, q) =>
            if cy.state = .ready ∧ bits q.rect.toNat 17 12 = bits u.partition 17 12 then
              .leave (.xfer y r.d.toNat) (u.getX 0 r.a.toNat) 0
            else xferAnswer r u 2

theorem ctxXfer_acts (r : Xr) : ActsX r.g r.gn [r.a.toNat, 64 + r.d.toNat] (ctxXferEnd r) (.ctxXfer r) := fun _ => rfl

section

variable {r : Xr} {u : State} {k : Nat} {c : Ctx} (hhere : u.here? = some (k, c))

include hhere

theorem ctxXferEnd_stale (h : 2 ^ 32 ≤ xferHandle r u ∨ u.slotOf (xferHandle r u) = none) : ctxXferEnd r u = xferAnswer r u 1 := by
  have hnone : (if xferHandle r u < 2 ^ 32 then u.slotOf (xferHandle r u) else none) = none :=
    ite_eq_right_iff.mpr fun hlt => h.resolve_left (Nat.not_le.mpr hlt)
  simp only [ctxXferEnd, hhere, hnone]

variable {y : Nat} {v : Ctx} (hlt : xferHandle r u < 2 ^ 32) (hslot : u.slotOf (xferHandle r u) = some y) (hv : tget u.ctxs y = some v)

include hlt hslot hv

theorem ctxXferEnd_stranger (hp : u.isPeer k c y = false) : ctxXferEnd r u = xferAnswer r u 3 := by
  simp only [ctxXferEnd, hhere, if_pos hlt, hslot, hv, hp, Bool.not_false, if_true]

variable (hp : u.isPeer k c y = true)

include hp

theorem ctxXferEnd_idle (hn : v.nextLaunch = none) : ctxXferEnd r u = xferAnswer r u 2 := by
  simp only [ctxXferEnd, hhere, if_pos hlt, hslot, hv, hp, Bool.not_true, Bool.false_eq_true, if_false, hn]

theorem ctxXferEnd_peer {pa : Nat} {q : LaunchRec} (hn : v.nextLaunch = some (pa, q)) : ctxXferEnd r u =
    if v.state = .ready ∧ bits q.rect.toNat 17 12 = bits u.partition 17 12 then .leave (.xfer y r.d.toNat) (u.getX 0 r.a.toNat) 0
    else xferAnswer r u 2 := by
  simp only [ctxXferEnd, hhere, if_pos hlt, hslot, hv, hp, Bool.not_true, Bool.false_eq_true, if_false, hn]

end

/-! ### Launch (10 R255) -/

def launchEnd (r : Xr) (u : State) : WordEnd :=
  if u.quiesced then .wait u
  else match u.here? with
    | none => .trap causeIll 0
    | some (k, c) =>
      match u.armRecord (.launch k) (.virt c.tdom c.asid) (u.getX 0 r.a.toNat).toNat with
      | (t, .ok n) => .done (t.setX r.d.toNat (BitVec.ofNat 64 n))
      | (_, .pages v) => .trap causePages (BitVec.ofNat 64 v)
      | (_, .viol v) => .trap causeViol (BitVec.ofNat 64 v)
      | (_, .data v) => .trap causeData (BitVec.ofNat 64 v)
      | (_, .dev v) => .trap causeViol (BitVec.ofNat 64 v)
      | (_, .far _) => .wait u

theorem launch_ordered (r : Xr) : OrderedWord r.g r.gn [r.a.toNat, 64 + r.d.toNat] (launchEnd r) (.launch r) := fun _ => rfl

theorem launchEnd_quiesced {r : Xr} {u : State} (hq : u.quiesced = true) : launchEnd r u = .wait u := if_pos hq

/-- How `launch` ends by the outcome of arming its record. -/
theorem launchEnd_armed {r : Xr} {u t : State} {k : Nat} {c : Ctx} {g : Got Nat} (hq : u.quiesced = false) (hhere : u.here? = some (k, c))
    (ho : u.armRecord (.launch k) (.virt c.tdom c.asid) (u.getX 0 r.a.toNat).toNat = (t, g)) : launchEnd r u =
    match g with
    | .ok n => .done (t.setX r.d.toNat (BitVec.ofNat 64 n))
    | .pages v => .trap causePages (BitVec.ofNat 64 v)
    | .viol v => .trap causeViol (BitVec.ofNat 64 v)
    | .data v => .trap causeData (BitVec.ofNat 64 v)
    | .dev v => .trap causeViol (BitVec.ofNat 64 v)
    | .far _ => .wait u := by
  simp only [launchEnd, hq, hhere, ho, Bool.false_eq_true, if_false]
  cases g <;> rfl

/-! ### Exit (10 R256) -/

def exitEnd (u : State) : WordEnd :=
  if u.core.vq.isEmpty && u.core.mq.isEmpty then .done { u with core := { u.core.landAll with xexited := true } } else .wait u

/-- What the exit of a stream makes of the launch of the context in a slot. -/
def afterExit (slot : Nat) (t : State) : State := if t.core.xexited then t.checkEnd slot else t

theorem exec_exit (r : Xr) (s : State) : exec (.exit r) s = .next (afterExit (s.core.ctx.getD 0) (s.xWord r.g r.gn [] exitEnd)) := rfl

theorem xDone_xexited (s : State) (n : Nat) : (s.xDone n).core.xexited = s.core.xexited := by
  rw [xDone_frame]

section

variable {r : Xr} {s b : State} (hr : s.XReady 1 r.g r.gn [] b)

include hr

theorem exec_exit_idle (hv : s.core.vq = []) (hm : s.core.mq = []) : exec (.exit r) s =
    .next ((({ b with core := { b.core.landAll with xexited := true } } : State).xDone 1).checkEnd (s.core.ctx.getD 0)) := by
  have hend : exitEnd b = .done { b with core := { b.core.landAll with xexited := true } } :=
    if_pos (by rw [xReady_vq hr, xReady_mq hr, hv, hm]; rfl)
  rw [exec_exit, xWord_ready _ hr, hend, readyEnd, afterExit, xDone_xexited, if_pos rfl]

theorem exec_exit_busy (hx : s.core.xexited = false) (h : s.core.vq ≠ [] ∨ s.core.mq ≠ []) : exec (.exit r) s = .next b.xWait := by
  have hend : exitEnd b = .wait b := if_neg (by
    simpa only [xReady_vq hr, xReady_mq hr, Bool.and_eq_true, List.isEmpty_iff, not_and_or] using h)
  have hstay : b.xWait.core.xexited = false := by
    rw [show b.xWait.core.xexited = b.core.xexited from rfl, xReady_core hr, landDue_core_xexited, hx]
  rw [exec_exit, xWord_ready _ hr, hend, readyEnd, afterExit, hstay, if_neg Bool.false_ne_true]

end

/-! ### Identity and time (10 R279) -/

/-- What `id` reads: column, row, handle, partition, die. -/
def idValue (u : State) (m : Nat) : Nat :=
  match m with
  | 0 => u.core.pos % 64
  | 1 => u.core.pos / 64
  | 2 => u.handleOf (u.core.ctx.getD 0)
  | 3 => u.partition
  | _ => dieOf u.core.pos

theorem id_acts (r : Xr) : ActsX r.g r.gn [64 + r.d.toNat]
    (fun u => .done (u.putX r.d.toNat (BitVec.ofNat 64 (idValue u r.m.toNat)) 0 0)) (.id r) := fun _ => rfl

theorem time_acts (r : Xr) : ActsX r.g r.gn [64 + r.d.toNat]
    (fun u => .done (u.putX r.d.toNat (BitVec.ofNat 64 (if r.m = 0 then u.ptp else u.cycle)) 3 0)) (.time r) := fun _ => rfl

theorem idValue_eq (u : State) (m : BitVec 4) : idValue u m.toNat =
    if m = 0 then u.core.pos % 64 else if m = 1 then u.core.pos / 64 else if m = 2 then u.handleOf (u.core.ctx.getD 0)
    else if m = 3 then u.partition else dieOf u.core.pos := by
  have hm : ∀ n : Nat, n < 16 → (m = BitVec.ofNat 4 n ↔ m.toNat = n) := fun n hn => by
    rw [← BitVec.toNat_inj, BitVec.toNat_ofNat, Nat.mod_eq_of_lt hn]
  have h0 : m = 0 ↔ m.toNat = 0 := hm 0 (by decide)
  have h1 : m = 1 ↔ m.toNat = 1 := hm 1 (by decide)
  have h2 : m = 2 ↔ m.toNat = 2 := hm 2 (by decide)
  have h3 : m = 3 ↔ m.toNat = 3 := hm 3 (by decide)
  simp only [h0, h1, h2, h3]
  unfold idValue
  split <;> simp_all

theorem xReady_ptp {s b : State} {len : Nat} {g : BitVec 7} {gn : Bool} {uses : List Nat} (h : s.XReady len g gn uses b) :
    b.ptp = s.ptp := by
  rw [h.acts, takeX_ptp, landDue_ptp]

theorem xReady_handleOf {s b : State} {len : Nat} {g : BitVec 7} {gn : Bool} {uses : List Nat} (h : s.XReady len g gn uses b) (k : Nat) :
    b.handleOf k = s.handleOf k := by
  rw [State.handleOf, State.handleOf, h.acts, takeX_instars, landDue_instars]

/-- Settles O38, word by word: a transfer goes by what its handle names, a launch by how its record arms, an exit by its commands. -/
theorem progressWordsAct : Obligations.ProgressWordsAct := by
  refine ⟨fun r s b hr => (ctxYield_acts r).leave hr rfl, fun r s b hr => (trap_acts r).leave hr rfl, fun r s b k c hr hhere => ?_,
    fun r s b k c hr hhere => ?_, fun r s b hr hx => ⟨exec_exit_idle hr, exec_exit_busy hr hx⟩, fun r s b hr => ?_⟩
  · have hhere' : b.here? = some (k, c) := (xReady_here? hr).trans hhere
    have hacts := ctxXfer_acts r
    intro h status
    refine ⟨fun hstale => hacts.done hr (ctxXferEnd_stale hhere' hstale), fun y v hlt hslot hv => ?_⟩
    rw [← xReady_ctxs hr] at hv
    have hpeer := isPeer_iff (k := k) (c := c) hv
    intro peer
    refine ⟨fun hp => ?_, fun hp hn => ?_, fun pa q hp hn => ⟨fun hw => ?_, fun hw => ?_⟩⟩
    · exact hacts.done hr (ctxXferEnd_stranger hhere' hlt hslot hv (Bool.eq_false_iff.mpr (mt hpeer.mp hp)))
    · exact hacts.done hr (ctxXferEnd_idle hhere' hlt hslot hv (hpeer.mpr hp) hn)
    · rw [← xReady_partition hr] at hw
      exact hacts.done hr ((ctxXferEnd_peer hhere' hlt hslot hv (hpeer.mpr hp) hn).trans (if_neg hw))
    · rw [← xReady_partition hr] at hw
      exact hacts.leave hr ((ctxXferEnd_peer hhere' hlt hslot hv (hpeer.mpr hp) hn).trans (if_pos hw))
  · have hhere' : b.here? = some (k, c) := (xReady_here? hr).trans hhere
    have hord := launch_ordered r
    intro o
    rw [← xReady_quiesced hr]
    refine ⟨fun h => ?_, fun hm hq => ⟨fun t n ho => ?_, fun t v ho => ?_, fun t v ho => ?_, fun t v ho => ?_, fun t v ho => ?_⟩⟩
    · cases hm : s.core.memReady with
      | false => exact hord.holds hr hm
      | true => exact hord.wait hr hm (launchEnd_quiesced (h.resolve_left (by simp [hm])))
    · exact hord.done hr hm (launchEnd_armed hq hhere' ho)
    · exact hord.trap hr hm (launchEnd_armed hq hhere' ho)
    · exact hord.trap hr hm (launchEnd_armed hq hhere' ho)
    · exact hord.trap hr hm (launchEnd_armed hq hhere' ho)
    · exact hord.wait hr hm (launchEnd_armed hq hhere' ho)
  · intro pos v
    have hv : idValue b r.m.toNat = v := by
      rw [idValue_eq, xReady_pos hr, xReady_handleOf hr, xReady_ctx hr, xReady_partition hr]
    refine ⟨?_, ?_⟩
    · rw [← hv]
      exact (id_acts r).done hr rfl
    · rw [← xReady_ptp hr, ← xReady_cycle hr]
      exact (time_acts r).done hr rfl

end Sys2Proof.Proofs
end

section
/-! What the synchronising words leave alone (10 R256-R261, R269, R275, R276, R279; 08 R212, R224): the shell of a word keeps
`SyncFrame`, and so does an update of the core's few fields and of the contexts. -/

namespace Sys2Proof.Proofs

open Sys2Proof.Machine Sys2Proof.Claims Sys2Proof.Laws

/-! ### Words that may also leave -/

section

variable {P : State → Prop} (hP : ∀ t u, ShellMoves t u → P t → P u)

include hP

theorem xEnd_leave_keeps {u : State} {len : Nat} (kind : AskKind) (data : Word) (code : BitVec 32) (hu : P u) :
    P (u.xEnd len (.leave kind data code)) := by
  simp only [State.xEnd]
  split <;> exact hP _ _ (shellMoves_raise u _ _ _) hu

/-- As `xWordN_keeps`, of a word that may also raise a leave request of its own. -/
theorem xWordN_keeps_leave {s : State} {len : Nat} {g : BitVec 7} {gn : Bool} {uses : List Nat} {f : State → WordEnd} (h0 : P s.landDue)
    (hf : P (s.landDue.takeX uses) → EndsIn P (f (s.landDue.takeX uses)) ∨ ∃ kind data code, f (s.landDue.takeX uses) = .leave kind data code) :
    P (s.xWordN len g gn uses f) := by
  have htaken : P (s.landDue.takeX uses) := hP _ _ (streamMoves_takeX _ uses).shell h0
  refine xWordN_ind (fun z => ?_) ?_ ?_ ?_
  · exact hP _ _ (shellMoves_raise _ _ _ _) h0
  · exact hP _ _ (streamMoves_xWait _).shell h0
  · exact hP _ _ (streamMoves_xDone _ len).shell h0
  · rcases hf htaken with he | ⟨kind, data, code, he⟩
    · exact xEnd_keeps hP htaken he
    · rw [he]
      exact xEnd_leave_keeps hP kind data code htaken

end

/-! ### The frame -/

section

variable {s t u : State} {d : Option Nat}

theorem syncFrame_landDue (s : State) (d : Option Nat) : SyncFrame s s.landDue d :=
  ⟨rfl, sameButCounts_refl s, rfl, fun _ _ => ⟨rfl, rfl⟩, rfl, fun _ => rfl⟩

theorem syncFrame_shell (hm : ShellMoves t u) (h : SyncFrame s t d) : SyncFrame s u d := by
  obtain ⟨hrest, hcounts, hcore⟩ := hm
  have hx : u.core.x = t.core.x := by rw [hcore]; rfl
  have hbad : u.core.xbad = t.core.xbad := by rw [hcore]; rfl
  have hwins : u.core.wins = t.core.wins := by rw [hcore]; rfl
  have hclk : u.core.xclk = t.core.xclk := by rw [hcore]; rfl
  have hsync : u.core.syncing = t.core.syncing := by rw [hcore]; rfl
  exact
    { rest := by rw [hrest, h.rest]
      counts := sameButCounts_trans h.counts hcounts
      core := by
        rw [hx, hbad, hwins, hclk, hsync]
        exact hcore.trans (congrArg (withPlace · u.core) h.core)
      others := fun i hi => by rw [hx, hbad]; exact h.others i hi
      undef := by rw [hx]; exact h.undef
      memory := fun a => by rw [hrest]; exact h.memory a }

/-- A word's own update: of the core and the contexts alone, and of the core only what a synchronising word may change. -/
structure SyncUpdate (t u : State) (d : Option Nat) : Prop where
  rest : u = { t with core := u.core, ctxs := u.ctxs }
  core : u.core = { t.core with
    x := u.core.x, xbad := u.core.xbad, wins := u.core.wins, xcycle := u.core.xcycle, xhold := u.core.xhold, xclk := u.core.xclk,
    syncing := u.core.syncing }
  others : ∀ i, some i ≠ d → tget u.core.x.cells i = tget t.core.x.cells i ∧ tget u.core.xbad i = tget t.core.xbad i
  undef : u.core.x.undef = t.core.x.undef

theorem SyncUpdate.frame (hm : SyncUpdate t u d) (h : SyncFrame s t d) : SyncFrame s u d where
  rest := by rw [hm.rest, h.rest]
  counts := fun e => by rw [hm.rest]; exact h.counts e
  core := by rw [hm.core, h.core]
  others := fun i hi => by
    obtain ⟨hx, hbad⟩ := hm.others i hi
    rw [hx, hbad]
    exact h.others i hi
  undef := hm.undef.trans h.undef
  memory := fun a => by rw [hm.rest]; exact h.memory a

theorem syncUpdate_refl (t : State) (d : Option Nat) : SyncUpdate t t d := ⟨rfl, rfl, fun _ _ => ⟨rfl, rfl⟩, rfl⟩

theorem syncUpdate_setCtx (t : State) (k : Nat) (c : Ctx) (d : Option Nat) : SyncUpdate t (t.setCtx k c) d :=
  ⟨rfl, rfl, fun _ _ => ⟨rfl, rfl⟩, rfl⟩

theorem syncUpdate_synced (t : State) (k : Nat) (c : Ctx) (b d : Option Nat) : SyncUpdate t (synced (t.setCtx k c) b) d :=
  ⟨rfl, rfl, fun _ _ => ⟨rfl, rfl⟩, rfl⟩

section

variable (hx : t.core.x.wf = true) (hbad : tableFrom 0 t.core.xbad = true)

include hx hbad

theorem syncUpdate_setX (i : Nat) (v : Word) : SyncUpdate t (t.setX i v) (some i) := by
  unfold State.setX
  split
  · exact syncUpdate_refl t _
  · refine ⟨rfl, rfl, fun j hj => ?_, rfl⟩
    have hne : j ≠ i := fun h => hj (congrArg some h)
    exact ⟨tget_cells_put_ne hx v hne, tget_tdel_ne hbad hne⟩

theorem syncUpdate_putX (i : Nat) (v : Word) (lb : BitVec 3) (fl : BitVec 5) : SyncUpdate t (t.putX i v lb fl) (some i) where
  rest := by rw [putX_frame]
  core := by rw [putX_frame]
  others := fun j hj => by
    have hne : j ≠ i := fun h => hj (congrArg some h)
    exact ⟨tget_putX_x_ne hx hne, tget_putX_xbad_ne hbad hne⟩
  undef := putX_undef

end

end

/-! ### The words -/

/-- How a synchronising word ends, from the state that it acts on: it traps, it leaves, or it goes on or waits with its own update. -/
inductive SyncEnds (u : State) (d : Option Nat) : WordEnd → Prop
  | done {t : State} (h : SyncUpdate u t d) : SyncEnds u d (.done t)
  | wait {t : State} (h : SyncUpdate u t d) : SyncEnds u d (.wait t)
  | trap (cause : Nat) (data : Word) : SyncEnds u d (.trap cause data)
  | leave (kind : AskKind) (data : Word) (code : BitVec 32) : SyncEnds u d (.leave kind data code)

theorem SyncEnds.keeps {s u : State} {d : Option Nat} {e : WordEnd} (h : SyncEnds u d e) (hu : SyncFrame s u d) :
    EndsIn (SyncFrame s · d) e ∨ ∃ kind data code, e = .leave kind data code := by
  cases h with
  | done ht => exact .inl (ht.frame hu)
  | wait ht => exact .inl (ht.frame hu)
  | trap cause data => exact .inl trivial
  | leave kind data code => exact .inr ⟨kind, data, code, rfl⟩

/-- Whatever the state, the word is a synchronising effect in the X stream's shell. -/
theorem ActsX.syncFrame {g : BitVec 7} {gn : Bool} {uses : List Nat} {f : State → WordEnd} {i : Instr} {s t : State} {d : Option Nat}
    (h : ActsX g gn uses f i) (hf : SyncEnds (s.landDue.takeX uses) d (f (s.landDue.takeX uses))) (he : exec i s = .next t) :
    SyncFrame s t d := by
  rw [h s] at he
  cases he
  exact xWordN_keeps_leave (P := (SyncFrame s · d)) (fun _ _ => syncFrame_shell) (syncFrame_landDue s d) hf.keeps

section

variable {u : State} {d : Option Nat}

theorem syncEnds_xOrdered {f : State → WordEnd} (hf : SyncEnds u d (f u)) : SyncEnds u d (u.xOrdered f) := by
  unfold State.xOrdered
  split
  · exact hf
  · exact .wait (syncUpdate_refl u d)

theorem syncEnds_tagWait {ts : List Nat} {f : State → WordEnd} (hf : SyncEnds u d (f u)) : SyncEnds u d (u.tagWait ts f) := by
  unfold State.tagWait
  split
  · exact hf
  · split
    · exact .leave _ _ _
    · exact .wait (syncUpdate_refl u d)

theorem barInitEnd_sync (r : Xk) : SyncEnds u d (barInitEnd r u) := by
  unfold barInitEnd
  split
  · exact .trap _ _
  · dsimp only
    split
    · exact .trap _ _
    · split
      · exact .done (syncUpdate_refl u d)
      · split
        · exact .trap _ _
        · exact .done (syncUpdate_setCtx u _ _ d)

/-- A barrier word in the shell of a word. -/
def barrierEnd (r : Xk) (f : State → Nat → Ctx → Option (Word × Barrier) → WordEnd) (u : State) : WordEnd :=
  match u.here? with
  | none => .trap causeIll 0
  | some (slot, c) => f u slot c ((c.barDesc (r.imm.toNat % 512) u.core.pos).map fun d => (d, c.bar (r.imm.toNat % 512) d))

theorem ActsBarrier.acts {r : Xk} {f : State → Nat → Ctx → Option (Word × Barrier) → WordEnd} {i : Instr} (h : ActsBarrier r f i) :
    ActsX r.g r.gn [] (barrierEnd r f) i := h

theorem barrierEnd_sync {r : Xk} {f : State → Nat → Ctx → Option (Word × Barrier) → WordEnd}
    (hf : ∀ slot c b, SyncEnds u d (f u slot c b)) : SyncEnds u d (barrierEnd r f u) := by
  unfold barrierEnd
  split
  · exact .trap _ _
  · exact hf _ _ _

theorem barArrEnd_sync (k slot : Nat) (c : Ctx) (b : Option (Word × Barrier)) : SyncEnds u d (barArrEnd k u slot c b) := by
  rcases b with _ | ⟨e, q⟩
  · exact .trap _ _
  · unfold barArrEnd
    dsimp only
    split
    · exact .wait (syncUpdate_refl u d)
    · exact syncEnds_xOrdered (.done (syncUpdate_setCtx u _ _ d))

theorem barWaitEnd_sync (slot : Nat) (c : Ctx) (b : Option (Word × Barrier)) : SyncEnds u d (barWaitEnd u slot c b) := by
  rcases b with _ | ⟨e, q⟩
  · exact .done (syncUpdate_refl u d)
  · unfold barWaitEnd
    dsimp only
    split
    · exact .wait (syncUpdate_refl u d)
    · exact .done (syncUpdate_refl u d)

theorem barSyncEnd_sync (k slot : Nat) (c : Ctx) (b : Option (Word × Barrier)) : SyncEnds u d (barSyncEnd k u slot c b) := by
  rcases b with _ | ⟨e, q⟩
  · exact .trap _ _
  · unfold barSyncEnd
    dsimp only
    split
    · exact .wait (syncUpdate_refl u d)
    · split
      · exact .done ⟨rfl, rfl, fun _ _ => ⟨rfl, rfl⟩, rfl⟩
      · refine syncEnds_xOrdered ?_
        split
        · exact .wait (syncUpdate_synced u _ _ _ d)
        · exact .done (syncUpdate_synced u _ _ _ d)

theorem evClrEnd_sync (r : Xi) : SyncEnds u d (evClrEnd r u) := by
  unfold evClrEnd
  split
  · exact .trap _ _
  · split
    · exact .trap _ _
    · exact .done (syncUpdate_setCtx u _ _ d)

theorem evWaitEnd_sync (r : Xi) : SyncEnds u d (evWaitEnd r u) := by
  unfold evWaitEnd
  dsimp only
  split
  · exact .trap _ _
  · split
    · exact .trap _ _
    · split
      · exact .done (syncUpdate_setCtx u _ _ d)
      · exact .leave _ _ _

end

theorem fence_acts (r : Xr) : ActsX r.g r.gn [] (fun u => u.xOrdered WordEnd.done) (.fence r) := fun _ => rfl

/-- Settles O42: each word is an update of `SyncUpdate` in the shell of a word. -/
theorem syncWordsLeaveTheRestAlone : Obligations.SyncWordsLeaveTheRestAlone := by
  simp only [Obligations.SyncWordsLeaveTheRestAlone, List.forall_mem_cons, List.not_mem_nil, false_implies, implies_true, and_true]
  have hwf {s : State} {uses : List Nat} (hx : s.core.x.wf = true) : (s.landDue.takeX uses).core.x.wf = true := by
    rw [takeX_core]
    exact hx
  have hfrom {s : State} {uses : List Nat} (hbad : tableFrom 0 s.core.xbad = true) :
      tableFrom 0 (s.landDue.takeX uses).core.xbad = true := by
    rw [takeX_core]
    exact hbad
  refine ⟨⟨fun r s t => ?_, fun r s t => ?_, fun r s t => ?_, fun r s t => ?_, fun r s t => ?_, fun r s t => ?_⟩,
    ⟨fun r s t hx hbad => ?_, fun r s t hx hbad => ?_⟩, ⟨fun r s t hx hbad => ?_, fun r s t hx hbad => ?_⟩,
    ⟨fun r s t => ?_, fun r s t => ?_⟩, ⟨fun r s t => ?_, fun r s t => ?_⟩⟩
  · exact (barInit_acts r).syncFrame (barInitEnd_sync r)
  · exact (barArr_acts r).acts.syncFrame (barrierEnd_sync (barArrEnd_sync _))
  · exact (barWait_acts r).acts.syncFrame (barrierEnd_sync barWaitEnd_sync)
  · exact (barSync_acts r).acts.syncFrame (barrierEnd_sync (barSyncEnd_sync _))
  · exact (trap_acts r).syncFrame (.leave _ _ _)
  · exact (pause_acts r).syncFrame (.done ⟨rfl, rfl, fun _ _ => ⟨rfl, rfl⟩, rfl⟩)
  · exact (tw_acts r).syncFrame (syncEnds_tagWait (.done (syncUpdate_setX (hwf hx) (hfrom hbad) _ _)))
  · exact (twa_acts r).syncFrame (syncEnds_tagWait (.done (syncUpdate_setX (hwf hx) (hfrom hbad) _ _)))
  · exact (id_acts r).syncFrame (.done (syncUpdate_putX (hwf hx) (hfrom hbad) _ _ _ _))
  · exact (time_acts r).syncFrame (.done (syncUpdate_putX (hwf hx) (hfrom hbad) _ _ _ _))
  · exact (ctxYield_acts r).syncFrame (.leave _ _ _)
  · exact (fence_acts r).syncFrame (syncEnds_xOrdered (.done (syncUpdate_refl _ _)))
  · exact (evClr_acts r).syncFrame (evClrEnd_sync r)
  · exact (evWait_acts r).syncFrame (evWaitEnd_sync r)

end Sys2Proof.Proofs
end

section
/-! Acceptance of leave requests (10 R245-R247, R258, R261, R269-R271): which request is answered next, and what each kind does
before and after a leave is accepted. -/

namespace Sys2Proof.Proofs

open Sys2Proof.Machine Sys2Proof.Claims Sys2Proof.Laws

/-! ### The request that is answered next (10 R258) -/

theorem nextAsk_first {a : Ask} {r : List Ask} (h : a.kind.preempts = false ∨ ∀ b ∈ r, b.kind.faults = false) :
    nextAsk (a :: r) = some (a, r) := by
  have hnone : (if a.kind.preempts then r.findIdx? (fun b => b.kind.faults) else none) = none := by
    rcases h with h | h
    · rw [h]
      rfl
    · rw [List.findIdx?_eq_none_iff.mpr h, ite_self]
  simp only [nextAsk, hnone]

/-- A fault goes before a pre-emption that is asked for. -/
theorem nextAsk_fault {a b : Ask} {p q : List Ask} (ha : a.kind.preempts = true) (hp : ∀ x ∈ p, x.kind.faults = false)
    (hb : b.kind.faults = true) : nextAsk (a :: (p ++ b :: q)) = some (b, a :: (p ++ q)) := by
  have hidx : (p ++ b :: q).findIdx? (fun x => x.kind.faults) = some p.length := by
    rw [List.findIdx?_append, List.findIdx?_eq_none_iff.mpr hp, List.findIdx?_cons, hb]
    simp
  have hget : (p ++ b :: q)[p.length]? = some b := by
    rw [List.getElem?_append_right (Nat.le_refl _), Nat.sub_self, List.getElem?_cons_zero]
  have herase : (p ++ b :: q).eraseIdx p.length = p ++ q := by
    rw [List.eraseIdx_append_of_length_le (Nat.le_refl _), Nat.sub_self, List.eraseIdx_cons_zero]
  simp only [nextAsk, ha, if_true, hidx, hget, herase, Option.map_some]

/-! ### Park records (10 R247) -/

section

variable (s : State) (k : Nat) (c : Ctx) (a : Ask) {cause : Nat}

theorem dataRecord_other (h : cause ≠ causeData) : s.dataRecord k c a cause = s := if_neg h

theorem parkRecord_writes (hp : c.parkCause = 0) (h : cause ≠ causeData) : s.parkRecord c a cause = withParkRecord s c a cause := by
  have hd : (if cause = 4 then BitVec.ofNat 64 (wordAddr a.data.toNat) else a.data) = a.data := if_neg h
  rw [State.parkRecord, if_neg (not_not.mpr hp), hd]
  rfl

theorem reports_other (h0 : cause ≠ 0) (h : cause ≠ causePages) : reports cause = true := by
  have hp : cause ≠ 3 := h
  simp [reports, h0, hp]

end

/-! ### Acceptance -/

section

variable {s : State} {k : Nat} {c : Ctx} (hc : tget s.ctxs k = some c)

include hc

theorem leaveAccept_idle (h : c.asks = []) : exec (.leaveAccept k) s = .next s := by
  show Host.Outcome.next (s.leaveAccept k) = _
  simp only [State.leaveAccept, hc, h, nextAsk]

variable {a : Ask} {r : List Ask} (hn : nextAsk c.asks = some (a, r))

include hn

theorem leaveAccept_first (hl : c.leave = none) :
    exec (.leaveAccept k) s = .next ((s.setCtx k { c with asks := r }).acceptAsk k { c with asks := r } a) := by
  show Host.Outcome.next (s.leaveAccept k) = _
  simp only [State.leaveAccept, hc, hn, hl, Option.isSome_none, Bool.false_eq_true, if_false]

theorem leaveAccept_later (hl : c.leave ≠ none) : exec (.leaveAccept k) s = .next ((s.setCtx k { c with asks := r }).lateAsk k a) := by
  show Host.Outcome.next (s.leaveAccept k) = _
  simp only [State.leaveAccept, hc, hn, Option.isSome_iff_ne_none.mpr hl, if_true]

end

section

variable {u : State} {k : Nat} {c : Ctx} {a : Ask}

theorem acceptAsk_preempt {b : Bool} (hk : a.kind = .preempt b) : u.acceptAsk k c a = u.setCtx k { c with leave := some a } := by
  rw [State.acceptAsk, hk]

theorem acceptAsk_yield (hk : a.kind = .yield) : u.acceptAsk k c a = (u.setCtx k { c with leave := some a }).completeAt k a.pos := by
  rw [State.acceptAsk, hk]

/-- A fault that is accepted while no record stands: the record is written, and event 228 set unless the cause is PAGES. -/
theorem acceptAsk_fault {cause : Nat} (hk : a.kind = .fault cause) (hp : c.parkCause = 0) (hd : cause ≠ causeData) : u.acceptAsk k c a =
    if reports cause then ((withParkRecord u c a cause).setCtx k (leavingFor c c.asks a cause)).tellSuper c.tdom
    else (withParkRecord u c a cause).setCtx k (leavingFor c c.asks a cause) := by
  rw [State.acceptAsk, hk]
  dsimp only
  rw [dataRecord_other u k c a hd, parkRecord_writes u c a hp hd]
  rfl

theorem acceptAsk_late {cause : Nat} (hk : a.kind = .late cause) (hp : c.parkCause = 0) (hd : cause ≠ causeData)
    (hr : reports cause = true) : u.acceptAsk k c a =
    ((withParkRecord u c a cause).setCtx k { leaving c c.asks a with parkCause := cause, parkPassed := a.passed }).tellSuper c.tdom := by
  rw [State.acceptAsk, hk]
  dsimp only
  rw [dataRecord_other u k c a hd, parkRecord_writes u c a hp hd, if_pos hr]
  rfl

theorem acceptAsk_xfer {y d : Nat} (hk : a.kind = .xfer y d) : u.acceptAsk k c a =
    if u.xferStatus k a.data.toNat = 0 then u.setCtx k { c with leave := some a }
    else (u.setCtx k c).xferEnd k a d (u.xferStatus k a.data.toNat) := by
  rw [State.acceptAsk, hk]

/-- The context of an `ev.wait` that has to wait: WAKE goes from the time of its word (10 R261). -/
def waitingOn (c : Ctx) (a : Ask) (w : Nat) (any : Bool) (mask : Word) (hint : Nat) : Ctx :=
  { c with
    leave := some a, timer := if 2 ^ 63 ≤ hint then some (a.time + hint % 2 ^ 63) else c.timer,
    evWait := some { pos := a.pos, word := w, any := any, mask := mask } }

theorem acceptAsk_wait {w hint : Nat} {any : Bool} {mask : Word} (hk : a.kind = .wait w any mask hint) : u.acceptAsk k c a =
    if waitSat c.events w any mask then
      ((u.setCtx k { c with events := consume c.events w mask }).completeAt k a.pos).updCore k a.pos (fun x => x.release false)
    else (u.setCb c 0x40 (BitVec.ofNat 64 (a.time + (if hint % 2 ^ 63 = 0 then (u.cbWord c 0x48).toNat else hint % 2 ^ 63)))).setCtx k
      (waitingOn c a w any mask hint) := by
  rw [State.acceptAsk, hk]
  rfl

end

/-! ### After a leave has been accepted -/

section

variable {u : State} {k : Nat} {c : Ctx} {a : Ask} (hc : tget u.ctxs k = some c)

include hc

theorem lateAsk_yield (hk : a.kind = .yield) : u.lateAsk k a = (u.completeAt k a.pos).updCore k a.pos (fun x => x.release a.aStream) := by
  simp only [State.lateAsk, hc, hk]

theorem lateAsk_preempt {b : Bool} (hk : a.kind = .preempt b) : u.lateAsk k a = u.updCore k a.pos (fun x => x.release a.aStream) := by
  simp only [State.lateAsk, hc, hk]

theorem lateAsk_xfer {y d : Nat} (hk : a.kind = .xfer y d) :
    u.lateAsk k a = (u.xferEnd k a d 4).updCore k a.pos (fun x => x.release a.aStream) := by
  simp only [State.lateAsk, hc, hk]

/-- A stream's fault is counted in NFAULT when a record stands; its word is evaluated again. -/
theorem lateAsk_fault {cause : Nat} (hk : a.kind = .fault cause) (hd : cause ≠ causeData) :
    u.lateAsk k a = (if c.parkCause = 0 then u else u.countFault c).updCore k a.pos (fun x => x.release a.aStream) := by
  simp only [State.lateAsk, hc, hk, dataRecord_other u k c a hd, ne_eq, ite_not]

/-- The fault of an asynchronous command parks the context. -/
theorem lateAsk_late {cause : Nat} (hk : a.kind = .late cause) (hd : cause ≠ causeData) (hp : c.parkCause = 0) : u.lateAsk k a =
    ((withParkRecord u c a cause).setCtx k { c with
      parkCause := cause, parkPassed := a.passed, evWait := none, pagesOf := none,
      state := if c.state = .running then .running else if c.launch.any (fun l => l.inHbm) then .swapped else .parked }).tellSuper c.tdom := by
  simp only [State.lateAsk, hc, hk, dataRecord_other u k c a hd, State.parkNow, parkRecord_writes u c a hp hd, hp, if_true]

end

/-! ### Requests of the scheduler (10 R263, R264, R271) -/

/-- Some ready launch of the domain of `c`, of the kind that `f` picks, displaces the context in slot `k`. -/
def displaced (s : State) (k : Nat) (c : Ctx) (f : LaunchRec → Bool) : Bool :=
  s.ctxs.any (fun x => decide (x.2.state = .ready) && decide (x.2.tdom = c.tdom) &&
    (match x.2.nextLaunch with
      | some (_, q) => f q && s.presses x.2 q && (s.bestVictims x.2.tdom q).contains k
      | none => false))

/-- Whether the launch of a context stands on a withdrawn core. -/
def onWithdrawn (s : State) (c : Ctx) : Bool :=
  (c.launch.map (fun l => (rectCores l.record.rect.toNat).any
    (fun p => s.withdrawn.contains (physOf l.record.rect.toNat l.origin p)))).getD false

theorem displaced_iff (s : State) (k : Nat) (c : Ctx) (f : LaunchRec → Bool) : displaced s k c f = true ↔
    ∃ x ∈ s.ctxs, x.2.state = .ready ∧ x.2.tdom = c.tdom ∧ ∃ q, x.2.nextLaunch = some q ∧ f q.2 = true ∧ s.presses x.2 q.2 = true ∧
      k ∈ s.bestVictims x.2.tdom q.2 := by
  rw [displaced, List.any_eq_true]
  refine exists_congr fun x => and_congr_right fun _ => ?_
  cases x.2.nextLaunch with
  | none => simp
  | some q => simp [and_assoc]

theorem onWithdrawn_iff (s : State) (c : Ctx) : onWithdrawn s c = true ↔
    ∃ l, c.launch = some l ∧ ∃ p ∈ rectCores l.record.rect.toNat, physOf l.record.rect.toNat l.origin p ∈ s.withdrawn := by
  cases hl : c.launch with
  | none => simp [onWithdrawn, hl]
  | some l => simp [onWithdrawn, hl]

section

variable {s : State} {k : Nat} {c : Ctx} (hc : tget s.ctxs k = some c)

include hc

theorem exec_preemption : exec (.preemption k) s = .next (
    if displaced s k c (fun q => decide (q.cls = 0)) then s.askPreempt k true
    else if displaced s k c (fun _ => true) || onWithdrawn s c || s.quiesced then s.askPreempt k false else s) := by
  show Host.Outcome.next (s.preempt k) = _
  simp only [State.preempt, hc]
  rfl

/-- A context that runs and is not asked to leave yet. -/
theorem askPreempt_asks (hrun : c.state = .running) (hl : c.leave = none) (ha : ∀ a ∈ c.asks, a.kind.preempts = false) (deadline : Bool) :
    s.askPreempt k deadline = s.setCtx k (asked c (preemptAsk s deadline)) := by
  have hno : ¬ (c.leave.isSome = true ∨ c.asks.any (fun a => a.kind.preempts) = true) := by
    rw [hl]
    simpa using ha
  rw [State.askPreempt, hc]
  exact (if_neg (not_not.mpr hrun)).trans (if_neg hno)

theorem exec_quantumExpiry {l : Launch} (hl : c.launch = some l) (hcls : l.record.cls = 2)
    (hdue : l.since + ((s.dom c.tdom).map (fun d => d.sched.quantum)).getD 0 ≤ s.ptp)
    (hother : ∃ x ∈ s.ctxs, x.2.state = .ready ∧ x.2.tdom = c.tdom ∧ ∃ q, x.2.nextLaunch = some q ∧ q.2.cls = 2) :
    exec (.quantumExpiry k) s = .next (s.askPreempt k false) := by
  have hbulk : s.ctxs.any (fun x => decide (x.2.state = .ready) && decide (x.2.tdom = c.tdom) &&
      x.2.nextLaunch.any (fun n => decide (n.2.cls = 2))) = true := by
    obtain ⟨x, hx, hready, hdom, q, hq, hq2⟩ := hother
    exact List.any_eq_true.mpr ⟨x, hx, by simp [hready, hdom, hq, hq2]⟩
  show Host.Outcome.next (s.quantumExpiry k) = _
  simp only [State.quantumExpiry, hc, hl, Option.any_some, hcls, hdue, hbulk, decide_true, Bool.and_self, if_true]

end

end Sys2Proof.Proofs
end

section
/-! The saving of frames (10 R245, R246, R259, R270-R273; 01 R21, R22): what control-block writes and events leave alone, and what a
context becomes when its frames are saved. -/

namespace Sys2Proof.Proofs

open Sys2Proof.Machine Sys2Proof.Claims Sys2Proof.Laws

/-! ### The scheduler's bookkeeping: control blocks, samples -/

/-- From `s` to `t` only memory, with its scrub tags, and the domains may have changed. -/
structure Books (s t : State) : Prop where
  rest : t = { s with mem := t.mem, scrubTags := t.scrubTags, doms := t.doms }

section

variable {s t u : State}

theorem books_refl (s : State) : Books s s := ⟨rfl⟩

theorem Books.trans (h : Books s t) (h' : Books t u) : Books s u := ⟨by rw [h'.rest, h.rest]⟩

theorem Books.core (h : Books s t) : t.core = s.core := by rw [h.rest]

theorem Books.cores (h : Books s t) : t.cores = s.cores := by rw [h.rest]

theorem Books.ctxs (h : Books s t) : t.ctxs = s.ctxs := by rw [h.rest]

theorem Books.dir (h : Books s t) : t.dir = s.dir := by rw [h.rest]

theorem books_setCb (s : State) (c : Ctx) (off : Nat) (v : Word) : Books s (s.setCb c off v) :=
  ⟨by rw [State.setCb, State.physPut, clearScrub_frame]⟩

theorem books_sample (s : State) (d i v : Nat) : Books s (s.sample d i v) := by
  unfold State.sample
  split <;> exact ⟨rfl⟩

theorem books_chargeVtime (s : State) (c : Ctx) (l : Launch) : Books s (s.chargeVtime c l) := by
  unfold State.chargeVtime
  split
  · exact books_setCb s c _ _
  · exact books_refl s

theorem books_floorVtime (s : State) (c : Ctx) : Books s (s.floorVtime c) := by
  unfold State.floorVtime
  split
  · split
    · exact books_setCb s c _ _
    · exact books_refl s
  · exact books_refl s

end

theorem post_ctxs (s : State) (d : Nat) (m : Memory) (b a n : Nat) : (s.post d m b a n).ctxs = s.ctxs := by
  unfold State.post
  split
  · rfl
  · refine foldl_keeps State.ctxs _ _ (fun t k => ?_) s
    split
    · rw [corrected_parts]
    · rfl

theorem setCbBits_ctxs (s : State) (c : Ctx) (off hi lo v : Nat) : (s.setCbBits c off hi lo v).ctxs = s.ctxs := by
  unfold State.setCbBits
  dsimp only
  split
  · rw [(books_setCb _ _ _ _).ctxs, State.postPhys, post_ctxs]
  · rw [domRecord_frame, count_ctxs]

/-! ### What an event changes (10 R259) -/

/-- A context has observed its vector: the bits set and consumed, the wait that they end, and the nodes that they make ready. The word
that waited completes on the core or in the frame that has it. -/
structure Observed (c d : Ctx) : Prop where
  rest : d = { c with events := d.events, evWait := d.evWait, woken := d.woken, nodes := d.nodes, launch := d.launch }

theorem observed_refl (c : Ctx) : Observed c c := ⟨rfl⟩

theorem Observed.trans {c d e : Ctx} (h : Observed c d) (h' : Observed d e) : Observed c e := ⟨by rw [h'.rest, h.rest]⟩

/-- Of the contexts, only that in slot `k` has changed, and it has observed its vector. -/
structure Observes (s t : State) (k : Nat) : Prop where
  others : ∀ j, j ≠ k → tget t.ctxs j = tget s.ctxs j
  here : ∀ c, tget s.ctxs k = some c → ∃ d, tget t.ctxs k = some d ∧ Observed c d

section

variable {s t u : State} {k : Nat}

theorem observes_of_ctxs (h : t.ctxs = s.ctxs) : Observes s t k where
  others j _ := by rw [h]
  here c hc := ⟨c, by rw [h, hc], observed_refl c⟩

theorem Observes.trans (h : Observes s t k) (h' : Observes t u k) : Observes s u k where
  others j hj := (h'.others j hj).trans (h.others j hj)
  here c hc := by
    obtain ⟨d, hd, hcd⟩ := h.here c hc
    obtain ⟨e, he, hde⟩ := h'.here d hd
    exact ⟨e, he, hcd.trans hde⟩

theorem observes_setCtx {c d : Ctx} (hc : tget s.ctxs k = some c) (h : Observed c d) : Observes s (s.setCtx k d) k where
  others j hj := tget_tset_ne _ _ hj
  here e he := by
    obtain rfl : c = e := Option.some.inj (hc.symm.trans he)
    exact ⟨d, tget_tset_same _ _ _, h⟩

/-- What every context of a state has become in another that observes in slot `k`. -/
theorem Observes.get (h : Observes s t k) {j : Nat} {c : Ctx} (hc : tget s.ctxs j = some c) :
    ∃ d, tget t.ctxs j = some d ∧ Observed c d := by
  by_cases hj : j = k
  · rw [hj] at hc ⊢
    exact h.here c hc
  · exact ⟨c, by rw [h.others j hj, hc], observed_refl c⟩

theorem observes_updCore (s : State) (k pos : Nat) (f : Core → Core) : Observes s (s.updCore k pos f) k := by
  unfold State.updCore
  split
  · refine observes_of_ctxs ?_
    unfold State.setCoreAt
    split <;> rfl
  · split
    · exact observes_of_ctxs rfl
    · rename_i c hc
      split
      · exact observes_of_ctxs rfl
      · split
        · exact observes_of_ctxs rfl
        · exact observes_setCtx hc ⟨rfl⟩

theorem observes_completeAt (s : State) (k pos : Nat) : Observes s (s.completeAt k pos) k := by
  unfold State.completeAt
  split
  · exact observes_of_ctxs rfl
  · split
    · exact observes_of_ctxs rfl
    · exact (observes_updCore s k pos _).trans (observes_of_ctxs (count_ctxs _ _ _ _))

theorem observes_observeWait (s : State) (k : Nat) : Observes s (s.observeWait k) k := by
  unfold State.observeWait
  split
  · exact observes_of_ctxs rfl
  · rename_i c hc
    split
    · exact observes_of_ctxs rfl
    · split
      · exact (observes_setCtx hc ⟨rfl⟩).trans (observes_completeAt _ _ _)
      · exact observes_of_ctxs rfl

theorem observes_observeAll (s : State) (k : Nat) (m : BitVec 256) : Observes s (s.observeAll k m) k := by
  unfold State.observeAll
  split
  · exact observes_of_ctxs rfl
  · rename_i c hc
    exact (observes_setCtx hc ⟨rfl⟩).trans (observes_of_ctxs rfl)

theorem observes_setEvents (s : State) (k : Nat) (m : BitVec 256) : Observes s (s.setEvents k m) k := by
  unfold State.setEvents
  split
  · exact observes_of_ctxs rfl
  · rename_i c hc
    split
    · exact observes_of_ctxs rfl
    · exact ((observes_setCtx hc ⟨rfl⟩).trans (observes_observeWait _ _)).trans (observes_observeAll _ _ _)

/-- Telling a supervisor changes the supervisor's context alone, which observes event 228. -/
theorem tellSuper_get (s : State) (n : Nat) {j : Nat} {c : Ctx} (hc : tget s.ctxs j = some c) :
    ∃ d, tget (s.tellSuper n).ctxs j = some d ∧ Observed c d := by
  unfold State.tellSuper
  split
  · exact ⟨c, hc, observed_refl c⟩
  · exact (observes_setEvents s _ _).get hc

end

/-! ### A park that a page ends (10 R245, 11 R289) -/

/-- One context's part of `State.pagePresent`. -/
def pageWoken (s : State) (x : Nat × Ctx) : State :=
  match tget s.ctxs x.1 with
  | none => s
  | some c => (s.setCtx x.1 { c with parkCause := 0, pagesOf := none, woken := s.ptp }).setEvent x.1 224

/-- A context that has left its cores and waits for nothing. -/
structure Unparked (c : Ctx) : Prop where
  leave : c.leave = none
  cause : c.parkCause = 0
  page : c.pagesOf = none

theorem Unparked.observed {c d : Ctx} (h : Unparked c) (ho : Observed c d) : Unparked d := by
  rw [ho.rest]
  exact ⟨h.leave, h.cause, h.page⟩

section

variable {s : State} {k : Nat} {c : Ctx} (hc : tget s.ctxs k = some c)

include hc

theorem pageWoken_same (hl : c.leave = none) (v : Ctx) : ∃ d, tget (pageWoken s (k, v)).ctxs k = some d ∧ Unparked d := by
  simp only [pageWoken, hc]
  obtain ⟨d, hd, ho⟩ := (observes_setEvents (s.setCtx k { c with parkCause := 0, pagesOf := none, woken := s.ptp }) k
    (BitVec.twoPow 256 224)).here _ (tget_tset_same _ _ _)
  have hu : Unparked { c with parkCause := 0, pagesOf := none, woken := s.ptp } := ⟨hl, rfl, rfl⟩
  exact ⟨d, hd, hu.observed ho⟩

theorem pageWoken_ne {x : Nat × Ctx} (hx : k ≠ x.1) : tget (pageWoken s x).ctxs k = some c := by
  unfold pageWoken
  split
  · exact hc
  · rw [State.setEvent, (observes_setEvents _ _ _).others k hx, State.setCtx]
    exact (tget_tset_ne _ _ hx).trans hc

end

/-- A context that is woken once stays without a park. -/
theorem foldl_pageWoken (l : List (Nat × Ctx)) {s : State} {k : Nat} {c : Ctx} (hc : tget s.ctxs k = some c) (hl : c.leave = none)
    (h : (∃ v, (k, v) ∈ l) ∨ Unparked c) : ∃ d, tget (l.foldl pageWoken s).ctxs k = some d ∧ Unparked d := by
  induction l generalizing s c with
  | nil => exact ⟨c, hc, h.resolve_left fun ⟨_, hv⟩ => List.not_mem_nil hv⟩
  | cons x l ih =>
    rw [List.foldl_cons]
    by_cases hx : k = x.1
    · obtain ⟨d, hd, hu⟩ := pageWoken_same hc hl x.2
      rw [show ((k, x.2) : Nat × Ctx) = x by rw [hx]] at hd
      exact ih hd hu.leave (.inr hu)
    · refine ih (pageWoken_ne hc hx) hl (h.imp_left fun ⟨v, hv⟩ => ⟨v, (List.mem_cons.mp hv).resolve_left fun he => ?_⟩)
      exact hx (congrArg Prod.fst he)

theorem pagePresent_wakes {s : State} {k p : Nat} {c : Ctx} (hc : tget s.ctxs k = some c) (hl : c.leave = none)
    (hp : c.parkCause = causePages) (hpage : c.pagesOf = some p) (hs : c.state ≠ .running) :
    ∃ d, tget (s.pagePresent p).ctxs k = some d ∧ Unparked d := by
  refine foldl_pageWoken _ hc hl (.inl ⟨c, List.mem_filter.mpr ⟨mem_of_tget hc, ?_⟩⟩)
  have hp' : c.parkCause = 3 := hp
  simp only [hp', hpage, ne_eq, hs, not_false_eq_true, decide_true, Bool.and_self]

/-! ### Saving -/

theorem freeCores_ctxs (s : State) (k : Nat) : (s.freeCores k).ctxs = s.ctxs := by
  unfold State.freeCores
  dsimp only
  split <;> rfl

theorem freeCores_dir (s : State) (k : Nat) : (s.freeCores k).dir = s.dir := by
  unfold State.freeCores
  dsimp only
  split <;> rfl

theorem freeCores_core (s : State) (k : Nat) : (s.freeCores k).core.ctx ≠ some k := by
  unfold State.freeCores
  dsimp only
  split
  · exact nofun
  · assumption

theorem freeCores_cores (s : State) (k : Nat) : ∀ e ∈ (s.freeCores k).cores, e.2.ctx ≠ some k := by
  have h : (s.freeCores k).cores = s.cores.filter (fun c => decide (c.2.ctx ≠ some k)) := by
    unfold State.freeCores
    dsimp only
    split <;> rfl
  intro e he
  rw [h] at he
  exact of_decide_eq_true (List.mem_filter.mp he).2

/-- Whether a leave leaves its context parked. -/
def staysParked (c : Ctx) (a : Ask) : Bool := a.kind.waits || decide (c.parkCause ≠ 0)

/-- Whether a leave is a stream's own translation fault, which becomes a violation (12 R304). -/
def becomesViol (c : Ctx) (a : Ask) : Bool := decide (c.parkCause = 3) && decide (a.tcode ≠ 1)

/-- The frames of a launch: its cores drained and trimmed by the live mask (01 R21). -/
def savedFrames (s : State) (k : Nat) (c : Ctx) (l : Launch) : Table Core :=
  (s.launchCores k l).map (fun x =>
    (x.1, let f := (x.2.drain s.cycle).trim l.record.live (s.epoch (s.here + 4096 * x.1) 8)
      if decide (c.parkCause = 0) || c.pagesOf.isSome then f.thaw else f))

/-- Whether the frames do not fit the chrysalis store (01 R22). -/
def savedInHbm (s : State) (c : Ctx) (l : Launch) (a : Ask) : Bool :=
  !s.roomFor l (decide (a.kind = .preempt true)) (((s.dom c.tdom).map (fun d => d.sched.dlreserve)).getD 0)

/-- The state in which the cores are free and a supervisor has been told of a violation. -/
def savedTold (s : State) (k : Nat) (c : Ctx) (l : Launch) (a : Ask) : State :=
  let u := (s.chargeVtime c l).freeCores k
  if becomesViol c a then (u.setCbBits c 0x20 3 0 2).tellSuper c.tdom else u

/-- The context that has left, read again as `d` (10 R245, R246). -/
def savedCtx (s : State) (k : Nat) (c : Ctx) (l : Launch) (a : Ask) (d : Ctx) : Ctx :=
  { d with
    launch := some { l with frames := savedFrames s k c l, inHbm := savedInHbm s c l a }
    leave := none
    parkedAt := (savedTold s k c l a).ptp
    parkCause := if becomesViol c a then 2 else d.parkCause
    order := (savedTold s k c l a).orders
    state := if staysParked c a then (if savedInHbm s c l a then .swapped else .parked) else .ready }

/-- The state in which it has left and the bookkeeping is done. -/
def savedState (s : State) (k : Nat) (c : Ctx) (l : Launch) (a : Ask) (d : Ctx) : State :=
  let x := savedCtx s k c l a d
  let t := { (savedTold s k c l a).setCtx k x with orders := (savedTold s k c l a).orders + 1 }
  let t := if staysParked c a ∨ a.kind = .yield then t else t.floorVtime x
  (if a.kind.preempts then t.sample x.tdom 0 (t.ptp - a.time) else t).sample x.tdom 1 (Config.stepTime t.tick)

theorem saveNow_saves {s : State} {k : Nat} {c d : Ctx} {l : Launch} {a : Ask} (hc : tget s.ctxs k = some c) (hl : c.launch = some l)
    (ha : c.leave = some a) (hgo : (∃ x ∈ s.launchCores k l, x.2.gone = false) ∨ a.kind.preempts = false ∨ c.parkCause ≠ 0)
    (hd : tget (savedTold s k c l a).ctxs k = some d) : s.saveNow k =
      match d.pagesOf with
      | some p => (savedState s k c l a d).pageSettled p
      | none => savedState s k c l a d := by
  have hends : ¬ ((s.launchCores k l).all (fun x => x.2.gone) = true ∧ a.kind.preempts = true ∧ c.parkCause = 0) := by
    rintro ⟨hall, hpre, hcause⟩
    rcases hgo with ⟨x, hx, hxg⟩ | hp | hp
    · exact absurd (List.all_eq_true.mp hall x hx) (by rw [hxg]; exact Bool.false_ne_true)
    · rw [hpre] at hp
      cases hp
    · exact hp hcause
  obtain rfl : d = (tget (savedTold s k c l a).ctxs k).getD c := by rw [hd]; rfl
  rw [State.saveNow, hc]
  dsimp -zeta only
  rw [hl, ha]
  dsimp -zeta only
  rw [if_neg hends]
  rfl

/-- All that the last bookkeeping leaves as it stood when the supervisor had been told. -/
theorem savedState_books (s : State) (k : Nat) (c : Ctx) (l : Launch) (a : Ask) (d : Ctx) :
    Books { (savedTold s k c l a).setCtx k (savedCtx s k c l a d) with orders := (savedTold s k c l a).orders + 1 }
      (savedState s k c l a d) := by
  unfold savedState
  dsimp only
  refine Books.trans ?_ (books_sample _ _ _ _)
  split
  · split
    · exact books_sample _ _ _ _
    · exact (books_floorVtime _ _).trans (books_sample _ _ _ _)
  · split
    · exact books_refl _
    · exact books_floorVtime _ _

theorem savedState_get (s : State) (k : Nat) (c : Ctx) (l : Launch) (a : Ask) (d : Ctx) :
    tget (savedState s k c l a d).ctxs k = some (savedCtx s k c l a d) := by
  rw [(savedState_books s k c l a d).ctxs]
  exact tget_tset_same _ _ _

section

variable {s : State} {k : Nat} {c : Ctx} {l : Launch} {a : Ask}

theorem savedTold_of_not_viol (h : becomesViol c a = false) : savedTold s k c l a = (s.chargeVtime c l).freeCores k := by
  unfold savedTold
  rw [h]
  exact if_neg Bool.false_ne_true

theorem savedTold_freed_get (hc : tget s.ctxs k = some c) : tget ((s.chargeVtime c l).freeCores k).ctxs k = some c := by
  rw [freeCores_ctxs, (books_chargeVtime s c l).ctxs, hc]

theorem savedTold_get (hc : tget s.ctxs k = some c) : ∃ d, tget (savedTold s k c l a).ctxs k = some d ∧ Observed c d := by
  unfold savedTold
  dsimp only
  split
  · refine tellSuper_get _ _ ?_
    rw [setCbBits_ctxs, savedTold_freed_get hc]
  · exact ⟨c, savedTold_freed_get hc, observed_refl c⟩

/-- A page that has come already ends the park that waits for it as soon as the frames are saved. -/
theorem savedState_present {p : Nat} (d : Ctx) (hv : becomesViol c a = false) (hp : s.isPresent p = true) :
    (savedState s k c l a d).pageSettled p = (savedState s k c l a d).pagePresent p := by
  have hdir : (savedState s k c l a d).dir = s.dir := by
    rw [(savedState_books s k c l a d).dir]
    show (savedTold s k c l a).dir = s.dir
    rw [savedTold_of_not_viol hv, freeCores_dir, (books_chargeVtime s c l).dir]
  have hpres : (savedState s k c l a d).isPresent p = true := by
    unfold State.isPresent State.dirEntry at hp ⊢
    rw [hdir]
    exact hp
  rw [State.pageSettled, if_pos hpres]

end

/-! ### FRAME_SAVE (01 R21, R22; 10 R273) -/

section

variable {s : State} {k : Nat} {c : Ctx} {l : Launch} {a : Ask} (hc : tget s.ctxs k = some c) (hl : c.launch = some l) (ha : c.leave = some a)

include hc hl ha

theorem frameSave_early (h : c.state ≠ .running ∨ s.halted k l = false) : exec (.frameSave k) s = .next s := by
  have hno : ¬ (c.state = .running ∧ s.halted k l = true) := by
    rintro ⟨hrun, hhalt⟩
    rcases h with h | h
    · exact h hrun
    · rw [hhalt] at h
      cases h
  show Host.Outcome.next (s.frameSaveXfer k) = _
  simp only [State.frameSaveXfer, State.frameSave, hc, hl, ha, if_neg hno]
  split <;> rfl

theorem frameSave_xfer_fails {y d : Nat} (hrun : c.state = .running) (hhalt : s.halted k l = true) (hk : a.kind = .xfer y d)
    (hst : s.xferStatus k a.data.toNat ≠ 0) :
    exec (.frameSave k) s = .next ((s.setCtx k { c with leave := none }).xferEnd k a d (s.xferStatus k a.data.toNat)) := by
  show Host.Outcome.next (s.frameSaveXfer k) = _
  simp only [State.frameSaveXfer, hc, hl, ha, hk, hrun, hhalt, and_self, if_true, State.transfer, hst, if_false, false_and, ne_eq,
    not_false_eq_true]
  split <;> rfl

theorem frameSave_saves (hrun : c.state = .running) (hhalt : s.halted k l = true) (hasks : c.asks = []) (hk : ∀ y d, a.kind ≠ .xfer y d) :
    exec (.frameSave k) s = .next (s.saveNow k) := by
  have hans : s.answerAll k c = s := by
    rw [State.answerAll, hasks, List.foldl_nil, ← hasks]
    show { s with ctxs := tset s.ctxs k c } = s
    rw [tset_self hc]
  show Host.Outcome.next (s.frameSaveXfer k) = _
  simp only [State.frameSaveXfer, State.frameSave, hc, hl, ha, hrun, hhalt, and_self, if_true, hans]

end

end Sys2Proof.Proofs
end

section
/-! The acceptance of leave requests and the saving of frames, settled. -/

namespace Sys2Proof.Proofs

open Sys2Proof.Machine Sys2Proof.Claims Sys2Proof.Laws

section

variable {s : State} {k : Nat} {c : Ctx} {l : Launch} {a : Ask} (hc : tget s.ctxs k = some c) (hl : c.launch = some l) (ha : c.leave = some a)
  (hrun : c.state = .running) (hhalt : s.halted k l = true) (hasks : c.asks = []) (hk : ∀ y d, a.kind ≠ .xfer y d)
  (hgo : (∃ x ∈ s.launchCores k l, x.2.gone = false) ∨ a.kind.preempts = false ∨ c.parkCause ≠ 0)

include hc hl ha hrun hhalt hasks hk hgo

/-- A leave that names no page, with the context that it leaves. -/
theorem frameSave_without_page (hpage : c.pagesOf = none) : ∃ d, tget (savedTold s k c l a).ctxs k = some d ∧ Observed c d ∧
    exec (.frameSave k) s = .next (savedState s k c l a d) := by
  obtain ⟨d, hd, ho⟩ := savedTold_get (l := l) (a := a) hc
  have hdp : d.pagesOf = none := by rw [ho.rest, hpage]
  refine ⟨d, hd, ho, ?_⟩
  rw [frameSave_saves hc hl ha hrun hhalt hasks hk, saveNow_saves hc hl ha hgo hd, hdp]

/-- A stream's own translation fault becomes a VIOL park (12 R304). -/
theorem frameSave_viol (hcause : c.parkCause = causePages) (ht : a.tcode ≠ 1) (hpage : c.pagesOf = none) :
    ∃ t x, exec (.frameSave k) s = .next t ∧ tget t.ctxs k = some x ∧ x.leave = none ∧ x.parkCause = causeViol := by
  obtain ⟨d, -, -, he⟩ := frameSave_without_page hc hl ha hrun hhalt hasks hk hgo hpage
  have h3 : c.parkCause = 3 := hcause
  have hv : becomesViol c a = true := by simpa [becomesViol, h3] using ht
  exact ⟨_, _, he, savedState_get s k c l a d, rfl, if_pos hv⟩

theorem frameSave_pages {p : Nat} (hcause : c.parkCause = causePages) (ht : a.tcode = 1) (hpage : c.pagesOf = some p)
    (hp : s.isPresent p = true) :
    ∃ t x, exec (.frameSave k) s = .next t ∧ tget t.ctxs k = some x ∧ x.leave = none ∧ x.parkCause = 0 ∧ x.pagesOf = none := by
  have hv : becomesViol c a = false := by simp [becomesViol, ht]
  have hwait : staysParked c a = true := by
    have h3 : c.parkCause = 3 := hcause
    simp [staysParked, h3]
  have hd : tget (savedTold s k c l a).ctxs k = some c := by
    rw [savedTold_of_not_viol hv, savedTold_freed_get hc]
  have he : exec (.frameSave k) s = .next ((savedState s k c l a c).pagePresent p) := by
    rw [frameSave_saves hc hl ha hrun hhalt hasks hk, saveNow_saves hc hl ha hgo hd, hpage]
    exact congrArg _ (savedState_present c hv hp)
  have hstate : (savedCtx s k c l a c).state ≠ .running := by
    simp only [savedCtx, hwait, if_true]
    split <;> exact nofun
  have hparked : (savedCtx s k c l a c).parkCause = causePages := by
    simp only [savedCtx, hv, Bool.false_eq_true, if_false, hcause]
  obtain ⟨x, hx, hu⟩ := pagePresent_wakes (savedState_get s k c l a c) rfl hparked hpage hstate
  exact ⟨_, x, he, hx, hu.leave, hu.cause, hu.page⟩

/-- Every other leave: the frames are trimmed and the context takes its state, off every core. -/
theorem frameSave_frames (hcause : c.parkCause ≠ causePages) (hpage : c.pagesOf = none) :
    ∃ t x q, exec (.frameSave k) s = .next t ∧ tget t.ctxs k = some x ∧ x.leave = none ∧ x.launch = some q ∧ q.record = l.record ∧
      q.frames = savedFrames s k c l ∧ x.state = (if staysParked c a then (if q.inHbm then .swapped else .parked) else .ready) ∧
      x.parkCause = c.parkCause ∧ t.core.ctx ≠ some k ∧ ∀ e ∈ t.cores, e.2.ctx ≠ some k := by
  obtain ⟨d, -, ho, he⟩ := frameSave_without_page hc hl ha hrun hhalt hasks hk hgo hpage
  have hcause' : c.parkCause ≠ 3 := hcause
  have hv : becomesViol c a = false := by simp [becomesViol, hcause']
  have hbooks := savedState_books s k c l a d
  refine ⟨_, _, _, he, savedState_get s k c l a d, rfl, rfl, rfl, rfl, rfl, ?_, ?_, ?_⟩
  · show (if becomesViol c a then 2 else d.parkCause) = c.parkCause
    rw [hv, ho.rest]
    rfl
  · rw [hbooks.core]
    show (savedTold s k c l a).core.ctx ≠ some k
    rw [savedTold_of_not_viol hv]
    exact freeCores_core _ k
  · rw [hbooks.cores]
    show ∀ e ∈ (savedTold s k c l a).cores, e.2.ctx ≠ some k
    rw [savedTold_of_not_viol hv]
    exact freeCores_cores _ k

end

/-- Settles O54: the request that `nextAsk` picks is accepted or answered late by its kind, the scheduler asks where it must, and FRAME_SAVE
comes to `savedState`, whose last bookkeeping leaves contexts and cores alone. -/
theorem leavesAreAcceptedAndFramesSaved : Obligations.LeavesAreAcceptedAndFramesSaved := by
  refine ⟨⟨fun a r h => nextAsk_first h, fun a b p q ha hp hb => nextAsk_fault ha hp hb⟩, ?_, ?_, fun s k c hc => leaveAccept_idle hc,
    ?_, ?_, ?_⟩
  · intro s k c a r hc hn hl c' u
    have hexec := leaveAccept_first hc hn hl
    refine ⟨fun b hk => ?_, fun hk => ?_, fun cause hk hp hd h0 h3 => ?_, fun hk hp => ?_, fun cause hk hp hd h0 h3 => ?_,
      fun y d hk => ?_, fun w any mask hint hk => ?_⟩
    · rw [hexec, acceptAsk_preempt hk]
      rfl
    · rw [hexec, acceptAsk_yield hk]
      rfl
    · rw [hexec, acceptAsk_fault (c := c') hk hp hd, if_pos (reports_other h0 h3)]
      rfl
    · rw [hexec, acceptAsk_fault (c := c') hk hp (by decide), if_neg (by decide)]
      rfl
    · rw [hexec, acceptAsk_late (c := c') hk hp hd (reports_other h0 h3)]
      rfl
    · rw [hexec, acceptAsk_xfer hk]
      exact ⟨fun h => congrArg _ (if_pos h), fun h => congrArg _ (if_neg h)⟩
    · rw [hexec, acceptAsk_wait hk]
      exact ⟨fun h => congrArg _ (if_pos h), fun h => congrArg _ (if_neg (by rw [h]; exact Bool.false_ne_true))⟩
  · intro s k c a r hc hn hl c' u
    have hexec := leaveAccept_later hc hn hl
    have hu : tget u.ctxs k = some c' := tget_tset_same _ _ _
    refine ⟨fun hk => ?_, fun b hk => ?_, fun y d hk => ?_, fun cause hk hd => ?_, fun cause hk hd hp => ?_⟩
    · rw [hexec, lateAsk_yield hu hk]
    · rw [hexec, lateAsk_preempt hu hk]
    · rw [hexec, lateAsk_xfer hu hk]
    · rw [hexec, lateAsk_fault hu hk hd]
      rfl
    · rw [hexec, lateAsk_late (c := c') hu hk hd hp]
      rfl
  · intro s k c hc hrun hl ha pressed deadline out
    have hpress (f : LaunchRec → Bool) : displaced s k c f = true ↔ pressed (fun q => f q = true) := displaced_iff s k c f
    have hdead : displaced s k c (fun q => decide (q.cls = 0)) = true ↔ deadline := by
      simpa only [decide_eq_true_eq] using hpress (fun q => decide (q.cls = 0))
    have hany : displaced s k c (fun _ => true) = true ↔ pressed (fun _ => True) := by simpa only using hpress (fun _ => true)
    have hout : onWithdrawn s c = true ↔ out := onWithdrawn_iff s c
    have hasked := askPreempt_asks (s := s) hc hrun hl ha
    rw [exec_preemption hc]
    refine ⟨fun h => ?_, fun hno h => ?_, fun hp ho hq => ?_⟩
    · rw [if_pos (hdead.mpr h), hasked]
    · have hsome : (displaced s k c (fun _ => true) || onWithdrawn s c || s.quiesced) = true := by
        rw [Bool.or_eq_true, Bool.or_eq_true, hany, hout, or_assoc]
        exact h
      rw [if_neg (fun hd => hno (hdead.mp hd)), if_pos hsome, hasked]
    · have hdeadline : ¬ deadline := fun ⟨x, hx, hready, hdom, q, hq, _, hrest⟩ => hp ⟨x, hx, hready, hdom, q, hq, trivial, hrest⟩
      rw [if_neg (fun hd => hdeadline (hdead.mp hd)), if_neg]
      rw [Bool.or_eq_true, Bool.or_eq_true, hany, hout, hq]
      exact fun h => h.elim (fun h => h.elim hp ho) Bool.false_ne_true
  · intro s k c l hc hrun hl ha hlaunch hcls hdue hother
    rw [exec_quantumExpiry hc hlaunch hcls hdue hother, askPreempt_asks hc hrun hl ha]
  · intro s k c l a hc hl ha
    refine ⟨fun h => frameSave_early hc hl ha h, fun hrun hhalt y d hk hst => frameSave_xfer_fails hc hl ha hrun hhalt hk hst, ?_⟩
    intro hrun hhalt hasks hk hgo waits goes
    refine ⟨fun hcause ht hpage => frameSave_viol hc hl ha hrun hhalt hasks hk hgo hcause ht hpage, fun hcause hpage => ?_,
      fun p hcause ht hpage hp => frameSave_pages hc hl ha hrun hhalt hasks hk hgo hcause ht hpage hp⟩
    obtain ⟨t, x, q, he, hx, hleave, hlaunch, hrec, hframes, hstate, hpark, hcore, hcores⟩ :=
      frameSave_frames hc hl ha hrun hhalt hasks hk hgo hcause hpage
    have hwaits : staysParked c a = true ↔ waits := by simp [staysParked, waits]
    have hgoes : (decide (c.parkCause = 0) || c.pagesOf.isSome) = true ↔ goes := by
      simp [goes, Option.isSome_iff_ne_none]
    refine ⟨t, x, q, he, hx, hleave, hlaunch, hrec, ?_, fun hno => ?_, fun hw => ?_, hpark, hcore, hcores⟩
    · rw [hframes]
      refine List.map_congr_left fun y _ => ?_
      simp only [hgoes]
    · rw [hstate, if_neg (fun h => hno (hwaits.mp h))]
    · rw [hstate, if_pos (hwaits.mpr hw)]

end Sys2Proof.Proofs
end

section
/-! Placement, restoring, waking and the control nodes (10 R252-R254, R261-R264; 01 R22, R26, R29; 11 R287, R289; 17 R375). -/

namespace Sys2Proof.Proofs

open Sys2Proof.Machine Sys2Proof.Claims Sys2Proof.Laws

/-! ### Copy tags at a first placement (08 R206, 10 R254) -/

/-- A table keeps, of its entries, those that a filter keeps. -/
theorem tget_filter {α : Type} {t : Table α} {lo : Nat} (h : tableFrom lo t = true) (f : Nat × α → Bool) (k : Nat) :
    tget (t.filter f) k = (tget t k).filter (fun v => f (k, v)) := by
  induction t generalizing lo with
  | nil => rfl
  | cons x t ih =>
    obtain ⟨j, v⟩ := x
    have ht : tableFrom (j + 1) t = true := by
      simp only [tableFrom, Bool.and_eq_true] at h
      exact h.2
    have htail := ih ht
    by_cases hjk : j = k
    · subst hjk
      rw [tget_below ht (Nat.lt_succ_self j)] at htail
      by_cases hf : f (j, v) = true <;> simp [tget, Option.filter, hf, htail]
    · by_cases hlt : k < j
      · rw [tget_below ht (Nat.lt_succ_of_lt hlt)] at htail
        by_cases hf : f (j, v) = true <;> simp [tget, Option.filter, hf, hjk, hlt, htail]
      · by_cases hf : f (j, v) = true <;> simp [tget, hf, hjk, hlt, htail]

/-- A tag without outstanding commands is at its reset value after a first placement. -/
theorem freshTags_tag {t : Store} {g : Nat} (h : tableFrom 0 t.tags = true) (hp : (t.tag g).pend = 0) :
    t.freshTags.tag g = { pend := 0, done := true, err := false } := by
  unfold Store.tag at hp ⊢
  rw [Store.freshTags, tget_filter h]
  cases hg : tget t.tags g with
  | none => rfl
  | some v =>
    rw [hg] at hp
    have hv : v.pend = 0 := hp
    simp [Option.filter, hv]

/-! ### Placement (10 R254; 01 R22, R26) -/

/-- The launch that a placement runs: that of the frames, or the first one. -/
def placedLaunch (s : State) (c : Ctx) (pa : Nat) (r : LaunchRec) (o : Nat) : Launch :=
  match c.launch with
  | some l => { l with origin := o, since := s.ptp }
  | none => { nodePa := pa, record := r, frames := [], inHbm := false, origin := o, started := s.ptp, since := s.ptp,
              fresh := if r.cls = 0 then some c.readied else none }

/-- The cores of a launch put on their physical cores. -/
def placedCores (s : State) (k : Nat) (c : Ctx) (pa : Nat) (r : LaunchRec) (o : Nat) : State :=
  (rectCores r.rect.toNat).foldl
    (fun t p => t.putCore k (placedLaunch s c pa r o) (BitVec.ofNat 32 (s.cbWord c 0x10).toNat &&& spillMask) p) s

/-- The context that runs. -/
def placedAs (s : State) (k : Nat) (c : Ctx) (pa : Nat) (r : LaunchRec) (o : Nat) : Ctx :=
  let u := placedCores s k c pa r o
  { c with
    state := .running, launch := some { placedLaunch s c pa r o with frames := [], inHbm := false }
    nodes := if c.launch.isNone then c.nodes.map (fun n => if n.pa = pa then { n with ready := none } else n) else c.nodes
    asid := ((u.cbWord c 0).extractLsb' 32 16).toNat, span := (u.cbWord c 0).getLsbD 50, pbudget := bits (u.cbWord c 8).toNat 11 0
    evWait := none, parkCause := 0 }

section

variable (s : State) (k : Nat) (c : Ctx) (pa : Nat) (r : LaunchRec) (o : Nat)

theorem placeAt_eq : s.placeAt k c pa r o = (placedCores s k c pa r o).setCtx k (placedAs s k c pa r o) := by
  unfold State.placeAt placedAs placedCores placedLaunch
  rfl

theorem placedLaunch_origin : (placedLaunch s c pa r o).origin = o := by
  unfold placedLaunch
  split <;> rfl

theorem placedLaunch_since : (placedLaunch s c pa r o).since = s.ptp := by
  unfold placedLaunch
  split <;> rfl

theorem putCore_cbWord (l : Launch) (sb : BitVec 32) (p off : Nat) : (s.putCore k l sb p).cbWord c off = s.cbWord c off := by
  unfold State.putCore State.setCoreAt
  dsimp only
  split <;> split <;> rfl

theorem placedCores_cbWord (off : Nat) : (placedCores s k c pa r o).cbWord c off = s.cbWord c off :=
  foldl_keeps (fun t => t.cbWord c off) _ _ (fun t p => putCore_cbWord t k c _ _ p off) s

theorem placedAs_asid : (placedAs s k c pa r o).asid = ((s.cbWord c 0).extractLsb' 32 16).toNat := by
  show ((placedCores s k c pa r o).cbWord c 0 |>.extractLsb' 32 16).toNat = _
  rw [placedCores_cbWord]

theorem coreAt_setCoreAt (i : Nat) (x : Core) : (s.setCoreAt i x).coreAt i = x := by
  by_cases h : i = s.here
  · rw [State.setCoreAt, if_pos h]
    exact if_pos h
  · rw [State.setCoreAt, if_neg h]
    refine (if_neg h).trans ?_
    rw [tget_tset_same]
    rfl

theorem storeAt_setCoreAt (i : Nat) (x : Core) (key : Nat) : (s.setCoreAt i x).storeAt key = s.storeAt key := by
  unfold State.setCoreAt
  split <;> rfl

/-- One core at its first placement: its tags and its registers start anew. -/
theorem putCore_first {l : Launch} (hl : l.frames = []) (sb : BitVec 32) (p : Nat) :
    (s.putCore k l sb p).storeAt (storeKey k p) = (s.storeAt (storeKey k p)).freshTags ∧
      (s.putCore k l sb p).coreAt (physOf l.record.rect.toNat l.origin p) =
        Core.first k p l.record sb (s.epoch (physOf l.record.rect.toNat l.origin p) 16) := by
  have hbound : (s.bindStore k p (physOf l.record.rect.toNat l.origin p)).storeAt (storeKey k p) = s.storeAt (storeKey k p) := by
    unfold State.bindStore State.storeAt
    dsimp only
    rw [tget_tset_same]
    rfl
  rw [State.putCore, hl]
  refine ⟨?_, coreAt_setCoreAt _ _ _⟩
  show ((State.setStore _ _ _).setCoreAt _ _).storeAt (storeKey k p) = _
  rw [storeAt_setCoreAt, hbound]
  unfold State.setStore State.storeAt
  dsimp only
  rw [tget_tset_same]
  rfl

end

section

variable {s : State} {k : Nat} {c : Ctx} (hc : tget s.ctxs k = some c)

include hc

theorem placement_not_ready (o : Nat)
    (h : c.state ≠ .ready ∨ s.ready = false ∨ s.quiesced = true ∨ s.pNow = 3 ∨ s.awaited k = true) : exec (.placement k o) s = .next s := by
  have hno : ¬ (c.state = .ready ∧ s.ready = true ∧ (!s.quiesced) = true ∧ s.pNow ≠ 3 ∧ (!s.awaited k) = true) := by
    rintro ⟨hst, hready, hq, hp, haw⟩
    simp only [hst, hready, hp, ne_eq, not_true_eq_false, Bool.true_eq_false, false_or] at h
    exact h.elim (fun h => by simp [h] at hq) (fun h => by simp [h] at haw)
  show Host.Outcome.next (s.place k o) = _
  simp only [State.place, hc, if_neg hno]
  split <;> rfl

variable {pa : Nat} {r : LaunchRec} (hn : c.nextLaunch = some (pa, r)) (hst : c.state = .ready) (hready : s.ready = true)
  (hq : s.quiesced = false) (hp : s.pNow ≠ 3) (haw : s.awaited k = false)

include hn hst hready hq hp haw

/-- A placement where the package is up and the context may be placed: it fits nowhere, or here, or not here. -/
theorem placement_cases (o : Nat) : exec (.placement k o) s = .next (
    if (origins r.rect.toNat).any (fun z => s.usableAt c.tdom r.rect.toNat z) = true then
      if s.freeAt c.tdom r.rect.toNat o = true ∧ s.banksFree k r.rect.toNat o = true ∧ s.outranked k c r = false ∧ s.reserved k c r o = false
      then s.placeAt k c pa r o else s
    else s.tellSuper c.tdom) := by
  show Host.Outcome.next (s.place k o) = _
  simp only [State.place, hc, hn, hst, hready, hq, haw, ne_eq, hp, not_false_eq_true, Bool.not_false, and_self, if_true, Bool.not_eq_true',
    ite_not, Bool.eq_false_iff]

end

end Sys2Proof.Proofs
end

section
/-! Swapping, banks, readiness, the wake timer and control nodes, and the obligation about placement and waking settled. -/

namespace Sys2Proof.Proofs

open Sys2Proof.Machine Sys2Proof.Claims Sys2Proof.Laws

/-! ### Frames between the chrysalis store and HBM4E (01 R29, 10 R273) -/

section

variable {s : State} {k : Nat} {c : Ctx} (hc : tget s.ctxs k = some c)

include hc

theorem swap_without_launch (hl : c.launch = none) : exec (.swapOut k) s = .next s ∧ exec (.swapIn k) s = .next s := by
  refine ⟨?_, ?_⟩
  · show Host.Outcome.next (s.swapOut k) = _
    simp only [State.swapOut, hc, hl]
  · show Host.Outcome.next (s.swapIn k) = _
    simp only [State.swapIn, hc, hl]

variable {l : Launch} (hl : c.launch = some l)

include hl

theorem swapOut_parked (h : c.state = .parked) :
    exec (.swapOut k) s = .next (s.setCtx k { c with state := .swapped, launch := some { l with inHbm := true } }) := by
  show Host.Outcome.next (s.swapOut k) = _
  simp only [State.swapOut, hc, hl, h, if_true]

theorem swapOut_ready (h : c.state = .ready) : exec (.swapOut k) s = .next (s.setCtx k { c with launch := some { l with inHbm := true } }) := by
  show Host.Outcome.next (s.swapOut k) = _
  simp only [State.swapOut, hc, hl, h, reduceCtorEq, if_false, if_true]

theorem swapIn_room (hin : l.inHbm = true) (h : c.state = .swapped)
    (hroom : s.roomFor l false (((s.dom c.tdom).map (fun d => d.sched.dlreserve)).getD 0) = true) :
    exec (.swapIn k) s = .next (s.setCtx k { c with state := .parked, launch := some { l with inHbm := false } }) := by
  show Host.Outcome.next (s.swapIn k) = _
  simp only [State.swapIn, hc, hl, hin, hroom, h, and_self, if_true]

theorem swapIn_full (hroom : s.roomFor l false (((s.dom c.tdom).map (fun d => d.sched.dlreserve)).getD 0) = false) :
    exec (.swapIn k) s = .next s := by
  show Host.Outcome.next (s.swapIn k) = _
  simp only [State.swapIn, hc, hl, hroom, Bool.false_eq_true, and_false, if_false]

end

/-! ### Banks (01 R22, 11 R287, 17 R375) -/

section

variable {s : State} {k p : Nat} {c : Ctx} (hc : tget s.ctxs k = some c)

include hc

/-- A bank that holds no page is given up once its core's locations are no longer fenced. -/
theorem bankReclaim_idle {i : Nat} (hst : c.state ≠ .running) (hb : tget s.bound (storeKey k p) = some i)
    (hh : ∀ h ∈ s.homes, storeKey h.2.slot h.2.pos ≠ storeKey k p) : exec (.bankReclaim k p) s = .next (
      if s.coreFenced i = true then s else { s with bound := tdel s.bound (storeKey k p) }) := by
  have hmine : s.homes.filter (fun h => decide (storeKey h.2.slot h.2.pos = storeKey k p)) = [] :=
    List.filter_eq_nil_iff.mpr fun h hm hd => hh h hm (of_decide_eq_true hd)
  show Host.Outcome.next (s.bankReclaim k p) = _
  simp [State.bankReclaim, State.reclaim, hc, hst, hb, hmine]

theorem bankReclaim_running {l : Launch} (hst : c.state = .running) (hl : c.launch = some l) (hin : inRect l.record.rect.toNat p = true) :
    exec (.bankReclaim k p) s = .next s := by
  show Host.Outcome.next (s.bankReclaim k p) = _
  simp [State.bankReclaim, hc, hst, hl, hin]

end

/-! ### Becoming ready (10 R245, R252, R264; 11 R287) -/

section

variable (s : State)

theorem setDir_ctxs (k : Nat) (e : Word) : (s.setDir k e).ctxs = s.ctxs := rfl

theorem begin_ctxs (m : Move) : (s.begin m).ctxs = s.ctxs := by
  unfold State.begin
  dsimp only
  rw [setDir_ctxs]

theorem wantMove_ctxs (m : Move) : (s.wantMove m).ctxs = s.ctxs := by
  unfold State.wantMove
  split
  · exact begin_ctxs s m
  · rfl

theorem startQueued_ctxs : s.startQueued.ctxs = s.ctxs := by
  refine foldl_keeps State.ctxs _ _ (fun t m => ?_) _
  dsimp only
  split
  · rfl
  · split
    · rfl
    · exact wantMove_ctxs t _

theorem cancelDemotions_ctxs (d asid : Nat) : (s.cancelDemotions d asid).ctxs = s.ctxs := by
  rw [State.cancelDemotions, startQueued_ctxs]
  exact foldl_keeps State.ctxs _ _ (fun t m => setDir_ctxs t _ _) s

end

section

variable {s : State} {k : Nat} {c : Ctx} (hc : tget s.ctxs k = some c)

include hc

theorem makeReady_get : ∃ x, tget (s.makeReady k).ctxs k = some x ∧ x.state = .ready ∧ x.nodes = c.nodes ∧ x.events = c.events := by
  simp only [State.makeReady, hc]
  exact ⟨_, tget_tset_same _ _ _, rfl, rfl, rfl⟩

theorem contextReady_waits_over (hst : c.state = .parked ∨ c.state = .swapped) (hp : c.parkCause = 0) (he : c.evWait = none)
    (hl : c.leave = none) (hn : c.nextLaunch ≠ none) :
    ∃ t x, exec (.contextReady k) s = .next t ∧ tget t.ctxs k = some x ∧ x.state = .ready ∧ x.nodes = c.nodes ∧ x.events = c.events := by
  have hn' : c.nextLaunch.isSome = true := Option.isSome_iff_ne_none.mpr hn
  have hexec : exec (.contextReady k) s = .next (((s.cancelDemotions c.tdom c.asid).sample c.tdom 2 (s.ptp - c.woken)).makeReady k) := by
    show Host.Outcome.next (s.contextReady k) = _
    rcases hst with h | h <;> simp [State.contextReady, hc, h, hp, he, hl, hn']
  have hget : tget ((s.cancelDemotions c.tdom c.asid).sample c.tdom 2 (s.ptp - c.woken)).ctxs k = some c := by
    rw [(books_sample _ _ _ _).ctxs, cancelDemotions_ctxs, hc]
  obtain ⟨x, hx⟩ := makeReady_get hget
  exact ⟨_, x, hexec, hx⟩

theorem contextReady_still (h : c.parkCause ≠ 0 ∨ c.evWait ≠ none ∨ c.leave ≠ none ∨ c.state = .running ∨ c.state = .ready ∨
    c.nextLaunch = none) : exec (.contextReady k) s = .next s := by
  show Host.Outcome.next (s.contextReady k) = _
  simp only [State.contextReady, hc]
  refine congrArg _ (if_neg ?_)
  rintro ⟨hidle, hfree, hnext⟩
  simp only [Bool.and_eq_true, Bool.or_eq_true, decide_eq_true_eq, Option.isNone_iff_eq_none] at hidle hfree
  obtain ⟨⟨hpark, hwait⟩, hleave⟩ := hfree
  rcases h with h | h | h | h | h | h
  · exact h hpark
  · exact h hwait
  · exact h hleave
  · simp [h] at hidle
  · simp [h] at hidle
  · simp [h] at hnext

/-! ### The wake timer (10 R261) -/

theorem wakeTimer_due {z : Nat} (ht : c.timer = some z) (hz : z ≤ s.ptp) :
    exec (.wakeTimerExpiry k) s = .next ((s.setCtx k { c with timer := none }).setEvent k 225) := by
  show Host.Outcome.next (s.timerExpiry k) = _
  simp only [State.timerExpiry, hc, ht, hz, if_true]

theorem wakeTimer_early (h : ∀ z, c.timer = some z → s.ptp < z) : exec (.wakeTimerExpiry k) s = .next s := by
  show Host.Outcome.next (s.timerExpiry k) = _
  cases ht : c.timer with
  | none => simp only [State.timerExpiry, hc, ht]
  | some z => simp only [State.timerExpiry, hc, ht, Nat.not_le.mpr (h z ht), if_false]

end

/-! ### Control nodes (10 R253) -/

/-- The control node at an address that is ready, with its context. -/
def readyNode (s : State) (pa : Nat) : Option (Nat × Ctx × Node) :=
  s.ctxs.findSome? (fun x => (x.2.nodes.find? (fun n => decide (n.pa = pa) && n.ready.isSome && decide (n.record.node ≠ 0))).map
    (fun n => (x.1, x.2, n)))

/-- What a control node does when its condition word reads `v`. -/
def nodeEnd (u : State) (pa k v : Nat) (c : Ctx) (n : Node) : State :=
  let t := (u.settleNode k pa (decide (n.record.node = 2) && decide (v ≠ 0))).setEvents k n.record.set
  if n.record.node = 3 then
    if v < n.record.ncase then (if n.record.succ0 = 0 then t else t.armLink c.tdom n.space n.va (n.record.succ0.toInt + v))
    else t.armSucc c.tdom n.space n.va n.record.succ1
  else t.armSucc c.tdom n.space n.va (if v ≠ 0 then n.record.succ0 else n.record.succ1)

section

variable {s u : State} {pa k : Nat} {c : Ctx} {n : Node} (hq : s.quiesced = false) (hn : readyNode s pa = some (k, c, n))

include hq hn

theorem controlNode_reads {v : Nat} (hr : s.readWords n.space n.record.cond.toNat 1 = (u, .ok [v])) :
    exec (.controlNodeEval pa) s = .next (nodeEnd u pa k v c n) := by
  unfold readyNode at hn
  show Host.Outcome.next (s.evalNode pa) = _
  simp only [State.evalNode, hn, hq, hr]
  rfl

theorem controlNode_fails {a : Nat} (hr : s.readWords n.space n.record.cond.toNat 1 = (u, .data a) ∨
      s.readWords n.space n.record.cond.toNat 1 = (u, .pages a) ∨ s.readWords n.space n.record.cond.toNat 1 = (u, .viol a)) :
    exec (.controlNodeEval pa) s = .next ((u.settleNode k pa false).tellSuper c.tdom) := by
  unfold readyNode at hn
  show Host.Outcome.next (s.evalNode pa) = _
  rcases hr with hr | hr | hr <;> simp only [State.evalNode, hn, hq, hr] <;> rfl

theorem controlNode_far {a : Nat} (hr : s.readWords n.space n.record.cond.toNat 1 = (u, .far a)) :
    exec (.controlNodeEval pa) s = .next s := by
  unfold readyNode at hn
  show Host.Outcome.next (s.evalNode pa) = _
  simp only [State.evalNode, hn, hq, hr]
  rfl

end

section

variable (u : State) (pa k v : Nat) (c : Ctx) (n : Node)

theorem nodeEnd_branch (h : n.record.node = 1) : nodeEnd u pa k v c n =
    ((u.settleNode k pa false).setEvents k n.record.set).armSucc c.tdom n.space n.va (if v ≠ 0 then n.record.succ0 else n.record.succ1) := by
  simp [nodeEnd, h]

theorem nodeEnd_loop (h : n.record.node = 2) (hv : v ≠ 0) : nodeEnd u pa k v c n =
    ((u.settleNode k pa true).setEvents k n.record.set).armSucc c.tdom n.space n.va n.record.succ0 := by
  simp [nodeEnd, h, hv]

theorem nodeEnd_loop_over (h : n.record.node = 2) (hv : v = 0) : nodeEnd u pa k v c n =
    ((u.settleNode k pa false).setEvents k n.record.set).armSucc c.tdom n.space n.va n.record.succ1 := by
  simp [nodeEnd, h, hv]

theorem nodeEnd_case (h : n.record.node = 3) (hv : v < n.record.ncase) (hs : n.record.succ0 ≠ 0) : nodeEnd u pa k v c n =
    ((u.settleNode k pa false).setEvents k n.record.set).armLink c.tdom n.space n.va (n.record.succ0.toInt + v) := by
  have hs' : ¬ n.record.succ0 = 0#32 := hs
  simp [nodeEnd, h, hv, hs']

theorem nodeEnd_default (h : n.record.node = 3) (hv : n.record.ncase ≤ v) : nodeEnd u pa k v c n =
    ((u.settleNode k pa false).setEvents k n.record.set).armSucc c.tdom n.space n.va n.record.succ1 := by
  simp [nodeEnd, h, Nat.not_lt.mpr hv]

end

/-- Settles O55: one lemma per scheduler step above, and for a first placement on one core what `putCore` leaves there. -/
theorem contextsArePlacedAndWoken : Obligations.ContextsArePlacedAndWoken := by
  refine ⟨?_, fun s k o c hc h => placement_not_ready hc o h, ?_, fun s k c hc hl => swap_without_launch hc hl, ?_, ?_, ?_, ?_, ?_⟩
  · intro s k o pa c r hc hn hst hready hq hp haw
    have hexec := placement_cases hc hn hst hready hq hp haw o
    refine ⟨fun hno => ?_, fun hfit hfree hbanks hout hres => ?_, fun hfit h => ?_⟩
    · rw [hexec, if_neg]
      rw [List.any_eq_true]
      rintro ⟨z, hz, hu⟩
      rw [hno z hz] at hu
      cases hu
    · rw [hexec, if_pos (List.any_eq_true.mpr hfit), if_pos ⟨hfree, hbanks, hout, hres⟩, placeAt_eq]
      refine ⟨_, _, _, rfl, tget_tset_same _ _ _, rfl, rfl, placedLaunch_origin s c pa r o, placedLaunch_since s c pa r o, rfl, rfl, rfl, rfl,
        placedAs_asid s k c pa r o, fun p hl hrect => ?_⟩
      have hframes : (placedLaunch s c pa r o).frames = [] := by rw [placedLaunch, hl]
      have hrec : (placedLaunch s c pa r o).record = r := by rw [placedLaunch, hl]
      have hcores : placedCores s k c pa r o =
          s.putCore k (placedLaunch s c pa r o) (BitVec.ofNat 32 (s.cbWord c 0x10).toNat &&& spillMask) p := by
        rw [placedCores, hrect]
        rfl
      obtain ⟨hstore, hcore⟩ := putCore_first s k hframes (BitVec.ofNat 32 (s.cbWord c 0x10).toNat &&& spillMask) p
      rw [placedLaunch_origin, hrec] at hcore
      refine ⟨fun g htags hpend => ?_, ?_⟩
      · show ((placedCores s k c pa r o).storeAt (storeKey k p)).tag g = _
        rw [hcores, hstore]
        exact freshTags_tag htags hpend
      · show (placedCores s k c pa r o).coreAt _ = _
        rw [hcores, hcore]
    · rw [hexec, if_pos (List.any_eq_true.mpr hfit), if_neg]
      rintro ⟨h1, h2, h3, h4⟩
      simp [h1, h2, h3, h4] at h
  · intro s k c l hc hl
    exact ⟨swapOut_parked hc hl, swapOut_ready hc hl, fun hin h hroom => swapIn_room hc hl hin h hroom, fun _ hroom => swapIn_full hc hl hroom⟩
  · intro s k p c hc
    refine ⟨fun i hst hb hh => ?_, fun l hst hl hin => bankReclaim_running hc hst hl hin⟩
    rw [bankReclaim_idle hc hst hb hh]
    exact ⟨fun h => congrArg _ (if_neg (by rw [h]; exact Bool.false_ne_true)), fun h => congrArg _ (if_pos h)⟩
  · exact fun s k c hc => ⟨fun hst hp he hl hn => contextReady_waits_over hc hst hp he hl hn, contextReady_still hc⟩
  · intro s k c hc
    refine ⟨fun z ht hz => wakeTimer_due hc ht hz, fun z ht hz => wakeTimer_early hc fun y hy => ?_, fun ht => wakeTimer_early hc fun y hy => ?_⟩
    · obtain rfl : z = y := Option.some.inj (ht.symm.trans hy)
      exact hz
    · rw [ht] at hy
      cases hy
  · intro s u pa k v c n hq hn
    refine ⟨fun hr => ?_, fun a hr => controlNode_fails hq hn hr, fun a hr => controlNode_far hq hn hr⟩
    intro off on
    rw [controlNode_reads hq hn hr]
    exact ⟨fun h => congrArg _ (nodeEnd_branch u pa k v c n h), fun h hv => congrArg _ (nodeEnd_loop u pa k v c n h hv),
      fun h hv => congrArg _ (nodeEnd_loop_over u pa k v c n h hv), fun h hv hs => congrArg _ (nodeEnd_case u pa k v c n h hv hs),
      fun h hv => congrArg _ (nodeEnd_default u pa k v c n h hv)⟩
  · exact fun s d sp va succ => ⟨if_pos rfl, fun h => if_neg h⟩

end Sys2Proof.Proofs
end

section
/-! KV pages and their directory, settled. -/

namespace Sys2Proof.Proofs

open Sys2Proof.Machine Sys2Proof.Claims Sys2Proof.Laws

/-! ### When a move starts (11 R286, R289) -/

theorem moveBegun_paced (s : State) (m : Move) : (moveBegun s m).paced = s.paced := by
  rw [moveBegun, State.setDir]

section

variable {s : State} {k tier loc : Nat} {fault : Bool}

theorem moveMay_iff : s.moveMay k tier loc fault = true ↔ moveLeft s k ∧ (fault = true ∨ s.faultWaits (k % 4) = false) ∧
    ((eTier (s.dirEntry k) = tier ∧ eLoc (s.dirEntry k) = loc) ∨ s.fenced tier loc = false) := by
  simp [State.moveMay, moveLeft, and_assoc]

theorem startFrameMove_begins {d f : Nat} (demotion : Bool)
    (hleast : least (s.freeFrames d (if tier = 1 then frameHbm else framePool)) = some f) (hmay : s.moveMay k tier f fault = true) :
    s.startFrameMove d k tier demotion fault = moveBegun s (moveTo s k (s.dirEntry k) tier f demotion) := by
  rw [State.startFrameMove, hleast]
  exact if_pos hmay

/-- What `moveWanted` says of the state after fixes it. -/
theorem wantMove_of_moveWanted {m : Move} {t : State} (h : moveWanted s m t) : s.wantMove m = t := by
  obtain ⟨hstarts, hwaits⟩ := h
  have hmay := moveMay_iff (s := s) (k := m.kvpn) (tier := m.tier) (loc := m.loc) (fault := false)
  rw [State.wantMove]
  split
  next h =>
    obtain ⟨hleft, hfault, hfence⟩ := hmay.mp h
    exact (hstarts ⟨hleft, hfault.resolve_left nofun, hfence⟩).symm
  next h => exact (hwaits fun ⟨hleft, hfault, hfence⟩ => h (hmay.mpr ⟨hleft, .inr hfault, hfence⟩)).symm

end

/-! ### DEMOTION_START (11 R288) -/

section

variable {s : State} {k d : Nat}

theorem due_of_paced {e : Word} (h : ∀ z, tget s.paced (d * 65536 + eAsid e) = some z → z + s.res.dpace ≤ s.ptp) : s.due d e = true := by
  unfold State.due
  split
  · rfl
  · next z hz => exact decide_eq_true (h z hz)

/-- The frames of the next tier lie in HBM4E for a page of the store tier, in the pool for one of HBM4E. -/
theorem nextTier_frames (t : Nat) : (if t + 1 = 1 then frameHbm else framePool) = if t = 0 then frameHbm else framePool := by
  simp

theorem demotable_of_free {f : Nat} (hmay : s.mayDemote k = true)
    (hleast : least (s.freeFrames d (if eTier (s.dirEntry k) = 0 then frameHbm else framePool)) = some f)
    (hmove : s.moveMay k (eTier (s.dirEntry k) + 1) f false = true) : s.demotable d k = true := by
  rw [State.demotable, hmay, hleast]
  exact hmove

theorem not_demotable (h : s.mayDemote k = false ∨ s.faultWaits (k % 4) = true) : s.demotable d k = false := by
  unfold State.demotable
  rcases h with hmay | hfault
  · rw [hmay, Bool.false_and]
  · split
    · exact Bool.and_false _
    · have hmove : ∀ tier loc, s.moveMay k tier loc false = false := fun tier loc => by simp [State.moveMay, hfault]
      rw [hmove, Bool.and_false]

theorem demotionStart_held (hdom : s.pageDom (s.dirEntry k) = some d) (h : s.mayDemote k = false ∨ s.faultWaits (k % 4) = true) :
    s.demotionStart k = s := by
  simp only [State.demotionStart, hdom, not_demotable h, Bool.not_false, if_true]

theorem demotionStart_first {f : Nat} (hdom : s.pageDom (s.dirEntry k) = some d) (hdue : s.due d (s.dirEntry k) = true)
    (hmay : s.mayDemote k = true)
    (hfirst : ∀ x ∈ s.dir, ∀ g, s.pageDom x.2 = some g → s.due g x.2 = true → s.demotable g x.1 = true →
      ¬ (eTier x.2 < eTier (s.dirEntry k) ∨ (eTier x.2 = eTier (s.dirEntry k) ∧ x.1 < k)))
    (hleast : least (s.freeFrames d (if eTier (s.dirEntry k) = 0 then frameHbm else framePool)) = some f)
    (hmove : s.moveMay k (eTier (s.dirEntry k) + 1) f false = true) :
    let t := moveBegun s (moveTo s k (s.dirEntry k) (eTier (s.dirEntry k) + 1) f true)
    s.demotionStart k = { t with paced := tset t.paced (d * 65536 + eAsid (s.dirEntry k)) s.ptp } := by
  intro t
  simp only [State.demotionStart, hdom, demotable_of_free hmay hleast hmove, Bool.not_true, Bool.false_eq_true, if_false]
  rw [if_pos, startFrameMove_begins true ((nextTier_frames _).symm ▸ hleast) hmove, show t.paced = s.paced from moveBegun_paced s _]
  rw [hdue, Bool.true_and, Bool.not_eq_true', List.any_eq_false]
  intro x hx h
  simp only [Bool.and_eq_true, Bool.or_eq_true, decide_eq_true_eq, Option.any_eq_true] at h
  obtain ⟨hbefore, g, hg, hd, hdem⟩ := h
  exact hfirst x hx g hg hd hdem hbefore

end

/-! ### PROMOTION_START (11 R289; 17 R375, R377) -/

section

variable {s : State} {k d : Nat} (hdom : s.pageDom (s.dirEntry k) = some d)
  (hfar : ∀ x, s.pageDistance d (eAsid (s.dirEntry k)) = some x → x ≠ 0 ∧ s.res.plead ≤ x)

include hdom hfar

/-- A page whose address space does not wake is promoted for a fault alone. -/
theorem promotionStart_asleep : s.promotionStart k =
    if eMoving (s.dirEntry k) = true then s
    else if s.faultNames k = true ∧ eTier (s.dirEntry k) = 2 then s.startFrameMove d k 1 false true
    else s := by
  simp only [State.promotionStart, hdom]
  cases hdist : s.pageDistance d (eAsid (s.dirEntry k)) with
  | none => simp
  | some x =>
    obtain ⟨hpos, hlead⟩ := hfar x hdist
    simp [hpos, Nat.not_lt.mpr hlead]

theorem promotionStart_faulted {f : Nat} (hstill : eMoving (s.dirEntry k) = false) (hnames : s.faultNames k = true)
    (htier : eTier (s.dirEntry k) = 2) (hleast : least (s.freeFrames d frameHbm) = some f) (hmove : s.moveMay k 1 f true = true) :
    s.promotionStart k = moveBegun s (moveTo s k (s.dirEntry k) 1 f false) := by
  rw [promotionStart_asleep hdom hfar, hstill, if_neg Bool.false_ne_true, if_pos ⟨hnames, htier⟩]
  exact startFrameMove_begins false hleast hmove

theorem promotionStart_idle (h : eMoving (s.dirEntry k) = true ∨ s.faultNames k = false) : s.promotionStart k = s := by
  rw [promotionStart_asleep hdom hfar]
  rcases h with hmoving | hnames
  · exact if_pos hmoving
  · rw [if_neg fun hf : s.faultNames k = true ∧ _ => Bool.false_ne_true (hnames.symm.trans hf.1), ite_self]

end

/-! ### MOVE_INSTALL, OLD_LOCATION_RELEASE and DIRECTORY_LEASE_EXPIRY (11 R285, R286) -/

theorem moveInstall_found {s : State} {k : Nat} {m : Move} (hm : s.moves.find? (fun m => decide (m.kvpn = k)) = some m) :
    let u := s.kvCopy k (eTier m.old) (eLoc m.old) m.tier m.loc
    let f : Fence := { tier := eTier m.old, loc := eLoc m.old, dom := (u.pageDom m.old).getD 0, kvpn := k, ends := u.leaseEnd k }
    let t : State := { u.setDir k m.entry with
      moves := u.moves.filter (fun x => decide (x.kvpn ≠ k))
      fences := if m.tier = f.tier ∧ m.loc = f.loc then u.fences else u.fences ++ [f] }
    s.moveInstall k = (if m.tier ≤ 1 then t.pagePresent k else t).startQueued := by
  simp only [State.moveInstall, hm]

theorem releaseOld_found {s : State} {i : Nat} {f : Fence} (hf : s.fences[i]? = some f) :
    s.releaseOld i = if f.ends ≤ s.cycle then ({ s with fences := s.fences.eraseIdx i } : State).startQueued else s := by
  simp only [State.releaseOld, hf]

theorem mem_leaseExpiry (s : State) (die k : Nat) (l : DirLease) :
    l ∈ (s.leaseExpiry die k).leases ↔ l ∈ s.leases ∧ ¬ (l.die = die ∧ l.kvpn = k ∧ l.ends ≤ s.cycle) := by
  simp only [State.leaseExpiry, List.mem_filter, Bool.not_eq_true', ← Bool.decide_and, decide_eq_false_iff_not, and_assoc]

/-! ### Requests of the supervisor (14 R355) -/

section

variable {s : State} {d k : Nat}

theorem resOp_outside (h : s.pageDom (s.dirEntry k) ≠ some d) (f : State → Word → State × Nat) : s.resOp d k f = s.resAnswer d 1 :=
  if_pos h

theorem resOp_moving (hdom : s.pageDom (s.dirEntry k) = some d) (h : eMoving (s.dirEntry k) = true) (f : State → Word → State × Nat) :
    s.resOp d k f = s.resAnswer d 2 := by
  simp only [State.resOp, hdom, h, ne_eq, not_true_eq_false, if_true, if_false]

theorem resOp_runs (hdom : s.pageDom (s.dirEntry k) = some d) (h : eMoving (s.dirEntry k) = false) (f : State → Word → State × Nat) :
    s.resOp d k f = (f s (s.dirEntry k)).1.resAnswer d (f s (s.dirEntry k)).2 := by
  simp only [State.resOp, hdom, h, ne_eq, not_true_eq_false, Bool.false_eq_true, if_false]

/-- PREF is 0 to 2: 3 names no tier. -/
theorem setPref_valid {b : BitVec 2} (hb : b ≠ 3) :
    exec (.setPref d k b) s = .next (s.resEntry d k (fun e => putBits e 59 58 b.toNat)) := by
  have hb' : b.toNat ≠ 3 := fun h => hb (BitVec.eq_of_toNat_eq h)
  show Host.Outcome.next (s.resPref d k b.toNat) = _
  rw [State.resPref, if_neg hb']

/-- Every request is carried out through `State.resOp`, so what this refuses is refused to all of them. -/
theorem requests_refused {n : Nat} (h : ∀ f, s.resOp d k f = s.resAnswer d n) (b : BitVec 2) (w : BitVec 36) :
    exec (.setPin d k) s = .next (s.resAnswer d n) ∧ exec (.clearPin d k) s = .next (s.resAnswer d n) ∧
      exec (.freePage d k) s = .next (s.resAnswer d n) ∧ exec (.moveToStoreTier d k w) s = .next (s.resAnswer d n) ∧
      (b ≠ 3 → exec (.setPref d k b) s = .next (s.resAnswer d n)) :=
  have hentry : ∀ g, s.resEntry d k g = s.resAnswer d n := fun _ => h _
  ⟨congrArg Host.Outcome.next (hentry _), congrArg Host.Outcome.next (hentry _), congrArg Host.Outcome.next (h _),
    congrArg Host.Outcome.next (h _), fun hb => (setPref_valid hb).trans (congrArg Host.Outcome.next (hentry _))⟩

section

variable (hdom : s.pageDom (s.dirEntry k) = some d) (hstill : eMoving (s.dirEntry k) = false)

include hdom hstill

theorem resEntry_moves (g : Nat → Nat) {t : State}
    (h : moveWanted s (moveTo s k (BitVec.ofNat 64 (g (s.dirEntry k).toNat)) (eTier (s.dirEntry k)) (eLoc (s.dirEntry k)) false) t) :
    s.resEntry d k g = t.resAnswer d 0 := by
  rw [State.resEntry, resOp_runs hdom hstill]
  exact congrArg (State.resAnswer · d 0) (wantMove_of_moveWanted h)

theorem resFree_frees : s.resFree d k =
    (({ (s.dropHome k).setDir k dirFree with
        fences := s.fences ++ [{ tier := eTier (s.dirEntry k), loc := eLoc (s.dirEntry k), dom := d, kvpn := k, ends := s.leaseEnd k }] } :
      State).pageLost k).resAnswer d 0 :=
  resOp_runs hdom hstill _

end

/-! ### A move to the store tier -/

/-- The store bound to the core of a store-tier location, if its context is of a domain and an ASID. -/
def pairOwner (s : State) (d asid loc : Nat) : Option Nat :=
  s.bound.findSome? (fun x =>
    if x.2 = locCore loc ∧ (tget s.ctxs (x.1 / 4096)).any (fun c => decide (c.tdom = d) && decide (c.asid = asid)) then some x.1 else none)

/-- A page's new store home at a bank pair of a store. -/
def withHome (s : State) (k key bank : Nat) : State :=
  let u := (s.dropHome k).markPair key bank (some k)
  let h : Home := { slot := key / 4096, pos := key % 4096, bank := bank }
  { u with homes := tset u.homes k h }

theorem dropHome_dir (s : State) (k : Nat) : (s.dropHome k).dir = s.dir := by
  unfold State.dropHome
  split <;> rfl

theorem dropHome_ptp (s : State) (k : Nat) : (s.dropHome k).ptp = s.ptp := by
  unfold State.dropHome
  split <;> rfl

theorem withHome_dirEntry (s : State) (k key bank : Nat) : (withHome s k key bank).dirEntry k = s.dirEntry k :=
  congrArg (fun dir => (tget dir k).getD dirFree) (dropHome_dir s k)

theorem withHome_ptp (s : State) (k key bank : Nat) : (withHome s k key bank).ptp = s.ptp := dropHome_ptp s k

/-- A page takes its home without moving: its move is named as before. -/
theorem withHome_moveOf (s : State) (k key bank : Nat) (e : Word) (tier loc : Nat) (demotion : Bool) :
    (withHome s k key bank).moveOf k e tier loc demotion = moveTo s k e tier loc demotion := by
  rw [State.moveOf, withHome_dirEntry, withHome_ptp, moveTo]

theorem pairOwner_none {asid loc : Nat}
    (h : ∀ x ∈ s.bound, x.2 = locCore loc → ∀ c, tget s.ctxs (x.1 / 4096) = some c → ¬ (c.tdom = d ∧ c.asid = asid)) :
    pairOwner s d asid loc = none := by
  rw [pairOwner, List.findSome?_eq_none_iff]
  intro x hx
  rw [if_neg]
  rintro ⟨hcore, hany⟩
  simp only [Option.any_eq_true, Bool.and_eq_true, decide_eq_true_eq] at hany
  obtain ⟨c, hc, hown⟩ := hany
  exact h x hx hcore c hc hown

theorem pairOwner_single {key loc : Nat} {c : Ctx} (hbound : s.bound = [(key, locCore loc)]) (hc : tget s.ctxs (key / 4096) = some c) :
    pairOwner s c.tdom c.asid loc = some key := by
  simp [pairOwner, hbound, hc]

section

variable (hdom : s.pageDom (s.dirEntry k) = some d) (hstill : eMoving (s.dirEntry k) = false)

include hdom hstill

theorem resToStore_unowned {loc : Nat} (hown : pairOwner s d (eAsid (s.dirEntry k)) loc = none) : s.resToStore d k loc = s.resAnswer d 3 := by
  rw [pairOwner] at hown
  rw [State.resToStore, resOp_runs hdom hstill]
  simp only [hown]

theorem resToStore_moves {key loc : Nat} {t : State} (hown : pairOwner s d (eAsid (s.dirEntry k)) loc = some key) (hloc : loc < 2 ^ 16)
    (heven : locBank loc % 2 = 0) (htier : eTier (s.dirEntry k) = 1)
    (hbanks : ∀ i, i = locBank loc ∨ i = locBank loc + 1 →
      ((s.storeAt key).bank i).page = none ∧ ((s.storeAt key).bank i).mode = .scratch)
    (hmove : moveWanted (withHome s k key (locBank loc)) (moveTo s k (s.dirEntry k) 0 loc false) t) :
    s.resToStore d k loc = t.resAnswer d 0 := by
  obtain ⟨hpage, hmode⟩ := hbanks _ (.inl rfl)
  obtain ⟨hpage', hmode'⟩ := hbanks _ (.inr rfl)
  rw [← wantMove_of_moveWanted hmove, ← withHome_moveOf s k key (locBank loc)]
  rw [pairOwner] at hown
  rw [State.resToStore, resOp_runs hdom hstill]
  simp only [hown, Nat.div_eq_of_lt hloc, heven, hpage, hmode, hpage', hmode', htier, Option.isNone_none, decide_true, Bool.true_or,
    Bool.and_self, Bool.not_true, ne_eq, not_true_eq_false, Bool.false_eq_true, or_self, if_false, one_ne_zero, false_and]
  rfl

end

end

/-- Settles O56: the steps of a move by what lets it start, and each request as `State.resOp` carries it out. -/
theorem kvPagesMoveByTheirDirectory : Obligations.KvPagesMoveByTheirDirectory := by
  refine ⟨?_, fun s k d hdom h => congrArg Host.Outcome.next (demotionStart_held hdom h), ?_,
    fun s k d hdom hfar h => congrArg Host.Outcome.next (promotionStart_idle hdom hfar h),
    fun s k m hm => congrArg Host.Outcome.next (moveInstall_found hm), ?_,
    fun s die k => ⟨s.leaseExpiry die k, rfl, rfl, mem_leaseExpiry s die k⟩, ?_⟩
  · intro s k d f hdom hmay hfault hpaced hfirst hleast hleft hfence
    have hmove : s.moveMay k (eTier (s.dirEntry k) + 1) f false = true := moveMay_iff.mpr ⟨hleft, .inr hfault, .inr hfence⟩
    exact congrArg Host.Outcome.next (demotionStart_first hdom (due_of_paced hpaced) hmay hfirst hleast hmove)
  · intro s k d f hdom hfar hstill hnames htier hleast hleft hfence
    exact congrArg Host.Outcome.next (promotionStart_faulted hdom hfar hstill hnames htier hleast
      (moveMay_iff.mpr ⟨hleft, .inl rfl, .inr hfence⟩))
  · exact fun s i f hf => ⟨fun h => congrArg Host.Outcome.next ((releaseOld_found hf).trans (if_pos h)),
      fun h => congrArg Host.Outcome.next ((releaseOld_found hf).trans (if_neg (Nat.not_le.mpr h)))⟩
  · intro s d k b w
    refine ⟨fun h => requests_refused (resOp_outside h) b w, fun hdom h => requests_refused (resOp_moving hdom h) b w, rfl,
      fun hdom hstill => ?_⟩
    refine ⟨fun t h => congrArg Host.Outcome.next (resEntry_moves hdom hstill (putBits · 60 60 1) h),
      fun t h => congrArg Host.Outcome.next (resEntry_moves hdom hstill (putBits · 60 60 0) h),
      fun t hb h => (setPref_valid hb).trans (congrArg Host.Outcome.next (resEntry_moves hdom hstill _ h)),
      congrArg Host.Outcome.next (resFree_frees hdom hstill),
      fun h => congrArg Host.Outcome.next (resToStore_unowned hdom hstill (pairOwner_none h)), ?_⟩
    rintro key c hbound hc rfl hasid hloc heven htier hbanks u h v t hmove
    exact congrArg Host.Outcome.next
      (resToStore_moves hdom hstill (hasid ▸ pairOwner_single hbound hc) hloc heven htier hbanks hmove)

end Sys2Proof.Proofs
end

section
/-! Steps and the settings of the signed records (12 R308, R320, R321; log 7): a turn that is no power-on reset leaves them. -/

namespace Sys2Proof.Proofs

open Sys2Proof.Machine Sys2Proof.Laws

/-! ### What a decoder accepts is a word, and POWER_ON_RESET is none -/

theorem ne_powerOnReset_of_encode {i : Instr} (h : encode i ≠ .step) (b : Boot) : i ≠ .powerOnReset b := by
  rintro rfl
  exact h rfl

theorem encode_of_decodeXBytes {bs : List Byte} {i : Instr} (h : decodeXBytes bs = .ok i) : encode i ≠ .step := by
  unfold decodeXBytes at h
  split at h
  · cases h
  · obtain ⟨-, -, he⟩ := decodeX_ok h
    rw [he]
    nofun

theorem encode_of_decodeABytes {bs : List Byte} {i : Instr} (h : decodeABytes bs = .ok i) : encode i ≠ .step := by
  unfold decodeABytes at h
  split at h
  · obtain ⟨-, -, he⟩ := decodeA_ok h
    rw [he]
    nofun
  · cases h

theorem encode_of_decodeMicro {w : BitVec 16} {i : Instr} (h : decodeMicro w = .ok i) : encode i ≠ .step := by
  obtain ⟨-, he⟩ := decodeMicro_ok h
  rw [he]
  nofun

/-- An instruction that a stream or a unit takes up leaves the settings. -/
theorem exec_word_settings {i : Instr} (h : encode i ≠ .step) {c : Settings} {s : State} (hs : s.settings = c) : OutKeeps c (exec i s) :=
  hs ▸ exec_settings i s (ne_powerOnReset_of_encode h)

/-! ### Turns -/

theorem stepX_settings (s : State) : OutKeeps s.settings s.stepX := by
  unfold State.stepX
  split
  · split
    case h_1 t hfetch => exact fetchX_settings' hfetch
    case h_2 t bs hfetch =>
      split
      case h_1 i hdecode => exact exec_word_settings (encode_of_decodeXBytes hdecode) (fetchX_settings' hfetch)
      case h_2 => exact (xIllegal_settings t).trans (fetchX_settings' hfetch)
  · split
    · exact xWait_settings s
    · rfl

theorem stepA_settings (s : State) : OutKeeps s.settings s.stepA := by
  unfold State.stepA
  split
  · split
    case h_1 t hfetch => exact fetchA_settings' hfetch
    case h_2 t bs hfetch =>
      split
      case h_1 i hdecode => exact exec_word_settings (encode_of_decodeABytes hdecode) (fetchA_settings' hfetch)
      case h_2 => exact (aIllegal_settings t).trans (fetchA_settings' hfetch)
  · rfl

theorem stepNbu_settings (s : State) (bank : Nat) : OutKeeps s.settings (s.stepNbu bank) := by
  unfold State.stepNbu
  split
  · rfl
  · split
    case h_1 i hdecode => exact exec_word_settings (encode_of_decodeMicro hdecode) rfl
    case h_2 => rfl

theorem turn_settings (s : State) {a : Turn} (ha : a.powersOn = false) : OutKeeps s.settings (s.turn a) := by
  match a with
  | .x i => exact focus_settings s i ▸ stepX_settings (s.focus i)
  | .a i => exact focus_settings s i ▸ stepA_settings (s.focus i)
  | .nbu bank => exact stepNbu_settings s bank
  | .at n i =>
    have hi : ∀ b, i ≠ .powerOnReset b := by
      rintro b rfl
      cases ha
    unfold State.turn
    simp only
    split
    · exact focus_settings s n ▸ exec_settings i (s.focus n) hi
    · rfl

theorem take_settings {s t : State} {a : Turn} (ha : a.powersOn = false) (h : s.take a = .next t) : t.settings = s.settings := by
  have hturn := turn_settings s ha
  unfold State.take at h
  split at h
  · rename_i u hu
    rw [hu] at hturn
    cases h
    exact (finish_settings u a).trans hturn
  · cases h
  · cases h

/-! ### The model's own round -/

/-- No turn of a list is a power-on reset. -/
def NonePowersOn (l : List Turn) : Prop := ∀ a ∈ l, a.powersOn = false

theorem nonePowersOn_nil : NonePowersOn [] := List.forall_mem_nil _

section

variable {α : Type}

theorem nonePowersOn_append {l m : List Turn} (hl : NonePowersOn l) (hm : NonePowersOn m) : NonePowersOn (l ++ m) :=
  fun a ha => (List.mem_append.mp ha).elim (hl a) (hm a)

theorem nonePowersOn_map {f : α → Turn} (h : ∀ x, (f x).powersOn = false) (l : List α) : NonePowersOn (l.map f) :=
  List.forall_mem_map.mpr fun x _ => h x

theorem nonePowersOn_flatMap {f : α → List Turn} (h : ∀ x, NonePowersOn (f x)) (l : List α) :
    NonePowersOn (l.flatMap f) := fun a ha =>
  let ⟨x, _, hx⟩ := List.mem_flatMap.mp ha
  h x a hx

theorem nonePowersOn_flatten {ls : List (List Turn)} (h : ∀ l ∈ ls, NonePowersOn l) : NonePowersOn ls.flatten := fun a ha =>
  let ⟨l, hl, hal⟩ := List.mem_flatten.mp ha
  h l hl a hal

end

theorem coreTurns_nonePowersOn (i : Nat) : NonePowersOn (coreTurns i) := by
  simp [NonePowersOn, coreTurns, Turn.powersOn]

theorem ctxTurns_nonePowersOn (s : State) (k : Nat) (c : Ctx) : NonePowersOn (s.ctxTurns k c) :=
  nonePowersOn_append (by simp [NonePowersOn, device, Turn.powersOn]) (nonePowersOn_map (fun _ => rfl) _)

theorem cmdTurns_nonePowersOn (c : EngCmd) : NonePowersOn (cmdTurns c) := by
  refine nonePowersOn_append (by simp [NonePowersOn, device, Turn.powersOn]) ?_
  split
  · exact nonePowersOn_append (nonePowersOn_map (fun _ => rfl) _) (by simp [NonePowersOn, device, Turn.powersOn])
  · exact nonePowersOn_nil

theorem memoryTurns_nonePowersOn (s : State) : NonePowersOn s.memoryTurns :=
  nonePowersOn_append (nonePowersOn_flatMap (fun _ => by simp [NonePowersOn, device, Turn.powersOn]) _)
    (nonePowersOn_append (nonePowersOn_map (fun _ => rfl) _)
      (nonePowersOn_flatMap (fun _ => by simp [NonePowersOn, device, Turn.powersOn]) _))

theorem pageTurns_nonePowersOn (s : State) : NonePowersOn s.pageTurns := by
  refine nonePowersOn_flatten ?_
  simp only [List.forall_mem_cons]
  exact ⟨nonePowersOn_map (fun _ => rfl) _, nonePowersOn_map (fun _ => rfl) _, nonePowersOn_map (fun _ => rfl) _,
    nonePowersOn_flatMap (fun _ => by simp [NonePowersOn, device, Turn.powersOn]) _, nofun⟩

theorem portTurns_nonePowersOn (s : State) : NonePowersOn s.portTurns := by
  refine nonePowersOn_flatten ?_
  simp only [List.forall_mem_cons]
  exact ⟨nonePowersOn_map (fun _ => rfl) _, nonePowersOn_map (fun _ => rfl) _, List.forall_mem_singleton.mpr rfl,
    nonePowersOn_flatMap (fun _ => by simp [NonePowersOn, device, Turn.powersOn]) _, nonePowersOn_map (fun _ => rfl) _,
    nonePowersOn_map (fun _ => rfl) _, nofun⟩

theorem turns_nonePowersOn (s : State) : NonePowersOn s.turns := by
  refine nonePowersOn_flatten ?_
  simp only [List.forall_mem_cons]
  refine ⟨?_, nonePowersOn_flatMap (fun _ => coreTurns_nonePowersOn _) _, nonePowersOn_flatMap (fun _ => ctxTurns_nonePowersOn s _ _) _,
    nonePowersOn_flatMap cmdTurns_nonePowersOn _, memoryTurns_nonePowersOn s, pageTurns_nonePowersOn s, portTurns_nonePowersOn s, nofun⟩
  split
  · exact coreTurns_nonePowersOn _
  · exact nonePowersOn_nil

theorem defaultTurn_powersOn {s : State} {a : Turn} (h : s.defaultTurn = some a) : a.powersOn = false := by
  unfold State.defaultTurn at h
  split at h
  · exact turns_nonePowersOn s a (List.mem_of_getElem? h)
  · cases h

/-! ### Steps -/

theorem powersOn_eq_false {a : Turn} (h : ∀ n b, a ≠ .at n (.powerOnReset b)) : a.powersOn = false := by
  unfold Turn.powersOn
  split
  · exact absurd rfl (h _ _)
  · rfl

/-- A step at any turn but a power-on reset leaves the settings of the signed records. -/
theorem step_settings {s t : State} (ha : ∀ n b rest, s.agenda ≠ .at n (.powerOnReset b) :: rest) (h : step s = .next t) :
    t.settings = s.settings := by
  unfold step at h
  split at h
  case h_1 a rest hagenda =>
    split at h
    · cases h
    · refine take_settings (s := { s with agenda := rest }) (powersOn_eq_false fun n b e => ?_) h
      exact ha n b rest (e ▸ hagenda)
  case h_2 =>
    split at h
    · cases h
    · split at h
      case h_1 a hdefault => exact take_settings (defaultTurn_powersOn hdefault) h
      case h_2 =>
        cases h
        exact finish_settings s _

end Sys2Proof.Proofs
end

section
/-! Power-on resets and the settings of the signed records (12 R308, R320, R321; 07 R170; 11 R290; 14 R363): what bring-up takes is
valid and has the version of its counter, and what it settles is what those records say. -/

namespace Sys2Proof.Proofs

open Sys2Proof.Machine Sys2Proof.Laws

/-! ### The records that bring-up takes (12 R321, R322) -/

/-- The record of type 1 that bring-up takes: the owner's keys. -/
def ownerKeys (s : State) : Option FlashRecord := pickRecord none s.flash 1 ((tget s.counters 1).getD 0)

/-- The record of a type that bring-up takes: of type 1 under the vendor's keys, of another under the owner's. -/
def takenOf (s : State) (type : Nat) : Option FlashRecord :=
  pickRecord (if type = 1 then none else ownerKeys s) s.flash type ((tget s.counters type).getD 0)

theorem takenOf_type {s : State} {type : Nat} {r : FlashRecord} (h : takenOf s type = some r) : r.type = type :=
  (pickRecord_mem h).2.1

theorem mem_taken {s : State} {r : FlashRecord} (h : r ∈ s.taken) : takenOf s r.type = some r := by
  obtain ⟨type, ht⟩ : ∃ type, takenOf s type = some r := by
    obtain hkeys | hmore := List.mem_append.mp h
    · exact ⟨1, Option.mem_toList.mp hkeys⟩
    · obtain ⟨type, htype, hpick⟩ := List.mem_filterMap.mp hmore
      have hne : type ≠ 1 := by
        rintro rfl
        simp at htype
      exact ⟨type, by rw [takenOf, if_neg hne]; exact hpick⟩
  rwa [takenOf_type ht]

theorem taken_type_inj {s : State} {q r : FlashRecord} (hq : q ∈ s.taken) (hr : r ∈ s.taken) (h : q.type = r.type) : q = r := by
  have hpick := mem_taken hq
  rw [h, mem_taken hr] at hpick
  exact (Option.some.inj hpick).symm

/-- The keys that the records in use hold are those under which the records were taken. -/
theorem find?_taken (s : State) : s.taken.find? (fun k => decide (k.type = 1)) = ownerKeys s := by
  cases hkeys : ownerKeys s with
  | none =>
    refine List.find?_eq_none.mpr fun r hr htype => ?_
    have hpick := mem_taken hr
    rw [of_decide_eq_true htype] at hpick
    exact Option.some_ne_none r (hpick.symm.trans hkeys)
  | some k =>
    have htaken : s.taken = k :: _ := congrArg (fun o : Option FlashRecord => o.toList ++ _) hkeys
    have htype : k.type = 1 := takenOf_type (s := s) hkeys
    rw [htaken, List.find?_cons_of_pos (by simp [htype])]

/-- The signatures of a record of type 1 are the vendor's, whatever the owner's keys. -/
theorem recordValid_type_one {r : FlashRecord} (h : r.type = 1) (keys keys' : Option FlashRecord) :
    recordValid keys r = recordValid keys' r := by
  simp only [recordValid, signedBy, h, if_true]

theorem taken_valid {s : State} {r : FlashRecord} (hr : r ∈ s.taken) : recordValid (ownerKeys s) r = true := by
  obtain ⟨-, -, -, hvalid, -⟩ := pickRecord_mem (mem_taken hr)
  split at hvalid
  · rename_i htype
    rwa [recordValid_type_one htype]
  · exact hvalid

theorem taken_bodyOk {s : State} {r : FlashRecord} (hr : r ∈ s.taken) : bodyOk r.type r.body = true := by
  have hvalid := taken_valid hr
  simp only [recordValid, Bool.and_eq_true] at hvalid
  exact hvalid.2

/-! ### Counters (12 R321) -/

/-- Records of one type have one version: their counter then holds it. -/
theorem tget_counters {rs : List FlashRecord} {r : FlashRecord} (hone : ∀ q ∈ rs, q.type = r.type → q.version = r.version)
    {c : Table Nat} (h : r ∈ rs ∨ tget c r.type = some r.version) :
    tget (rs.foldl (fun c r => tset c r.type r.version) c) r.type = some r.version := by
  induction rs generalizing c with
  | nil => exact h.resolve_left List.not_mem_nil
  | cons q rs ih =>
    obtain ⟨hq, hrest⟩ := List.forall_mem_cons.mp hone
    refine ih hrest ?_
    by_cases htype : q.type = r.type
    · right
      show tget (tset c q.type q.version) r.type = _
      rw [htype, hq htype, tget_tset_same]
    · refine h.imp (fun hr => ?_) (fun hc => ?_)
      · exact (List.mem_cons.mp hr).resolve_left (fun e => htype (e ▸ rfl))
      · exact (tget_tset_ne _ _ (Ne.symm htype)).trans hc

/-! ### What a record's body settles -/

def identityOf : RecordBody → Option (Nat × List DomainCfg)
  | .identity p ds => some (p, ds)
  | _ => none

def residencyOf : RecordBody → Option ResCfg
  | .residency p => some p
  | _ => none

def leaseOf : RecordBody → Option Nat
  | .memory l => some l
  | _ => none

theorem identityOf_eq_some {b : RecordBody} {p : Nat} {ds : List DomainCfg} : identityOf b = some (p, ds) ↔ b = .identity p ds := by
  cases b <;> simp [identityOf]

theorem residencyOf_eq_some {b : RecordBody} {p : ResCfg} : residencyOf b = some p ↔ b = .residency p := by
  cases b <;> simp [residencyOf]

theorem leaseOf_eq_some {b : RecordBody} {l : Nat} : leaseOf b = some l ↔ b = .memory l := by
  cases b <;> simp [leaseOf]

/-- A record of type 2 holds an identity, and one of type 5 residency parameters (12 Table 12-7). -/
theorem bodyOk_two {b : RecordBody} (h : bodyOk 2 b = true) : ∃ x, identityOf b = some x := by
  cases b with
  | identity p ds => exact ⟨(p, ds), rfl⟩
  | _ => cases h

theorem bodyOk_five {b : RecordBody} (h : bodyOk 5 b = true) : ∃ x, residencyOf b = some x := by
  cases b with
  | residency p => exact ⟨p, rfl⟩
  | _ => cases h

theorem bodyOk_identity {type p : Nat} {ds : List DomainCfg} (h : bodyOk type (.identity p ds) = true) : identityOk p ds = true := by
  unfold bodyOk at h
  split at h
  case h_2 heq =>
    cases heq
    exact h
  all_goals contradiction

/-- Some record of a type that bring-up has settles what every record of this type does. -/
theorem findSome?_taken {α : Type} {s : State} {n : Nat} {f : RecordBody → Option α}
    (hf : ∀ b, bodyOk n b = true → ∃ x, f b = some x) (hn : ∃ r ∈ s.taken, r.type = n) : ∃ x, s.taken.findSome? (fun r => f r.body) = some x := by
  obtain ⟨r, hr, rfl⟩ := hn
  obtain ⟨x, hx⟩ := hf r.body (taken_bodyOk hr)
  refine Option.isSome_iff_exists.mp (List.findSome?_isSome_iff.mpr ⟨r, hr, ?_⟩)
  rw [hx]
  rfl

section

variable (s : State) (rs : List FlashRecord) (frames : List Nat)

theorem applyRecords_res : (s.applyRecords rs frames).res = (rs.findSome? (fun r => residencyOf r.body)).getD s.res := by
  unfold State.applyRecords
  split <;> rfl

theorem applyRecords_lease : (s.applyRecords rs frames).lease = (rs.findSome? (fun r => leaseOf r.body)).getD s.lease := by
  unfold State.applyRecords
  split <;> rfl

variable {s rs frames} {p : Nat} {ds : List DomainCfg} (h : rs.findSome? (fun r => identityOf r.body) = some (p, ds))

include h

theorem applyRecords_identity : (s.applyRecords rs frames).pkg = p ∧
    (s.applyRecords rs frames).settings.domains.map (fun d => (d.1, d.2.1)) = ds.zipIdx.map (fun d => (d.2, d.1.dies)) := by
  unfold State.applyRecords
  simp only
  split
  case h_1 hnone => cases hnone.symm.trans h
  case h_2 p' ds' hsome =>
    cases hsome.symm.trans h
    refine ⟨rfl, ?_⟩
    simp only [State.settings, List.map_map]
    rfl

end

/-! ### The dies of an identity record (12 R308) -/

section

variable {p : Nat} {ds : List DomainCfg} (h : identityOk p ds = true)

include h

theorem identityOk_number : 1 ≤ ds.length ∧ ds.length ≤ 4 := by
  simp only [identityOk, Bool.and_eq_true, decide_eq_true_eq] at h
  obtain ⟨⟨⟨⟨⟨-, hlo⟩, hhi⟩, -⟩, -⟩, -⟩ := h
  exact ⟨hlo, hhi⟩

theorem identityOk_divided {i : Nat} (hi : i < 4) : (ds.filter (fun d => d.dies.getLsbD i)).length = 1 := by
  simp only [identityOk, Bool.and_eq_true, List.all_eq_true, decide_eq_true_eq] at h
  obtain ⟨⟨-, hone⟩, -⟩ := h
  exact hone i (List.mem_range.mpr hi)

end

/-- Domains with the dies of a record's list: as many as the list has, with each die in as many of them. -/
theorem domains_of_record {domains : Table (BitVec 4 × SchedCfg)} {ds : List DomainCfg}
    (h : domains.map (fun d => (d.1, d.2.1)) = ds.zipIdx.map (fun d => (d.2, d.1.dies))) :
    domains.length = ds.length ∧
      ∀ i, (domains.filter (fun d => d.2.1.getLsbD i)).length = (ds.filter (fun d => d.dies.getLsbD i)).length := by
  refine ⟨by simpa using congrArg List.length h, fun i => ?_⟩
  have hdies : domains.map (fun d => d.2.1) = ds.map (fun d => d.dies) := by
    have hsnd := congrArg (List.map Prod.snd) h
    simp only [List.map_map] at hsnd
    calc domains.map (fun d => d.2.1) = ds.zipIdx.map (DomainCfg.dies ∘ Prod.fst) := hsnd
      _ = ds.map (fun d => d.dies) := by rw [← List.map_map, List.zipIdx_map_fst]
  have hcount := congrArg (List.countP (fun b : BitVec 4 => b.getLsbD i)) hdies
  rw [List.countP_map, List.countP_map, List.countP_eq_length_filter, List.countP_eq_length_filter] at hcount
  exact hcount

/-! ### Bring-up (14 R363) -/

/-- Bring-up once every step has been completed, before the host creates supervisors. -/
def broughtUp (s : State) (b : Boot) : State :=
  { s.kept.applyRecords s.taken b.kvFrames with
    inUse := s.taken, step := 7, ready := true, flashFw := b.fwVersion, fwDigest := b.fwDigest
    counters := s.taken.foldl (fun c r => tset c r.type r.version) (s.kept.applyRecords s.taken b.kvFrames).counters }

/-- A bring-up fails at a step, or has the records that it needs and completes. -/
theorem powerOn_cases (s : State) (b : Boot) : (∃ n, s.powerOn b = { s.kept with recovery := true, step := n }) ∨
    (∀ n, n = 1 ∨ n = 2 ∨ n = 5 → ∃ r ∈ s.taken, r.type = n) ∧
      s.powerOn b = (b.supers.zipIdx).foldl (fun s x => s.makeSuper x.2 x.1) (broughtUp s b) := by
  unfold State.powerOn
  simp only
  split
  · exact .inl ⟨0, rfl⟩
  split
  · exact .inl ⟨1, rfl⟩
  split
  · exact .inl ⟨2, rfl⟩
  rename_i hhas
  split
  · exact .inl ⟨3, rfl⟩
  split
  · exact .inl ⟨5, rfl⟩
  simp only [Bool.not_eq_true', Bool.not_eq_false, Bool.and_eq_true, List.any_eq_true, decide_eq_true_eq] at hhas
  obtain ⟨⟨h1, h2⟩, h5⟩ := hhas
  refine .inr ⟨?_, rfl⟩
  rintro n (rfl | rfl | rfl)
  · exact h1
  · exact h2
  · exact h5

/-- Before bring-up is complete and with no record in use, there is nothing to be signed. -/
theorem signed_of_not_ready {c : Settings} (hused : c.inUse = []) (hready : c.ready = false) : c.Signed := by
  have hno {P : Prop} (h : c.ready = true) : P := absurd h (hready ▸ Bool.false_ne_true)
  exact ⟨by simp [hused], by simp [hused], hno, hno, hno, hno, hno⟩

theorem broughtUp_signed {s : State} (b : Boot) (h : ∀ n, n = 1 ∨ n = 2 ∨ n = 5 → ∃ r ∈ s.taken, r.type = n) :
    (broughtUp s b).settings.Signed := by
  obtain ⟨⟨p, ds⟩, hid⟩ := findSome?_taken (fun _ => bodyOk_two) (h 2 (.inr (.inl rfl)))
  obtain ⟨res, hres⟩ := findSome?_taken (fun _ => bodyOk_five) (h 5 (.inr (.inr rfl)))
  obtain ⟨r, hr, hbody⟩ := List.exists_of_findSome?_eq_some hid
  rw [identityOf_eq_some] at hbody
  obtain ⟨hpkg, hdoms⟩ := applyRecords_identity (s := s.kept) (frames := b.kvFrames) hid
  obtain ⟨hlength, hcount⟩ := domains_of_record hdoms
  have hok : identityOk p ds = true := bodyOk_identity (hbody ▸ taken_bodyOk hr)
  refine ⟨fun q hq => ?valid, fun q hq => ?versions, fun _ => ?identity, fun _ => ?number, fun _ i hi => ?divided, fun _ => ?residency,
    fun _ => ?lease⟩
  case valid =>
    show recordValid (s.taken.find? _) q = true
    rw [find?_taken]
    exact taken_valid hq
  case versions => exact tget_counters (fun k hk htype => congrArg FlashRecord.version (taken_type_inj hk hq htype)) (.inl hq)
  case identity => exact ⟨r, hr, ds, hbody.trans (congrArg (RecordBody.identity · ds) hpkg.symm), hdoms⟩
  case number => exact hlength ▸ identityOk_number hok
  case divided => exact (hcount i).trans (identityOk_divided hok hi)
  case residency =>
    obtain ⟨q, hq, hqres⟩ := List.exists_of_findSome?_eq_some hres
    refine ⟨q, hq, ?_⟩
    show q.body = .residency (s.kept.applyRecords s.taken b.kvFrames).res
    rw [applyRecords_res, hres]
    exact residencyOf_eq_some.mp hqres
  case lease =>
    show (s.kept.applyRecords s.taken b.kvFrames).lease = 64 ∨
      ∃ r ∈ s.taken, r.body = .memory (s.kept.applyRecords s.taken b.kvFrames).lease
    rw [applyRecords_lease]
    cases hlease : s.taken.findSome? (fun r => leaseOf r.body) with
    | none => exact .inl rfl
    | some l =>
      obtain ⟨q, hq, hql⟩ := List.exists_of_findSome?_eq_some hlease
      exact .inr ⟨q, hq, leaseOf_eq_some.mp hql⟩

theorem makeSupers_settings (l : List ((Nat × List (BitVec 64)) × Nat)) (s : State) :
    (l.foldl (fun s x => s.makeSuper x.2 x.1) s).settings = s.settings := foldl_settings (fun s x => makeSuper_settings s x.2 x.1) l s

/-- Whatever the state, a power-on reset leaves settings that are those of the records then in use. -/
theorem powerOn_signed (s : State) (b : Boot) : (s.powerOn b).settings.Signed := by
  obtain ⟨n, hfail⟩ | ⟨hneeded, hup⟩ := powerOn_cases s b
  · rw [hfail]
    exact signed_of_not_ready rfl rfl
  · rw [hup, makeSupers_settings]
    exact broughtUp_signed b hneeded

/-! ### The statement -/

theorem take_powerOnReset_signed {s t : State} {n : Nat} {b : Boot} (hs : s.settings.Signed)
    (h : s.take (.at n (.powerOnReset b)) = .next t) : t.settings.Signed := by
  unfold State.take State.turn at h
  simp only at h
  split at h
  case h_1 u hu =>
    cases h
    rw [finish_settings]
    split at hu
    · cases hu
      exact powerOn_signed _ b
    · cases hu
      exact hs
  case h_2 => cases h
  case h_3 => cases h

/-- Settles O59: no turn but a power-on reset touches the settings, and a power-on reset settles them anew from the records it takes. -/
theorem onlyPowerOnChangesTheSettings : Obligations.OnlyPowerOnChangesTheSettings := by
  refine ⟨fun s t hs h => ?_, fun s t => step_settings⟩
  by_cases hpower : ∃ n b rest, s.agenda = .at n (.powerOnReset b) :: rest
  · obtain ⟨n, b, rest, hagenda⟩ := hpower
    unfold step at h
    rw [hagenda] at h
    simp only at h
    split at h
    · cases h
    · exact take_powerOnReset_signed (s := { s with agenda := rest }) hs h
  · rw [step_settings (fun n b rest e => hpower ⟨n, b, rest, e⟩) h]
    exact hs

end Sys2Proof.Proofs
end

section
/-! System registers, saved frames and messages of a supervisor (12 R311-R313, Table 12-3): each word is the shell `State.xPriv` around an
effect, which goes by the supervisor's domain. -/

namespace Sys2Proof.Proofs

open Sys2Proof.Machine Sys2Proof.Claims Sys2Proof.Laws

/-! ### The shell of a privileged word, by its effect -/

/-- Whatever the state, the word is the effect `f` in the shell of a privileged word. -/
def PrivX (g : BitVec 7) (gn : Bool) (uses : List Nat) (f : State → WordEnd) (i : Instr) : Prop :=
  ∀ s, exec i s = .next (s.xPriv g gn uses f)

section

variable {g : BitVec 7} {gn : Bool} {uses : List Nat} {f : State → WordEnd} {i : Instr} {s b : State} (h : PrivX g gn uses f i)
  (hr : s.PrivReady g gn uses b)

include h hr

theorem PrivX.ready : exec i s = .next (readyEnd b 1 (f b)) := by
  rw [h s, xPriv_ready _ hr]

theorem PrivX.done {t : State} (he : f b = .done t) : exec i s = .next (t.xDone 1) := by
  rw [h.ready hr, he, readyEnd]

theorem PrivX.wait {t : State} (he : f b = .wait t) : exec i s = .next t.xWait := by
  rw [h.ready hr, he, readyEnd]

theorem PrivX.trap {cause : Nat} {data : Word} (he : f b = .trap cause data) :
    exec i s = .next (b.raiseLeave false (.fault cause) data 0) := by
  rw [h.ready hr, he, readyEnd]

end

theorem xOrdered_ready {u : State} (f : State → WordEnd) (h : u.core.memReady = true) : u.xOrdered f = f u := if_pos h

theorem xOrdered_holds {u : State} (f : State → WordEnd) (h : u.core.memReady = false) : u.xOrdered f = .wait u :=
  if_neg (Bool.eq_false_iff.mp h)

/-! ### Table 12-3 -/

section

variable {b : State} {n : Nat} {d : Dom} (hdom : b.myDom = some (n, d))

include hdom

/-- The registers of the table have the values that it gives them. -/
theorem sysGet_register {p : Nat × Nat} (hp : p ∈ systemRegisters b n d) : b.sysGet p.1 = some p.2 := by
  have hall : ∀ q ∈ systemRegisters b n d, b.sysGet q.1 = some q.2 := by
    simp [systemRegisters, State.sysGet, Core.rsstate, hdom]
  exact hall p hp

/-- No other number has a value. -/
theorem register_of_sysGet {k v : Nat} (h : b.sysGet k = some v) : k ∈ (systemRegisters b n d).map (fun p => p.1) := by
  simp only [State.sysGet, hdom] at h
  split at h
  case h_14 => cases h
  all_goals simp [systemRegisters]

theorem sysGet_none {k : Nat} (h : k ∉ (systemRegisters b n d).map (fun p => p.1)) : b.sysGet k = none :=
  Option.eq_none_iff_forall_ne_some.mpr fun _ hv => h (register_of_sysGet hdom hv)

/-- A write to a register of the table does what the table says. -/
theorem sysSet_register {v : Word} {p : Nat × State} (hp : p ∈ systemWrites b n d v) : b.sysSet p.1 v = p.2 := by
  have hall : ∀ q ∈ systemWrites b n d v, b.sysSet q.1 v = q.2 := by
    simp [systemWrites, State.sysSet, hdom]
  exact hall p hp

theorem sysGet_of_write {v : Word} {p : Nat × State} (hp : p ∈ systemWrites b n d v) : ∃ w, b.sysGet p.1 = some w := by
  have hkeys : (systemWrites b n d v).map (fun p => p.1) = (systemRegisters b n d).map (fun p => p.1) := rfl
  have hreg := List.mem_map_of_mem (f := fun p => p.1) hp
  rw [hkeys] at hreg
  obtain ⟨q, hq, he⟩ := List.mem_map.mp hreg
  exact ⟨q.2, he ▸ sysGet_register hdom hq⟩

end

/-! ### `sys.rd` and `sys.wr` (12 R311) -/

def sysRdEnd (r : Xk) (u : State) : WordEnd :=
  match u.sysGet (r.imm.toNat % 65536) with
  | none => .trap causeIll 0
  | some v => .done (u.setX r.d.toNat (BitVec.ofNat 64 v))

def sysWrEnd (r : Xk) (u : State) : WordEnd :=
  match u.sysGet (r.imm.toNat % 65536) with
  | none => .trap causeIll 0
  | some _ => .done (u.sysSet (r.imm.toNat % 65536) (u.getX 0 r.d.toNat))

theorem sysRd_privX (r : Xk) : PrivX r.g r.gn [64 + r.d.toNat] (sysRdEnd r) (.sysRd r) := fun _ => rfl

theorem sysWr_privX (r : Xk) : PrivX r.g r.gn [r.d.toNat] (sysWrEnd r) (.sysWr r) := fun _ => rfl

section

variable {r : Xk} {u : State}

theorem sysRdEnd_reads {v : Nat} (h : u.sysGet (r.imm.toNat % 65536) = some v) :
    sysRdEnd r u = .done (u.setX r.d.toNat (BitVec.ofNat 64 v)) := by
  rw [sysRdEnd, h]

theorem sysWrEnd_writes {v : Nat} (h : u.sysGet (r.imm.toNat % 65536) = some v) :
    sysWrEnd r u = .done (u.sysSet (r.imm.toNat % 65536) (u.getX 0 r.d.toNat)) := by
  rw [sysWrEnd, h]

theorem sysEnds_unlisted (h : u.sysGet (r.imm.toNat % 65536) = none) :
    sysRdEnd r u = .trap causeIll 0 ∧ sysWrEnd r u = .trap causeIll 0 := by
  rw [sysRdEnd, sysWrEnd, h]
  exact ⟨rfl, rfl⟩

end

/-! ### FDATA (12 R313) -/

/-- The domain after an access to FDATA: what FSTAT says of it, and FOFF on the next 8 bytes. -/
def afterFdata (d : Dom) (status : Nat) : Dom := { d with fstat := status, foff := (d.foff + 8) % 2 ^ 17 }

def fdataReadEnd (r : Xk) (u : State) : WordEnd :=
  match u.myDom with
  | none => .trap causeIll 0
  | some (n, d) => match u.frameTarget n d with
    | .error e => .done ((u.setDom n (afterFdata d e)).setX r.d.toNat 0)
    | .ok (_, _, l, _, k) => .done ((u.setDom n (afterFdata d 0)).setX r.d.toNat (frameGet k l.record.live u.tick d.foff))

def fdataWriteEnd (r : Xk) (u : State) : WordEnd :=
  match u.myDom with
  | none => .trap causeIll 0
  | some (n, d) => match u.frameTarget n d with
    | .error e => .done (u.setDom n (afterFdata d e))
    | .ok (y, c, l, pos, k) => .done ((u.setCtx y { c with launch := some { l with
        frames := tset l.frames pos (frameSet k l.record.live u.tick d.foff (u.getX 0 r.d.toNat)) } }).setDom n (afterFdata d 0))

theorem fdataRead_privX (r : Xk) : PrivX r.g r.gn [64 + r.d.toNat] (fdataReadEnd r) (.fdataRead r) := fun _ => rfl

theorem fdataWrite_privX (r : Xk) : PrivX r.g r.gn [r.d.toNat] (fdataWriteEnd r) (.fdataWrite r) := fun _ => rfl

section

variable {r : Xk} {u : State} {n : Nat} {d : Dom} (hdom : u.myDom = some (n, d))

include hdom

theorem fdataEnds_refused {e : Nat} (h : u.frameTarget n d = .error e) :
    fdataReadEnd r u = .done ((u.setDom n (afterFdata d e)).setX r.d.toNat 0) ∧
      fdataWriteEnd r u = .done (u.setDom n (afterFdata d e)) := by
  simp only [fdataReadEnd, fdataWriteEnd, hdom, h, and_self]

variable {y pos : Nat} {c : Ctx} {l : Launch} {k : Core} (h : u.frameTarget n d = .ok (y, c, l, pos, k))

include h

theorem fdataReadEnd_reads :
    fdataReadEnd r u = .done ((u.setDom n (afterFdata d 0)).setX r.d.toNat (frameGet k l.record.live u.tick d.foff)) := by
  simp only [fdataReadEnd, hdom, h]

theorem fdataWriteEnd_writes :
    fdataWriteEnd r u = .done ((u.setCtx y { c with launch := some { l with
      frames := tset l.frames pos (frameSet k l.record.live u.tick d.foff (u.getX 0 r.d.toNat)) } }).setDom n (afterFdata d 0)) := by
  simp only [fdataWriteEnd, hdom, h]

end

/-! ### EVMSG (12 R312) -/

def evmsgEnd (u : State) : WordEnd :=
  match u.myDom with
  | none => .trap causeIll 0
  | some (n, d) => match u.slotOf d.tgt.toNat with
    | none => .done (u.setDom n { d with fstat := 1 })
    | some y =>
      if (tget u.ctxs y).any (fun c => decide (c.tdom = n)) then .done ((u.setDom n { d with fstat := 0 }).setEvent y 228)
      else .done (u.setDom n { d with fstat := 3 })

theorem evmsg_privX (r : Xk) : PrivX r.g r.gn [r.d.toNat] (fun u => u.xOrdered evmsgEnd) (.evmsg r) := fun _ => rfl

section

variable {u : State} {n : Nat} {d : Dom} (hdom : u.myDom = some (n, d))

include hdom

theorem evmsgEnd_stale (h : u.slotOf d.tgt.toNat = none) : evmsgEnd u = .done (u.setDom n { d with fstat := 1 }) := by
  simp only [evmsgEnd, hdom, h]

theorem evmsgEnd_named {y : Nat} {c : Ctx} (h : u.slotOf d.tgt.toNat = some y) (hc : tget u.ctxs y = some c) : evmsgEnd u =
    .done (if c.tdom = n then (u.setDom n { d with fstat := 0 }).setEvent y 228 else u.setDom n { d with fstat := 3 }) := by
  simp only [evmsgEnd, hdom, h, hc, Option.any_some, decide_eq_true_eq]
  split <;> rfl

end

/-! ### The statement -/

theorem privReady_tick {s b : State} {g : BitVec 7} {gn : Bool} {uses : List Nat} (h : s.PrivReady g gn uses b) : b.tick = s.tick := by
  rw [h.ready.acts, takeX_tick, landDue_tick]

/-- Settles O40: what the number, the target's frame or the target names decides what the word does. -/
theorem systemRegisterWordsAct : Obligations.SystemRegisterWordsAct := by
  refine ⟨fun r s b n d hr hdom => ⟨fun p hp hk => ?_, fun hk => ?_, fun y c l pos k hf => ?_, fun e hf => ?_⟩,
    fun r s b n d hr hdom => ?_⟩
  · exact (sysRd_privX r).done hr (sysRdEnd_reads (hk ▸ sysGet_register hdom hp))
  · exact (sysRd_privX r).trap hr (sysEnds_unlisted (sysGet_none hdom hk)).1
  · rw [← privReady_tick hr]
    exact (fdataRead_privX r).done hr (fdataReadEnd_reads hdom hf)
  · exact (fdataRead_privX r).done hr (fdataEnds_refused hdom hf).1
  · intro v
    refine ⟨fun p hp hk => ?_, fun hk => ?_, fun y c l pos k hf => ?_, fun e hf => ?_, fun hm => ?_, fun hm hslot => ?_,
      fun y c hm hslot hc => ?_⟩
    · obtain ⟨w, hw⟩ := sysGet_of_write hdom hp
      rw [← sysSet_register hdom hp, ← hk]
      exact (sysWr_privX r).done hr (sysWrEnd_writes (hk ▸ hw))
    · exact (sysWr_privX r).trap hr (sysEnds_unlisted (sysGet_none hdom hk)).2
    · rw [← privReady_tick hr]
      exact (fdataWrite_privX r).done hr (fdataWriteEnd_writes hdom hf)
    · exact (fdataWrite_privX r).done hr (fdataEnds_refused hdom hf).2
    all_goals rw [← xReady_memReady hr.ready] at hm
    · exact (evmsg_privX r).wait hr (xOrdered_holds _ hm)
    · exact (evmsg_privX r).done hr ((xOrdered_ready _ hm).trans (evmsgEnd_stale hdom hslot))
    · rw [← xReady_ctxs hr.ready] at hc
      rw [(evmsg_privX r).done hr ((xOrdered_ready _ hm).trans (evmsgEnd_named hdom hslot hc))]
      split <;> rfl

end Sys2Proof.Proofs
end

section
/-! Contexts, translation caches and cores (12 R302, R303, R314-R316): the supervisor's words that make, destroy and settle contexts, drop
translations and withdraw cores. -/

namespace Sys2Proof.Proofs

open Sys2Proof.Machine Sys2Proof.Claims Sys2Proof.Laws

/-! ### Creation (12 R314) -/

def ctxNewEnd (r : Xr) (u : State) : WordEnd :=
  match u.myDom with
  | none => .trap causeIll 0
  | some (n, _) =>
    let va := u.getX 0 r.a.toNat
    if va.toNat % 256 ≠ 0 then .trap causeIll 0
    else match u.translate u.who needRW va.toNat with
      | (_, .fault) => .trap causePages va
      | (_, .viol x) => .trap causeViol (BitVec.ofNat 64 x)
      | (_, .data x) => .trap causeData (BitVec.ofNat 64 x)
      | (t, .ok pa _) =>
        if t.inDomHbm n pa then .done ((t.ctxNew n false pa).1.setX r.d.toNat (BitVec.ofNat 64 (t.ctxNew n false pa).2))
        else .trap causeViol va

theorem ctxNew_privX (r : Xr) : PrivX r.g r.gn [r.a.toNat, 64 + r.d.toNat] (ctxNewEnd r) (.ctxNew r) := fun _ => rfl

section

variable {r : Xr} {u : State} {n : Nat} {d : Dom} (hdom : u.myDom = some (n, d))

include hdom

theorem ctxNewEnd_misaligned (h : (u.getX 0 r.a.toNat).toNat % 256 ≠ 0) : ctxNewEnd r u = .trap causeIll 0 := by
  simp only [ctxNewEnd, hdom, if_pos h]

/-- How `ctx.new` ends by the translation of the control block's address. -/
theorem ctxNewEnd_translated {t : State} {x : Tr} (h : (u.getX 0 r.a.toNat).toNat % 256 = 0)
    (ht : u.translate u.who needRW (u.getX 0 r.a.toNat).toNat = (t, x)) : ctxNewEnd r u =
      match x with
      | .fault => .trap causePages (u.getX 0 r.a.toNat)
      | .viol v => .trap causeViol (BitVec.ofNat 64 v)
      | .data v => .trap causeData (BitVec.ofNat 64 v)
      | .ok pa _ =>
        if t.inDomHbm n pa then .done ((t.ctxNew n false pa).1.setX r.d.toNat (BitVec.ofNat 64 (t.ctxNew n false pa).2))
        else .trap causeViol (u.getX 0 r.a.toNat) := by
  simp only [ctxNewEnd, hdom, if_neg (not_not_intro h), ht]
  cases x <;> rfl

end

/-! ### Contexts by their handles (12 R314, R315) -/

section

variable {u : State} {a d : Nat} {f : State → Nat → Ctx → State × Nat}

/-- A handle that is stale or wider than a handle names no context. -/
theorem named_stale (h : 2 ^ 32 ≤ (u.getX 0 a).toNat ∨ u.slotOf (u.getX 0 a).toNat = none) :
    u.named a d f = .done (u.setX d (BitVec.ofNat 64 1)) := by
  have hslot : (if (u.getX 0 a).toNat < 2 ^ 32 then u.slotOf (u.getX 0 a).toNat else none) = none := by
    obtain hwide | hnone := h
    · exact if_neg (Nat.not_lt.mpr hwide)
    · rw [hnone, ite_self]
  simp only [State.named, hslot]

variable {y n : Nat} {c : Ctx} {e : Dom} (hlt : (u.getX 0 a).toNat < 2 ^ 32) (hslot : u.slotOf (u.getX 0 a).toNat = some y)
  (hc : tget u.ctxs y = some c) (hdom : u.myDom = some (n, e))

include hlt hslot hc hdom

theorem named_foreign (h : n ≠ c.tdom) : u.named a d f = .done (u.setX d (BitVec.ofNat 64 3)) := by
  simp only [State.named, if_pos hlt, hslot, hc, hdom, Option.any_some, decide_eq_false h, Bool.false_eq_true, if_false]

theorem named_own (h : n = c.tdom) {t : State} {k : Nat} (hf : f u y c = (t, k)) :
    u.named a d f = .done (t.setX d (BitVec.ofNat 64 k)) := by
  simp only [State.named, if_pos hlt, hslot, hc, hdom, Option.any_some, decide_eq_true h, if_true, hf]

end

/-- What `ctx.del` makes of a context of its domain. -/
def delAnswer (u : State) (y : Nat) (c : Ctx) : State × Nat :=
  if c.state = .running then (u, 2)
  else if u.cmds.any (fun k => decide (k.slot = y)) then (u, 4)
  else (u.ctxDel y, 0)

/-- What `ctx.sev` makes of a context of its domain, by its action. -/
def sevAnswer (act : Nat) (u : State) (y : Nat) (c : Ctx) : State × Nat :=
  if c.state ≠ .running ∧ 1 ≤ c.parkCause ∧ c.parkCause ≤ 10 then (u.settle y c act, 0) else (u, 2)

def ctxDelEnd (r : Xr) (u : State) : WordEnd := u.named r.a.toNat r.d.toNat delAnswer

def ctxSevEnd (r : Xr) (u : State) : WordEnd :=
  if 2 < (u.getX 1 r.b.toNat).toNat then .trap causeIll 0
  else u.named r.a.toNat r.d.toNat (sevAnswer (u.getX 1 r.b.toNat).toNat)

theorem ctxDel_privX (r : Xr) : PrivX r.g r.gn [r.a.toNat, 64 + r.d.toNat] (ctxDelEnd r) (.ctxDel r) := fun _ => rfl

theorem ctxSev_privX (r : Xr) : PrivX r.g r.gn [r.a.toNat, r.b.toNat, 64 + r.d.toNat] (ctxSevEnd r) (.ctxSev r) := fun _ => rfl

section

variable {u : State} {y : Nat} {c : Ctx}

theorem delAnswer_running (h : c.state = .running) : delAnswer u y c = (u, 2) := if_pos h

variable (h : c.state ≠ .running)

include h

theorem delAnswer_commands (hk : ∃ k ∈ u.cmds, k.slot = y) : delAnswer u y c = (u, 4) :=
  (if_neg h).trans (if_pos (by simpa only [List.any_eq_true, decide_eq_true_eq] using hk))

theorem delAnswer_destroys (hk : ∀ k ∈ u.cmds, k.slot ≠ y) : delAnswer u y c = (u.ctxDel y, 0) :=
  (if_neg h).trans (if_neg (by simpa only [List.any_eq_true, decide_eq_true_eq, not_exists, not_and] using hk))

end

section

variable {r : Xr} {u : State}

theorem ctxSevEnd_illegal (h : 2 < (u.getX 1 r.b.toNat).toNat) : ctxSevEnd r u = .trap causeIll 0 := if_pos h

theorem ctxSevEnd_acts (h : (u.getX 1 r.b.toNat).toNat ≤ 2) :
    ctxSevEnd r u = u.named r.a.toNat r.d.toNat (sevAnswer (u.getX 1 r.b.toNat).toNat) := if_neg (Nat.not_lt.mpr h)

end

/-! ### Translation caches (12 R302, R303) -/

def tlbInvEnd (r : Xr) (u : State) : WordEnd :=
  let va := (u.getX 0 r.a.toNat).toNat
  let asid := (u.getX 1 r.b.toNat).toNat
  if 65536 ≤ asid then .trap causeIll 0 else u.tlbRemove (fun e => e.covers e.dom asid va)

def tlbAsidEnd (r : Xr) (u : State) : WordEnd :=
  let asid := (u.getX 1 r.b.toNat).toNat
  if 65536 ≤ asid then .trap causeIll 0 else u.tlbRemove (fun e => decide (e.asid = asid))

def tlbAllEnd (u : State) : WordEnd := u.tlbRemove (fun _ => true)

theorem tlbInv_privX (r : Xr) : PrivX r.g r.gn [r.a.toNat, r.b.toNat] (tlbInvEnd r) (.tlbInv r) := fun _ => rfl

theorem tlbAsid_privX (r : Xr) : PrivX r.g r.gn [r.b.toNat] (tlbAsidEnd r) (.tlbAsid r) := fun _ => rfl

theorem tlbAll_privX (r : Xr) : PrivX r.g r.gn [] tlbAllEnd (.tlbAll r) := fun _ => rfl

theorem tlbRemove_waits {u : State} {f : Tlb → Bool} (h : u.core.memReady = false ∨ u.tlbInUse f = true) :
    u.tlbRemove f = .wait u := by
  cases hm : u.core.memReady with
  | false => exact xOrdered_holds _ hm
  | true => exact (xOrdered_ready _ hm).trans (if_pos (h.resolve_left (by simp [hm])))

theorem tlbRemove_drops {u : State} {f : Tlb → Bool} (hm : u.core.memReady = true) (hf : u.tlbInUse f = false) :
    u.tlbRemove f = .done (u.tlbDrop f) :=
  (xOrdered_ready _ hm).trans (if_neg (Bool.eq_false_iff.mp hf))

/-- A privileged word whose effect removes entries does so of its own domain's. -/
theorem PrivX.removes {g : BitVec 7} {gn : Bool} {uses : List Nat} {end_ : State → WordEnd} {i : Instr} {s b : State} {f : Tlb → Bool}
    (h : PrivX g gn uses end_ i) (hr : s.PrivReady g gn uses b) (he : end_ b = b.tlbRemove f) : Removes (exec i s) b f :=
  ⟨fun hw => h.wait hr (he.trans (tlbRemove_waits hw)), fun hm hf => h.done hr (he.trans (tlbRemove_drops hm hf))⟩

/-! ### Withdrawn cores (12 R316) -/

/-- The core that a word names by x[A]. -/
def coreNamed (v : Word) : Nat := bits v.toNat 13 8 * 64 + bits v.toNat 5 0

def coreEnd (f : State → Nat → State) (r : Xr) (u : State) : WordEnd :=
  let v := u.getX 0 r.a.toNat
  if v &&& ~~~0x3F3F#64 ≠ 0 then .trap causeIll 0
  else if u.domHasDie u.who.dom (dieOf (coreNamed v)) then .done ((f u (coreNamed v)).setX r.d.toNat 0)
  else .done (u.setX r.d.toNat 1)

def withdraw (u : State) (i : Nat) : State :=
  { u with withdrawn := if u.withdrawn.contains i then u.withdrawn else i :: u.withdrawn }

/-- Withdraw a core; a context that runs there is asked to leave. -/
def coreOutEffect (u : State) (i : Nat) : State :=
  match (u.coreAt i).ctx with
  | some k => (withdraw u i).askPreempt k false
  | none => withdraw u i

def coreInEffect (u : State) (i : Nat) : State := { u with withdrawn := u.withdrawn.filter (fun j => decide (j ≠ i)) }

theorem coreOut_privX (r : Xr) : PrivX r.g r.gn [r.a.toNat, 64 + r.d.toNat] (coreEnd coreOutEffect r) (.coreOut r) := fun _ => rfl

theorem coreIn_privX (r : Xr) : PrivX r.g r.gn [r.a.toNat, 64 + r.d.toNat] (coreEnd coreInEffect r) (.coreIn r) := fun _ => rfl

section

variable {r : Xr} {u : State} {f : State → Nat → State}

theorem coreEnd_illegal (h : u.getX 0 r.a.toNat &&& ~~~0x3F3F#64 ≠ 0) : coreEnd f r u = .trap causeIll 0 := if_pos h

variable (h : u.getX 0 r.a.toNat &&& ~~~0x3F3F#64 = 0)

include h

theorem coreEnd_foreign (hmine : u.domHasDie u.who.dom (dieOf (coreNamed (u.getX 0 r.a.toNat))) = false) :
    coreEnd f r u = .done (u.setX r.d.toNat 1) :=
  (if_neg (not_not_intro h)).trans (if_neg (Bool.eq_false_iff.mp hmine))

theorem coreEnd_own (hmine : u.domHasDie u.who.dom (dieOf (coreNamed (u.getX 0 r.a.toNat))) = true) :
    coreEnd f r u = .done ((f u (coreNamed (u.getX 0 r.a.toNat))).setX r.d.toNat 0) :=
  (if_neg (not_not_intro h)).trans (if_pos hmine)

end

theorem coreOutEffect_idle {u : State} {i : Nat} (h : (u.coreAt i).ctx = none) : coreOutEffect u i = withdraw u i := by
  rw [coreOutEffect, h]

theorem coreOutEffect_busy {u : State} {i k : Nat} (h : (u.coreAt i).ctx = some k) :
    coreOutEffect u i = (withdraw u i).askPreempt k false := by
  rw [coreOutEffect, h]

/-! ### The statement -/

section

variable {s b : State} {g : BitVec 7} {gn : Bool} {uses : List Nat} (h : s.PrivReady g gn uses b)

include h

theorem privReady_cmds : b.cmds = s.cmds := by
  rw [h.ready.acts, takeX_cmds, landDue_cmds]

theorem privReady_withdrawn : b.withdrawn = s.withdrawn := by
  rw [h.ready.acts, takeX_withdrawn, landDue_withdrawn]

end

/-- Settles O41, word by word: the operands, the context or core that they name, and what is under way there decide what is done. -/
theorem contextAndCoreWordsAct : Obligations.ContextAndCoreWordsAct := by
  refine ⟨fun r s b n d hr hdom => ?new, fun r s b hr => ?del, fun r s b hr => ?sev, fun r s b hr => ?inv, fun r s b hr => ?asid,
    fun r s b hr => (tlbAll_privX r).removes hr rfl, fun r s b hr => ?core⟩
  case new =>
    have hacts := ctxNew_privX r
    refine ⟨fun h => hacts.trap hr (ctxNewEnd_misaligned hdom h), fun t pa ty h ht => ?_,
      fun t h ht => hacts.trap hr (ctxNewEnd_translated hdom h ht), fun t x h ht => hacts.trap hr (ctxNewEnd_translated hdom h ht),
      fun t x h ht => hacts.trap hr (ctxNewEnd_translated hdom h ht)⟩
    have hend := ctxNewEnd_translated hdom h ht
    split
    case isTrue hin => exact hacts.done hr (hend.trans (if_pos hin))
    case isFalse hout => exact hacts.trap hr (hend.trans (if_neg hout))
  case del =>
    intro h status
    have hacts := ctxDel_privX r
    refine ⟨fun hstale => hacts.done hr (named_stale hstale), fun y c n d hlt hslot hc hdom => ?_⟩
    rw [← xReady_ctxs hr.ready] at hc
    rw [← privReady_cmds hr]
    exact ⟨fun hn => hacts.done hr (named_foreign hlt hslot hc hdom hn),
      fun hn hrun => hacts.done hr (named_own hlt hslot hc hdom hn (delAnswer_running hrun)),
      fun hn hoff hk => hacts.done hr (named_own hlt hslot hc hdom hn (delAnswer_commands hoff hk)),
      fun hn hoff hk => hacts.done hr (named_own hlt hslot hc hdom hn (delAnswer_destroys hoff hk))⟩
  case sev =>
    intro h act status
    have hacts := ctxSev_privX r
    refine ⟨fun hbad => hacts.trap hr (ctxSevEnd_illegal hbad),
      fun ha hstale => hacts.done hr ((ctxSevEnd_acts ha).trans (named_stale hstale)), fun y c n d ha hlt hslot hc hdom => ?_⟩
    rw [← xReady_ctxs hr.ready] at hc
    exact ⟨fun hn => hacts.done hr ((ctxSevEnd_acts ha).trans (named_foreign hlt hslot hc hdom hn)),
      fun hn hp => hacts.done hr ((ctxSevEnd_acts ha).trans (named_own hlt hslot hc hdom hn (if_neg hp))),
      fun hn hp => hacts.done hr ((ctxSevEnd_acts ha).trans (named_own hlt hslot hc hdom hn (if_pos hp)))⟩
  case inv =>
    exact ⟨fun h => (tlbInv_privX r).trap hr (if_pos h), fun h => (tlbInv_privX r).removes hr (if_neg (Nat.not_le.mpr h))⟩
  case asid =>
    exact ⟨fun h => (tlbAsid_privX r).trap hr (if_pos h), fun h => (tlbAsid_privX r).removes hr (if_neg (Nat.not_le.mpr h))⟩
  case core =>
    intro v i mine out
    have hout : withdraw b i = out := by
      simp only [withdraw, privReady_withdrawn hr]
      rfl
    refine ⟨fun hv => ⟨(coreOut_privX r).trap hr (coreEnd_illegal hv), (coreIn_privX r).trap hr (coreEnd_illegal hv)⟩,
      fun hv hm => ⟨(coreOut_privX r).done hr (coreEnd_foreign hv hm), (coreIn_privX r).done hr (coreEnd_foreign hv hm)⟩,
      fun hv hm => ⟨?_, fun hidle => ?_, fun k hbusy => ?_⟩⟩
    · rw [← privReady_withdrawn hr]
      exact (coreIn_privX r).done hr (coreEnd_own hv hm)
    · rw [← hout, ← coreOutEffect_idle hidle]
      exact (coreOut_privX r).done hr (coreEnd_own hv hm)
    · rw [← hout, ← coreOutEffect_busy hbusy]
      exact (coreOut_privX r).done hr (coreEnd_own hv hm)

end Sys2Proof.Proofs
end

section
/-! Reset and shutdown (14 R358, R363, R365; 01 R27; 11 R284): what a power-on reset leaves, and that nothing else ends a shutdown. -/

namespace Sys2Proof.Proofs

open Sys2Proof.Machine

/-- Settles O13: whatever turn comes next, it is no power-on reset, and no other is taken once the module has shut down. -/
theorem shutDownStops : Obligations.ShutDownStops := by
  intro s hshut hagenda
  unfold step
  split
  case h_1 turn rest hnext =>
    have hturn : turn.powersOn = false := powersOn_eq_false fun n b he => hagenda n b rest (he ▸ hnext)
    rw [hshut, hturn]
    rfl
  case h_2 => exact if_pos hshut

/-- Every core stands as after a power-on reset: the one in focus, and those that are not listed. -/
theorem reset_coreAt (i : Nat) : State.reset.coreAt i = Core.reset := by
  unfold State.coreAt
  split <;> rfl

/-- No directory entry is listed at reset (11 R284). -/
theorem reset_dirEntry (k : Nat) : State.reset.dirEntry k = dirFree := rfl

/-- Every memory word is zero with a valid code. -/
theorem reset_word (a : Nat) : State.reset.mem.word a = CWord.good 0 := rfl

/-- Settles O60: no table of the state at reset lists anything, so every read of one gives what an unlisted entry stands for. -/
theorem resetLeavesNothingPlaced : Obligations.ResetLeavesNothingPlaced := by
  refine ⟨rfl, rfl, rfl, rfl, rfl, rfl, rfl, rfl, fun _ => rfl, fun i => ?core, reset_word, fun k => ?dir, rfl, rfl, signed_of_not_ready rfl rfl⟩
  case core => rw [reset_coreAt]; rfl
  case dir =>
    rw [reset_dirEntry]
    decide

end Sys2Proof.Proofs
end

section
/-! Frames that come in over Ethernet (14 R359-R362): a frame goes to the first entry of its port that it matches, and lands there whole or
is dropped. -/

namespace Sys2Proof.Proofs

open Sys2Proof.Machine Sys2Proof.Claims

/-- The bank that a window entry names is bound in place, receives frames, and has room for a frame's words (14 R361). -/
def WindowTakes (s : State) (slot : Nat) (e : BitVec 256) (ws : List CWord) : Prop :=
  let t := s.storeAt (storeKey slot (fwPos e))
  tget s.bound (storeKey slot (fwPos e)) ≠ none ∧ (t.bank (fwBank e)).mode = .fifo ∧ (t.bank (fwBank e)).use = 2 ∧
    ((tget t.windows (fwBank e)).getD []).length + ws.length ≤ 4096

/-- A frame's words appended to the window of a bank. -/
def windowAppended (s : State) (slot : Nat) (e : BitVec 256) (ws : List CWord) : State :=
  let t := s.storeAt (storeKey slot (fwPos e))
  s.setStore (storeKey slot (fwPos e)) { t with windows := tset t.windows (fwBank e) ((tget t.windows (fwBank e)).getD [] ++ ws) }

section

variable {s : State} {port key slot : Nat} {e : BitVec 256} {ws : List CWord}

theorem frameBank_takes (h : WindowTakes s slot e ws) : s.frameBank port key slot e ws = (windowAppended s slot e ws).landed key slot := by
  obtain ⟨hbound, hmode, huse, hroom⟩ := h
  exact if_pos ⟨Option.isSome_iff_ne_none.mpr hbound, hmode, huse, hroom⟩

theorem frameBank_drops (h : ¬ WindowTakes s slot e ws) : s.frameBank port key slot e ws = s.dropFrame port :=
  if_neg fun ⟨hbound, hmode, huse, hroom⟩ => h ⟨Option.isSome_iff_ne_none.mp hbound, hmode, huse, hroom⟩

end

section

variable {s : State} {port : Nat} {f : Frame}

theorem frameArrival_ignored (h : f.fcsOk = false ∨ s.ready = false) : exec (.frameArrival port f) s = .next s := by
  refine congrArg Host.Outcome.next (if_pos ?_)
  simpa using h

variable (hf : f.fcsOk = true) (hr : s.ready = true)

include hf hr

/-- A frame that matches no entry: the house transport takes its own frames, and every other is dropped (14 R359). -/
theorem frameArrival_unmatched (hm : matched s port f = none) :
    exec (.frameArrival port f) s = .next (if f.udpPort = some s.ports.transport then s else s.dropFrame port) := by
  unfold matched at hm
  refine congrArg Host.Outcome.next ?_
  rw [if_neg (by simp [hf, hr]), hm]

variable {i : Nat} {e : BitVec 256} (hm : matched s port f = some i) (he : tget s.flows (port * 64 + i) = some e)

include hm he

/-- The context of the entry is gone, or the package quiesces: the frame is dropped. -/
theorem frameArrival_drops (h : s.slotOf (fwCtx e) = none ∨ s.quiesced = true) :
    exec (.frameArrival port f) s = .next (s.dropFrame port) := by
  unfold matched at hm
  refine congrArg Host.Outcome.next ?_
  rw [if_neg (by simp [hf, hr]), hm]
  simp only [he, Option.getD_some]
  cases hs : s.slotOf (fwCtx e) with
  | none => rfl
  | some slot => exact if_pos (h.resolve_left (by simp [hs]))

theorem frameArrival_lands {slot : Nat} (hs : s.slotOf (fwCtx e) = some slot) (hq : s.quiesced = false) :
    exec (.frameArrival port f) s = .next (if fwKind e then s.frameBank port (port * 64 + i) slot e (landing s port i f e)
      else s.frameRing port (port * 64 + i) slot i e (landing s port i f e)) := by
  unfold matched at hm
  refine congrArg Host.Outcome.next ?_
  rw [if_neg (by simp [hf, hr]), hm]
  simp only [he, Option.getD_some, hs, hq]
  rfl

end

end Sys2Proof.Proofs
end

section
/-! What the host asks for (14 R352-R354, R358, R359, R361; 13 R333): the time base, memory and the management window, the launch port, and flow
entries. -/

namespace Sys2Proof.Proofs

open Sys2Proof.Machine Sys2Proof.Claims Sys2Proof.Laws

/-! ### Time (14 R358) -/

theorem ptpLock_eq (now : Nat) (s : State) : exec (.ptpLock now) s =
    .next (if s.locked then { s with synced := true } else { s with synced := true, locked := true, ptp := now }) := rfl

/-! ### Reads and writes of the host (13 R333) -/

section

variable {s : State} {a n o pa p : Nat} {bs : List Byte}

theorem hostWrite_nothing (h : s.hostPlace a = .nothing) : exec (.hostWrite a bs) s = .next s := by
  refine congrArg Host.Outcome.next ?_
  simp only [h]

theorem hostRead_nothing (h : s.hostPlace a = .nothing) : exec (.hostRead a n) s = .next { s with
    reply := if s.ready then some (.data false ((List.range n).map (fun i => Config.freeBits 8 s.tick (2 ^ 28 + i)))) else none } := by
  refine congrArg Host.Outcome.next ?_
  simp only [h]

theorem hostWrite_mgmt (h : s.hostPlace a = .mgmt o) : exec (.hostWrite a bs) s = .next (s.mgmtBytes o bs) := by
  refine congrArg Host.Outcome.next ?_
  simp only [h]

theorem hostRead_mgmt (h : s.hostPlace a = .mgmt o) :
    exec (.hostRead a n) s = .next { s with reply := some (.data false (s.mgmtRead o n)) } := by
  refine congrArg Host.Outcome.next ?_
  simp only [h]

variable (h : s.hostPlace a = .memory pa)

include h

/-- Behind a pool link that is down the access is taken again, or dropped once the link is dead (14 R356). -/
theorem hostWrite_down (hp : s.downPort pa = some p) : exec (.hostWrite a bs) s = .next (if s.linkDead p then s else { s with again := true }) := by
  refine congrArg Host.Outcome.next ?_
  simp only [h, hp]

theorem hostRead_down (hp : s.downPort pa = some p) :
    exec (.hostRead a n) s = .next (if s.linkDead p then { s with reply := some (.data true []) } else { s with again := true }) := by
  refine congrArg Host.Outcome.next ?_
  simp only [h, hp]

variable (hp : s.downPort pa = none)

include hp

theorem hostWrite_memory {t : State} (ht : s.physStore pa bs = .ok t) : exec (.hostWrite a bs) s = .next (t.note pa bs.length) := by
  refine congrArg Host.Outcome.next ?_
  simp only [h, hp, ht]

theorem hostRead_memory {got : List Byte} (hg : s.physRead pa n = .ok got) :
    exec (.hostRead a n) s = .next { (s.note pa n).postPhys 4 pa n with reply := some (.data false got) } := by
  refine congrArg Host.Outcome.next ?_
  simp only [h, hp, hg]

theorem hostRead_poisoned {x : Nat} (hx : s.physRead pa n = .error x) :
    exec (.hostRead a n) s = .next { s.hostEvent x with reply := some (.data true []) } := by
  refine congrArg Host.Outcome.next ?_
  simp only [h, hp, hx]

end

/-- An offset of BAR0 names the management window once bring-up is complete. -/
theorem registerWrite_eq {s : State} {o : Nat} (ho : o < 2 ^ 39) (hr : s.ready = true) (v : BitVec 64) :
    exec (.registerWrite o v) s = .next (s.mgmtSet (o / 8 * 8) v) := by
  have hplace : s.hostPlace o = .mgmt o := by rw [State.hostPlace, if_pos ho, if_pos (.inl hr)]
  refine congrArg Host.Outcome.next ?_
  simp only [hplace]

/-! ### Domains -/

@[simp] theorem dom_setDom (s : State) (d : Nat) (x : Dom) : (s.setDom d x).dom d = some x := tget_tset_same s.doms d x

theorem tset_tset_same {α : Type} (t : Table α) (k : Nat) (u v : α) : tset (tset t k u) k v = tset t k v := by
  induction t with
  | nil => simp [tset]
  | cons c r ih =>
    obtain ⟨j, w⟩ := c
    by_cases hj : j = k
    · simp [tset, hj]
    · by_cases hk : k < j
      · simp [tset, hj, hk]
      · simp [tset, hj, hk, ih]

theorem setDom_setDom (s : State) (d : Nat) (x y : Dom) : (s.setDom d x).setDom d y = s.setDom d y := by
  simp only [State.setDom, tset_tset_same]

theorem inDomHbm_setDom {s : State} {d : Nat} {x y : Dom} (h : s.dom d = some x) (he : y.dies = x.dies) (a : Nat) :
    (s.setDom d y).inDomHbm d a = s.inDomHbm d a := by
  simp only [State.inDomHbm, State.domHasDie, dom_setDom, h, Option.any_some, he]

/-! ### The launch port (14 R353) -/

theorem raddr_eq {s : State} {d : Nat} {x : Dom} (h : s.dom d = some x) (v : BitVec 64) : exec (.raddr d v) s = .next
    (if v.extractLsb' 52 12 ≠ 0 ∨ v.extractLsb' 0 7 ≠ 0 ∨ 256 ≤ x.fifo.length then s.setDom d { x with ovf := min (x.ovf + 1) 65535 }
    else s.setDom d { x with fifo := x.fifo ++ [v.toNat] }) := by
  refine congrArg Host.Outcome.next ?_
  simp only [State.raddrWrite, h]

theorem portReject_eq {s : State} {d : Nat} {x : Dom} (h : s.dom d = some x) (a status : Nat) :
    s.portReject d a status = s.setDom d (rejected x a status) := by
  simp only [State.portReject, h]
  rfl

section

variable {s : State} {d : Nat} {x : Dom} (h : s.dom d = some x)

include h

theorem hostLaunchArm_idle (hi : x.fifo = [] ∨ s.quiesced = true) : exec (.hostLaunchArm d) s = .next s := by
  refine congrArg Host.Outcome.next ?_
  simp only [h]
  cases hf : x.fifo with
  | nil => rfl
  | cons a r => exact if_pos (hi.resolve_left (by simp [hf]))

variable {a : Nat} {r : List Nat} (hf : x.fifo = a :: r) (hq : s.quiesced = false)

include hf hq

/-- A record outside the HBM4E of the domain's dies is rejected with status 2. -/
theorem hostLaunchArm_outside (ho : s.inDomHbm d a = false) :
    exec (.hostLaunchArm d) s = .next ((s.setDom d { x with fifo := r }).setDom d (rejected { x with fifo := r } a 2)) := by
  refine congrArg Host.Outcome.next ?_
  simp only [h, hf, hq, ho, portReject_eq (dom_setDom _ _ _)]
  rfl

variable (ho : s.inDomHbm d a = true) {t : State}

include ho

theorem hostLaunchArm_armed (ht : (s.setDom d { x with fifo := r }).armRecord (.host d) (.phys d) a = (t, .ok 0)) :
    exec (.hostLaunchArm d) s = .next t := by
  refine congrArg Host.Outcome.next ?_
  simp only [h, hf, hq, ho, ht]
  rfl

theorem hostLaunchArm_rejected {y : Dom} {k : Nat}
    (ht : (s.setDom d { x with fifo := r }).armRecord (.host d) (.phys d) a = (t, .ok (k + 1))) (hy : t.dom d = some y) :
    exec (.hostLaunchArm d) s = .next (t.setDom d (rejected y a (k + 1))) := by
  refine congrArg Host.Outcome.next ?_
  simp only [h, hf, hq, ho, ht, portReject_eq hy]
  rfl

/-- A record whose descriptor lies behind a pool link that is down stays at the head. -/
theorem hostLaunchArm_far {z : Nat} (ht : (s.setDom d { x with fifo := r }).armRecord (.host d) (.phys d) a = (t, .far z)) :
    exec (.hostLaunchArm d) s = .next s := by
  refine congrArg Host.Outcome.next ?_
  simp only [h, hf, hq, ho, ht]
  rfl

end

/-! ### Flow entries (14 R359, R361) -/

theorem fwV_zero : fwV 0 = false := BitVec.getLsbD_zero

/-- The fields of a flow entry lie in their ranges. -/
def flowRange (e : BitVec 256) : Bool :=
  decide (64 ≤ fwMax e) && decide (fwMax e ≤ 9216) &&
    (fwKind e || (decide (16 ≤ fwLog e) && decide (fwLog e ≤ 30) && decide (placeOf (fwAddr e) = .hbm) &&
      decide (placeOf (fwAddr e + 2 ^ fwLog e - 1) = .hbm)))

/-- Some other valid entry is in conflict with `e` at a key. -/
def flowClash (s : State) (port key : Nat) (e : BitVec 256) : Bool :=
  (s.flows.filter (fun f => decide (f.1 ≠ key) && fwV f.2)).any
    (fun f => (decide (f.1 / 64 ≠ port) && sameWindow e f.2) || clashQueue e f.2)

theorem flowRange_iff (e : BitVec 256) : flowRange e = true ↔ 64 ≤ fwMax e ∧ fwMax e ≤ 9216 ∧ (fwKind e = true ∨
    (16 ≤ fwLog e ∧ fwLog e ≤ 30 ∧ placeOf (fwAddr e) = .hbm ∧ placeOf (fwAddr e + 2 ^ fwLog e - 1) = .hbm)) := by
  simp only [flowRange, Bool.and_eq_true, Bool.or_eq_true, decide_eq_true_eq, and_assoc]

theorem flowClash_eq_false_iff (s : State) (port key : Nat) (e : BitVec 256) : flowClash s port key e = false ↔
    ∀ f ∈ s.flows.filter (fun f => decide (f.1 ≠ key) && fwV f.2),
      (f.1 / 64 ≠ port → sameWindow e f.2 = false) ∧ clashQueue e f.2 = false := by
  simp only [flowClash, List.any_eq_false, Bool.or_eq_true, Bool.and_eq_true, decide_eq_true_eq, not_or, not_and, Bool.not_eq_true]

/-- A flow entry after a write: a valid one that is out of range or in conflict leaves the old entry, no longer valid. -/
def flowNew (s : State) (port key : Nat) (e : BitVec 256) : BitVec 256 :=
  if fwV e && (!flowRange e || flowClash s port key e) then (tget s.flows key).getD 0 &&& ~~~(BitVec.twoPow 256 128) else e

theorem flowNew_kept {s : State} {port key : Nat} {e : BitVec 256}
    (h : fwV e = false ∨ flowRange e = true ∧ flowClash s port key e = false) : flowNew s port key e = e := by
  refine if_neg ?_
  obtain hv | ⟨hrange, hclash⟩ := h
  · simp [hv]
  · simp [hrange, hclash]

theorem flowNew_refused {s : State} {port key : Nat} {e : BitVec 256} (hv : fwV e = true)
    (h : ¬ (flowRange e = true ∧ flowClash s port key e = false)) :
    flowNew s port key e = (tget s.flows key).getD 0 &&& ~~~(BitVec.twoPow 256 128) := by
  refine if_pos ?_
  rw [hv, Bool.true_and, Bool.or_eq_true, Bool.not_eq_true']
  by_contra hne
  rw [not_or, Bool.not_eq_false, Bool.not_eq_true] at hne
  exact h hne

theorem flowEntryWrite_eq {s : State} {port i : Nat} (hr : s.ready = true) (hp : port < 4) (hi : i < 64) (w : BitVec 256) :
    exec (.flowEntryWrite port i w) s =
      let new := flowNew s port (port * 64 + i) (w &&& flowMask)
      .next { s with flows := if new = 0 then tdel s.flows (port * 64 + i) else tset s.flows (port * 64 + i) new } := by
  refine congrArg Host.Outcome.next ((if_pos hr).trans ?_)
  rw [State.flowWrite, if_neg (by omega)]
  rfl

end Sys2Proof.Proofs
end

section
/-! Pool links, power and heat, monitors, attestation, and the obligation about the outside world settled (14 R356, R364, R365; 13 R350;
12 R323). -/

namespace Sys2Proof.Proofs

open Sys2Proof.Machine Sys2Proof.Claims Sys2Proof.Laws

/-! ### Pool links (14 R356) -/

theorem focus_here (s : State) : s.focus s.here = s := if_pos rfl

section

variable {s : State} {p : Nat}

theorem linkDown_eq : exec (.linkDown p) s = .next (if (tget s.down p).isSome then s else { s with down := tset s.down p s.ptp }) := rfl

theorem poolLinkTimeout_eq : exec (.poolLinkTimeout p) s = .next (if s.linkDead p then s.answerPorts p else s) := rfl

theorem answerPort_idle (hx : s.core.xhold.behind p = false) (ha : s.core.ahold.behind p = false) : s.answerPort p = s := by
  simp only [State.answerPort, hx, ha, Bool.false_eq_true, if_false]

theorem armWaiting_nil (h : s.links = []) : s.armWaiting = s := by
  rw [State.armWaiting, h]
  show ({ s with links := [] } : State) = s
  rw [← h]

/-- With no access behind the port and no record waiting, the answers change nothing. -/
theorem answerPorts_idle (hx : s.core.xhold.behind p = false) (ha : s.core.ahold.behind p = false)
    (hcores : ∀ c ∈ s.cores, c.2.xhold.behind p = false ∧ c.2.ahold.behind p = false) (hlinks : s.links = []) : s.answerPorts p = s := by
  have hothers : s.cores.filter (fun c => c.2.xhold.behind p || c.2.ahold.behind p) = [] := by
    simpa [List.filter_eq_nil_iff] using hcores
  simp only [State.answerPorts, hothers, answerPort_idle hx ha]
  exact (congrArg State.armWaiting (focus_here s)).trans (armWaiting_nil hlinks)

theorem downPort_dead {pa : Nat} (hp : placeOf pa = .pool) (hd : s.linkDead (poolPort pa) = true) : s.downPort pa = some (poolPort pa) :=
  if_pos ⟨hp, Option.isSome_of_any hd⟩

/-- A load from behind a dead pool link takes a poisoned word, which its lane contains (13 R334). -/
theorem answerEnd_dead_load {g : GlobalAccess} {d : Nat} (hk : g.kind = .load d) (hp : placeOf g.pa = .pool)
    (hd : s.linkDead (poolPort g.pa) = true) : s.answerEnd g .poisoned = some (.trap causeData (BitVec.ofNat 64 g.pa)) := by
  simp [State.answerEnd, hp, downPort_dead hp hd, hd, State.poisonEnd, GlobalAccess.carries, hk]

theorem answerX_dead_load {g : GlobalAccess} {d : Nat} (hx : s.core.xhold = .access g) (hk : g.kind = .load d) (hp : placeOf g.pa = .pool)
    (hd : s.linkDead (poolPort g.pa) = true) : s.answerX .poisoned =
      ({ s with core := { s.core with xhold := .none } } : State).raiseLeave false (.fault causeData) (BitVec.ofNat 64 g.pa) 0 := by
  simp only [State.answerX, hx, answerEnd_dead_load (s := { s with core := { s.core with xhold := .none } }) hk hp hd]
  rfl

end

/-! ### Power and heat (14 R364, R365) -/

section

variable {s : State} {p : BitVec 2}

theorem pstate_eq (hr : s.ready = true) : exec (.pstate p) s =
    .next { s with pAsked := p, pNow := if s.hot ∧ p < s.pNow then s.pNow else p } := congrArg Host.Outcome.next (if_pos hr)

theorem thermalThrottle_eq : exec .thermalThrottle s = .next { s with hot := true, pNow := if s.pNow = 3 then 3 else s.pNow + 1 } := rfl

theorem thermalRecover_rises (hh : s.hot = true) (hp : s.pAsked < s.pNow) :
    exec .thermalRecover s = .next { s with pNow := s.pNow - 1, hot := decide (s.pAsked < s.pNow - 1) } := by
  refine congrArg Host.Outcome.next ((if_pos hh).trans ?_)
  simp only [if_pos hp]

theorem thermalRecover_cool (hh : s.hot = false) : exec .thermalRecover s = .next s :=
  congrArg Host.Outcome.next (if_neg (by simp [hh]))

end

/-! ### Monitors (13 R350) -/

theorem sample_eq {s : State} {d : Nat} {x : Dom} (h : s.dom d = some x) (i v : Nat) : s.sample d i v = s.setDom d { x with
    monitors := tset x.monitors i (((tget x.monitors i).getD Monitor.clear).add (monitorShift i) v) } := by
  simp only [State.sample, h]

section

variable {s : State} {d : Nat} {x : Dom} (h : s.dom d = some x)

include h

theorem monitorClear_eq (i : Nat) : exec (.monitorClear d i) s = .next (s.setDom d { x with monitors := tdel x.monitors i }) := by
  refine congrArg Host.Outcome.next ?_
  simp only [h]

theorem monitorInterval_operand (v : Nat) : exec (.monitorInterval d 5 v) s = .next (s.sample d 5 v) := by
  refine congrArg Host.Outcome.next ?_
  simp only [h]
  rfl

/-- Monitors 9 and 10 take what the interval has counted, in bins of one count. -/
theorem monitorInterval_tally {i : Nat} (hi : i = 9 ∨ i = 10) (v : Nat) : exec (.monitorInterval d i v) s = .next (s.setDom d { x with
    monitors := tset x.monitors i (((tget x.monitors i).getD Monitor.clear).add 0 ((tget x.tally i).getD 0)), tally := tdel x.tally i }) := by
  have hseven : i ≠ 7 := by omega
  have hshift : monitorShift i = 0 := by
    obtain rfl | rfl := hi <;> rfl
  refine congrArg Host.Outcome.next ?_
  simp only [h, if_neg hseven, if_pos hi, sample_eq (dom_setDom _ _ _), setDom_setDom, hshift]

end

/-! ### The statement -/

/-- Settles O57, agent by agent: where a frame, an address, a record or an entry leads decides what is done with it. -/
theorem theOutsideWorldIsServed : Obligations.TheOutsideWorldIsServed := by
  refine ⟨fun s port f => ?frames, fun s now => ?time, fun s a n bs => ?host, fun s d x v h => ?launch, fun s port i w hr hp hi => ?flow,
    fun s o v ho hr => registerWrite_eq ho hr v, fun s p => ?links, fun s p => ?power, fun s d i v x h hi => ?monitors,
    fun s port i w n p hr => ?early, fun s n hr => ?attest⟩
  case frames =>
    refine ⟨frameArrival_ignored, fun hf hr hm => ?_, fun i e hf hr hm he => ⟨frameArrival_drops hf hr hm he, fun slot hs hq hk => ?_,
      fun slot hs hq hk => ?_⟩⟩
    · rw [frameArrival_unmatched hf hr hm]
      exact ⟨fun hport => by rw [if_pos hport], fun hport => by rw [if_neg hport]⟩
    · rw [frameArrival_lands hf hr hm he hs hq, if_pos hk]
      exact ⟨fun hfits => congrArg Host.Outcome.next (frameBank_takes hfits), fun hfull => congrArg Host.Outcome.next (frameBank_drops hfull)⟩
    · rw [frameArrival_lands hf hr hm he hs hq, hk]
      rfl
  case time =>
    rw [ptpLock_eq]
    exact ⟨fun hl => by rw [hl]; rfl, fun hl => by rw [hl]; rfl, rfl⟩
  case host =>
    refine ⟨fun h => ⟨hostWrite_nothing h, fun hr => ?_, fun hr => ?_⟩, fun o h => ⟨hostWrite_mgmt h, hostRead_mgmt h⟩,
      fun pa h hp => ⟨fun t => hostWrite_memory h hp, fun got => hostRead_memory h hp, fun x => hostRead_poisoned h hp⟩, fun pa p h hp => ?_⟩
    · rw [hostRead_nothing h, hr]
      rfl
    · rw [hostRead_nothing h, hr]
      exact ⟨_, by simp, rfl⟩
    · rw [hostWrite_down h hp, hostRead_down h hp]
      exact ⟨fun hd => by rw [hd]; exact ⟨rfl, rfl⟩, fun hd => by rw [hd]; exact ⟨rfl, rfl⟩⟩
  case launch =>
    rw [raddr_eq h]
    refine ⟨fun hhi hlo hl => by rw [if_neg (by simp [hhi, hlo, hl])], fun hdrop => by rw [if_pos hdrop], hostLaunchArm_idle h,
      fun a r hf hq => ?_⟩
    intro x' u
    have hin : u.inDomHbm d a = s.inDomHbm d a := inDomHbm_setDom (y := x') h rfl a
    rw [hin]
    exact ⟨hostLaunchArm_outside h hf hq, fun ho t => hostLaunchArm_armed h hf hq ho, fun ho t y k => hostLaunchArm_rejected h hf hq ho,
      fun ho t z => hostLaunchArm_far h hf hq ho⟩
  case flow =>
    intro e key others range good old
    have hgood : good ↔ flowRange e = true ∧ flowClash s port key e = false :=
      and_congr (flowRange_iff e).symm (flowClash_eq_false_iff s port key e).symm
    rw [flowEntryWrite_eq hr hp hi]
    refine ⟨fun hne hkept => ?_, fun hzero => ?_, fun hv hbad => ?_⟩
    · rw [flowNew_kept (hkept.imp_right hgood.mp)]
      exact congrArg (fun fl => Host.Outcome.next { s with flows := fl }) (if_neg hne)
    · have hv : fwV e = false := (congrArg fwV hzero).trans fwV_zero
      rw [flowNew_kept (.inl hv)]
      exact congrArg (fun fl => Host.Outcome.next { s with flows := fl }) (if_pos hzero)
    · rw [flowNew_refused hv (mt hgood.mpr hbad)]
  case links =>
    rw [linkDown_eq, poolLinkTimeout_eq]
    refine ⟨fun hn => by rw [hn]; rfl, fun hn => by rw [if_pos (Option.isSome_iff_ne_none.mpr hn)], rfl, fun hd => by rw [if_pos hd],
      fun hd => by rw [hd]; rfl, answerPorts_idle, fun g d hx hk hp hd => answerX_dead_load hx hk hp hd⟩
  case power =>
    refine ⟨fun hr hp => ?_, fun hr hh hp => ?_, fun hp => ?_, fun hp => ?_, thermalRecover_rises, thermalRecover_cool, rfl⟩
    · rw [pstate_eq hr, if_neg]
      rintro ⟨hh, hlt⟩
      exact hp.elim (fun hc => by simp [hc] at hh) (fun hle => absurd hlt (BitVec.not_lt.mpr hle))
    · rw [pstate_eq hr, if_pos ⟨hh, hp⟩]
    · rw [thermalThrottle_eq, if_neg hp]
    · rw [thermalThrottle_eq, hp]
      rfl
  case monitors =>
    refine ⟨monitorClear_eq h i, ?_, fun ht => monitorInterval_tally h ht v⟩
    rintro rfl
    rw [monitorInterval_operand h, sample_eq h]
  case early =>
    have hready : ¬ s.ready = true := by simp [hr]
    exact ⟨congrArg Host.Outcome.next (if_neg hready), congrArg Host.Outcome.next (if_neg hready),
      congrArg Host.Outcome.next (if_pos (by simp [hr]))⟩
  case attest =>
    exact ⟨_, congrArg Host.Outcome.next (if_neg (by simp [hr])), rfl, rfl, rfl, rfl, rfl, rfl, rfl, rfl⟩

end Sys2Proof.Proofs
end
